-- ==== Sys2Proof/Word.lean ====
section
/-! DEFINITION. The word types of the model and the sparse table that every memory and every large register file is held in. -/

namespace Sys2Proof

/-- One byte. -/
abbrev Byte := BitVec 8
/-- A 16-bit word. -/
abbrev U16 := BitVec 16
/-- A 32-bit word, the width of a BAR0 register. -/
abbrev U32 := BitVec 32
/-- A 64-bit word: addresses and device time. -/
abbrev U64 := BitVec 64

/-- A sparse table: keys strictly rising, no entry equal to what an unlisted key reads as.
What an unlisted key reads as is stated where the table is read (Machine/Ops.lean). -/
abbrev Tbl (α : Type) := List (Nat × α)

end Sys2Proof
end

