-- ==== Sys2Proof/Config.lean ====
section
/-! DEFINITION. The values that the spec leaves open, as constants without a body: nothing in Lean can evaluate one or prove
a value of one, so every statement holds for each of them. The log entry of each is named with it. -/

namespace Sys2Proof

/-- What byte `addr` of a memory reads as after the event number `tag` left the memory's contents undefined
(R173: ENR, PTR and CHR leave scratchpad contents undefined; R87: ring contents; log entry 3). -/
opaque Config.freeByte : (tag : Nat) → (addr : Nat) → Byte

/-- The FP32 result of the vector engine's function number `fn` (R233: SIGMOID, TANH, GELU, SILU, EXP, RECIP, RSQRT), a fixed
function of its input bits that the spec bounds to 2 ULP and does not give bit for bit (log entry 4). -/
opaque Config.act : (fn : Nat) → (x : U32) → U32

/-- A 32-bit free value, number `tag` (log entry 6). -/
opaque Config.freeWord : (tag : Nat) → U32

/-- The sign of a NaN that an arithmetic operation makes, and of a zero whose exact value is 0 from operands of both signs: R195 and R231
give the value and no sign (log entry 7). `op` names the operation, the other arguments its operand words. -/
opaque Config.signOf : (op : Nat) → (a b c : U32) → Bool

/-- The embedding that Weond-E gave before Weond-A adapted it to `emb` (R217): the detection list holds the one that serves, and the spec says no place of the other
(log entry 118). -/
opaque Config.preAdapter : (emb : List U16) → List U16

/-- The value that a masked lane of ROTATE gives to its group: the lane is not read (R236), and the spec says no value for it (log entry 129). -/
opaque Config.maskedValue : (addr : Nat) → U32

/-- The weight λ(QP) of the motion search (R136), which the spec names and does not give (log entry 114). -/
opaque Config.lambda : (qp : Nat) → Nat

/-- The bits of a vector, in quarter-pels, beside the predictor candidates of its block (R136; log entry 114). -/
opaque Config.vecBits : (codec : Nat) → (preds : List (Int × Int)) → (v : Int × Int) → Nat

/-- The transformed difference SATD of a 16 × 16 block and the reference at a quarter-pel position (R136): the spec gives no transform, and
the interpolation is the codec's (log entry 114). -/
opaque Config.satd : (codec : Nat) → (src : List Nat) → (width : Nat) → (ref : List Nat) → (pos : Int × Int) → Nat

end Sys2Proof
end

