-- ==== Sys2Proof/Syntax.lean ====
section
/-! DEFINITION. The commands of the KQ-5120: the one inductive `Instr`, one constructor per row of spec/opcode_table.json,
with the operands that the spec gives each command. A command is a host access, a wire or supply event, an expiry of one of
the device's timers, or the end of one of its internal operations. What the spec does not let the device compute (the decoded
content of a bitstream, the verdict of a signature check, a sensor reading) enters as an operand. -/

namespace Sys2Proof

/-! ### The command ring entry (R368) -/

/-- A command ring entry as read: its TAG, its two zero fields, and ARGS from byte 0x08 (bytes past the list's end are zero). -/
structure Cmd where
  tag   : U16
  zero1 : Byte := 0
  zero4 : U32 := 0
  args  : List Byte := []
deriving DecidableEq, Repr, Inhabited

/-! ### The Recipe (R50 to R57, R126, R252 to R255, R308, R342) -/

/-- The header of R50. Hashes, keys and signatures are byte strings, the first byte in bits [7:0]. -/
structure CartHeader where
  magic        : U32
  hdrVersion   : U16
  cartType     : U16
  cartId       : BitVec 128
  weondRelease : U32
  issueDate    : U32
  secVersion   : U32
  rootIndex    : Byte
  zero25       : BitVec 24
  manifestOff  : U32
  manifestLen  : U32
  manifestHash : BitVec 384
  signerKey    : BitVec 768
  signerCert   : BitVec 768
  headerSig    : BitVec 768
deriving DecidableEq, Repr, Inhabited

/-- A manifest entry of R52. -/
structure ManifestEntry where
  type   : U16
  flags  : U16
  inst   : U32
  offset : U64
  length : U64
  hash   : BitVec 384
deriving DecidableEq, Repr, Inhabited

/-- A device-settings entry of R55. -/
structure SettingEntry where
  key   : U16
  zero  : U16
  value : U32
deriving DecidableEq, Repr, Inhabited

/-- A stream-slot table entry of R56. -/
structure SlotEntry where
  slot       : U16
  codec      : Byte
  bitDepth   : Byte
  profile    : Byte
  level      : Byte
  width      : U16
  height     : U16
  rate       : U16
  maxBitrate : U32
  deadline   : U16
  ingest     : Byte
  metaRing   : Byte
  prio       : Byte
  flags      : Byte
  pipeline   : U16
  ringBytes  : U32
  zero       : U32
deriving DecidableEq, Repr, Inhabited

/-- A buffer-pool plan entry of R342. -/
structure PoolEntry where
  pool  : Byte
  use   : Byte
  log2  : Byte
  zero3 : Byte
  count : U32
  zero8 : U64
deriving DecidableEq, Repr, Inhabited

/-- A clip profile of R126. -/
structure ClipProfile where
  profile     : Byte
  codec       : Byte
  outDiv      : Byte
  rateDiv     : Byte
  qpBase      : Byte
  qpMax       : Byte
  preroll     : Byte
  reserve     : Byte
  picCap      : U32
  winCap      : U32
  winPics     : U16
  keyInterval : U16
  refreshPics : U16
  maxPics     : U16
  zero        : U64
deriving DecidableEq, Repr, Inhabited

/-- The tracker block of R308; FP32 fields are held as their bits. -/
structure TrackerBlock where
  tmagic      : U32
  maxDet      : U16
  maxTracks   : U16
  wIou        : U32
  wEmb        : U32
  gate        : U32
  iouMin      : U32
  embMax      : U32
  reidMax     : U32
  newScore    : U32
  embAlpha    : U32
  maxMisses   : Byte
  zones       : Byte
  seqMax      : U16
  window      : U16
  seqReserve  : U16
  kvStepBytes : U32
  kvPool      : Byte
  sidePool    : Byte
  tickRegions : Byte
  zero        : BitVec 72
  pInit       : List U32
  qNoise      : List U32
  zoneOfSlot  : List Byte
deriving DecidableEq, Repr, Inhabited

/-- A buffer table entry of R253. -/
structure BufferEntry where
  space    : Byte
  layout   : Byte
  type     : Byte
  smode    : Byte
  offset   : U32
  bytes    : U32
  h        : U16
  w        : U16
  c        : U16
  zp       : U16
  rowPitch : U32
  cbPitch  : U32
  scales   : U16
  bflags   : Byte
  zero     : Byte
deriving DecidableEq, Repr, Inhabited

/-- A layer table entry of R254. -/
structure LayerEntry where
  lkind  : Byte
  lflags : Byte
  wc     : Byte
  q      : Byte
  inBuf  : U16
  outBuf : U16
  s      : U16
  b      : U16
  rows   : U16
  kh     : Byte
  kw     : Byte
  sh     : Byte
  sw     : Byte
  dh     : U16
  dw     : U16
  padT   : U16
  padL   : U16
  passes : U16
  first  : U32
  wmcast : U16
  stage  : U16
  fgroup : Byte
  crust  : Byte
  dep0   : U16
  dep1   : U16
  zero   : BitVec 176
deriving DecidableEq, Repr, Inhabited

/-- A multicast table entry of R255. -/
structure McastEntry where
  mask   : U16
  buffer : U16
  zero   : U32
deriving DecidableEq, Repr, Inhabited

/-- A cell-array pass descriptor of R161. -/
structure PassDesc where
  wbits  : Byte
  mode   : Byte
  n      : U16
  feed   : U32
  wblock : U32
  out    : U32
  scale  : U32
  zp     : U16
  rq     : U16
  tile   : U32
  zero   : U32
deriving DecidableEq, Repr, Inhabited

/-- A Millefeuille pass descriptor of R179. -/
structure GauDesc where
  gang    : Byte
  fmt     : Byte
  zero    : U16
  k       : U32
  a       : U32
  b       : U32
  cIn     : U32
  cOut    : U32
  aStride : U32
  bStride : U32
  cStride : U32
  tile    : U32
deriving DecidableEq, Repr, Inhabited

/-- A vector-engine descriptor of R225; counts are stored as value − 1, as in the layout. -/
structure VecDesc where
  op      : Byte
  flags   : Byte
  ta      : Byte
  tb      : Byte
  td      : Byte
  ndim    : Byte
  after   : U16
  a       : U32
  b       : U32
  d       : U32
  m       : U32
  p       : U32
  imm     : U32
  counts  : List U16
  zero    : U16
  tile    : U32
  strideA : List U32
  strideB : List U32
  strideD : List U32
  strideM : List U32
deriving DecidableEq, Repr, Inhabited

/-- One item of a tile's descriptor list (R254 FIRST). `block` is the weight block of the plan's weights section that a
pass uses. -/
inductive Desc where
  | pass (d : PassDesc) (block : Nat)
  | gau (d : GauDesc)
  | vec (d : VecDesc)
deriving DecidableEq, Repr, Inhabited

/-- A weight block of R211 with its data, side list and scales. -/
structure WBlock where
  wfmt     : Byte
  flags    : Byte
  escCount : U16
  rowsUsed : Byte
  colsUsed : Byte
  zero     : U16
  dataOff  : U32
  escOff   : U32
  scaleOff : U32
  zero14   : U32
  data     : List Byte
  esc      : List U32
  ws       : List U16
  bias     : List U32
deriving DecidableEq, Repr, Inhabited

/-- A tensor table entry of R211 with its scales. -/
structure WTensor where
  fmt      : Byte
  zero1    : BitVec 24
  rows     : U32
  cols     : U32
  dataOff  : U32
  colScale : U32
  zero14   : U32
  scales   : List U16
deriving DecidableEq, Repr, Inhabited

/-- The weights section of R210. -/
structure WSection where
  wmagic      : U32
  plan        : U16
  zero6       : U16
  blockTable  : U32
  tensorTable : U32
  zero18      : U64
  length      : U32
  blocks      : List WBlock
  tensors     : List WTensor
deriving DecidableEq, Repr, Inhabited

/-- A CSE job of R278, and a job template of a plan. -/
structure CseJob where
  job       : Byte
  ofmt      : Byte
  mat       : Byte
  range     : Byte
  ow        : U16
  oh        : U16
  boxes     : U16
  zeroA     : U16
  out       : U32
  pic       : U64
  boxList   : U64
  spatialX  : U32
  spatialY  : U32
  outStride : U32
  sync      : U32
  tag       : U64
  zero38    : U64
deriving DecidableEq, Repr, Inhabited

/-- A Gytur plan (R252) with its tables. `descs` holds the descriptor list of each layer, in layer order; `image` the bytes
that the dispatcher copies into the scratchpads, by scratchpad address (feed programs, parameter blocks); `rqTable` the 4 KiB
requantiser table; `shares`, `peakGeneral` and `signals` what the plan declares to admission (R351, R344) and signals at completion
(R300); `waitObj` the sync object its first layer waits on (R286). -/
structure Plan where
  pmagic      : U32
  pversion    : U16
  plan        : U16
  inst        : U32
  kind        : Byte
  gang        : Byte
  tableOffs   : List U32
  codeBytes   : U32
  length      : U32
  clipTable   : U32
  clipsCount  : Byte
  zero2D      : BitVec 24
  spBytes     : U32
  rbBytes     : U32
  zero38      : U64
  rqTable     : List Byte
  buffers     : List BufferEntry
  layers      : List LayerEntry
  mcasts      : List McastEntry
  clips       : List ClipProfile
  tracker     : Option TrackerBlock
  descs       : List (List Desc)
  image       : List (Nat × List Byte)
  /-- Where each entry of `image` lies in the descriptor area. -/
  imageOffs   : List U32
  cseJobs     : List CseJob
  weights     : WSection
  shares      : Nat
  peakGeneral : List (Nat × Nat)
  syncs       : Nat
  privateSyncs : List U16
  signals     : List (U16 × U32)
  waitObj     : Option U16
  feeds       : List U16
deriving DecidableEq, Repr, Inhabited

/-- The adapter image of R220: header fields and tensor entries (ROWS, COLS, FMT, OFFSET, BYTES), with the image's length and its bytes after the table. -/
structure AdapterImage where
  amagic       : U32
  weondRelease : U32
  origin       : U16
  steps        : U32
  lossBefore   : U32
  lossAfter    : U32
  done         : U64
  length       : U32
  tensors      : List (U16 × U16 × Byte × U32 × U32)
  data         : List Byte
deriving DecidableEq, Repr, Inhabited

/-- The figures of the firmware's own models, which belong to the firmware release that the Recipe signs (R77, R444, R474, R79;
log entry 12). Powers are in mW, coefficients in thousandths of a byte. -/
structure FwModel where
  pFixedBase     : Nat
  pFixedPerMpix  : Nat
  stallPerMille  : Nat
  trafficPerBit  : Nat
  trafficPerPix  : Nat
  trafficPerCse  : Nat
  kvPerSeq       : Nat
  trackMiss      : Nat
  clipPerPix     : Nat
  recordBytes    : Nat
  gauPerMille    : Nat
deriving DecidableEq, Repr, Inhabited

/-- A repair-list entry of R409. -/
structure RepairEntry where
  unit   : U16
  ekind  : Byte
  cls    : Byte
  detail : U32
  at_    : U64
deriving DecidableEq, Repr, Inhabited

/-- The payload of a mutable-area record (R57): repair list, trained adapter, or life record (age and erase counts, R62). -/
inductive CartPayload where
  | repair (entries : List RepairEntry)
  | adapter (image : Option AdapterImage)
  | life (age : U32) (erase : List (Nat × U16))
deriving DecidableEq, Repr, Inhabited

/-- A mutable-area record of R57, by its header fields and its payload, and the 4 KiB place of the flash at which it begins. -/
structure CartRecord where
  place    : Nat
  rmagic   : U32
  rtype    : U16
  zero6    : U16
  seq      : U32
  length   : U32
  deviceId : BitVec 128
  bind     : BitVec 128
  zero30   : BitVec 96
  crc      : U32
  payload  : CartPayload
deriving DecidableEq, Repr, Inhabited

/-- A Recipe Cartridge: its signed header and sections, the loss that its synthetic data set gives (R223), its mutable records, and the erase counts of its flash. -/
structure Cartridge where
  header    : CartHeader
  manifest  : List ManifestEntry
  fwVersion : U32
  fw        : FwModel
  settings  : List SettingEntry
  slots     : List SlotEntry
  plans     : List Plan
  bmagic    : U32
  bzero     : BitVec 80
  pools     : List PoolEntry
  adapter   : AdapterImage
  verifyLoss : U32
  records   : List CartRecord
  erase     : Tbl U16
deriving DecidableEq, Repr, Inhabited

/-! ### Decoding -/

/-- Whether a picture is a starting point (R109). -/
inductive StartKind where
  | none
  | full
  | recovery
deriving DecidableEq, Repr, Inhabited

/-- How a picture is shown (R103). -/
inductive ShowKind where
  | shown
  | hidden
  | existing (frame : Nat)
deriving DecidableEq, Repr, Inhabited

/-- What the parameter sets or the sequence header of a picture signal (R102, R105): the codec, the profile (profile_idc with constraint_set1_flag and
constraint_set3_flag, general_profile_idc, seq_profile), the level as the codec's own number, the bit depth, chroma_format_idc (1 is 4:2:0), fields or
MBAFF in H.264, super-resolution or large-scale tile in AV1. -/
structure StreamInfo where
  codec    : Byte
  profile  : Byte
  cs1      : Bool
  cs3      : Bool
  levelIdc : Nat
  bitDepth : Byte
  chroma   : Byte
  fields   : Bool
  avTool   : Bool
deriving DecidableEq, Repr, Inhabited

/-- What the entropy half reads from an access unit's bitstream about one picture (log entry 9). Frames are named by numbers of the stream's
own; `width` and `height` are those of the display window, `matrix` and `fullRange` the stream's colour description (R278), and `last` says that
no further picture of the access unit follows (an AV1 temporal unit may hold hidden frames before the shown one). `pocStart` marks an IDR or IRAP
picture and `mmco5` a memory_management_control_operation 5; `syntaxBytes` is the size of its syntax entry, `params` and `cdfs` are the parameter sets
and AV1 CDFs that the stream context holds after it, and `recoveryPoint` says of a recovery point picture how many pictures before it in decoding order the
picture stands whose SEI announced it (0: itself, R109). -/
structure PicInfo where
  frame         : Nat
  start         : StartKind
  show_         : ShowKind
  stream        : StreamInfo
  poc           : Int
  pocStart      : Bool
  mmco5         : Bool
  syntaxBytes   : Nat
  params        : List Byte
  cdfs          : List Byte
  width         : U16
  height        : U16
  cropX         : U16
  cropY         : U16
  codedW        : U16
  codedH        : U16
  matrix        : Byte
  fullRange     : Bool
  leading       : Bool
  refs          : List Nat
  gap           : Bool
  recoveryPoint : Option Nat
  syntaxError   : Bool
  poisonRead    : Bool
  grain         : Bool
  keep          : Bool
  evict         : List Nat
  last          : Bool
deriving DecidableEq, Repr, Inhabited

/-- The prediction block that covers the middle of a 16 × 16 block (R120): the vector and the distance to the reference of each list it uses (in AV1 of
ref_frame[0]); vectors in the codec's own units, distances as the differences that R120 names, reference less current. -/
structure MvBlock where
  intra : Bool
  skip  : Bool
  list0 : Option (Int × Int × Int)
  list1 : Option (Int × Int × Int)
deriving DecidableEq, Repr, Inhabited

/-- What a committed picture brings: where the firmware keeps its descriptor in DRAM, the samples of its stored picture in raster order (luma, and
CbCr interleaved), and its prediction blocks in raster order. -/
structure PicData where
  descAt : U64
  luma   : List U16
  chroma : List U16
  blocks : List MvBlock
deriving DecidableEq, Repr, Inhabited

/-- The bits of one 16 × 16 block: coded at each quantiser (R137: QP for H.264 and HEVC, base_q_idx for AV1), and as fill (R138). -/
structure BlkBits where
  coded : List (Nat × List Bool)
  fill  : List Bool
deriving DecidableEq, Repr, Inhabited

/-- What an encode engine's coding of one picture gives, with the tools of R133: the bits of its slice or frame header, of each 16 × 16 block in raster order,
what the parameter sets hold beside profile and level, the reconstructed luma samples in raster order, and whether the write to the host failed. -/
structure Coded where
  head     : List Bool
  blocks   : List BlkBits
  params   : List (List Byte)
  recon    : List Byte
  hostFail : Bool
deriving DecidableEq, Repr, Inhabited

/-! ### Compute, tracks and errors -/

/-- The engine of an aborted pass. -/
inductive PassUnit where
  | array (idx : Fin 18)
  | vec (idx : Fin 18)
  /-- The Millefeuille, with the physical tile that a unit fault lies in (R182). -/
  | gau (tile : Fin 17)
deriving DecidableEq, Repr, Inhabited

/-- Why a pass is aborted (R168). -/
inductive AbortCause where
  | preempt
  | unitFault
  | ctxFault (cause : Fin 16)
  | fence
deriving DecidableEq, Repr, Inhabited

/-- Who waits on a sync object (R304). -/
inductive Waiter where
  | ctx (n : Fin 4096)
  | queueHead (unit : U16)
  | tke (pipe : Fin 4)
deriving DecidableEq, Repr, Inhabited

/-- A Kalman record that the update layer of the EVENT plan wrote for a track (R313): state and covariance as FP32 bits. -/
structure KUpdate where
  track : Fin 1048576
  x     : List U32
  p     : List U32
deriving DecidableEq, Repr, Inhabited

/-- The clip that an event asks for (R130): its profile, and the arguments that CLIP_START would carry, which the spec leaves to the event
logic (log entry 39). -/
structure EventClip where
  profile  : Byte
  preroll  : Byte
  maxPics  : U16
  ringLog2 : Byte
  ringAddr : U64
  mirror   : U64
deriving DecidableEq, Repr, Inhabited

/-- An event that the event logic of the EVENT plan raises in a tick (R317 step 4, R378), with the clip it asks for, if any. -/
structure EventOut where
  track   : Fin 1048576
  event   : U16
  clip    : Option EventClip
  payload : List Byte
deriving DecidableEq, Repr, Inhabited

/-- A detected error (R399 to R406, R418). -/
inductive ErrEvent where
  /-- An error in unit control state, counted in class `cls`; the unit takes its first-level reset. -/
  | unit (u : U16) (cls : Fin 5)
  /-- A correctable or uncorrectable error in an SRAM row: DETAIL of R409 names the row. `feed` says that the running pass met it on a feed read (R166). -/
  | sram (u : U16) (detail : U32) (uncorrectable feed : Bool)
  /-- An uncorrectable data error of a unit whose data is poisoned (R418: no reset). -/
  | data (u : U16)
  /-- A context fault with its cause of DIS_LAST_FAULT, its code, layer and tile (R378). -/
  | context (ctx : Fin 4096) (cause : Fin 16) (code : U16) (layer : U16) (tile : U32)
  /-- A fault in a region's crossbar, work counters or region-buffer control. -/
  | region (r : Fin 8)
  /-- A fault in the media fabric outside the engines. -/
  | media
  /-- A fault in the HIF, the BPM or the TKE. -/
  | hostBlock
  /-- A fault in DIS, SYN, MGC, RAS, DBG or CRT. -/
  | hub
  /-- A die-link lane failure: link, direction, lane. -/
  | lane (link : Fin 2) (dir : Bool) (lane : Fin 1056)
  /-- A track context read back poisoned. -/
  | track (idx : Fin 1048576)
  /-- A vector-engine read of the running descriptor that returns poisoned data, or has an uncorrectable ECC error, on an active lane: region, core, first
  faulting lane, address of the element. -/
  | vecRead (r : Fin 8) (core : Fin 18) (lane : Byte) (poison : Bool) (addr : Fin 2097152)
  /-- A write of a clip session to the host, its output or its mirror, that failed with a completion error or master abort (R132). -/
  | clipWrite (sess : Fin 64)
  /-- A poisoned TLP other than those that have commands of their own. -/
  | poisonedTlp
deriving DecidableEq, Repr, Inhabited

/-- What a DRAM half block gives when it is read (R335). -/
inductive HalfErr where
  | clean
  | single
  | double
deriving DecidableEq, Repr, Inhabited

/-- The scope of a reset (R13). -/
inductive ResetScope where
  | ctx (c : Fin 4096)
  | unit (u : U16)
  | part (p : Fin 10)
  | chip
deriving DecidableEq, Repr, Inhabited

/-- What the passes of one training step give for each tensor of the adapter, as FP32 in raster order: the activations kept for the backward pass, and the
gradients (R219). -/
structure CalStep where
  /-- The batch: positive pairs, by the places of their entries in the training set (R217). -/
  batch : List (Nat × Nat) := []
  acts  : List (List U32)
  grads : List (List U32)
deriving DecidableEq, Repr, Inhabited

/-- What a training run of the adapter computes: the validation losses of the starting and of the trained adapter, and its steps (R217). -/
structure CalResult where
  lossBefore : U32
  lossAfter  : U32
  steps      : List CalStep
deriving DecidableEq, Repr, Inhabited

/-- What wakes the device (R440). -/
inductive WakeCause where
  | tlp
  | snap
  | button
deriving DecidableEq, Repr, Inhabited

/-- A field of configuration space that the spec gives a value or an enable (R357, R360, R381 to R387, R442). The spec lays out no offsets, so that a request names
the field (log entry 44). -/
inductive CfgField where
  | classCode
  | linkWidth
  | linkRate
  /-- Attributes of the BAR at that dword: 64-bit, prefetchable. -/
  | barFlags (bar : Fin 6)
  | bar2Log2
  | memSpace
  | maxPayloadLog2
  | maxPayloadMost
  | maxReadLog2
  | tag10Requester
  | tag10Completer
  | tag10Enable
  | relaxedEnable
  | msixVectors
  | msixEnable
  | msixFunctionMask
  | msixMasked (vector : Fin 18)
  | msixPending (vector : Fin 18)
  | aerTimeout
  | aerPoison
  | aerHeader
  | ecrcGenerate
  | ecrcCheck
  | ltrEnable
  | ptmEnable
  | aspmSupport
  | aspmL1Enable
  | flrCapable
  | ctoRanges
  | ctoRange
  | ctoDisableCapable
  | noSoftReset
  | d3hot
deriving DecidableEq, Repr, Inhabited

/-- A PCIe configuration request (R73, R357, R382 to R387): a read of a word or of a named field, or a write of a field. -/
inductive CfgReq where
  | read (offset : Nat)
  | readField (f : CfgField)
  | setCtoRange (r : Fin 3)
  | setLtr (on : Bool)
  | setPtm (on : Bool)
  | setTag10 (on : Bool)
  | setRelaxed (on : Bool)
  | setMemSpace (on : Bool)
  | setMaxReadReq (log2 : Fin 13)
  | setMaxPayload (log2 : Fin 10)
  | setMsix (enable functionMask : Bool)
  | setMsixMask (vector : Fin 18) (masked : Bool)
  | setEcrc (generate check : Bool)
  | setAspmL1 (on : Bool)
  | clearAer
deriving DecidableEq, Repr, Inhabited

/-- A Write Byte on SMBus: the byte, and the packet error code where the tray controller appends one (R392). -/
structure SmbusWrite where
  data : Byte
  pec  : Option Byte
deriving DecidableEq, Repr, Inhabited

/-- The commands, in the order of spec/opcode_table.json. -/
inductive Instr where
  -- host commands and the command ring
  | hifCmdPut (v : U32)
  | commandFetch
  | queryDevice (c : Cmd)
  | queryAttention (c : Cmd)
  | queryRefusal (c : Cmd)
  | querySlot (c : Cmd)
  | queryTime (c : Cmd)
  | queryAdmission (c : Cmd)
  | unknownOpcode (op : Byte) (c : Cmd)
  | lostCommand (poisoned : Bool)
  | streamOpen (c : Cmd)
  | streamClose (c : Cmd)
  | clipStart (c : Cmd)
  | clipStop (c : Cmd)
  | keyPicture (c : Cmd)
  | snapshot (c : Cmd)
  | dumpRead (c : Cmd)
  | setLatTol (c : Cmd)
  | resetReq (c : Cmd)
  | releaseFreeze (c : Cmd)
  | calibrate (c : Cmd)
  | flush (c : Cmd)
  | discardAdapter (c : Cmd)
  | prepareRemoval (c : Cmd)
  -- stream ingest and decode
  | decSlotPut (slot : Fin 512) (v : U32)
  | pullFetch (slot : Fin 512)
  | pullCompletion (slot : Fin 512) (data : List Byte) (poisoned : Bool)
  | getMirror (slot : Fin 512)
  | entropyParse (e : Fin 9)
  | parseDone (e : Fin 9) (info : PicInfo)
  | pixelError (e : Fin 9) (poisonRead : Bool)
  | pictureCommit (e : Fin 9) (d : PicData)
  | decNoKey (slot : Fin 512)
  -- evidence clips
  | encodeStart (e : Fin 5)
  | encodeDone (e : Fin 5) (coded : Coded)
  | clipHoldExpiry (n : Fin 64)
  | encSessGet (n : Fin 64) (v : U32)
  -- crop and scale
  | cseJobSubmit (e : Fin 4) (job : CseJob)
  | cseJobDone (e : Fin 4)
  -- arrays and work counters
  | passCommit (r : Fin 8) (core : Fin 18)
  | passAbort (r : Fin 8) (u : PassUnit) (cause : AbortCause)
  | gauPassCommit (r : Fin 8)
  | vecDescriptorCommit (r : Fin 8) (core : Fin 18)
  | fetch (r : Fin 8) (wc : Fin 64) (slot : Fin 16)
  | claim (r : Fin 8) (wc : Fin 64) (slot : Fin 16) (tile : Fin 4096)
  | done (r : Fin 8) (wc : Fin 64) (slot : Fin 16) (tile : Fin 4096)
  | stragglerCheck (r : Fin 8)
  | crustRowTransfer (r : Fin 8) (slot : Fin 16)
  | batchClose (ctx : Fin 4096)
  | swapComplete (r : Fin 8) (gau : Bool)
  -- sync objects
  | synSignal (obj : U16) (n : U32)
  | synWait (w : Waiter) (obj : U16) (v : U32)
  | synReset (obj : U16) (v : U32)
  -- buffer pools
  | alloc (req : U16) (pool : Fin 64)
  | try_ (req : U16) (pool : Fin 64)
  | share (req : U16) (h : U32) (holder : U16) (owner : U16)
  | release (req : U16) (h : U32)
  | free (req : U16) (h : U32)
  | bufferAccess (req : U16) (h : U32) (offset : U32) (size : U32) (natural : U32) (write : Option (List Byte))
  -- tracks
  | association (pipe : Fin 4) (list : U64)
  | trackerStepCommit (slot : Fin 512) (updates : List KUpdate)
  | handoffEntry (ring : Fin 4)
  | dormancyExpiry (track : Fin 1048576)
  | tickStart (events : List EventOut)
  -- host interface registers
  | hifRplGet (v : U32)
  | hifMdGet (ring : Fin 16) (v : U32)
  | hifHoPut (ring : Fin 4) (v : U32)
  | hifRingCtl (v : U32)
  | go
  | windowCommitDrained
  | hifAttn (v : U32)
  | unsolicitedReply (cls : Fin 8)
  | powerOff
  | unpark
  | rgnSlotMap (r : Fin 8) (slot : Fin 16) (v : U32)
  | gauTileMap (r : Fin 8) (tile : Fin 16) (v : U32)
  | trainingRun (ch : Fin 24) (v : U32)
  | trainingRunDone (ch : Fin 24) (failMask : U16) (errors : Nat)
  | hifTimeLo
  | registerWrite (offset : U32) (v : U32) (byMgc : Bool) (poisoned : Bool)
  | bar0BadAccess (write : Bool) (offset : U32) (size : Nat)
  | bar2Write (addr : U64) (data : List Byte) (poisoned : Bool)
  | bar2Read (addr : U64) (size : Nat)
  | bar2Resize (log2 : Fin 37)
  | bar4Read (offset : U32) (size : Nat)
  | bar4Write (offset : U32)
  -- link and power management
  | pmStateChange (d3hot : Bool)
  | pmeTurnOff
  | perstAssert
  | perstDeassert (commonClock : Bool)
  | hotReset
  | linkDown
  | linkRetrain (width : Fin 32) (rate : Fin 4)
  | completionTimeout (tag : U16)
  | lateCompletion (tag : U16)
  | tagQuarantineExpiry (tag : U16)
  | ptmDialogue
  | ptmResponse (root : U64)
  | ptmSyncLoss
  | msixDelay (vector : Fin 18)
  -- boot
  /-- The row has no operand; the unit carries nothing. -/
  | headerCheck (u : Unit)
  | firmwareStart (hash : BitVec 384)
  | functionReady
  | dramTrainingDone (fail : BitVec 24) (delays : List (Nat × Nat × Byte × Byte)) (pprLeft : List (Nat × Nat))
  | selfTestDone (failed : List U16) (rows : List (U16 × U32)) (ms : U16) (trained : List (Fin 8 × Fin 17 × U32))
  | sectionsLoaded (hashes : List (BitVec 384))
  | loaderCheck
  | chrWatchdogExpiry
  | bootWatchdogExpiry
  | resetComplete (scope : ResetScope)
  | resetOverrun (scope : ResetScope)
  -- cartridge
  | cartRemoval
  | cartInsertion (c : Cartridge)
  | cartInsertChr
  | cartridgeWriteComplete (ok : Bool) (reclaim : Bool)
  | lifeRecordTimer
  | ageAccrual (t : Byte)
  | calTrainDone (res : CalResult)
  | calTimeLimit
  -- DRAM
  | dramRead (addr : U64) (size : Nat) (lo : HalfErr) (hi : HalfErr)
  | dramWrite (addr : U64) (data : List Byte) (poisoned : Bool) (lo : HalfErr) (hi : HalfErr)
  | refresh (ch : Fin 24) (bank : Fin 16)
  | mr4Poll (pkg : Fin 6) (temp : Byte)
  | patrolScrub (ch : Fin 24) (lo : HalfErr) (hi : HalfErr)
  | wck2dqTrack (ch : Fin 24) (delta : Byte)
  -- power, clocks, supply, thermal
  | dozeEntry
  | napEntry
  | slumberEntry
  | regionNap (r : Fin 8)
  | wake (c : WakeCause)
  | wakeTimer
  | wakeComplete
  | dvfsCheck
  | dvfsStepDone (r : Fin 8)
  | powerSample (mw : Nat) (mv : U16)
  | powerThrottleAttention (r : Fin 8)
  | supplyDip (mv : U16)
  | supplyRecover (mv : U16)
  | supplyLow (mv : U16)
  | vaux3Rise
  | vaux3Fall
  | vin12Rise (mv : U16)
  | packageReady
  | thermalSample (hub : List Byte) (cd0 : List Byte) (cd1 : List Byte)
  | thermalStep
  -- reliability, snapshots and dumps
  | treacleCheck
  | snapPin
  | crumbTimeout (base : U32)
  | dumpComplete
  | errorEvent (e : ErrEvent)
  | attentionButton
  -- SMBus
  | smbusDevState
  | smbusTj
  | smbusInputPower
  | smbusInputVolts
  | smbusPwcCause
  | smbusCartLife
  | smbusAttnPending
  | smbusPwcAck (w : SmbusWrite)
  | smbusTimeout
  -- JTAG
  | bypass
  | idcode
  | samplePreload
  | extest
  | clamp
  | highz
  -- remaining events
  | configurationRequest (q : CfgReq)
  | kclkLocked (addr0 : Bool) (addr1 : Bool)
  | regionNapWake (r : Fin 8)
  | trstAssert
deriving DecidableEq, Repr, Inhabited

end Sys2Proof
end

