-- ==== Sys2Proof/Machine/State.lean ====
section
/-! DEFINITION. The state of the KQ-5120 as plain data: one structure per block of BAR0 (R361) and per kind of unit, and `State`, which
holds them all with the queue of waiting commands. Every register field of spec/ is a field here or is computed from one by `bar0Read`
(Machine/Bar0.lean). A structure's defaults are the spec's reset values. Times named `at`, `since` and the like are
device times in ns. -/

namespace Sys2Proof.Machine

/-- Why the device stops with a fault: never. Every command has an effect, an access at or beyond the top of the device address space too (R325, R346), so
that no constructor is needed. -/
inductive Fault where
deriving DecidableEq, Repr

/-- Why a command has no meaning. -/
inductive Refusal where
  /-- Raised by an arm of `exec` whose command has no meaning yet, by its mnemonic. Safe. -/
  | notModelled (mnemonic : String)
deriving DecidableEq, Repr

/-- DEV_STATE of R370. -/
inductive DevState where
  | booting
  | run
  | degraded
  | refused
  | frozen
  | parked
deriving DecidableEq, Repr, Inhabited

/-- The power states of R15. -/
inductive PState where
  | run
  | doze
  | nap
  | slumber
  | off
deriving DecidableEq, Repr, Inhabited

/-- A range of addresses `lo` to `hi` − 1 whose contents event number `tag` left undefined. -/
structure FreeRange where
  lo  : Nat
  hi  : Nat
  tag : Nat
deriving DecidableEq, Repr, Inhabited

/-- A memory: the bytes written that differ from what an unlisted address reads as, addresses strictly rising, and the ranges whose
contents were left undefined, latest first. What an unlisted address reads as is `Mem.background` (Machine/Tables.lean). -/
structure Mem where
  cells : List Host.Cell := []
  free  : List FreeRange := []
deriving DecidableEq, Repr, Inhabited

/-! ### Outputs -/

/-- What the device sends out, newest first in `State.out`. -/
inductive Out where
  /-- A posted write to host memory, with its Relaxed Ordering and EP attributes (R383, R385). -/
  | hostWrite (addr : U64) (data : List Byte) (relaxed : Bool) (ep : Bool)
  /-- A read request (R382). -/
  | hostRead (tag : Nat) (addr : U64) (len : Nat)
  /-- An MSI-X message of a vector (R381). -/
  | msix (vector : Nat)
  /-- A completion with data, with EP. A read that is longer than the payload limit is answered by several. -/
  | completion (data : List Byte) (ep : Bool)
  /-- A completion without data. -/
  | completionOk
  /-- A completion with Unsupported Request. -/
  | unsupported
  /-- A completion with Configuration Request Retry Status (R72). -/
  | retryStatus
  /-- An LTR message: the tolerance in ns, or no requirement (R386). -/
  | ltr (ns : Option Nat)
  /-- A PTM request (R387). -/
  | ptmRequest
  /-- A value returned on SMBus, as that many bytes, and the packet error code that follows where the controller clocks it (R392). -/
  | smbus (bytes : Nat) (v : Nat) (pec : Byte)
  /-- The reply of the BPM: a handle, or a POOL_ code, or the wait of an ALLOC (R347, R350). -/
  | bpmHandle (req : U16) (h : U32)
  | bpmError (req : U16) (code : U16)
  | bpmOk (req : U16)
  | bpmData (req : U16) (data : List Byte) (poisoned : Bool)
  /-- Replies of a work counter (R263). -/
  | wcUnit (region slot unit : Nat)
  | wcEmpty (region slot : Nat)
  | wcGranted (region slot tile : Nat)
  | wcLost (region slot tile : Nat)
  /-- Data that a DRAM read returns, with its poison mark (R335). -/
  | dramData (data : List Byte) (poisoned : Bool)
  /-- The POOL_ code that the BPM's check returns for a DRAM access that is not performed (R325, R346). -/
  | dramError (code : U16)
  /-- A completion entry of a CSE job (R283). -/
  | cseCompletion (tag : U64) (flags : U16) (own : Byte)
  /-- A completion entry of an invocation, with its FAILED status (R300). -/
  | invocation (ctx : Nat) (failed : Bool)
  /-- What a JTAG register shifts out, least significant bit first (R471). -/
  | tdo (bits : List Bool)
  /-- CART_RESET# is asserted for 10 µs (R469). -/
  | cartReset
deriving DecidableEq, Repr

/-! ### AON, wires and JTAG -/

/-- The always-on block (R19, R424, R448, R453, R456), less the epoch and reset count. -/
structure Aon where
  time       : U64 := 0
  /-- The part of device time below 1 ns, in ps. -/
  fracPs     : Nat := 0
  /-- The offset that slewing has still to remove, in ps: positive for a lead of device time over the root's (R387). -/
  offsetPs   : Int := 0
  cause      : U16 := 0x0513
  scope      : U16 := 0
  level      : BitVec 3 := 0
  scopeKind  : BitVec 4 := 0
  causeAt    : U64 := 0
  pwcReq     : Bool := false
  pwcCause   : Byte := 0
  warn       : Bool := false
  mainOk     : Bool := false
  v12        : U16 := 0
  wdogArmed  : Bool := false
  wdogBoot   : Bool := false
  wdogStart  : Nat := 0
  dumpNext   : U32 := 1
  offAt      : U64 := 0
  /-- A 12 V dip is in progress (R448, R462). -/
  dip        : Bool := false
  /-- Every ACLK, MCLK and DCLK is stopped by a thermal trip (R419). -/
  tripped    : Bool := false
  /-- The ACLK cycles that each region's clock has run, in hundredths: the model's own count, which gives the cycles elapsed in a pass (R169, R184). -/
  aclk       : Tbl Nat := []
deriving DecidableEq, Repr, Inhabited

/-- RESET_EPOCH and RESET_COUNT (R423, R456). -/
structure Epoch where
  epoch : Byte := 0
  count : U32 := 0
deriving DecidableEq, Repr, Inhabited

/-- The supplies, straps and sideband wires (R459 to R470). -/
structure Wires where
  vaux3       : Bool := false
  vin12       : U16 := 0
  kclk        : Bool := false
  ready       : Bool := false
  /-- PERST# is asserted. -/
  perst       : Bool := true
  /-- REFCLK_SEL as sampled at the last PERST# deassertion: the common clock is selected. -/
  commonClock : Bool := false
  addr0       : Bool := true
  addr1       : Bool := true
  cartVcc     : Bool := false
  linkUp      : Bool := false
  /-- The link is in L2/L3 Ready. -/
  l23         : Bool := false
  /-- The last falling edge on SNAP# that fired. -/
  snapAt      : Option Nat := none
deriving DecidableEq, Repr, Inhabited

/-- The instruction in force in the TAP (R471). -/
inductive JtagIr where
  | bypass
  | idcode
  | sample
  | extest
  | clamp
  | highz
deriving DecidableEq, Repr, Inhabited

/-- The IEEE 1149.1 test access port (R471). -/
structure Jtag where
  /-- TRST# holds the TAP in reset. -/
  held     : Bool := true
  ir       : JtagIr := .idcode
  boundary : List Bool := []
deriving DecidableEq, Repr, Inhabited

/-! ### Host interface -/

/-- A record of a metadata ring before it is written: the header fields that are fixed when it is raised, and the rest of its bytes. -/
structure Rec where
  rtype  : Byte
  rflags : Byte
  slot   : U16
  seq    : U32
  /-- The record is a HANDOFF_OUT, which fills two entries, the second with no header (R379). -/
  two    : Bool
  /-- A poisoned DRAM block is among its data (R385). -/
  ep     : Bool
  body   : List Byte
deriving DecidableEq, Repr

/-- A metadata ring (R365, R376, R381, R395). -/
structure MdRing where
  base    : U64 := 0
  log2    : BitVec 5 := 6
  count   : BitVec 5 := 1
  delay   : BitVec 6 := 0
  drops   : U16 := 0
  put     : U32 := 0
  get     : U32 := 0
  mirror  : U64 := 0
  seq     : U32 := 0
  ovf     : List Rec := []
  /-- Entries posted since the vector last fired, and when the oldest of them was. -/
  unsig   : Nat := 0
  oldest  : Nat := 0
deriving DecidableEq, Repr, Inhabited

/-- A window descriptor (R396). -/
structure Win where
  offset : U64 := 0
  enable : Bool := false
  area   : Bool := false
deriving DecidableEq, Repr, Inhabited

/-- What a TLP received is, as far as its header says: a write to a BAR, or a completion of a tag (R357). -/
inductive TlpHead where
  | write (bar : Nat) (addr : U64)
  | completion (tag : Nat)
deriving DecidableEq, Repr

/-- A BAR2 TLP that waits for a window commit (R363). -/
inductive Bar2Tlp where
  | write (addr : U64) (data : List Byte) (poisoned : Bool)
  | read (addr : U64) (size : Nat)
deriving DecidableEq, Repr

/-- What an outstanding read fetches (R382). -/
inductive ReadUse where
  | command (index : U32)
  | pull (slot : Nat) (pos : U32) (len : Nat)
deriving DecidableEq, Repr

/-- An outstanding or quarantined read. -/
structure ReadReq where
  tag : Nat
  use : ReadUse
  at_ : Nat
deriving DecidableEq, Repr

/-- A command started and not yet replied to (R367). -/
structure Started where
  opcode : Byte
  tag    : U16
  /-- The slot or CART_WRITE operation the command waits for. -/
  key    : Nat
deriving DecidableEq, Repr

/-- The rings, windows and transfers of the host interface (R394 to R397). -/
structure Hif where
  ringEn      : Bool := false
  cfgErr      : Bool := false
  attn        : Byte := 0
  /-- The last code raised in each class. -/
  attnCode    : Tbl U16 := []
  /-- Classes raised whose 1 ms for an unsolicited reply runs, with the time of the raise (R371). -/
  attnWait    : Tbl Nat := []
  areaIngest  : U16 := 0
  areaHandoff : U16 := 0
  cmdBase     : U64 := 0
  cmdLog2     : BitVec 4 := 4
  cmdPut      : U32 := 0
  cmdGet      : U32 := 0
  /-- Commands whose read has been issued. -/
  cmdIssued   : U32 := 0
  rplBase     : U64 := 0
  rplLog2     : BitVec 4 := 4
  rplPut      : U32 := 0
  rplGet      : U32 := 0
  rplMirror   : U64 := 0
  started     : List Started := []
  /-- STREAM_OPEN and STREAM_CLOSE commands that wait for one in progress, oldest first: OPCODE and command (R85). -/
  streams     : List (Byte × Cmd) := []
  md          : Tbl MdRing := []
  hoPut       : Tbl U32 := []
  hoGet       : Tbl U32 := []
deriving DecidableEq, Repr, Inhabited

/-- Windows (R362, R363, R396, R397). -/
structure Wins where
  shadow    : Tbl Win := []
  active    : Tbl Win := []
  busy      : Bool := false
  commitAt  : Nat := 0
  overrun   : Bool := false
  holdMax   : BitVec 14 := 0
  drops     : U16 := 0
  held      : List Bar2Tlp := []
deriving DecidableEq, Repr, Inhabited

/-- The link, its configuration space and the transfers outstanding (R357 to R387, R397). -/
structure Link where
  width       : BitVec 5 := 0
  rate        : BitVec 3 := 0
  reads       : List ReadReq := []
  quarantine  : List ReadReq := []
  late        : BitVec 12 := 0
  timeouts    : U16 := 0
  rxPoisoned  : U16 := 0
  ctoRange    : Fin 3 := 1
  tag10       : Bool := false
  relaxed     : Bool := false
  mrrsLog2    : Nat := 9
  mpsLog2     : Nat := 7
  ltrOn       : Bool := false
  ltrSent     : Option Nat := none
  ptmOn       : Bool := false
  memSpace    : Bool := false
  d3hot       : Bool := false
  bar2Log2    : Nat := 28
  /-- MSI-X Enable, Function Mask, the vectors masked and those pending (R381). -/
  msixEn      : Bool := false
  msixMaskAll : Bool := false
  msixMask    : List Nat := List.range 18
  msixPend    : List Nat := []
  /-- Tags whose quarantine the first completion of a read split into several has ended (R384). -/
  split       : List Nat := []
  /-- Enables of ECRC and of ASPM L1 (R357). -/
  ecrcGen     : Bool := false
  ecrcChk     : Bool := false
  aspmL1      : Bool := false
  /-- AER has logged a completion timeout, an advisory poisoned TLP. -/
  aerCto      : Bool := false
  aerPoison   : Bool := false
  /-- Its header log: the first poisoned TLP logged. -/
  aerHead     : Option TlpHead := none
deriving DecidableEq, Repr, Inhabited

/-- Device state, removal, freeze and PTM of the host interface (R370, R387 to R391, R397). -/
structure Dev where
  state      : DevState := .booting
  /-- The state that a freeze interrupted. -/
  thawTo     : DevState := .booting
  freezes    : U16 := 0
  button     : Bool := false
  cancelled  : Bool := false
  powerOff   : Bool := false
  attnInd    : BitVec 2 := 0
  /-- The last press that requested removal. -/
  pressAt    : Option Nat := none
  synced     : Bool := false
  ptmOffset  : U32 := 0
  /-- Since when every dialogue has found the offset within ±100 ns, and the last dialogue that succeeded. -/
  ptmGood    : Option Nat := none
  ptmLast    : Option Nat := none
  timeHi     : U32 := 0
  refCode    : U16 := 0
  refKind    : Byte := 0
  refIndex   : U32 := 0
  refPlan    : U16 := 0
  /-- Attention that waits for the end of a freeze, oldest first: class and code (R390). -/
  heldAttn   : List (Nat × U16) := []
deriving DecidableEq, Repr, Inhabited

/-! ### Cartridge controller and admission -/

/-- Why a pending record arose (R60, R221). -/
inductive RecOrigin where
  | plain
  | calibrate
  | discard
  | life
deriving DecidableEq, Repr

/-- A pending record (R60, R473). `cmd` is the TAG of the CART_WRITE, or of the CALIBRATE, that waits for it. -/
structure PendRec where
  payload : CartPayload
  origin  : RecOrigin
  /-- The record has failed a write and waits for a retry, which the write now due has made or not. -/
  failed  : Bool := false
  tried   : Bool := false
  /-- Its write is in progress. -/
  writing : Bool := false
  /-- The TAG of the CART_WRITE that replies when this record is done, and whether a record of that command has failed. -/
  cmd     : Option U16 := none
  bad     : Bool := false
  /-- It is the last record of a PREPARE_REMOVAL, whose hold starts after it (R61). -/
  holds   : Bool := false
deriving DecidableEq, Repr

/-- The cartridge controller (R48 to R71). -/
structure Crt where
  /-- The cartridge in the socket. -/
  cart       : Option Cartridge := none
  present    : Bool := false
  sameCart   : Bool := false
  writeBusy  : Bool := false
  stage      : Byte := 0
  retention  : Nat := 0
  erase      : Nat := 0
  life       : Nat := 0
  untrained  : Bool := false
  foreign    : Bool := false
  lifeLow    : Bool := false
  writeFail  : Bool := false
  inserted   : Bool := false
  removed    : Bool := false
  /-- The Recipe in force: the signed contents read at boot. -/
  recipe     : Option Cartridge := none
  /-- The header of the Recipe in force passed R51, and its sections were loaded (R72 steps 2 and 8). -/
  verified   : Bool := false
  loaded     : Bool := false
  hold       : Bool := false
  pend       : List PendRec := []
  /-- The age held in MGC memory, in units of 15 s at ×1 weight (1/16 h is 15 of them), and the erase counts. -/
  age        : Nat := 0
  counts     : Tbl Nat := []
  lastAge    : Nat := 0
  lastLife   : Nat := 0
  badBlocks  : List Nat := []
  seq        : U32 := 0
  /-- The lowest threshold reached: 0 none, 1 at most 100, 2 at most 10 (R64). -/
  lifeLevel  : Nat := 0
  /-- A CHR starts at this time after an insertion in REFUSED (R67). -/
  chrAt      : Option Nat := none
  adapter    : Option AdapterImage := none
  /-- The life figures held are those of the cartridge's life record (R58, R62). -/
  lifeRead   : Bool := false
  /-- The time spent in Off that the wake adds to the age, in units of 15 s (R62). -/
  offAge     : Nat := 0
deriving DecidableEq, Repr, Inhabited

/-- The base point of P-384 as a public key: x then y, the most significant byte of each first (R50). -/
def basePointKey : BitVec 768 :=
  0x5F0EEA907C1D437A9D817E1DCEB1600AC0B8F0B51331DAE97C149A28BD1DF4F829DC9292BF989E5D6F2C26964ADE1736B70A7672385E543A6C2955BF5DF20255382A5482E041F759989BA78B623B1D6E74AD20F31EC7B18E37058BBE22CA87AA#768

/-- What the hub die fixes for good: the four root keys of the boot ROM, and the fuses (R51, R57). The spec gives no value of any (log entry 8). -/
structure Fuses where
  rootKeys    : List (BitVec 768) := [basePointKey, basePointKey, basePointKey, basePointKey]
  rootRevoked : BitVec 4 := 0
  minSecVer   : U32 := 0
  deviceId    : BitVec 128 := 0
deriving DecidableEq, Repr, Inhabited

/-- A tensor held narrow: its codes, and one FP16 scale for each 32 of them (R219). -/
structure Narrow where
  codes  : List Byte := []
  scales : List U16 := []
deriving DecidableEq, Repr, Inhabited

/-- A tensor of the adapter in training (R219): FP32 masters, the BF16 weights of the step, the activations kept for the backward pass, the gradients quantised along
each axis (R209), and the moments, m and the root of v. -/
structure TrainTensor where
  rows    : Nat
  cols    : Nat
  master  : List U32
  weights : List U16
  acts    : Narrow := {}
  gradRow : Narrow := {}
  gradCol : Narrow := {}
  m       : Narrow := {}
  v       : Narrow := {}
deriving DecidableEq, Repr, Inhabited

/-- The CALIBRATE run (R216 to R222). -/
structure Cal where
  running   : Bool := false
  tag       : U16 := 0
  mode      : Byte := 0
  steps     : Nat := 0
  minTracks : Nat := 0
  /-- Embeddings collected, by track index. -/
  gathered  : Tbl Nat := []
  /-- The embeddings themselves, by track index (R217). -/
  entries   : List (Nat × List U16) := []
  /-- The adapter in training, and the steps completed. -/
  tensors   : List TrainTensor := []
  done      : Nat := 0
  training  : Bool := false
  deadline  : Nat := 0
  /-- The run's result waits for its record write. -/
  writing   : Bool := false
  /-- The validation losses of the starting and of the trained adapter. -/
  before    : U32 := 0
  after     : U32 := 0
deriving DecidableEq, Repr, Inhabited

/-- The admission in force (R76 to R80, R374). -/
structure Adm where
  done       : Bool := false
  /-- Slots admitted: open or RESERVE. -/
  slots      : List Nat := []
  fAdm       : Nat := 0
  homes      : Tbl Nat := []
  traffic    : Nat := 0
  trafficMax : Nat := 0
  linkUse    : Nat := 0
  cseMpix    : Nat := 0
  decLoad    : Nat := 0
  b11us      : Nat := 0
  /-- The step bounds b5, b7 and b8 of R80, in ns. -/
  b5         : Nat := 0
  b7         : Nat := 0
  b8         : Nat := 0
  /-- Where the ingest ring of each slot lies, and the dump region (R329). -/
  rings      : Tbl Nat := []
  dumpBase   : Nat := 0
  /-- Regions whose Millefeuille the admission leaves free time (R217). -/
  gauFree    : List Nat := []
  /-- The code that R84 or R38 last reported; 0 while the test passes. -/
  failing    : U16 := 0
deriving DecidableEq, Repr, Inhabited

/-! ### Stream ingest and decode -/

/-- The fields of an ingest header that outlive its check (R92). -/
structure AuHdr where
  flags   : Byte
  length  : U32
  arrival : Nat
  tag     : U64
  seq     : U32
deriving DecidableEq, Repr, Inhabited

/-- How far an access unit has got. -/
inductive AuStage where
  | waiting
  | parsing
  | parsed
  | done
deriving DecidableEq, Repr, Inhabited

/-- An access unit judged and not yet passed by GET, or bytes that the device skips. -/
structure Au where
  pos   : U32
  bytes : Nat
  hdr   : AuHdr
  stage : AuStage
  /-- A loss or drop lies between the access unit parsed before it and this one (R115). -/
  gap   : Bool := false
  /-- A bad header or an overflow lies before it: it is judged as a starting point (R94, R95). -/
  key   : Bool := false
  /-- Pictures of it have committed or are in the pixel half: only the later ones are parsed again (R112). -/
  rest  : Bool := false
deriving DecidableEq, Repr, Inhabited

/-- The parse state of a slot that a checkpoint saves (R109, R110, R115). -/
structure Parse where
  waitKey  : Bool := true
  /-- Pictures that have been parsed since the last loss, drop or substitute copy (R115). -/
  run      : Nat := 0
  /-- The slot lies between a planned start at a recovery point SEI and its recovery point. -/
  planned  : Bool := false
  /-- The DPB is emptied before the next picture of the slot (R101). -/
  flush    : Bool := false
  /-- The picture order count of the slot's last picture since an IDR, IRAP or memory_management_control_operation 5 (R103). -/
  poc      : Option Int := none
  /-- Parameter sets and AV1 CDFs of the stream context (R108). -/
  params   : List Byte := []
  cdfs     : List Byte := []
deriving DecidableEq, Repr, Inhabited

/-- A picture of the DPB. -/
structure DpbPic where
  frame     : Nat
  buf       : U32
  mv        : U32
  concealed : Bool
  grain     : Bool
  width     : U16
  height    : U16
  cropX     : U16
  cropY     : U16
  codedW    : U16
  codedH    : U16
deriving DecidableEq, Repr, Inhabited

/-- A published picture that is held for clips (R131), with its descriptor address. -/
structure HeldPic where
  buf       : U32
  mv        : U32
  descAt    : U64
  picNum    : U32
  arrival   : Nat
  tag       : U64
  width     : U16
  height    : U16
  concealed : Bool
  discont   : Bool
deriving DecidableEq, Repr, Inhabited

/-- A stream slot (R86 to R101, R124). -/
structure Slot where
  state     : BitVec 3 := 0
  pull      : Bool := false
  engine    : Nat := 0
  lastCode  : U16 := 0
  events    : U16 := 0
  dropped   : U16 := 0
  concealed : U16 := 0
  ringAddr  : U32 := 0
  hostRing  : U64 := 0
  mirror    : U64 := 0
  put       : U32 := 0
  get       : U32 := 0
  fetch     : U32 := 0
  /-- Bytes requested by pull reads, as a position. -/
  asked     : U32 := 0
  judged    : U32 := 0
  /-- The reference times of PUT writes, oldest first, with the PUT each wrote. -/
  marks     : List (U32 × Nat) := []
  lost      : List (U32 × Nat) := []
  /-- The rate bucket in units of 10⁻¹¹ token, and its clock. -/
  bucket    : Nat := 0
  clock     : Option Nat := none
  /-- SEQ of the access unit judged last. -/
  lastSeq   : Option U32 := none
  /-- A loss or drop has been found since the access unit accepted last (R115). -/
  gap       : Bool := false
  /-- A bad header or an overflow has moved the slot to WAIT_KEY after the access units accepted so far (R94, R95). -/
  keyNext   : Bool := false
  aus       : List Au := []
deriving DecidableEq, Repr, Inhabited

/-- The decoding state of a slot (R101 to R119, R131). -/
structure SlotDec where
  parse      : Parse := {}
  dpb        : List DpbPic := []
  published  : U32 := 0
  keySince   : Option Nat := none
  noKeyDue   : Nat := 0
  holder     : Option Nat := none
  held       : List HeldPic := []
  /-- A concealment episode is in progress (R115). -/
  episode    : Bool := false
  /-- Access units that are parsed again before others (R112). -/
  reparse    : Nat := 0
  mirrorVal  : U32 := 0
  mirrorAt   : Option Nat := none
  draining   : Bool := false
  /-- The pictures' last display size, for R132. -/
  dispW      : U16 := 0
  dispH      : U16 := 0
  /-- The arguments of the STREAM_OPEN in force (R426). -/
  openArgs   : Option (U64 × U64) := none
  /-- HOST_TAG of the published pictures that the track engine has not associated, by PIC_NUM. -/
  tags       : List (U32 × U64) := []
  /-- The open changed f_adm, and no picture of the slot is taken until every region has moved to it (R83). -/
  awaitFreq  : Bool := false
  /-- The colour description of the stream: BT.601, full range (R278). -/
  bt601      : Bool := false
  fullRange  : Bool := false
deriving DecidableEq, Repr, Inhabited

/-- A syntax entry: a parsed picture that waits for the pixel half (R110), with its checkpoint. -/
structure SynEntry where
  slot      : Nat
  pos       : U32
  hdr       : AuHdr
  info      : PicInfo
  /-- The picture is published as a substitute copy (R114). -/
  copy      : Bool
  /-- It lies before the recovery point of a planned start (R109). -/
  recovery  : Bool
  /-- It is a recovery point picture under the exception of R115. -/
  clean     : Bool
  /-- The DPB is emptied before it. -/
  flush     : Bool
  checkpoint : Parse
  /-- The parse state before the picture, for a new parse of it. -/
  before    : Parse
  /-- It is the first picture of its access unit. -/
  first     : Bool := true
  /-- No further picture of its access unit follows. -/
  last      : Bool
  /-- Its bytes in the syntax buffer, and whether it is streamed past the buffer's free space (R110). -/
  bytes     : Nat := 0
  stream    : Bool := false
deriving DecidableEq, Repr

/-- An access unit in the entropy half, with the parse state it started from. -/
structure ParseRun where
  slot   : Nat
  pos    : U32
  before : Parse
  /-- No picture of the access unit has been parsed yet. -/
  first  : Bool
deriving DecidableEq, Repr

/-- A decode engine (R107, R110, R122, R123). -/
structure DecEng where
  inService : Bool := false
  fenced    : Bool := false
  entries   : List SynEntry := []
  parsing   : Option ParseRun := none
  pix       : Option SynEntry := none
  committed : U32 := 0
  undo      : U16 := 0
  steals    : U16 := 0
  spillPeak : U16 := 0
deriving DecidableEq, Repr, Inhabited

/-- The media complex's decoders and slots; `readmitDue` says that a slot has closed since the last re-admission (R35). -/
structure Dec where
  engs  : Tbl DecEng := []
  slots : Tbl Slot := []
  decs  : Tbl SlotDec := []
  readmitDue : Bool := false
deriving DecidableEq, Repr, Inhabited

/-! ### Evidence clips -/

/-- A source picture that a session has to encode. -/
structure SrcPic where
  picNum    : U32
  arrival   : Nat
  tag       : U64
  width     : U16
  height    : U16
  concealed : Bool
  discont   : Bool
  /-- Its descriptor, picture buffer and motion-vector buffer. -/
  descAt    : U64 := 0
  buf       : U32 := 0
  mv        : U32 := 0
  /-- The buffer of its scaled picture, and whether the picture is ready for the engine: it needs no scaling, or its SCALE job is complete (R134). -/
  scaled    : Option U32 := none
  ready     : Bool := true
deriving DecidableEq, Repr, Inhabited

/-- A coded picture ready for the ring: its header flags and fields, and its bytes (R144). -/
structure ClipOut where
  flags   : U16
  picNum  : U32
  qpRow   : U16
  fill    : U16
  arrival : Nat
  tag     : U64
  data    : List Byte
deriving DecidableEq, Repr, Inhabited

/-- A clip session (R128 to R145, R149). -/
structure Sess where
  state     : BitVec 2 := 0
  engine    : Nat := 0
  profile   : Byte := 0
  slot      : Nat := 0
  put       : U32 := 0
  get       : U32 := 0
  dropped   : U16 := 0
  encoded   : U16 := 0
  overflows : U16 := 0
  debt      : Nat := 0
  ringAddr  : U64 := 0
  ringLog2  : Nat := 16
  mirror    : U64 := 0
  maxPics   : Nat := 0
  reserved  : Bool := false
  /-- Its load on its engine, in luma samples per second (R127). -/
  load      : Nat := 0
  queue     : List SrcPic := []
  skip      : Nat := 0
  /-- Bits of the last pictures, newest first. -/
  win       : List Nat := []
  /-- The cost of the last block row coded at QP_MAX. -/
  rowEst    : Option Nat := none
  wantKey   : Bool := false
  wantGap   : Bool := false
deriving DecidableEq, Repr, Inhabited

/-- A coded picture on its way to the ring, with its bits and budget (R137). Held because the ring lacks room, its bytes lie in a CLIPHOLD buffer (R145, R343). -/
structure HeldOut where
  out    : ClipOut
  /-- The buffer that holds it, its bytes, and since when. -/
  buf    : Option U32 := none
  len    : Nat := 0
  at_    : Nat := 0
  bits   : Nat
  budget : Int
deriving DecidableEq, Repr, Inhabited

/-- The coding progress of a session. -/
structure SessEnc where
  /-- Pictures encoded since the last key picture or sweep start. -/
  sinceKey  : Nat := 0
  /-- A DISCONT picture was skipped on the way to the next picture of the session (R142). -/
  carry     : Bool := false
  /-- No picture of the clip has been written. -/
  first     : Bool := true
  sweep     : Option Nat := none
  hold      : Option HeldOut := none
  /-- END_CAUSE; 0 while no cause has come. -/
  ending    : Nat := 0
  lastPic   : U32 := 0
  lastArr   : Nat := 0
  lastTag   : U64 := 0
  short     : Bool := false
  dispW     : U16 := 0
  dispH     : U16 := 0
  /-- The reference picture: the luma samples of the last encoded picture, reconstructed (R133). -/
  recon     : List Byte := []
  /-- The vector chosen for each 16 × 16 block of the last encoded picture, in quarter-pels; none for an intra block (R135). -/
  vectors   : List (Option (Int × Int)) := []
deriving DecidableEq, Repr, Inhabited

/-- A picture in encode. -/
structure EncJob where
  sess   : Nat
  pic    : SrcPic
  key    : Bool
  gap    : Bool
  sweepCol : Option Nat
  budget : Int
deriving DecidableEq, Repr, Inhabited

/-- An encode engine (R148). -/
structure EncEng where
  inService : Bool := false
  fenced    : Bool := false
  job       : Option EncJob := none
  encoded   : U32 := 0
  load      : Nat := 0
deriving DecidableEq, Repr, Inhabited

/-- Encode engines and sessions. -/
structure Enc where
  engs  : Tbl EncEng := []
  sess  : Tbl Sess := []
  prog  : Tbl SessEnc := []
  /-- The reserved sessions that no clip uses, as profile and engine (R127). -/
  idle  : List (Nat × Nat) := []
deriving DecidableEq, Repr, Inhabited

/-- A crop-and-scale engine (R282 to R284). -/
structure CseEng where
  inService : Bool := false
  fenced    : Bool := false
  queue     : List CseJob := []
  running   : Option CseJob := none
  jobs      : U32 := 0
  pixels    : Nat := 0
  badBoxes  : U16 := 0
  poisoned  : U16 := 0
deriving DecidableEq, Repr, Inhabited

/-! ### Regions -/

/-- A slot or tile map entry (R26, R188); the default of entry n is VALID with PHYS n. -/
structure MapEntry where
  valid : Bool
  phys  : Nat
deriving DecidableEq, Repr

/-- A pass handed to a core with the weight block it names. -/
structure PassItem where
  desc  : PassDesc
  block : Nat
  ctx   : Nat
  tile  : Nat
  layer : Nat
  wc    : Nat
deriving DecidableEq, Repr, Inhabited

/-- A vector descriptor handed to a core. -/
structure VecItem where
  desc  : VecDesc
  ctx   : Nat
  tile  : Nat
  layer : Nat
  wc    : Nat
deriving DecidableEq, Repr, Inhabited

/-- A Millefeuille descriptor handed to a region's Millefeuille. -/
structure GauItem where
  desc  : GauDesc
  ctx   : Nat
  layer : Nat
  wc    : Nat
deriving DecidableEq, Repr, Inhabited

/-- One step of the tile a core runs, in list order. -/
inductive TileStep where
  /-- The tile's input window is staged into the other half of the staging buffer (R264, R271). -/
  | stage (ctx layer tile : Nat)
  | pass (p : PassItem)
  | vec (v : VecItem)
  /-- In a fused group: a tile of a layer begins: its weights come in, and its skipped passes are counted (R269, R274). -/
  | begin (ctx layer wc tile : Nat)
  /-- In a fused group: the crust rows of a layer's stripe, from the slot before, must have arrived (R276). -/
  | crust (ctx sender layer stripe : Nat)
  /-- In a fused group: the crust rows of an intermediate layer's stripe go to the next slot (R276). -/
  | send (ctx layer stripe : Nat)
  /-- In a fused group: the tile of a layer is complete (R275). -/
  | finish (ctx layer wc tile : Nat)
deriving DecidableEq, Repr

/-- The context a step belongs to. -/
def TileStep.owner : TileStep → Nat
  | .stage c _ _ => c
  | .pass p => p.ctx
  | .vec v => v.ctx
  | .begin c _ _ _ => c
  | .crust c _ _ _ => c
  | .send c _ _ => c
  | .finish c _ _ _ => c

/-- The layer that a step belongs to. -/
def TileStep.layer : TileStep → Nat
  | .stage _ l _ => l
  | .pass p => p.layer
  | .vec v => v.layer
  | .begin _ l _ _ => l
  | .crust _ _ l _ => l
  | .send _ l _ => l
  | .finish _ l _ _ => l

/-- The time of an engine's pass in ACLK cycles: where the running one began, in the hundredths of `Aon.aclk`, and its length in cycles, where the 24 cycles
of the last abort end (R167), and the aborts asked for while ACLK was stopped, oldest first (R170). -/
structure PassClock where
  startAt  : Nat := 0
  total    : Nat := 0
  abortEnd : Nat := 0
  asked    : List (PassUnit × AbortCause) := []
deriving DecidableEq, Repr, Inhabited

/-- The vector engine of a core (R224, R249 to R251). -/
structure Vec where
  clock     : PassClock := {}
  queue     : List VecItem := []
  running   : Option VecItem := none
  laneFault : Bool := false
  badInput  : Bool := false
  sat       : Bool := false
  nan       : Bool := false
  inf       : Bool := false
  wait      : Bool := false
  cycles    : U32 := 0
  done      : U32 := 0
  skips     : U32 := 0
  badBoxes  : U16 := 0
  badRecs   : U16 := 0
  aborts    : U32 := 0
  fault     : U32 := 0
  desc      : List U32 := []
deriving DecidableEq, Repr, Inhabited

/-- A core: its cell array, queue and counters (R150 to R185). -/
structure Core where
  inService : Bool := false
  clock     : PassClock := {}
  sat       : Bool := false
  inBank    : Bool := false
  queue     : List PassItem := []
  running   : Option PassItem := none
  cycles    : U32 := 0
  passes    : U32 := 0
  abPreempt : Byte := 0
  abUnit    : Byte := 0
  abCtx     : Byte := 0
  abFence   : Byte := 0
  bubbles   : U16 := 0
  holds     : U16 := 0
  stThrottle : U16 := 0
  stDip     : U16 := 0
  desc      : List U32 := []
  /-- The active weights have been loaded for the current invocation (R163). -/
  loaded    : Bool := false
  /-- The pass whose weight block the shadow registers hold (R152). -/
  shadowed  : Option PassItem := none
  /-- The context, layer and grid channel block whose weights the scratchpad holds (R269). -/
  holding   : Option (Nat × Nat × Nat) := none
  /-- Steps of the core's tile not yet handed to its queues. -/
  todo      : List TileStep := []
  /-- The half of the staging buffer in use (R264). -/
  half      : Bool := false
deriving DecidableEq, Repr, Inhabited

/-- What a core's memories hold (R150, R156, R171): `weights` and `shadow` are the 8-bit weight and shadow registers of the cells, row by row, and `acc`
the column accumulators, column 0 first, at their last step. -/
structure CoreMem where
  sp   : Mem := {}
  /-- The requantiser table (R201). -/
  rq   : Mem := {}
  psb0 : Mem := {}
  psb1 : Mem := {}
  weights : List Byte := []
  shadow  : List Byte := []
  acc     : List U32 := []
deriving DecidableEq, Repr, Inhabited

/-- A Millefeuille (R174 to R188). -/
structure Gau where
  inService : Bool := false
  gang      : Nat := 0
  gangAvail : Nat := 2
  clock     : PassClock := {}
  sat       : Bool := false
  nan       : Bool := false
  inf       : Bool := false
  queue     : List GauItem := []
  running   : Option GauItem := none
  cycles    : U32 := 0
  passes    : U32 := 0
  abPreempt : Byte := 0
  abUnit    : Byte := 0
  abCtx     : Byte := 0
  abFence   : Byte := 0
  stThrottle : U16 := 0
  stDip     : U16 := 0
  fenced    : BitVec 17 := 0
  modeChanges : U32 := 0
  tileMap   : Tbl MapEntry := []
  /-- The first pass of the invocation has not run yet (R180). -/
  first     : Bool := true
  /-- The cycles that a mode change still costs before the next pass (R177). -/
  changing  : Nat := 0
  /-- Descriptors that the queue of 4 has no room for yet, in order (R179). -/
  todo      : List GauItem := []
  /-- The 32 × 32 FP32 accumulators of each physical tile, row by row, and its second set of registers, from which the output drains (R174, R180). -/
  accs      : Tbl (List U32) := []
  drain     : Tbl (List U32) := []
deriving DecidableEq, Repr, Inhabited

/-- A core that runs a tile of a work counter. -/
structure Runner where
  tile  : Nat
  slot  : Nat
  /-- ACLK cycles of the descriptors of the tile that have committed, the straggler checks since it started, and ACLK's count at its start. -/
  cycles : Nat := 0
  checks : Nat := 0
  since  : Nat := 0
  copy  : Bool
deriving DecidableEq, Repr

/-- A work counter (R262 to R268). `board` holds 0 UNISSUED, 1 ISSUED, 2 CLAIMED, 3 DONE. -/
structure Wc where
  active   : Bool := false
  fused    : Bool := false
  qlog     : Nat := 0
  layer    : Nat := 0
  units    : Nat := 0
  next     : Nat := 0
  tiles    : Nat := 0
  doneN    : Nat := 0
  reissues : Byte := 0
  dupes    : Byte := 0
  skips    : U16 := 0
  board    : Tbl Nat := []
  requeue  : List Nat := []
  runners  : List Runner := []
  /-- The last 31 tile times, newest first, and the slots whose last FETCH returned EMPTY. -/
  times    : List Nat := []
  emptied  : List Nat := []
  reissued : List Nat := []
deriving DecidableEq, Repr, Inhabited

/-- A region (R26, R27, R262, R320). -/
structure Region where
  slotMap   : Tbl MapEntry := []
  /-- Slot-map writes that take effect at the slot's next tile fetch (R28). -/
  slotNext  : Tbl MapEntry := []
  fenced    : BitVec 18 := 0
  rslots    : Tbl Nat := []
  coresCtx  : Option Nat := none
  gauCtx    : Option Nat := none
  reissues  : U16 := 0
  copyWon   : U16 := 0
  cores     : Tbl Core := []
  gau       : Gau := {}
  wcs       : Tbl Wc := []
  /-- The context being swapped in on the cores and on the Millefeuille. -/
  swapCores : Option Nat := none
  swapGau   : Option Nat := none
  /-- Crust rows on the ring links, by sending slot: the layers and stripes they belong to (R276). -/
  crust     : Tbl (List (Nat × Nat)) := []
  /-- Context resets that wait for ACLK (R170): context, cause, code, layer and tile. -/
  cxrWait   : List (Nat × Nat × U16 × Nat × Nat) := []
deriving DecidableEq, Repr, Inhabited

/-- The vector engines and memories of a region. -/
structure RegionMem where
  vecs  : Tbl Vec := []
  cores : Tbl CoreMem := []
  rb    : Mem := {}
deriving DecidableEq, Repr, Inhabited

/-! ### Dispatcher, sync objects, pools, tracks -/

/-- A released invocation (R286). -/
structure Inv where
  deadline   : Nat
  background : Bool
  /-- Its input pictures, by slot and ARRIVAL. -/
  pics       : List (Nat × Nat)
  /-- The adapter that a Weond-A invocation runs with, from its start to its end (R221). -/
  adapter    : Option AdapterImage := none
deriving DecidableEq, Repr, Inhabited

/-- An execution context (R285 to R294, R319). -/
structure Ctx where
  state      : BitVec 3 := 0
  region     : Nat := 0
  rslot      : Option Nat := none
  cls        : Nat := 0
  overBudget : Bool := false
  gau        : Bool := false
  plan       : Nat := 0
  misses     : U16 := 0
  overrun    : Byte := 0
  running    : Option Inv := none
  queue      : List Inv := []
  wait       : Option U16 := none
  blockedAt  : Nat := 0
  ranAt      : Nat := 0
  slots      : List Nat := []
  tick       : Bool := false
  dctx       : Nat := 0
  /-- The admitted rate in releases per 10¹¹ s, and the bucket in units of 10⁻²⁰ token at `bucketAt`. -/
  rate       : Nat := 0
  bucket     : Nat := 0
  bucketAt   : Nat := 0
  /-- Passes, descriptors and tiles committed: the progress count of R414. -/
  progress   : Nat := 0
  /-- Layers of the running invocation that have completed, the layers started, and the threshold of its input object. -/
  layersDone : List Nat := []
  started    : List Nat := []
  threshold  : Nat := 0
  /-- The pictures of the open batch, by slot and ARRIVAL, and the time of the first (R286). -/
  batch      : List (Nat × Nat) := []
  batchAt    : Nat := 0
deriving DecidableEq, Repr, Inhabited

/-- Work counters saved with a context (R267). -/
structure Saved where
  wcs : Tbl Wc := []
deriving DecidableEq, Repr, Inhabited

/-- The dispatcher (R319). -/
structure Dis where
  inService : Bool := false
  sel       : BitVec 12 := 0
  swaps     : U32 := 0
  cxrs      : U32 := 0
  lastCause : BitVec 4 := 0
  lastCtx   : BitVec 12 := 0
  nCtx      : Nat := 0
  ctxs      : Tbl Ctx := []
  saved     : Tbl Saved := []
  /-- Crop-and-scale jobs that no engine's queue has room for, oldest first (R278). -/
  jobs      : List CseJob := []
  /-- The resident sets recorded at entry to Slumber (R293): region, slot, context. -/
  recorded  : List (Nat × Nat × Nat) := []
  /-- Pictures, by slot and ARRIVAL, of which a Weond-D or Weond-E invocation failed, until the TKE skips them (R300). -/
  failed    : List (Nat × Nat) := []
deriving DecidableEq, Repr, Inhabited

/-- A blocking wait (R304). -/
structure WaitEntry where
  waiter : Waiter
  obj    : U16
  v      : U32
  since  : Nat
deriving DecidableEq, Repr

/-- Sync objects (R302 to R304, R322). -/
structure Syn where
  values : Tbl U32 := []
  waits  : List WaitEntry := []
  ops    : U32 := 0
deriving DecidableEq, Repr, Inhabited

/-- A buffer that is not FREE (R347 to R349). -/
structure Buf where
  owner  : U16 := 0
  freed  : Bool := false
  shares : List U16 := []
deriving DecidableEq, Repr, Inhabited

/-- A pool (R342 to R348). Buffers never used since the reset are taken in ascending index before those that returned. -/
structure Pool where
  use      : Nat := 0
  log2     : Nat := 0
  count    : Nat := 0
  base     : U64 := 0
  fresh    : Nat := 0
  returned : List Nat := []
  low      : Nat := 0
  waits    : U16 := 0
  waiters  : List U16 := []
deriving DecidableEq, Repr, Inhabited

/-- The buffer pool manager (R356). -/
structure Bpm where
  inService : Bool := false
  sel       : BitVec 6 := 0
  npools    : Nat := 0
  pools     : Tbl Pool := []
  bufs      : Tbl Buf := []
  shares    : Nat := 0
  errors    : Tbl U16 := []
  lastReq   : U16 := 0
  lastCode  : U16 := 0
  lastH     : U32 := 0
  /-- The admitted pools, which the MGC holds and a PTR gives back (R353). -/
  layout    : Tbl Pool := []
deriving DecidableEq, Repr, Inhabited

/-- A track context that is not FREE (R306), with the fields of its side buffer (R307). FP32 values are held as bits. -/
structure Track where
  gen       : Nat := 0
  tstate    : Nat := 0
  handoff   : Bool := false
  inBatch   : Bool := false
  obs       : Bool := false
  deferred  : Bool := false
  embValid  : Bool := false
  seqValid  : Bool := false
  slot      : U16 := 0xFFFF
  zone      : Nat := 0
  misses    : Nat := 0
  hits      : U16 := 0
  side      : U32 := 0
  firstSeen : Nat := 0
  lastSeen  : Nat := 0
  obsArr    : Nat := 0
  obsPic    : U32 := 0
  cls       : U16 := 0
  prio      : Nat := 0
  steps     : Nat := 0
  joinTick  : Nat := 0
  krec      : List U32 := []
  /-- The picture time that KREC stands at (R246). -/
  predAt    : Nat := 0
  /-- Its join was deferred, until the leave (R318). -/
  lateJoin  : Bool := false
deriving DecidableEq, Repr, Inhabited

/-- The vectors of a track: embedding and summary as BF16 bits, KV pages. -/
structure TrackVec where
  emb     : List U16 := []
  summary : List U16 := []
  pages   : List U32 := []
  /-- HOST_TAG of the pending observation. -/
  obsTag  : U64 := 0
deriving DecidableEq, Repr, Inhabited

/-- A detection entry with its embedding (R310). -/
structure DetEnt where
  box   : List U32
  score : U32
  cls   : U16
  emb   : List U16
deriving DecidableEq, Repr, Inhabited

/-- A matched pair, and whether the track was DORMANT (R312). -/
structure Match where
  track   : Nat
  det     : DetEnt
  dormant : Bool
deriving DecidableEq, Repr, Inhabited

/-- What one association decided, until its scatter commits (R313). -/
structure AssocResult where
  slot      : Nat
  arrival   : Nat
  picNum    : U32
  concealed : Bool
  matched   : List Match
  /-- Entries that create a track. -/
  created   : List DetEnt
  /-- LIVE tracks of the slot left unmatched. -/
  missed    : List Nat
  /-- Predicted Kalman records. -/
  predicted : List (Nat × List U32)
  /-- Tracks matched at no more than half of GATE, with the entry's embedding, for a CALIBRATE run that collects (R217). -/
  close     : List (Nat × List U16) := []
  /-- HOST_TAG of the picture. -/
  tag       : U64
deriving DecidableEq, Repr

/-- The track engine (R305 to R318, R321). -/
structure Tke where
  inService  : Bool := false
  results    : List AssocResult := []
  assocs     : U32 := 0
  /-- Associations of each pipeline (R414). -/
  byPipe     : Tbl Nat := []
  noContext  : U16 := 0
  overDet    : Byte := 0
  concealed  : Byte := 0
  accepted   : U16 := 0
  rejected   : U16 := 0
  tick       : U32 := 0
  late       : U16 := 0
  deferLast  : U16 := 0
  deferTotal : U16 := 0
  tracks     : Tbl Track := []
  vecs       : Tbl TrackVec := []
  gens       : Tbl Nat := []
  fresh      : Nat := 0
  returned   : List Nat := []
  zones      : Tbl (List Nat) := []
  t0         : Nat := 0
  /-- A tick has started since the engine entered service, so that TICK counts on. -/
  ticked     : Bool := false
  /-- The tick that runs: it ends when its invocations have completed. -/
  running    : Bool := false
  /-- The sequences that each tick context advances in the tick that runs. -/
  stepping   : List (Nat × List Nat) := []
  /-- The events of the tick that runs, posted at its end. -/
  evts       : List EventOut := []
deriving DecidableEq, Repr, Inhabited

/-! ### DRAM -/

/-- A row of the error log (R337). -/
structure RowLog where
  bank  : Nat
  row   : Nat
  /-- Times of correctable errors, newest first. -/
  times : List Nat
deriving DecidableEq, Repr

/-- A request of at most one block (R323), with what the code of each half shows. -/
inductive DramReq where
  | read (a size : Nat) (lo hi : HalfErr)
  | write (a : Nat) (data : List Byte) (poisoned : Bool) (lo hi : HalfErr)
deriving DecidableEq, Repr

/-- A DRAM channel (R323 to R341, R354). -/
structure Chan where
  /-- Requests that an ENR of the channel holds, oldest first (R338). -/
  held        : List DramReq := []
  inService   : Bool := false
  retired     : Bool := false
  trained     : Bool := false
  selfRefresh : Bool := false
  hot         : Bool := false
  panic       : Bool := false
  lasting     : Bool := false
  pprDone     : Byte := 0
  mr4         : Byte := 0
  corrected   : U16 := 0
  uncorrected : Byte := 0
  poisonReads : Byte := 0
  errKind     : BitVec 2 := 0
  errBank     : BitVec 4 := 0
  errRow      : BitVec 17 := 0
  panicCycles : U32 := 0
  scrubPasses : U16 := 0
  scrubMarked : U16 := 0
  /-- The next block of the patrol scrub, by channel-local block number. -/
  scrubPos    : Nat := 0
  standins    : List (Nat × Nat) := []
  log         : List RowLog := []
  /-- Consecutive MR4 reports at or below 85 °C while HOT. -/
  cool        : Nat := 0
  /-- Refreshes postponed for each bank (R331), and the bank's last refresh. -/
  postponed   : Tbl Nat := []
  refreshed   : Tbl Nat := []
deriving DecidableEq, Repr, Inhabited

/-- The training registers of a channel (R339, R354), with the result masks of its runs by step and delay code, newest first. -/
structure Trn where
  busy     : Bool := false
  step     : BitVec 3 := 0
  code     : Byte := 0
  pat      : BitVec 2 := 0
  user     : U64 := 0
  failMask : U16 := 0
  errors   : U16 := 0
  wr       : Tbl Byte := []
  rd       : Tbl Byte := []
  runs     : List (Nat × Nat × U16) := []
deriving DecidableEq, Repr, Inhabited

/-- The DRAM controllers (R354, R355). -/
structure Dmc where
  chans    : Tbl Chan := []
  trn      : Tbl Trn := []
  grain    : Nat := 12
  wmIngest : U16 := 16
  wmDecode : U16 := 8
deriving DecidableEq, Repr, Inhabited

/-- Device DRAM: its bytes by device address, and the 32 B halves that carry the poison mark, by address ÷ 32, rising (R324). -/
structure Dram where
  mem    : Mem := {}
  poison : List Nat := []
deriving DecidableEq, Repr, Inhabited

/-! ### Power, clocks, reliability, dumps -/

/-- The power state of a region (R443 to R450, R454). -/
structure RegPwr where
  nap       : Bool := false
  freq      : Nat := 0
  volt      : Nat := 0
  tj        : Byte := 0
  /-- Reasons why ACLK is stopped. -/
  stopDip   : Bool := false
  stopFast  : Bool := false
  stopDvfs  : Bool := false
  /-- The step that a DVFS change in progress leads to. -/
  target    : Option Nat := none
  /-- The admitted frequency that a re-admission moves the region to, step by step (R35, R446). -/
  goal      : Option Nat := none
  /-- Below f_adm because of power since, and whether the attention of this episode was raised (R447). -/
  lowSince  : Option Nat := none
  lowRaised : Bool := false
  /-- Below its frequency by a thermal throttle. -/
  thermal   : Bool := false
deriving DecidableEq, Repr, Inhabited

/-- A die (R450, R454). -/
structure DiePwr where
  tjMax    : Byte := 0
  tj       : Byte := 0
  throttle : Bool := false
  /-- The episode has raised its attention, at its first throttle step (R450). -/
  raised   : Bool := false
deriving DecidableEq, Repr, Inhabited

/-- Power (R438 to R454). -/
structure Pwr where
  pstate     : PState := .run
  limit      : Nat := 150
  tol        : U32 := 1000
  slack      : U32 := 0xFFFFFFFF
  /-- The 10 µs samples of the last 1 ms, newest first, in mW. -/
  samples    : List Nat := []
  volts      : U16 := 0
  powerSteps : U16 := 0
  fast       : Byte := 0
  thermal    : Byte := 0
  regions    : Tbl RegPwr := []
  dies       : Tbl DiePwr := []
  /-- The device has done nothing since this time (R439). -/
  idleAt     : Nat := 0
  wakeAt     : Option Nat := none
  waking     : Bool := false
  /-- The domains that are on although their units are under a PTR: only the MGC switches domains (R437). -/
  heldOn     : List Nat := []
deriving DecidableEq, Repr, Inhabited

/-- A PLL (R451, R455). -/
structure Pll where
  locked  : Bool := false
  freq    : Nat := 0
  spread  : Nat := 0
  relocks : Byte := 0
deriving DecidableEq, Repr, Inhabited

/-- What RAS keeps of a unit (R399 to R402, R434). -/
structure UnitRas where
  fenced  : Bool := false
  spareIn : Bool := false
  cls     : BitVec 3 := 7
  /-- Per class, the times of the most recent events, newest first. -/
  times   : Tbl (List Nat) := []
  lastAt  : Nat := 0
deriving DecidableEq, Repr, Inhabited

/-- An SRAM row with errors (R403, R404). -/
structure RowRas where
  unit   : U16
  detail : U32
  times  : List Nat
  /-- A row fault, and whether a spare row serves it. -/
  bad    : Bool
  spared : Bool
deriving DecidableEq, Repr

/-- A reset in progress, or whose record waits (R421, R423): its LEVEL as in R378, 0 for a power-up, with 5 for a CXR, which posts no
RESET record. -/
structure ResetRun where
  scope : ResetScope
  level : Nat
  cause : U16
  since : Nat
  epoch : Byte
  count : U32
  /-- It has been taken over by a larger reset, or has completed. -/
  taken : Bool
  ended : Bool
  /-- The units that the context of a CXR occupied (R299). -/
  units : List U16
deriving DecidableEq, Repr

/-- The configuration and unit state of RAS (R399 to R413, R434). -/
structure Ras where
  inService : Bool := false
  lasting   : Byte := 0
  lastCode  : U16 := 0
  thr       : Tbl Nat := []
  win       : Tbl Nat := []
  sel       : U16 := 0
  units     : Tbl UnitRas := []
  rows      : List RowRas := []
  dipTimes  : List Nat := []
  dips      : U16 := 0
  /-- The supply attention waits until the kept dips fall below the threshold (R402). -/
  dipHeld   : Bool := false
  repair    : List RepairEntry := []
  stResult  : BitVec 2 := 0
  stFailed  : Byte := 0
  stMs      : U16 := 0
  ovCxr     : Byte := 0
  ovEnr     : Byte := 0
  ovPtr     : Byte := 0
  nEnr      : U16 := 0
  nPtr      : U16 := 0
  /-- Link lanes that have failed, by link, direction and lane, and groups retired. -/
  lanes     : List (Nat × Bool × Nat) := []
  groups    : List (Nat × Bool × Nat) := []
  fenceWait : List (U16 × Nat × U16) := []
deriving DecidableEq, Repr, Inhabited

/-- A node of the wait-for graph (R414, R434). -/
structure Node where
  kind : Nat
  id   : Nat
deriving DecidableEq, Repr, Inhabited

/-- Treacle (R414 to R417, R434). -/
structure Trc where
  checks  : U32 := 0
  cycles  : U16 := 0
  stalls  : U16 := 0
  kind    : BitVec 4 := 0
  members : Byte := 0
  acted   : U16 := 0
  list    : List Node := []
  /-- The progress counts at the last check: by node; by unit, with the checks that have found it at work and unchanged. -/
  nodes   : List (Node × Nat) := []
  units   : List (U16 × Nat × Nat) := []
  /-- The cycle found at the last check, the members acted on, and the checks since the last action. -/
  lastCyc : List Node := []
  actedOn : List Node := []
  since   : Nat := 0
deriving DecidableEq, Repr, Inhabited

/-- Resets in progress and the RESET records that wait for service (R420 to R424). -/
structure Rst where
  runs : List ResetRun := []
deriving DecidableEq, Repr, Inhabited

/-- A crash dump (R432): its header fields and the register words that are not zero, by BAR0 offset. -/
structure Dump where
  id      : U32
  at_     : U64
  trigger : Byte
  epoch   : Byte
  state   : Byte
  reason  : U32
  /-- Bases of blocks not captured, and of blocks switched off or fenced. -/
  missed  : List Nat
  offBlk  : List Nat
  image   : Tbl U32
deriving DecidableEq, Repr

/-- Glaze and Crumb (R427 to R433, R435). -/
structure Dbg where
  current    : Option Dump := none
  sram       : List Dump := []
  dram       : List Dump := []
  /-- Dumps in the DRAM region as DBG_STATUS counts them: kept over a CHR, which loses the region (R426, R435; log entry 107). -/
  dramDumps  : Nat := 0
  lastId     : U32 := 0
  errClasses : BitVec 5 := 6
  resetEn    : Bool := true
  treacleEn  : Bool := true
  errorEn    : Bool := true
  pinEn      : Bool := true
  merged     : U16 := 0
  lastMissed : U16 := 0
  lastKib    : U16 := 0
  bar4       : U32 := 0
  bar4Off    : U32 := 0
  /-- The snapshot registers of every block, as at the last strobe. -/
  snap       : Tbl U32 := []
deriving DecidableEq, Repr, Inhabited

/-- The whole device, and the commands that wait. -/
structure State where
  pending : List Instr := []
  ep      : Epoch := {}
  aon     : Aon := {}
  wires   : Wires := {}
  jtag    : Jtag := {}
  fuses   : Fuses := {}
  hif     : Hif := {}
  wins    : Wins := {}
  link    : Link := {}
  dev     : Dev := {}
  crt     : Crt := {}
  cal     : Cal := {}
  adm     : Adm := {}
  dec     : Dec := {}
  enc     : Enc := {}
  cse     : Tbl CseEng := []
  rgn     : Tbl Region := []
  rmem    : Tbl RegionMem := []
  dis     : Dis := {}
  syn     : Syn := {}
  bpm     : Bpm := {}
  tke     : Tke := {}
  dmc     : Dmc := {}
  dram    : Dram := {}
  pwr     : Pwr := {}
  clk     : Tbl Pll := []
  ras     : Ras := {}
  trc     : Trc := {}
  rst     : Rst := {}
  dbg     : Dbg := {}
  /-- What the device has sent, newest first. -/
  out     : List Out := []
  /-- The model's own counter of free values (log entry 3): the step reads and advances it. -/
  fresh   : Nat := 0
deriving DecidableEq, Repr

/-- The device before power: both supplies absent, PERST# asserted, no cartridge, every field at its default (log entry 10). -/
def State.reset : State := {}

end Sys2Proof.Machine
end

