-- ==== Sys2Proof/Machine/Tables.lean ====
section
/-! DEFINITION. Sparse tables, memories, little-endian bytes and bit fields: the named operations that every meaning is built from. -/

namespace Sys2Proof.Machine

/-! ### Sparse tables -/

/-- The entry of key `k`, or `d` when no entry is listed. -/
def tget {α : Type} (d : α) : Tbl α → Nat → α
  | [], _ => d
  | (k', v) :: r, k => if k = k' then v else tget d r k

/-- The entry of key `k`, if one is listed. -/
def tfind {α : Type} : Tbl α → Nat → Option α
  | [], _ => none
  | (k', v) :: r, k => if k = k' then some v else tfind r k

/-- The table with `v` at key `k`, keys kept rising. -/
def tput {α : Type} (k : Nat) (v : α) : Tbl α → Tbl α
  | [] => [(k, v)]
  | (k', v') :: r =>
    if k < k' then (k, v) :: (k', v') :: r
    else if k = k' then (k, v) :: r
    else (k', v') :: tput k v r

/-- The table without key `k`. -/
def tdel {α : Type} (k : Nat) : Tbl α → Tbl α
  | [] => []
  | (k', v') :: r => if k = k' then tdel k r else (k', v') :: tdel k r

/-- The table with `v` at key `k`; an entry equal to the default `d` is not listed. -/
def tset {α : Type} [DecidableEq α] (d : α) (t : Tbl α) (k : Nat) (v : α) : Tbl α :=
  if v = d then tdel k t else tput k v t

/-- The table with the entry of key `k` changed by `f`. -/
def tupd {α : Type} [DecidableEq α] (d : α) (t : Tbl α) (k : Nat) (f : α → α) : Tbl α :=
  tset d t k (f (tget d t k))

/-- The keys listed. -/
def tkeys {α : Type} (t : Tbl α) : List Nat := t.map (·.1)

/-! ### Memory -/

/-- What an address that is not listed reads as: a free value of the latest event that left it undefined, else 0 (log entry 3). -/
def background : List FreeRange → Nat → Byte
  | [], _ => 0
  | r :: rs, a => if r.lo ≤ a ∧ a < r.hi then Config.freeByte r.tag a else background rs a

/-- What an unlisted address of `m` reads as. -/
def Mem.background (m : Mem) (a : Nat) : Byte := Machine.background m.free a

/-- The byte at address `a`. -/
def Mem.read (m : Mem) (a : Nat) : Byte :=
  match tfind m.cells a with
  | some b => b
  | none => m.background a

/-- The memory with byte `b` at address `a`. -/
def Mem.write (m : Mem) (a : Nat) (b : Byte) : Mem :=
  if b = m.background a then { m with cells := tdel a m.cells } else { m with cells := tput a b m.cells }

/-- `n` bytes from address `a` upwards. -/
def Mem.readN (m : Mem) (a : Nat) : Nat → List Byte
  | 0 => []
  | n + 1 => m.read a :: m.readN (a + 1) n

/-- The memory with `bs` written from address `a` upwards. -/
def Mem.writeN (m : Mem) (a : Nat) : List Byte → Mem
  | [] => m
  | b :: bs => (m.write a b).writeN (a + 1) bs

/-- The memory after event `tag` left the bytes from `lo` to `hi` − 1 undefined. -/
def Mem.forget (m : Mem) (lo hi tag : Nat) : Mem :=
  { cells := m.cells.filter (fun c => c.1 < lo || hi ≤ c.1)
    free := { lo := lo, hi := hi, tag := tag } :: m.free.filter (fun r => r.lo < lo || hi < r.hi) }

/-- Keys strictly rising. -/
def rising : List Nat → Bool
  | [] => true
  | [_] => true
  | a :: b :: r => decide (a < b) && rising (b :: r)

/-- The canonical form of a memory: addresses strictly rising, and no cell equal to what an unlisted address reads as. -/
def Mem.wf (m : Mem) : Bool :=
  rising (m.cells.map (·.1)) && m.cells.all (fun c => decide (c.2 ≠ m.background c.1))

/-! ### Bytes and bit fields -/

/-- The `n` little-endian bytes of `v` (R10). -/
def le : Nat → Nat → List Byte
  | 0, _ => []
  | n + 1, v => BitVec.ofNat 8 v :: le n (v / 256)

/-- The number that little-endian bytes give. -/
def unle : List Byte → Nat
  | [] => 0
  | b :: bs => b.toNat + 256 * unle bs

/-- `n` zero bytes. -/
def zeros (n : Nat) : List Byte := List.replicate n 0

/-- Bytes `off` to `off + n` − 1 of `bs`, missing bytes as zero. -/
def field (bs : List Byte) (off n : Nat) : Nat := unle ((bs.drop off).take n)

/-- A list padded with zero bytes to length `n`. -/
def padTo (n : Nat) (bs : List Byte) : List Byte := (bs ++ zeros (n - bs.length)).take n

/-- A Bool as a bit. -/
def bit (b : Bool) : Nat := if b then 1 else 0

/-- A 32-bit register word from fields: each a bit position and a value. -/
def word (fs : List (Nat × Nat)) : U32 := BitVec.ofNat 32 (fs.foldl (fun a f => a + f.2 * 2 ^ f.1) 0)

/-- Bits `hi` to `lo` of `v`. -/
def bits (v : Nat) (hi lo : Nat) : Nat := v / 2 ^ lo % 2 ^ (hi + 1 - lo)

/-- `v` capped at the largest value of `w` bits. -/
def satN (w v : Nat) : Nat := min v (2 ^ w - 1)

/-- A saturating count plus `n`. -/
def satAdd {w : Nat} (v : BitVec w) (n : Nat) : BitVec w := BitVec.ofNat w (satN w (v.toNat + n))

/-- The list with `v` at position `i`, where there is one. -/
def setAt {α : Type} : List α → Nat → α → List α
  | [], _, _ => []
  | _ :: r, 0, v => v :: r
  | x :: r, i + 1, v => x :: setAt r i v

/-- Insertion of a number into a rising list without repeats. -/
def insertN (k : Nat) : List Nat → List Nat
  | [] => [k]
  | a :: r => if k < a then k :: a :: r else if k = a then a :: r else a :: insertN k r

/-- The numbers from `lo` on, `n` of them. -/
def range (lo : Nat) : Nat → List Nat
  | 0 => []
  | n + 1 => lo :: range (lo + 1) n

/-- The least element by a strict order, the first of equals. -/
def leastBy {α : Type} (lt : α → α → Bool) : List α → Option α
  | [] => none
  | x :: r =>
    match leastBy lt r with
    | none => some x
    | some y => if lt y x then some y else some x

/-- A list sorted by `lt`, stable. -/
def sortBy {α : Type} (lt : α → α → Bool) : List α → List α
  | [] => []
  | x :: r =>
    let r' := sortBy lt r
    -- `x` stands before its equals of `r`
    let rec go : List α → List α
      | [] => [x]
      | y :: q => if lt y x then y :: go q else x :: y :: q
    go r'

/-- Ceiling division. -/
def cdiv (a b : Nat) : Nat := (a + b - 1) / b

/-- CRC-32C of one byte into the running register. -/
def crcByte (c : U32) (b : Byte) : U32 :=
  (List.range 8).foldl (fun x _ => if x.getLsbD 0 then (x >>> 1) ^^^ 0x82F63B78 else x >>> 1) (c ^^^ b.setWidth 32)

/-- CRC-32C of a list of bytes. -/
def crc32c (bs : List Byte) : U32 := ~~~ (bs.foldl crcByte 0xFFFFFFFF)

end Sys2Proof.Machine
end

