-- ==== Sys2Proof/Decode.lean ====
section
/-! DEFINITION. What the device reads from bytes: the 64 bytes of a command ring entry (R368, R372), and the command that a word spells. The spec gives the rows
of its opcode table no bits, so that no word spells one. -/

namespace Sys2Proof

open Sys2Proof.Machine

/-- A command ring entry taken apart: TAG, the two zero fields and ARGS (R368). -/
def cmdOf (b : List Byte) : Cmd :=
  { tag := BitVec.ofNat 16 (field b 2 2), zero1 := BitVec.ofNat 8 (field b 1 1), zero4 := BitVec.ofNat 32 (field b 4 4), args := (b.drop 8).take 56 }

/-- The bytes of a command ring entry with an OPCODE. -/
def entryOf (op : Byte) (c : Cmd) : List Byte := [op] ++ le 1 c.zero1.toNat ++ le 2 c.tag.toNat ++ le 4 c.zero4.toNat ++ padTo 56 c.args

/-- The QUERY of a SUBOP (R374). One that names none is refused by whatever row takes it. -/
def queryOf (sub : Nat) (c : Cmd) : Instr :=
  match sub with
  | 1 => .queryAttention c
  | 2 => .queryRefusal c
  | 3 => .querySlot c
  | 4 => .queryTime c
  | 5 => .queryAdmission c
  | _ => .queryDevice c

/-- The CART_WRITE of an operation code (R61), in the same way. -/
def cartWriteOf (code : Nat) (c : Cmd) : Instr :=
  match code with
  | 2 => .discardAdapter c
  | 3 => .prepareRemoval c
  | _ => .flush c

/-- The command that the 64 bytes of a command ring entry hold, by OPCODE (R368, R372, R373). -/
def commandOf (b : List Byte) : Instr :=
  let op := field b 0 1
  let c := cmdOf b
  match op with
  | 0x01 => queryOf (field c.args 0 1) c
  | 0x02 => .streamOpen c
  | 0x03 => .streamClose c
  | 0x04 => .clipStart c
  | 0x05 => .clipStop c
  | 0x06 => .keyPicture c
  | 0x07 => .snapshot c
  | 0x08 => .dumpRead c
  | 0x09 => .setLatTol c
  | 0x0A => .resetReq c
  | 0x0B => .releaseFreeze c
  | 0x0C => .calibrate c
  | 0x0D => cartWriteOf (field c.args 0 1) c
  | _ => .unknownOpcode (BitVec.ofNat 8 op) c

/-- The command that an instruction of `nbits` bits `w` spells: none, as no row of the table has bits. -/
def decodeTableWord (_nbits _w : Nat) : Option Instr := none

end Sys2Proof
end

