-- ==== Sys2Proof/Machine/Crypto.lean ====
section
/-! DEFINITION. The checks that a cartridge rests on: SHA-384 and ECDSA over P-384 for the header (R50, R51). The algorithms are those
of their own standards, which the spec names (log entry 8). -/

namespace Sys2Proof.Machine

/-- An unsigned number from its bytes, the first the most significant. -/
def unbe (bs : List Byte) : Nat := bs.foldl (fun a b => 256 * a + b.toNat) 0

/-- The `n` bytes of a number, the most significant first. -/
def be (n v : Nat) : List Byte := (le n v).reverse

/-! ### SHA-384 -/

/-- The round constants of SHA-384, in two halves. -/
def shaConstsA : List Nat :=
  [0x428A2F98D728AE22, 0x7137449123EF65CD, 0xB5C0FBCFEC4D3B2F, 0xE9B5DBA58189DBBC,
   0x3956C25BF348B538, 0x59F111F1B605D019, 0x923F82A4AF194F9B, 0xAB1C5ED5DA6D8118,
   0xD807AA98A3030242, 0x12835B0145706FBE, 0x243185BE4EE4B28C, 0x550C7DC3D5FFB4E2,
   0x72BE5D74F27B896F, 0x80DEB1FE3B1696B1, 0x9BDC06A725C71235, 0xC19BF174CF692694,
   0xE49B69C19EF14AD2, 0xEFBE4786384F25E3, 0x0FC19DC68B8CD5B5, 0x240CA1CC77AC9C65,
   0x2DE92C6F592B0275, 0x4A7484AA6EA6E483, 0x5CB0A9DCBD41FBD4, 0x76F988DA831153B5,
   0x983E5152EE66DFAB, 0xA831C66D2DB43210, 0xB00327C898FB213F, 0xBF597FC7BEEF0EE4,
   0xC6E00BF33DA88FC2, 0xD5A79147930AA725, 0x06CA6351E003826F, 0x142929670A0E6E70,
   0x27B70A8546D22FFC, 0x2E1B21385C26C926, 0x4D2C6DFC5AC42AED, 0x53380D139D95B3DF,
   0x650A73548BAF63DE, 0x766A0ABB3C77B2A8, 0x81C2C92E47EDAEE6, 0x92722C851482353B]
def shaConstsB : List Nat :=
  [0xA2BFE8A14CF10364, 0xA81A664BBC423001, 0xC24B8B70D0F89791, 0xC76C51A30654BE30,
   0xD192E819D6EF5218, 0xD69906245565A910, 0xF40E35855771202A, 0x106AA07032BBD1B8,
   0x19A4C116B8D2D0C8, 0x1E376C085141AB53, 0x2748774CDF8EEB99, 0x34B0BCB5E19B48A8,
   0x391C0CB3C5C95A63, 0x4ED8AA4AE3418ACB, 0x5B9CCA4F7763E373, 0x682E6FF3D6B2B8A3,
   0x748F82EE5DEFB2FC, 0x78A5636F43172F60, 0x84C87814A1F0AB72, 0x8CC702081A6439EC,
   0x90BEFFFA23631E28, 0xA4506CEBDE82BDE9, 0xBEF9A3F7B2C67915, 0xC67178F2E372532B,
   0xCA273ECEEA26619C, 0xD186B8C721C0C207, 0xEADA7DD6CDE0EB1E, 0xF57D4F7FEE6ED178,
   0x06F067AA72176FBA, 0x0A637DC5A2C898A6, 0x113F9804BEF90DAE, 0x1B710B35131C471B,
   0x28DB77F523047D84, 0x32CAAB7B40C72493, 0x3C9EBE0A15C9BEBC, 0x431D67C49C100D4C,
   0x4CC5D4BECB3E42B6, 0x597F299CFC657E2A, 0x5FCB6FAB3AD6FAEC, 0x6C44198C4A475817]

/-- The initial hash value of SHA-384. -/
def shaInit : List Nat :=
  [0xCBBB9D5DC1059ED8, 0x629A292A367CD507, 0x9159015A3070DD17, 0x152FECD8F70E5939,
   0x67332667FFC00B31, 0x8EB44A8768581511, 0xDB0C2E0D64F98FA7, 0x47B5481DBEFA4FA4]

/-- 64-bit rotation to the right. -/
def rotr64 (x n : Nat) : Nat := x / 2 ^ n + x % 2 ^ n * 2 ^ (64 - n)

/-- The message schedule, newest word first: 64 more words. -/
def shaExtend : Nat → List Nat → List Nat
  | 0, w => w
  | k + 1, w =>
    let a := w.getD 1 0
    let b := w.getD 14 0
    let s1 := Nat.xor (Nat.xor (rotr64 a 19) (rotr64 a 61)) (a / 64)
    let s0 := Nat.xor (Nat.xor (rotr64 b 1) (rotr64 b 8)) (b / 128)
    shaExtend k ((s1 + w.getD 6 0 + s0 + w.getD 15 0) % 2 ^ 64 :: w)

/-- One round. -/
def shaRound (h : List Nat) (wk : Nat) : List Nat :=
  match h with
  | [a, b, c, d, e, f, g, x] =>
    let s1 := Nat.xor (Nat.xor (rotr64 e 14) (rotr64 e 18)) (rotr64 e 41)
    let ch := Nat.xor (Nat.land e f) (Nat.land (2 ^ 64 - 1 - e) g)
    let t1 := x + s1 + ch + wk
    let s0 := Nat.xor (Nat.xor (rotr64 a 28) (rotr64 a 34)) (rotr64 a 39)
    let maj := Nat.xor (Nat.xor (Nat.land a b) (Nat.land a c)) (Nat.land b c)
    [(t1 + s0 + maj) % 2 ^ 64, a, b, c, (d + t1) % 2 ^ 64, e, f, g]
  | _ => h

/-- One block of 16 words. -/
def shaBlock (h : List Nat) (w : List Nat) : List Nat :=
  let ws := (shaExtend 64 w.reverse).reverse
  let r := ((ws.zip (shaConstsA ++ shaConstsB)).foldl (fun h p => shaRound h (p.1 + p.2)) h)
  (h.zip r).map fun p => (p.1 + p.2) % 2 ^ 64

/-- The blocks of a padded message, 128 bytes each. -/
def shaBlocks : Nat → List Byte → List Nat → List Nat
  | 0, _, h => h
  | k + 1, m, h => shaBlocks k (m.drop 128) (shaBlock h ((List.range 16).map fun i => unbe ((m.drop (8 * i)).take 8)))

/-- SHA-384 of a message. -/
def sha384 (m : List Byte) : List Byte :=
  let p := m ++ [0x80]
  let n := cdiv (p.length + 16) 128
  let full := p ++ zeros (128 * n - p.length - 16) ++ be 16 (8 * m.length)
  ((shaBlocks n full shaInit).take 6).flatMap (be 8)

/-! ### ECDSA over P-384 -/

/-- The prime, the coefficient b, the order of the base point, and the base point of P-384; a is -3. -/
def p384P : Nat := 2 ^ 384 - 2 ^ 128 - 2 ^ 96 + 2 ^ 32 - 1
def p384B : Nat := 0xB3312FA7E23EE7E4988E056BE3F82D19181D9C6EFE8141120314088F5013875AC656398D8A2ED19D2A85C8EDD3EC2AEF
def p384N : Nat := 0xFFFFFFFFFFFFFFFFFFFFFFFFFFFFFFFFFFFFFFFFFFFFFFFFC7634D81F4372DDF581A0DB248B0A77AECEC196ACCC52973
def p384X : Nat := 0xAA87CA22BE8B05378EB1C71EF320AD746E1D3B628BA79B9859F741E082542A385502F25DBF55296C3A545E3872760AB7
def p384Y : Nat := 0x3617DE4A96262C6F5D9E98BF9292DC29F8F41DBD289A147CE9DA3113B5F0B8C00A60B1CE1D7E819D7A431D7C90EA0E5F

/-- A point in Jacobian coordinates; z = 0 is the point at infinity. -/
structure EcPoint where
  x : Nat
  y : Nat
  z : Nat
deriving DecidableEq, Repr

/-- Difference in the field. -/
def fieldSub (a b : Nat) : Nat := (a + p384P - b % p384P) % p384P

/-- Twice a point. -/
def EcPoint.dbl (q : EcPoint) : EcPoint :=
  let d := q.z * q.z % p384P
  let g := q.y * q.y % p384P
  let b := q.x * g % p384P
  let a := 3 * (fieldSub q.x d * (q.x + d) % p384P) % p384P
  let x := fieldSub (a * a % p384P) (8 * b)
  let y := fieldSub (a * fieldSub (4 * b % p384P) x % p384P) (8 * (g * g % p384P))
  { x := x, y := y, z := 2 * q.y * q.z % p384P }

/-- The sum of two points. -/
def EcPoint.add (p q : EcPoint) : EcPoint :=
  if p.z = 0 then q
  else if q.z = 0 then p
  else
    let zp := p.z * p.z % p384P
    let zq := q.z * q.z % p384P
    let u1 := p.x * zq % p384P
    let u2 := q.x * zp % p384P
    let s1 := p.y * (zq * q.z % p384P) % p384P
    let s2 := q.y * (zp * p.z % p384P) % p384P
    let h := fieldSub u2 u1
    let r := fieldSub s2 s1
    if h = 0 then (if r = 0 then p.dbl else { x := 1, y := 1, z := 0 })
    else
      let hh := h * h % p384P
      let hhh := h * hh % p384P
      let v := u1 * hh % p384P
      let x := fieldSub (r * r % p384P) (hhh + 2 * v)
      { x := x, y := fieldSub (r * fieldSub v x % p384P) (s1 * hhh % p384P), z := h * (p.z * q.z % p384P) % p384P }

/-- u·P + v·Q, over the bits below `n` of both, the highest first. -/
def ecSum (p q pq : EcPoint) (u v : Nat) : Nat → EcPoint → EcPoint
  | 0, r => r
  | k + 1, r =>
    let d := r.dbl
    ecSum p q pq u v k (match u.testBit k, v.testBit k with
      | true, true => d.add pq
      | true, false => d.add p
      | false, true => d.add q
      | false, false => d)

/-- A power of a number, over the bits below `n` of the exponent. -/
def powMod (m b e : Nat) : Nat → Nat → Nat
  | 0, r => r
  | k + 1, r => powMod m b e k (let q := r * r % m; if e.testBit k then q * b % m else q)

/-- A 96-byte key or signature as its two numbers, each of 48 bytes with the most significant first. -/
def pair384 (v : BitVec 768) : Nat × Nat := let b := le 96 v.toNat; (unbe (b.take 48), unbe (b.drop 48))

/-- A signature (r, s) over a message verifies under a public key (x, y). -/
def ecdsaOk (key sig : BitVec 768) (msg : List Byte) : Bool :=
  let (x, y) := pair384 key
  let (r, s) := pair384 sig
  let onCurve := decide (x < p384P ∧ y < p384P) && (y * y % p384P == (x * x % p384P * x + (p384P - 3) * x + p384B) % p384P)
  if !onCurve || r = 0 || s = 0 || p384N ≤ r || p384N ≤ s then false
  else
    let w := powMod p384N s (p384N - 2) 384 1
    let e := unbe (sha384 msg)
    let g : EcPoint := { x := p384X, y := p384Y, z := 1 }
    let q : EcPoint := { x := x, y := y, z := 1 }
    let t := ecSum g q (g.add q) (e * w % p384N) (r * w % p384N) 384 { x := 1, y := 1, z := 0 }
    -- the x coordinate is x ÷ z², and r names it modulo the order
    t.z != 0 && [r, r + p384N].any fun c => decide (c < p384P) && c * (t.z * t.z % p384P) % p384P == t.x

end Sys2Proof.Machine
end

