-- ==== Sys2Proof/Machine/Upd.lean ====
section
/-! DEFINITION. One update function per part of the state; every operation of the model changes the state only through these. -/

namespace Sys2Proof.Machine

/-- The state with `pending` changed by `g`. -/
def State.updPending (g : List Instr → List Instr) (s : State) : State :=
  { s with pending := g s.pending }

/-- The state with `ep` changed by `g`. -/
def State.updEp (g : Epoch → Epoch) (s : State) : State :=
  { s with ep := g s.ep }

/-- The state with `aon` changed by `g`. -/
def State.updAon (g : Aon → Aon) (s : State) : State :=
  { s with aon := g s.aon }

/-- The state with `wires` changed by `g`. -/
def State.updWires (g : Wires → Wires) (s : State) : State :=
  { s with wires := g s.wires }

/-- The state with `jtag` changed by `g`. -/
def State.updJtag (g : Jtag → Jtag) (s : State) : State :=
  { s with jtag := g s.jtag }

/-- The state with `fuses` changed by `g`. -/
def State.updFuses (g : Fuses → Fuses) (s : State) : State :=
  { s with fuses := g s.fuses }

/-- The state with `hif` changed by `g`. -/
def State.updHif (g : Hif → Hif) (s : State) : State :=
  { s with hif := g s.hif }

/-- The state with `wins` changed by `g`. -/
def State.updWins (g : Wins → Wins) (s : State) : State :=
  { s with wins := g s.wins }

/-- The state with `link` changed by `g`. -/
def State.updLink (g : Link → Link) (s : State) : State :=
  { s with link := g s.link }

/-- The state with `dev` changed by `g`. -/
def State.updDev (g : Dev → Dev) (s : State) : State :=
  { s with dev := g s.dev }

/-- The state with `crt` changed by `g`. -/
def State.updCrt (g : Crt → Crt) (s : State) : State :=
  { s with crt := g s.crt }

/-- The state with `cal` changed by `g`. -/
def State.updCal (g : Cal → Cal) (s : State) : State :=
  { s with cal := g s.cal }

/-- The state with `adm` changed by `g`. -/
def State.updAdm (g : Adm → Adm) (s : State) : State :=
  { s with adm := g s.adm }

/-- The state with `dec` changed by `g`. -/
def State.updDec (g : Dec → Dec) (s : State) : State :=
  { s with dec := g s.dec }

/-- The state with `enc` changed by `g`. -/
def State.updEnc (g : Enc → Enc) (s : State) : State :=
  { s with enc := g s.enc }

/-- The state with `cse` changed by `g`. -/
def State.updCse (g : Tbl CseEng → Tbl CseEng) (s : State) : State :=
  { s with cse := g s.cse }

/-- The state with `rgn` changed by `g`. -/
def State.updRgn (g : Tbl Region → Tbl Region) (s : State) : State :=
  { s with rgn := g s.rgn }

/-- The state with `rmem` changed by `g`. -/
def State.updRmem (g : Tbl RegionMem → Tbl RegionMem) (s : State) : State :=
  { s with rmem := g s.rmem }

/-- The state with `dis` changed by `g`. -/
def State.updDis (g : Dis → Dis) (s : State) : State :=
  { s with dis := g s.dis }

/-- The state with `syn` changed by `g`. -/
def State.updSyn (g : Syn → Syn) (s : State) : State :=
  { s with syn := g s.syn }

/-- The state with `bpm` changed by `g`. -/
def State.updBpm (g : Bpm → Bpm) (s : State) : State :=
  { s with bpm := g s.bpm }

/-- The state with `tke` changed by `g`. -/
def State.updTke (g : Tke → Tke) (s : State) : State :=
  { s with tke := g s.tke }

/-- The state with `dmc` changed by `g`. -/
def State.updDmc (g : Dmc → Dmc) (s : State) : State :=
  { s with dmc := g s.dmc }

/-- The state with `dram` changed by `g`. -/
def State.updDram (g : Dram → Dram) (s : State) : State :=
  { s with dram := g s.dram }

/-- The state with `pwr` changed by `g`. -/
def State.updPwr (g : Pwr → Pwr) (s : State) : State :=
  { s with pwr := g s.pwr }

/-- The state with `clk` changed by `g`. -/
def State.updClk (g : Tbl Pll → Tbl Pll) (s : State) : State :=
  { s with clk := g s.clk }

/-- The state with `ras` changed by `g`. -/
def State.updRas (g : Ras → Ras) (s : State) : State :=
  { s with ras := g s.ras }

/-- The state with `trc` changed by `g`. -/
def State.updTrc (g : Trc → Trc) (s : State) : State :=
  { s with trc := g s.trc }

/-- The state with `rst` changed by `g`. -/
def State.updRst (g : Rst → Rst) (s : State) : State :=
  { s with rst := g s.rst }

/-- The state with `dbg` changed by `g`. -/
def State.updDbg (g : Dbg → Dbg) (s : State) : State :=
  { s with dbg := g s.dbg }

/-- The state with `out` changed by `g`. -/
def State.updOut (g : List Out → List Out) (s : State) : State :=
  { s with out := g s.out }

/-- The state with `fresh` changed by `g`. -/
def State.updFresh (g : Nat → Nat) (s : State) : State :=
  { s with fresh := g s.fresh }

end Sys2Proof.Machine
end

