-- ==== Sys2Proof/Machine/Ops.lean ====
section
/-! DEFINITION. The shared operations: device time, free values, the Recipe's settings, records, attention, replies, MSI-X, device DRAM and
its poison marks. -/

namespace Sys2Proof.Machine

/-! ### Codes (R75, R76, R121, R350, R375, R425) -/

def stOk : U16 := 0x0000
def stBadOpcode : U16 := 0x0001
def stBadArg : U16 := 0x0002
def stState : U16 := 0x0004
def stCmdLost : U16 := 0x0005
def stFrozen : U16 := 0x0006
def stRing : U16 := 0x0007
def rasStall : U16 := 0x0503
def rasWaitCycle : U16 := 0x0504
def rasResetOverrun : U16 := 0x0509
def rasSramExhausted : U16 := 0x050D

/-! ### Device time (R387, R453) -/

/-- Device time in ns. -/
def State.now (s : State) : Nat := s.aon.time.toNat

/-- `ps` of resonator time pass: a lead is slewed away 1,000 ppm slower, a lag 1,000 ppm faster. -/
def Aon.pass (ps : Nat) (a : Aon) : Aon :=
  let step : Int := (ps / 1000 : Nat)
  let corr : Int := if a.offsetPs > 0 then min a.offsetPs step else if a.offsetPs < 0 then max a.offsetPs (-step) else 0
  let adv := (Int.ofNat ps - corr).toNat + a.fracPs
  { a with time := a.time + BitVec.ofNat 64 (adv / 1000), fracPs := adv % 1000, offsetPs := a.offsetPs - corr }

/-- Device time moves on to `t` when it lies before it: a timer's command stands for the moment at which the timer is due
(log entry 11). -/
def Aon.until (t : Nat) (a : Aon) : Aon :=
  if t ≤ a.time.toNat then a
  else
    let ps := (t - a.time.toNat) * 1000
    let off := if a.offsetPs > 0 then max 0 (a.offsetPs - Int.ofNat (ps / 999))
      else if a.offsetPs < 0 then min 0 (a.offsetPs + Int.ofNat (ps / 1001)) else 0
    { a with time := BitVec.ofNat 64 t, fracPs := 0, offsetPs := off }

/-- The next free value's number, and the state that has used it up. -/
def State.tag (s : State) : Nat := s.fresh + 1

/-- The state with the free counter advanced. -/
def State.burn (s : State) : State := s.updFresh (· + 1)

/-! ### The Recipe in force -/

/-- The value of a device setting, or its default (R55). -/
def State.setting (s : State) (key dflt : Nat) : Nat :=
  match s.crt.recipe with
  | none => dflt
  | some r =>
    match r.settings.find? (fun e => e.key.toNat == key) with
    | some e => e.value.toNat
    | none => dflt

/-- The stream-slot table entry of a slot (R56). -/
def State.entry (s : State) (n : Nat) : Option SlotEntry :=
  match s.crt.recipe with
  | none => none
  | some r => r.slots.find? (fun e => e.slot.toNat == n)

/-- The plans of the Recipe in force. -/
def State.plans (s : State) : List Plan :=
  match s.crt.recipe with
  | none => []
  | some r => r.plans

/-- The plan of a number. -/
def State.plan (s : State) (n : Nat) : Option Plan := s.plans.find? (fun p => p.plan.toNat == n)

/-- The EVENT plan (R252). -/
def State.eventPlan (s : State) : Option Plan := s.plans.find? (fun p => p.kind == 1)

/-- The tracker block (R308). -/
def State.tracker (s : State) : Option TrackerBlock := s.eventPlan.bind (·.tracker)

/-- A flag of SLOT_FLAGS. -/
def slotFlag (e : SlotEntry) (i : Nat) : Bool := e.flags.getLsbD i

/-- RESERVE, which OPEN_AT_START implies (R56). -/
def isReserve (e : SlotEntry) : Bool := slotFlag e 0 || slotFlag e 1

/-- The slot's deadline in ms (R56). -/
def State.deadlineMs (s : State) (e : SlotEntry) : Nat :=
  if e.deadline = 0 then s.setting 4 200 else e.deadline.toNat

/-! ### Accessors of tables -/

def State.slot (s : State) (n : Nat) : Slot := tget {} s.dec.slots n
def State.sdec (s : State) (n : Nat) : SlotDec := tget {} s.dec.decs n
def State.deng (s : State) (e : Nat) : DecEng := tget {} s.dec.engs e
def State.sess (s : State) (n : Nat) : Sess := tget {} s.enc.sess n
def State.prog (s : State) (n : Nat) : SessEnc := tget {} s.enc.prog n
def State.eeng (s : State) (e : Nat) : EncEng := tget {} s.enc.engs e
def State.cseEng (s : State) (e : Nat) : CseEng := tget {} s.cse e
def State.region (s : State) (r : Nat) : Region := tget {} s.rgn r
def State.regMem (s : State) (r : Nat) : RegionMem := tget {} s.rmem r
def State.core (s : State) (r c : Nat) : Core := tget {} (s.region r).cores c
def State.vec (s : State) (r c : Nat) : Vec := tget {} (s.regMem r).vecs c
def State.coreMem (s : State) (r c : Nat) : CoreMem := tget {} (s.regMem r).cores c
def State.wc (s : State) (r n : Nat) : Wc := tget {} (s.region r).wcs n
def State.ctx (s : State) (c : Nat) : Ctx := tget {} s.dis.ctxs c
def State.pool (s : State) (p : Nat) : Pool := tget {} s.bpm.pools p
def State.buf (s : State) (h : U32) : Option Buf := tfind s.bpm.bufs h.toNat
def State.track (s : State) (i : Nat) : Track := tget {} s.tke.tracks i
def State.tvec (s : State) (i : Nat) : TrackVec := tget {} s.tke.vecs i
def State.chan (s : State) (k : Nat) : Chan := tget {} s.dmc.chans k
def State.regPwr (s : State) (r : Nat) : RegPwr := tget {} s.pwr.regions r
def State.unitRas (s : State) (u : Nat) : UnitRas := tget {} s.ras.units u
def State.mdRing (s : State) (n : Nat) : MdRing := tget {} s.hif.md n

def State.updSlot (n : Nat) (f : Slot → Slot) (s : State) : State := s.updDec fun d => { d with slots := tupd {} d.slots n f }
def State.updSdec (n : Nat) (f : SlotDec → SlotDec) (s : State) : State := s.updDec fun d => { d with decs := tupd {} d.decs n f }
def State.updDeng (e : Nat) (f : DecEng → DecEng) (s : State) : State := s.updDec fun d => { d with engs := tupd {} d.engs e f }
def State.updSess (n : Nat) (f : Sess → Sess) (s : State) : State := s.updEnc fun d => { d with sess := tupd {} d.sess n f }
def State.updProg (n : Nat) (f : SessEnc → SessEnc) (s : State) : State := s.updEnc fun d => { d with prog := tupd {} d.prog n f }
def State.updEeng (e : Nat) (f : EncEng → EncEng) (s : State) : State := s.updEnc fun d => { d with engs := tupd {} d.engs e f }
def State.updCseEng (e : Nat) (f : CseEng → CseEng) (s : State) : State := s.updCse fun t => tupd {} t e f
def State.updRegion (r : Nat) (f : Region → Region) (s : State) : State := s.updRgn fun t => tupd {} t r f
def State.updRegMem (r : Nat) (f : RegionMem → RegionMem) (s : State) : State := s.updRmem fun t => tupd {} t r f
def State.updCore (r c : Nat) (f : Core → Core) (s : State) : State :=
  s.updRegion r fun g => { g with cores := tupd {} g.cores c f }
def State.updGau (r : Nat) (f : Gau → Gau) (s : State) : State := s.updRegion r fun g => { g with gau := f g.gau }
def State.updWc (r n : Nat) (f : Wc → Wc) (s : State) : State := s.updRegion r fun g => { g with wcs := tupd {} g.wcs n f }
def State.updVec (r c : Nat) (f : Vec → Vec) (s : State) : State :=
  s.updRegMem r fun g => { g with vecs := tupd {} g.vecs c f }
def State.updCoreMem (r c : Nat) (f : CoreMem → CoreMem) (s : State) : State :=
  s.updRegMem r fun g => { g with cores := tupd {} g.cores c f }
def State.updRb (r : Nat) (f : Mem → Mem) (s : State) : State := s.updRegMem r fun g => { g with rb := f g.rb }
def State.updCtx (c : Nat) (f : Ctx → Ctx) (s : State) : State := s.updDis fun d => { d with ctxs := tupd {} d.ctxs c f }
def State.updPool (p : Nat) (f : Pool → Pool) (s : State) : State := s.updBpm fun b => { b with pools := tupd {} b.pools p f }
def State.updTrack (i : Nat) (f : Track → Track) (s : State) : State := s.updTke fun k => { k with tracks := tupd {} k.tracks i f }
def State.updTvec (i : Nat) (f : TrackVec → TrackVec) (s : State) : State := s.updTke fun k => { k with vecs := tupd {} k.vecs i f }
def State.updChan (k : Nat) (f : Chan → Chan) (s : State) : State := s.updDmc fun d => { d with chans := tupd {} d.chans k f }
def State.updTrn (k : Nat) (f : Trn → Trn) (s : State) : State := s.updDmc fun d => { d with trn := tupd {} d.trn k f }
def State.updRegPwr (r : Nat) (f : RegPwr → RegPwr) (s : State) : State := s.updPwr fun p => { p with regions := tupd {} p.regions r f }
def State.updUnit (u : Nat) (f : UnitRas → UnitRas) (s : State) : State := s.updRas fun p => { p with units := tupd {} p.units u f }
def State.updMd (n : Nat) (f : MdRing → MdRing) (s : State) : State := s.updHif fun h => { h with md := tupd {} h.md n f }

/-! ### ACLK (R168, R169, R449) -/

/-- ACLK of a region is stopped (R168, R449). -/
def State.aclkStopped (s : State) (r : Nat) : Bool :=
  let p := s.regPwr r
  p.stopDip || p.stopFast || p.stopDvfs || p.nap || s.aon.tripped || s.pwr.pstate != .run || s.dev.state == .parked

/-- ACLK's count in a region, in hundredths of a cycle. -/
def State.aclk (s : State) (r : Nat) : Nat := tget 0 s.aon.aclk r

/-- `ns` of device time pass on every ACLK that runs: a frequency in 10 MHz units is as many hundredths of a cycle in each ns. -/
def State.runClocks (ns : Nat) (s : State) : State :=
  let t := (List.range 8).foldl (fun t r => if s.aclkStopped r then t else tupd 0 t r (· + ns * (s.regPwr r).freq)) s.aon.aclk
  s.updAon fun a => { a with aclk := t }

/-- Time moves on to `t`. -/
def State.waitUntil (t : Nat) (s : State) : State := (s.runClocks (t - s.now)).updAon (Aon.until t)

/-- One cycle of the 50 MHz resonator passes while the always-on supply is there: what a step does on an empty queue (R453, R459; log entry 2). -/
def State.idle (s : State) : State := if s.wires.vaux3 then (s.runClocks 20).updAon (Aon.pass 20000) else s

/-- A pass of `total` cycles begins: `exposed` cycles of load come before its first feed, and the end of an abort before those (R163, R167). -/
def PassClock.start (now exposed total : Nat) (c : PassClock) : PassClock :=
  { c with startAt := max now c.abortEnd + 100 * exposed, total := total, asked := [] }

/-- A pass is aborted, which takes 24 cycles (R167). -/
def PassClock.abort (now : Nat) (c : PassClock) : PassClock := { c with abortEnd := now + 2400, asked := [] }

/-- Cycles elapsed in the pass. -/
def PassClock.elapsed (now : Nat) (c : PassClock) : Nat := min c.total ((now - c.startAt) / 100)

/-- An abort is under way. -/
def PassClock.aborting (now : Nat) (c : PassClock) : Bool := decide (now < c.abortEnd)

/-- The remaining time of a pass is above 40 µs: its remaining cycles at the frequency that the region runs at, or that it resumes at (R168, R169). -/
def State.longLeft (s : State) (r : Nat) (c : PassClock) : Bool :=
  let p := s.regPwr r
  decide (40000 * p.target.getD p.freq < 100 * (c.total - c.elapsed (s.aclk r)))

/-- A pass that a clock stop finds is counted as stopped (R168, R184, R187). -/
def Core.stop (dip : Bool) (x : Core) : Core :=
  if x.running.isNone then x else if dip then { x with stDip := satAdd x.stDip 1 } else { x with stThrottle := satAdd x.stThrottle 1 }

@[inherit_doc Core.stop]
def Gau.stop (dip : Bool) (x : Gau) : Gau :=
  if x.running.isNone then x else if dip then { x with stDip := satAdd x.stDip 1 } else { x with stThrottle := satAdd x.stThrottle 1 }

/-- ACLK of a region stops for a supply dip, or for a throttle or DVFS step: each pass that it stops is counted once, and none where it stood still already. -/
def State.stopAclk (r : Nat) (dip : Bool) (f : RegPwr → RegPwr) (s : State) : State :=
  let s := if s.aclkStopped r then s
    else s.updRegion r fun g => { g with cores := g.cores.map fun e => (e.1, e.2.stop dip), gau := g.gau.stop dip }
  s.updRegPwr r f

/-- A pass, descriptor or tile of a context has committed (R414). -/
def State.progressed (c : Nat) (s : State) : State := s.updCtx c fun x => { x with progress := x.progress + 1 }

/-- The default of a slot-map or tile-map entry: VALID, served by the unit of the same number (R26, R188). -/
def mapDefault (n : Nat) : MapEntry := { valid := true, phys := n }

/-- Entry `n` of a slot or tile map. -/
def mapGet (t : Tbl MapEntry) (n : Nat) : MapEntry := tget (mapDefault n) t n

/-- A slot or tile map with entry `n` set. -/
def mapSet (t : Tbl MapEntry) (n : Nat) (e : MapEntry) : Tbl MapEntry := tset (mapDefault n) t n e

/-! ### Sending -/

/-- The device sends `o`. -/
def State.send (o : Out) (s : State) : State := s.updOut (o :: ·)

/-- DEV_STATE as coded in R370. -/
def DevState.code : DevState → Nat
  | .booting => 0
  | .run => 1
  | .degraded => 2
  | .refused => 3
  | .frozen => 4
  | .parked => 5

/-- The device is frozen (R390). -/
def State.isFrozen (s : State) : Bool := s.dev.state == .frozen

/-- A message of the vector goes out: MSI-X is enabled, and neither the function nor the vector is masked (R381). -/
def Link.sends (l : Link) (v : Nat) : Bool := l.msixEn && !l.msixMaskAll && !l.msixMask.contains v

/-- The pending bit of a vector that is masked; while MSI-X is not enabled there is none (R381; log entry 130). -/
def Link.pend (l : Link) (v : Nat) : Link := if l.msixEn && !l.sends v then { l with msixPend := insertN v l.msixPend } else l

/-- An MSI-X message, or its pending bit. -/
def State.fire (v : Nat) (s : State) : State := if s.link.sends v then s.send (.msix v) else s.updLink fun l => l.pend v

/-- Data cut at the multiples of `unit`: the offset and the bytes of each piece. -/
def cuts (unit : Nat) : Nat → Nat → List Byte → List (Nat × List Byte)
  | 0, _, _ => []
  | k + 1, off, d =>
    if d.isEmpty then []
    else
      let n := unit - off % unit
      (off, d.take n) :: cuts unit k (off + n) (d.drop n)

/-- The TLPs that data from an address on leave in: none exceeds Max_Payload_Size or crosses a multiple of it (R357; log entry 130). -/
def State.tlps (s : State) (a : Nat) (d : List Byte) : List (Nat × List Byte) := cuts (2 ^ s.link.mpsLog2) d.length a d

/-- Data are written to host memory, each TLP with EP where its bytes, from an offset on, are bad. -/
def State.hostPut (addr : U64) (d : List Byte) (relaxed : Bool) (bad : Nat → Nat → Bool) (s : State) : State :=
  (s.tlps addr.toNat d).foldl (fun s p => s.send (.hostWrite (BitVec.ofNat 64 p.1) p.2 relaxed (bad (p.1 - addr.toNat) p.2.length))) s

/-- A read of data from an address on is completed, in the same way; one of no bytes with a completion of none. -/
def State.answer (a : Nat) (d : List Byte) (bad : Nat → Nat → Bool) (s : State) : State :=
  if d.isEmpty then s.send (.completion [] false)
  else (s.tlps a d).foldl (fun s p => s.send (.completion p.2 (bad (p.1 - a) p.2.length))) s

/-- MCLK runs: no thermal trip has stopped it (R419), and it is not gated or switched off (R439). -/
def State.mclkOn (s : State) : Bool := !s.aon.tripped && s.pwr.pstate == .run

/-- Space of a ring: entries not yet freed by the consumer. -/
def ringUsed (put get : U32) : Nat := (put - get).toNat

/-- Entries of a record. -/
def Rec.entries (r : Rec) : Nat := if r.two then 2 else 1

/-- The bytes of a record as it is written: the header of R377 with the sequence number, the time of posting and UNSYNCED, and its body. -/
def Rec.bytes (r : Rec) (now : Nat) (synced : Bool) : List Byte :=
  padTo (64 * r.entries) (le 1 r.rtype.toNat ++ le 1 (r.rflags ||| (if synced then 0 else 0x10)).toNat ++ le 2 r.slot.toNat
    ++ le 4 r.seq.toNat ++ le 8 now ++ r.body)

/-- One record is written into metadata ring `n`, in one TLP: its bytes, the mirror, and the ring's vector when COUNT or DELAY is reached (R366, R381). -/
def State.writeEntry (n : Nat) (r : Rec) (s : State) : State :=
  let g := s.mdRing n
  let addr := g.base + BitVec.ofNat 64 (64 * (g.put.toNat % 2 ^ g.log2.toNat))
  let s := s.send (.hostWrite addr (r.bytes s.now s.dev.synced) s.link.relaxed r.ep)
  let put := g.put + BitVec.ofNat 32 r.entries
  let s := s.send (.hostWrite g.mirror (le 8 put.toNat) false false)
  let unsig := g.unsig + r.entries
  let old := if g.unsig = 0 then s.now else g.oldest
  if g.count.toNat ≤ unsig ∨ g.delay = 0 then
    (s.updMd n fun g => { g with put := put, unsig := 0, oldest := 0 }).fire (n + 1)
  else s.updMd n fun g => { g with put := put, unsig := unsig, oldest := old }

/-- Records may be written to the rings now (R365, R390). -/
def State.ringsOpen (s : State) : Bool := s.hif.ringEn && !s.isFrozen

/-- Up to `k` waiting records of ring `n` are written while the ring has room (R376). -/
def State.drainRing (n : Nat) : Nat → State → State
  | 0, s => s
  | k + 1, s =>
    let g := s.mdRing n
    match g.ovf with
    | [] => s
    | r :: rest =>
      if s.ringsOpen && decide (ringUsed g.put g.get + r.entries ≤ 2 ^ g.log2.toNat) then
        State.drainRing n k ((s.updMd n fun g => { g with ovf := rest }).writeEntry n r)
      else s

/-- The waiting records of every ring are written. -/
def State.drainRings (s : State) : State :=
  (List.range 16).foldl (fun s n => s.drainRing n 4096) s

/-- A record for metadata ring `n`: its entries take the ring's next SEQ, and it is written, or waits in the overflow queue, or is dropped (R376). -/
def State.pushRec (n : Nat) (rtype rflags : Byte) (slot : U16) (two ep : Bool) (body : List Byte) (s : State) : State :=
  let g := s.mdRing n
  let r : Rec := { rtype := rtype, rflags := rflags, slot := slot, seq := g.seq, two := two, ep := ep, body := body }
  let s := s.updMd n fun g => { g with seq := g.seq + BitVec.ofNat 32 r.entries }
  if g.ovf.length < 4096 then (s.updMd n fun g => { g with ovf := g.ovf ++ [r] }).drainRing n 4096
  else s.updMd n fun g => { g with drops := satAdd g.drops 1 }

/-- The metadata ring of a slot's records: its META_RING, or ring 0 for no slot or before the Recipe is read (R365, R376). -/
def State.ringOf (s : State) (slot : Option Nat) : Nat :=
  match slot with
  | none => 0
  | some n =>
    match s.entry n with
    | some e => e.metaRing.toNat % 16
    | none => 0

/-- A record of a slot, or of none. -/
def State.record (slot : Option Nat) (rtype rflags : Byte) (body : List Byte) (s : State) : State :=
  s.pushRec (s.ringOf slot) rtype rflags (match slot with | some n => BitVec.ofNat 16 n | none => 0xFFFF) false false body

/-! ### Attention and replies -/

/-- The class that ATTN_CLASS names: the first pending in the order of R371. -/
def attnClass (pending : Byte) : Nat :=
  match [7, 3, 2, 5, 0, 1, 4, 6].find? (fun c => pending.getLsbD c) with
  | some c => c
  | none => 0

/-- The Code field of a reply: its own code, but in REFUSED a reply that would say ST_OK carries the refusal code (R81; log entry 127). -/
def State.replyCode (s : State) (code : U16) : U16 := if s.dev.state = .refused ∧ code = 0 then s.dev.refCode else code

/-- The STATUS word of R370. -/
def State.status (s : State) (code : U16) : U32 :=
  word [(31, bit (s.hif.attn ≠ 0)), (28, attnClass s.hif.attn), (24, s.dev.state.code), (16, s.ep.epoch.toNat), (0, code.toNat)]

/-- The body of a DEVICE_EVENT record (R378). -/
def deviceEvent (cls : Nat) (code : U16) (ik idx : Nat) : List Byte :=
  le 1 cls ++ le 1 0 ++ le 2 code.toNat ++ le 1 ik ++ le 1 0 ++ le 2 idx ++ zeros 40

/-- The last RAS_ code raised (R434). -/
def State.noteCode (code : U16) (s : State) : State :=
  if code >>> 8 = 5 then s.updRas fun r => { r with lastCode := code } else s

/-- Attention of class `cls` with `code` is raised: its pending bit, the last code of the class, and the start of the 1 ms of R371
when the class was not pending. In FROZEN it waits for the end of the freeze (R390). -/
def State.setAttn (cls : Nat) (code : U16) (s : State) : State :=
  let s := s.noteCode code
  if s.isFrozen then s.updDev fun d => { d with heldAttn := d.heldAttn ++ [(cls, code)] }
  else
    let now := s.now
    s.updHif fun h =>
      { h with
        attnCode := tset 0 h.attnCode cls code
        attnWait := if h.attn.getLsbD cls then h.attnWait else tput cls now h.attnWait
        attn := h.attn ||| BitVec.ofNat 8 (2 ^ cls) }

/-- Attention is raised and its DEVICE_EVENT record posted, naming what INDEX_KIND and INDEX say (R371). -/
def State.attention (cls : Nat) (code : U16) (ik idx : Nat) (s : State) : State :=
  (s.setAttn cls code).record none 0x12 0 (deviceEvent cls code ik idx)

/-- A reply is posted (R369): the entry, the mirror and vector 0. A reply carries STATUS, so no class still waits for an unsolicited
one (R371). While the rings are disabled nothing is posted (log entry 13). -/
def State.reply (tag : U16) (op rflags : Byte) (code : U16) (payload : List Byte) (s : State) : State :=
  if s.hif.ringEn then
    let h := s.hif
    let bytes := le 4 (s.status (s.replyCode code)).toNat ++ le 2 tag.toNat ++ le 1 op.toNat ++ le 1 rflags.toNat ++ padTo 24 payload
    let addr := h.rplBase + BitVec.ofNat 64 (32 * (h.rplPut.toNat % 2 ^ h.rplLog2.toNat))
    let s := s.send (.hostWrite addr bytes s.link.relaxed false)
    let s := s.send (.hostWrite h.rplMirror (le 8 (h.rplPut + 1).toNat) false false)
    (s.updHif fun h => { h with rplPut := h.rplPut + 1, attnWait := [] }).fire 0
  else s

/-! ### Device DRAM (R324, R325, R335, R336) -/

/-- 3.75 GiB, the data bytes of one channel (R324). -/
def chanBytes : Nat := 4026531840

/-- The physical channels not retired, in ascending order (R326). -/
def State.channels (s : State) : List Nat := (List.range 24).filter fun k => !(s.chan k).retired

/-- N of R326. -/
def State.nChan (s : State) : Nat := s.channels.length

/-- The first address beyond device DRAM (R325). -/
def State.dramTop (s : State) : Nat := s.nChan * chanBytes

/-- Bytes of device DRAM. -/
def State.dramBytes (s : State) (a n : Nat) : List Byte := s.dram.mem.readN a n

/-- The 32 B halves that the bytes from `a`, `n` of them, touch. -/
def halves (a n : Nat) : List Nat := if n = 0 then [] else range (a / 32) ((a + n - 1) / 32 + 1 - a / 32)

/-- Some byte of the range lies in a half that carries the poison mark. -/
def State.poisonedAt (s : State) (a n : Nat) : Bool := (halves a n).any (fun h => decide (h ∈ s.dram.poison))

/-- The halves of the 64 B blocks that a write of `n` bytes at `a` covers whole. -/
def fullHalves (a n : Nat) : List Nat := range (2 * cdiv a 64) (2 * ((a + n) / 64) - 2 * cdiv a 64)

/-- The poison marks after a write: poisoned data mark every half they cover; clean data clear the marks of every block
they cover whole (R332, R336). -/
def poisonAfter (a n : Nat) (poisoned : Bool) (marks : List Nat) : List Nat :=
  if poisoned then (halves a n).foldl (fun m h => insertN h m) marks
  else marks.filter (fun h => !decide (h ∈ fullHalves a n))

/-! ### Where an address lies (R324, R326, R327) -/

/-- The place of a data byte: physical channel, channel-local offset, bank and row. -/
structure Place where
  chan : Nat
  off  : Nat
  bank : Nat
  row  : Nat
deriving DecidableEq, Repr, Inhabited

/-- The rotation of stripe `s` over `n` channels. -/
def stripeTurn (n s : Nat) : Nat := ((s ^^^ (s / 32)) ^^^ (s / 2048)) % n

/-- Logical channel and channel-local offset of a device address, over `n` channels with grain 2^`g` (R326). -/
def interleave (g n a : Nat) : Nat × Nat :=
  let u := a / 2 ^ g
  let s := u / n
  ((u % n + stripeTurn n s) % n, s * 2 ^ g + a % 2 ^ g)

/-- The device address of an offset in a logical channel: the rotation undone. -/
def deinterleave (g n c l : Nat) : Nat :=
  let s := l / 2 ^ g
  let c0 := (c + n - stripeTurn n s) % n
  (s * n + c0) * 2 ^ g + l % 2 ^ g

/-- Bank and row of a channel-local offset (R327). -/
def bankRow (l : Nat) : Nat × Nat :=
  let q := l / 1920
  ((q + q / 16) % 16, q / 16)

/-- The place of a device address. -/
def State.placeOf (s : State) (a : Nat) : Place :=
  let n := max 1 s.nChan
  let (c, l) := interleave s.dmc.grain n a
  let (b, r) := bankRow l
  { chan := s.channels.getD c 0, off := l, bank := b, row := r }

/-- What the last error was, and where (R354). -/
def Chan.note (kind bank row : Nat) (c : Chan) : Chan :=
  { c with errKind := BitVec.ofNat 2 kind, errBank := BitVec.ofNat 4 bank, errRow := BitVec.ofNat 17 row }

/-- Bytes are read whose halves may carry the poison mark: each mark that the read meets is counted for its channel, and is no new error (R335). -/
def State.notePoison (a n : Nat) (s : State) : State :=
  ((halves a n).filter fun h => decide (h ∈ s.dram.poison)).foldl (fun s h =>
    let p := s.placeOf (32 * h)
    s.updChan p.chan fun c => ({ c with poisonReads := satAdd c.poisonReads 1 } : Chan).note 3 p.bank p.row) s

/-- A write into device DRAM. -/
def State.dramPut (a : Nat) (bs : List Byte) (poisoned : Bool) (s : State) : State :=
  s.updDram fun d => { mem := d.mem.writeN a bs, poison := poisonAfter a bs.length poisoned d.poison }

/-- A code that a rule raises and does not name: any of the kinds of R16, and none that R17 reserves (log entry 6). -/
def freeCode (tag : Nat) : U16 := BitVec.ofNat 16 ((Config.freeWord tag).toNat % 0x600)

/-- The bytes of a DRAM range become undefined. -/
def State.dramForget (lo hi : Nat) (s : State) : State :=
  let t := s.tag
  (s.burn).updDram fun d => { d with mem := d.mem.forget lo hi t }

end Sys2Proof.Machine
end

