-- ==== Sys2Proof/Machine/Pools.lean ====
section
/-! DEFINITION. Buffer pools (R342 to R352) and sync objects (R302 to R304) as operations on the state. -/

namespace Sys2Proof.Machine

/-- Kind and index of a unit number. -/
def unitKind (u : U16) : Nat := u.toNat / 4096
def unitIdx (u : U16) : Nat := u.toNat % 4096
/-- The unit number of a kind and index. -/
def mkUnit (kind idx : Nat) : U16 := BitVec.ofNat 16 (kind * 4096 + idx)

/-! ### Handles and requesters (R345, R347) -/

/-- The pool of a handle. -/
def hPool (h : U32) : Nat := h.toNat / 2 ^ 26
/-- The index of a handle. -/
def hIndex (h : U32) : Nat := h.toNat % 2 ^ 26
/-- The handle of a pool and an index. -/
def mkHandle (p i : Nat) : U32 := BitVec.ofNat 32 (p * 2 ^ 26 + i)

/-- The POOL_ code of an access that runs past its end (R351). -/
def poolRange : U16 := 0x0303

/-- The POOL_ code of a SHARE with the share table full (R351). -/
def poolShareFull : U16 := 0x0309

/-- Requester IDs. -/
def reqCtx (c : Nat) : U16 := BitVec.ofNat 16 c
def reqDec (slot : Nat) : U16 := BitVec.ofNat 16 (0x1000 + slot)
def reqEnc (sess : Nat) : U16 := BitVec.ofNat 16 (0x2000 + sess)
/-- The holder of the pictures held for clips (R131): an ENC requester that is no session. -/
def reqHold : U16 := 0x2FFF
def reqCse (e : Nat) : U16 := BitVec.ofNat 16 (0x3000 + e)
def reqTke : U16 := 0x4000
/-- The context number of a requester, when it is a context. -/
def ctxOfReq (r : U16) : Option Nat := if r.toNat < 0x1000 then some r.toNat else none

/-- The handle names a buffer of a pool. -/
def State.handleOk (s : State) (h : U32) : Bool :=
  decide (hPool h < 64) && decide (hIndex h < (s.pool (hPool h)).count)

/-- Where a buffer lies in device DRAM. -/
def State.bufAddr (s : State) (h : U32) : Nat :=
  let p := s.pool (hPool h)
  p.base.toNat + hIndex h * 2 ^ p.log2

/-- Free buffers of a pool. -/
def Pool.free (p : Pool) : Nat := p.count - p.fresh + p.returned.length

/-- A blocked context becomes READY (R288). -/
def State.unblock (c : Nat) (s : State) : State :=
  s.updCtx c fun x => if x.state = 4 then { x with state := 1, wait := none } else x

/-- A buffer of pool `p` is handed to `req`, which becomes its named owner: the next in ascending index while some have not been used
since the reset, else the one that returned first (R347, R348). -/
def State.take (req : U16) (p : Nat) (s : State) : Option (U32 × State) :=
  let g := s.pool p
  if g.fresh < g.count then
    let h := mkHandle p g.fresh
    some (h, (s.updPool p fun g => { g with fresh := g.fresh + 1, low := min g.low (g.free - 1) }).updBpm
      fun b => { b with bufs := tput h.toNat { owner := req } b.bufs })
  else
    match g.returned with
    | [] => none
    | i :: r =>
      let h := mkHandle p i
      some (h, (s.updPool p fun g => { g with returned := r, low := min g.low (g.free - 1) }).updBpm
        fun b => { b with bufs := tput h.toNat { owner := req } b.bufs })

/-- A buffer that is freed and unshared returns to its pool: to the oldest waiter, or to the tail of the free list (R348, R349). -/
def State.giveBack (h : U32) (s : State) : State :=
  let p := hPool h
  match (s.pool p).waiters with
  | [] =>
    (s.updBpm fun b => { b with bufs := tdel h.toNat b.bufs }).updPool p fun g => { g with returned := g.returned ++ [hIndex h] }
  | w :: ws =>
    let s := (s.updBpm fun b => { b with bufs := tput h.toNat { owner := w } b.bufs }).updPool p fun g => { g with waiters := ws }
    let s := s.send (.bpmHandle w h)
    match ctxOfReq w with
    | some c => s.unblock c
    | none => s

/-- The buffer is stored, or returned when it is freed and has no share left. -/
def State.settle (h : U32) (b : Buf) (s : State) : State :=
  if b.freed && b.shares.isEmpty then s.giveBack h
  else s.updBpm fun m => { m with bufs := tput h.toNat b m.bufs }

/-- FREE, when it is allowed (R347, R349). -/
def State.freeBuf (h : U32) (s : State) : State :=
  match s.buf h with
  | some b => s.settle h { b with freed := true }
  | none => s

/-- A failed operation is counted and recorded (R350). -/
def State.poolError (req : U16) (h : U32) (code : U16) (s : State) : State :=
  (s.updBpm fun b => { b with
    errors := tupd 0 b.errors (code.toNat - 0x0300) (fun v => satAdd v 1)
    lastReq := req, lastCode := code, lastH := h }).send (.bpmError req code)

/-- The share table is full (R351). -/
def State.sharesFull (s : State) : Bool := decide (4194304 ≤ s.bpm.shares)

/-- One share of `h` is added, held by `holder`, and `owner` is named (R347); where the share table is full the named owner's request is refused (R351). -/
def State.shareBuf (h : U32) (holder owner : U16) (s : State) : State :=
  match s.buf h with
  | some b =>
    if s.sharesFull then (s.poolError b.owner h poolShareFull).attention 0 poolShareFull 4 (hPool h)
    else (s.updBpm fun m => { m with shares := m.shares + 1 }).settle h { b with owner := owner, shares := b.shares ++ [holder] }
  | none => s

/-- One share of `h` that `holder` holds is removed (R347, R350). -/
def State.releaseBuf (h : U32) (holder : U16) (s : State) : State :=
  match s.buf h with
  | some b =>
    if holder ∈ b.shares then
      (s.updBpm fun m => { m with shares := m.shares - 1 }).settle h { b with shares := b.shares.erase holder }
    else s
  | none => s

/-- Every share of `h` that `holder` holds is removed. -/
def State.releaseAll (h : U32) (holder : U16) (s : State) : State :=
  match s.buf h with
  | some b => (b.shares.filter (· == holder)).foldl (fun s _ => s.releaseBuf h holder) s
  | none => s

/-- The teardown of a requester: RELEASE of each share it holds and FREE of each buffer it owns, in ascending handle order (R352). -/
def State.dropAll (req : U16) (s : State) : State :=
  (tkeys s.bpm.bufs).foldl (fun s k =>
    let h := BitVec.ofNat 32 k
    let s := s.releaseAll h req
    match s.buf h with
    | some b => if b.owner = req && !b.freed then s.freeBuf h else s
    | none => s) s

/-! ### Sync objects -/

/-- The value of a sync object. -/
def State.synValue (s : State) (o : U16) : U32 := tget 0 s.syn.values o.toNat

/-- WAIT v is satisfied (R302). -/
def satisfied (value v : U32) : Bool := decide ((value - v).toNat < 2 ^ 31)

/-- A waiter whose wait is satisfied goes on: a context becomes READY; a queue head and a TKE pipeline leave their wait with its entry (R288, R303). -/
def State.wakeWaiter (w : Waiter) (s : State) : State :=
  match w with
  | .ctx c => s.unblock c.val
  | .queueHead _ => s
  | .tke _ => s

/-- Every blocked waiter on `o` that is satisfied is woken and its entry removed, oldest first (R303). -/
def State.wakeAll (o : U16) (s : State) : State :=
  let v := s.synValue o
  let woken := s.syn.waits.filter fun w => w.obj == o && satisfied v w.v
  let s := s.updSyn fun y => { y with waits := y.waits.filter fun w => !(w.obj == o && satisfied v w.v) }
  woken.foldl (fun s w => s.wakeWaiter w.waiter) s

/-- SIGNAL n without what follows in the dispatcher. -/
def State.signal (o : U16) (n : U32) (s : State) : State :=
  (s.updSyn fun y => { y with values := tset 0 y.values o.toNat (tget 0 y.values o.toNat + n), ops := y.ops + 1 }).wakeAll o

/-- RESET v: one to a lower value wakes no one (R303). -/
def State.synSet (o : U16) (v : U32) (s : State) : State :=
  let lower := decide (v.toNat < (s.synValue o).toNat)
  let s := s.updSyn fun y => { y with values := tset 0 y.values o.toNat v, ops := y.ops + 1 }
  if lower then s else s.wakeAll o

/-- The waiter has a blocking wait. -/
def State.waits (s : State) (w : Waiter) : Bool := s.syn.waits.any (fun e => e.waiter == w)

/-- The queue head of unit `u` stands still: nothing more starts from that queue (R302). A core's number stands for the heads of both its queues
(DESIGN CHOICE, log entry 124). -/
def State.headWaits (s : State) (u : U16) : Bool := s.waits (.queueHead u)

/-- The Millefeuille's queue head stands still, under the number of any tile of the region. -/
def State.gauHeadWaits (s : State) (r : Nat) : Bool :=
  s.syn.waits.any fun e => match e.waiter with | .queueHead u => unitKind u == 1 && unitIdx u / 32 == r | _ => false

/-- The blocking wait of a waiter is removed. -/
def State.dropWait (w : Waiter) (s : State) : State :=
  s.updSyn fun y => { y with waits := y.waits.filter fun e => !(e.waiter == w) }

end Sys2Proof.Machine
end

