-- ==== Sys2Proof/Machine/Sched.lean ====
section
/-! DEFINITION. The dispatcher: releases, the order of contexts, pre-emption, residency and swaps (R285 to R294), and the work counters that
go with a context. -/

namespace Sys2Proof.Machine

/-- The contexts created, by number. -/
def State.ctxNums (s : State) : List Nat := List.range s.dis.nCtx

/-- The invocation that decides a context's place: the one in progress, else the first queued. -/
def Ctx.head (c : Ctx) : Option Inv :=
  match c.running with
  | some i => some i
  | none => c.queue.head?

/-- The class number a context competes in: background comes last (R287). -/
def Ctx.rank (c : Ctx) : Nat :=
  match c.head with
  | some i => if i.background then 4 else c.cls
  | none => 4

/-- The deadline a context competes with. -/
def Ctx.due (c : Ctx) : Nat :=
  match c.head with
  | some i => i.deadline
  | none => 0

/-- The order of R289: class, then deadline, then number; strict. -/
def State.earlier (s : State) (a b : Nat) : Bool :=
  let x := s.ctx a
  let y := s.ctx b
  decide (x.rank < y.rank) || (x.rank == y.rank && (decide (x.due < y.due) || (x.due == y.due && decide (a < b))))

/-- The strict order without the tie on the number, which decides pre-emption: equal standing never pre-empts (R289). -/
def State.strictly (s : State) (a b : Nat) : Bool :=
  let x := s.ctx a
  let y := s.ctx b
  decide (x.rank < y.rank) || (x.rank == y.rank && decide (x.due < y.due))

/-- READY contexts of an engine set, in the order of R289. -/
def State.readyOf (s : State) (r : Nat) (gau : Bool) : List Nat :=
  sortBy s.earlier (s.ctxNums.filter fun c => let x := s.ctx c; x.region == r && x.gau == gau && x.state == 1)

/-- The active context of an engine set. -/
def Region.active (g : Region) (gau : Bool) : Option Nat := if gau then g.gauCtx else g.coresCtx

/-- The context being swapped in on an engine set. -/
def Region.swapping (g : Region) (gau : Bool) : Option Nat := if gau then g.swapGau else g.swapCores

/-- The eight work counters of resident slot `k`. -/
def slotWcs (k : Nat) : List Nat := range (8 * k) 8

/-- Contexts resident in a region, by resident slot. -/
def State.resident (s : State) (r : Nat) : List (Nat × Nat) := (s.region r).rslots

/-- A tile of resident slot `k` is CLAIMED and not DONE: its write-back completes before the context leaves (R291). -/
def State.writesBack (s : State) (r k : Nat) : Bool := (slotWcs k).any fun n => (s.wc r n).board.any fun e => e.2 == 2

/-- The resident slot that an incoming context may take, under R292. -/
def State.slotFor (s : State) (r c : Nat) : Option Nat :=
  let res := (s.resident r).filter fun e => !s.writesBack r e.1
  match (List.range 8).find? fun k => (tfind (s.resident r) k).isNone with
  | some k => some k
  | none =>
    let idle := res.filter fun e => (s.ctx e.2).state == 0
    let blocked := res.filter fun e => (s.ctx e.2).state == 4
    let ready := res.filter fun e => (s.ctx e.2).state == 1
    match leastBy (fun a b => decide ((s.ctx a.2).ranAt < (s.ctx b.2).ranAt)) idle with
    | some e => some e.1
    | none =>
      match leastBy (fun a b => decide ((s.ctx a.2).blockedAt < (s.ctx b.2).blockedAt)
          || ((s.ctx a.2).blockedAt == (s.ctx b.2).blockedAt && decide (a.2 < b.2))) blocked with
      | some e => some e.1
      | none =>
        match leastBy (fun a b => s.earlier b.2 a.2) ready with
        | some e => if s.earlier c e.2 then some e.1 else none
        | none => none

/-- The context is resident, or can be made resident now. -/
def State.canReside (s : State) (r c : Nat) : Bool := (s.ctx c).rslot.isSome || (s.slotFor r c).isSome

/-- The first READY context of the set that is resident or can be made so (R289). -/
def State.chosen (s : State) (r : Nat) (gau : Bool) : Option Nat := (s.readyOf r gau).find? (s.canReside r)

/-! ### Layers of a context -/

/-- The layers of a context's plan. -/
def State.layersOf (s : State) (c : Nat) : List LayerEntry := match s.plan (s.ctx c).plan with | some p => p.layers | none => []

/-- The work counter of a layer. -/
def State.wcOf (s : State) (c : Nat) (l : LayerEntry) : Nat := 8 * ((s.ctx c).rslot.getD 0) + l.wc.toNat % 8

/-- The layers of a fused group that starts at `head`: the layers from there on with its FGROUP. -/
def fusedLayers (ls : List LayerEntry) (head : Nat) : List Nat :=
  match ls[head]? with
  | none => []
  | some h => head :: ((range (head + 1) (ls.length - head - 1)).takeWhile fun k => match ls[k]? with
    | some l => l.lflags.getLsbD 0 && l.fgroup == h.fgroup && !l.lflags.getLsbD 1
    | none => false)

/-- The fused groups that a context has started and not completed. -/
def State.openGroups (s : State) (c : Nat) : List (List Nat) :=
  let ls := s.layersOf c
  let t := s.ctx c
  ((t.started.filter fun k => (ls[k]?).any fun l => l.lflags.getLsbD 1).map (fusedLayers ls)).filter fun g => !g.all t.layersDone.contains

/-- A fused group starts over: what its tiles left in the scratchpads is lost, so that its layers count as not started and their counters are free (R266, R267,
R275; log entry 109). -/
def State.dropGroup (r c : Nat) (group : List Nat) (s : State) : State :=
  let s := group.foldl (fun (s : State) g =>
    match (s.layersOf c)[g]? with
    | some l => s.updWc r (s.wcOf c l) fun w => if w.active && w.layer == g then {} else w
    | none => s) s
  let s := s.updRegion r fun g => { g with crust := g.crust.filter fun e => !(e.2.any fun x => group.contains x.1) }
  s.updCtx c fun x => { x with started := x.started.filter fun k => !group.contains k, layersDone := x.layersDone.filter fun k => !group.contains k }

/-- Every ISSUED tile returns to UNISSUED and is requeued, and its runners are dropped; a CLAIMED one keeps the core that completes its write-back (R267, R291). -/
def Wc.requeueIssued (w : Wc) : Wc :=
  let issued := (w.board.filter fun e => e.2 == 1).map (·.1)
  { w with
    board := w.board.filter fun e => !(e.2 == 1)
    requeue := issued.foldl (fun q t => insertN t q) w.requeue
    runners := w.runners.filter fun x => tget 0 w.board x.tile == 2
    emptied := [] }

/-- The work of context `c` on the cores of region `r` is dropped: nothing of it runs or waits. -/
def State.clearCores (r c : Nat) (s : State) : State :=
  let now := s.aclk r
  -- crust rows that have arrived belong to the context on the cores
  let s := s.updRegion r fun g => if g.coresCtx = some c then { g with crust := [] } else g
  (List.range 18).foldl (fun s k =>
    let s := s.updCore r k fun x =>
      { x with
        queue := x.queue.filter fun p => !(p.ctx == c)
        todo := x.todo.filter fun t => !(t.owner == c)
        clock := if x.running.any fun p => p.ctx == c then x.clock.abort now else x.clock
        running := match x.running with | some p => if p.ctx == c then none else x.running | none => none }
    s.updVec r k fun v =>
      { v with
        queue := v.queue.filter fun p => !(p.ctx == c)
        clock := if v.running.any fun p => p.ctx == c then v.clock.abort now else v.clock
        running := match v.running with | some p => if p.ctx == c then none else v.running | none => none }) s

/-- The Millefeuille drops the work of context `c`. -/
def State.clearGau (r c : Nat) (s : State) : State :=
  s.updGau r fun g =>
    { g with
      queue := g.queue.filter fun p => !(p.ctx == c)
      todo := g.todo.filter fun p => !(p.ctx == c)
      clock := if g.running.any fun p => p.ctx == c then g.clock.abort (tget 0 s.aon.aclk r) else g.clock
      running := match g.running with | some p => if p.ctx == c then none else g.running | none => none }

/-- No pass or descriptor of the set runs, and no tile is CLAIMED and not DONE: a pass boundary (R290, R291). -/
def State.atBoundary (s : State) (r : Nat) (gau : Bool) (c : Nat) : Bool :=
  if gau then (s.region r).gau.running.isNone
  else
    (List.range 18).all (fun k => (s.core r k).running.isNone && (s.vec r k).running.isNone)
      && !((s.ctx c).rslot.any fun k => s.writesBack r k)

/-- The active context leaves its engine set with state `st`: its ISSUED tiles are requeued, and its open fused groups start over (R267). -/
def State.leave (r : Nat) (gau : Bool) (c : Nat) (st : BitVec 3) (s : State) : State :=
  let now := s.now
  let s := match (s.ctx c).rslot with
    | some k => (slotWcs k).foldl (fun (s : State) n => s.updWc r n Wc.requeueIssued) s
    | none => s
  let s := if gau then s.clearGau r c else (s.openGroups c).foldl (fun s g => s.dropGroup r c g) (s.clearCores r c)
  let s := s.updCtx c fun x => { x with state := st, ranAt := now }
  s.updRegion r fun g => if gau then { g with gauCtx := none } else { g with coresCtx := none }

/-- A resident context gives up slot `k` of region `r`: its counters are saved with it (R267, R291). -/
def State.evict (r k : Nat) (s : State) : State :=
  match tfind (s.resident r) k with
  | none => s
  | some v =>
    let saved : Saved := { wcs := (slotWcs k).filterMap fun n => (tfind (s.region r).wcs n).map fun w => (n % 8, w.requeueIssued) }
    let s := s.updDis fun d => { d with saved := tset {} d.saved v saved }
    let s := s.updRegion r fun g =>
      { g with rslots := tdel k g.rslots, wcs := (slotWcs k).foldl (fun t n => tdel n t) g.wcs }
    s.updCtx v fun x => { x with rslot := none }

/-- Context `c` takes resident slot `k` of region `r`, with the counters saved with it. -/
def State.reside (r k c : Nat) (s : State) : State :=
  let s := s.evict r k
  let sv := tget {} s.dis.saved c
  let s := s.updRegion r fun g =>
    { g with rslots := tput k c g.rslots, wcs := sv.wcs.foldl (fun t e => tset {} t (8 * k + e.1) e.2) g.wcs }
  let s := s.updDis fun d => { d with saved := tdel c d.saved }
  s.updCtx c fun x => { x with rslot := some k }

/-- A swap of context `c` onto the engine set starts (R291). -/
def State.startSwap (r : Nat) (gau : Bool) (c : Nat) (s : State) : State :=
  let s := match (s.ctx c).rslot with
    | some _ => s
    | none =>
      match s.slotFor r c with
      | some k => s.reside r k c
      | none => s
  let s := s.updCtx c fun x => { x with state := 2 }
  s.updRegion r fun g => if gau then { g with swapGau := some c } else { g with swapCores := some c }

/-- The context that is due to pre-empt the running one of an engine set, if any (R289). -/
def State.preemptor (s : State) (r : Nat) (gau : Bool) : Option Nat :=
  match (s.region r).active gau, s.chosen r gau with
  | some a, some c => if s.strictly c a then some c else none
  | _, _ => none

/-- A PTR of the region is in progress, so that the region takes no work before its maps are rebuilt (R29). -/
def State.regionReset (s : State) (r : Nat) : Bool := s.rst.runs.any fun x => !x.taken && !x.ended && x.scope == .part (Fin.ofNat 10 r)

/-- The dispatcher chooses for one engine set (R289, R290): nothing during a swap, a freeze or a PTR of the region; the first READY context when the set is free;
a pre-emption when the running context stands at a pass boundary. -/
def State.judge (r : Nat) (gau : Bool) (s : State) : State :=
  let g := s.region r
  if (g.swapping gau).isSome || s.isFrozen || !s.dis.inService || s.regionReset r then s
  else
    match g.active gau with
    | none =>
      match s.chosen r gau with
      | some c => s.startSwap r gau c
      | none => s
    | some a =>
      match s.preemptor r gau with
      | some c => if s.atBoundary r gau a then (s.leave r gau a 1).startSwap r gau c else s
      | none => s

/-- The dispatcher chooses for every engine set. -/
def State.judgeAll (s : State) : State :=
  (List.range 8).foldl (fun s r => (s.judge r false).judge r true) s

/-- A token of a release bucket (R287). -/
def token : Nat := 10 ^ 20

/-- The bucket of a context at time `now`. -/
def Ctx.level (c : Ctx) (now : Nat) : Nat := min (4 * token) (c.bucket + c.rate * (now - c.bucketAt))

/-- What a plan signals at completion, and the status that its completion entry carries (R300). -/
def State.complete (c : Nat) (failed : Bool) (s : State) : State :=
  let s := s.send (.invocation c failed)
  match s.plan (s.ctx c).plan with
  | some p => p.signals.foldl (fun s e => s.signal e.1 e.2) s
  | none => s

/-- The TKE will skip these pictures: a Weond-D or Weond-E invocation of them failed (R300). -/
def State.skipPics (pics : List (Nat × Nat)) (s : State) : State := s.updDis fun d => { d with failed := pics ++ d.failed }

/-- The slots of the table that use a plan as their first model. -/
def isDetect (r : Cartridge) (plan : Nat) : Bool := r.slots.any fun e => e.pipeline.toNat == plan

/-- A detection-stage context: the plan that a slot's PIPELINE names, which batches (R285). -/
def State.batches (s : State) (c : Nat) : Bool := match s.crt.recipe with | some r => isDetect r (s.ctx c).plan | none => false

/-- An invocation of context `c` on its input pictures is released with its absolute deadline (R286, R287): refused and completed as failed when 8 are
queued; else it takes a token, or runs in the background class. -/
def State.releaseInv (c : Nat) (pics : List (Nat × Nat)) (deadline : Nat) (s : State) : State :=
  let x := s.ctx c
  if 8 ≤ x.queue.length then
    let s := (s.updCtx c fun x => { x with overrun := satAdd x.overrun 1 }).complete c true
    if (s.plan x.plan).any fun p => p.kind == 0 && !x.tick then s.skipPics pics else s
  else
    let now := s.now
    let lv := x.level now
    let bg := decide (lv < token)
    s.updCtx c fun x =>
      { x with
        bucket := if bg then lv else lv - token
        bucketAt := now
        overBudget := bg
        queue := x.queue ++ [{ deadline := deadline, background := bg, pics := pics }]
        state := if x.state = 0 then 1 else x.state }

/-- The objects that a context's plan signals at completion. -/
def State.signalsOf (s : State) (c : Nat) : List U16 := match s.plan (s.ctx c).plan with | some p => p.signals.map (·.1) | none => []

/-- One release of a context that a sync object drives: its input is the oldest picture of its slots that no release has taken, whose
ARRIVAL sets the deadline (R286). A picture whose detection failed gives nothing to run on: the invocation skips it, and completes as failed (R300; log entry 20).
With the state, the objects that a failed completion has signalled. -/
def State.releaseNext (c : Nat) (s : State) : State × List U16 :=
  let x := s.ctx c
  match x.batch with
  | [] => (s, [])
  | (slot, arr) :: rest =>
    let s := s.updCtx c fun x => { x with batch := rest }
    if s.dis.failed.contains (slot, arr) then (s.complete c true, s.signalsOf c)
    else (s.releaseInv c [(slot, arr)] (arr + x.dctx), if 8 ≤ x.queue.length then s.signalsOf c else [])

/-- The contexts that object `o` releases: bound to slots, without a batch of their own, their plan's first layer waiting on it (R285, R286). -/
def State.releasedBy (s : State) (o : U16) : List Nat :=
  s.ctxNums.filter fun c => !(s.ctx c).tick && !s.batches c && (match s.plan (s.ctx c).plan with | some p => p.waitObj == some o | none => false)

/-- Of some contexts, the one whose next picture arrived first. -/
def State.nextInput (s : State) (cs : List Nat) : Option (Nat × Nat) :=
  leastBy (fun a b => decide (a.2 < b.2)) (cs.filterMap fun c => (s.ctx c).batch.head?.map fun p => (c, p.2))

/-- The pictures that wait for a release of some contexts. -/
def State.inputs (s : State) (cs : List Nat) : Nat := cs.foldl (fun a c => a + (s.ctx c).batch.length) 0

/-- Each of `k` units of an object that the contexts `cs` of one plan wait on releases one invocation, on the picture that arrived first. -/
def State.releaseUnits (cs : List Nat) : Nat → State → State × List U16
  | 0, s => (s, [])
  | k + 1, s =>
    match s.nextInput cs with
    | none => (s, [])
    | some (c, _) =>
      let (s, os) := s.releaseNext c
      let (s, more) := State.releaseUnits cs k (cs.foldl (fun (s : State) d => s.updCtx d fun x => { x with threshold := x.threshold + 1 }) s)
      (s, os ++ more)

/-- The contexts of each plan that waits on object `o` release an invocation for each unit by which the object has passed what the plan has taken, while a picture of
their slots waits (R286; log entry 20). A tick and a batch have releases of their own. -/
def State.releaseStep (o : U16) (s : State) : State × List U16 :=
  let cs := s.releasedBy o
  let plans := cs.foldl (fun l c => insertN (s.ctx c).plan l) []
  plans.foldl (fun (a : State × List U16) p =>
    let (s, os) := a
    let mine := cs.filter fun c => (s.ctx c).plan == p
    let taken := mine.foldl (fun t c => max t (s.ctx c).threshold) 0
    let s := mine.foldl (fun (s : State) c => s.updCtx c fun x => { x with threshold := taken }) s
    let n := (s.synValue o - BitVec.ofNat 32 taken).toNat
    let (s, more) := s.releaseUnits mine (if n < 2 ^ 31 then min n (s.inputs mine) else 0)
    (s, os ++ more)) (s, [])

/-- The releases of some objects, and those of the objects that a refused or skipped release signals in turn. -/
def State.releaseWave : Nat → List U16 → State → State
  | 0, _, s => s
  | _, [], s => s
  | k + 1, o :: os, s =>
    let (s, more) := s.releaseStep o
    State.releaseWave k (os ++ more) s

/-- The releases of an object and what follows from them: each picture that waits is taken once, and signals at most what one plan signals. -/
def State.releaseOn (o : U16) (s : State) : State :=
  s.releaseWave (1 + s.inputs s.ctxNums * s.plans.foldl (fun a p => max a p.signals.length) 0) [o] 

/-- A release of a context, and where it is refused the releases that its completion as failed brings (R286, R300). -/
def State.release (c : Nat) (pics : List (Nat × Nat)) (deadline : Nat) (s : State) : State :=
  let full := decide (8 ≤ (s.ctx c).queue.length)
  let s := s.releaseInv c pics deadline
  if full then (s.signalsOf c).foldl (fun s o => s.releaseOn o) s else s

/-- The next invocation of a context starts. -/
def State.beginInv (c : Nat) (s : State) : State :=
  let x := s.ctx c
  match x.running, x.queue with
  | none, i :: rest =>
    -- a Weond-A invocation takes the adapter in service at its start (R221)
    let i := match s.plan x.plan with | some p => if p.kind = 2 then { i with adapter := s.crt.adapter } else i | none => i
    s.updCtx c fun x => { x with running := some i, queue := rest, layersDone := [], started := [] }
  | _, _ => s

/-- SIGNAL n with all that follows: waiters, releases and the dispatcher's judgement (R286, R289, R302, R303). -/
def State.signalAll (o : U16) (n : U32) (s : State) : State := ((s.signal o n).releaseOn o).judgeAll

end Sys2Proof.Machine
end

