-- ==== Sys2Proof/Machine/Bar0.lean ====
section
/-! DEFINITION. What each BAR0 offset reads (R361): every register of the register tables packed from the state, reserved bits and
unassigned offsets as 0. -/

namespace Sys2Proof.Machine

/-- The low and high halves of a 64-bit value. -/
def lo32 (v : U64) : U32 := v.setWidth 32
def hi32 (v : U64) : U32 := (v >>> 32).setWidth 32

/-- The HIF control and command registers (R394). -/
def State.readHif (s : State) (o : Nat) : U32 :=
  let h := s.hif
  match o with
  | 0x000 => word [(28, s.dev.state.code), (20, s.ep.epoch.toNat), (15, s.link.width.toNat), (12, s.link.rate.toNat)]
  | 0x004 => word [(31, bit h.ringEn), (30, bit h.cfgErr)]
  | 0x008 => word [(0, h.attn.toNat)]
  | 0x00C => word [(16, h.areaIngest.toNat), (0, h.areaHandoff.toNat)]
  | 0x010 => lo32 h.cmdBase
  | 0x014 => hi32 h.cmdBase
  | 0x018 => word [(0, h.cmdLog2.toNat)]
  | 0x01C => h.cmdPut
  | 0x020 => h.cmdGet
  | 0x030 => lo32 h.rplBase
  | 0x034 => hi32 h.rplBase
  | 0x038 => word [(0, h.rplLog2.toNat)]
  | 0x03C => h.rplPut
  | 0x040 => h.rplGet
  | 0x044 => lo32 h.rplMirror
  | 0x048 => hi32 h.rplMirror
  | 0x804 => word [(31, bit s.wins.busy), (30, bit s.wins.overrun), (16, s.wins.holdMax.toNat), (0, s.wins.drops.toNat)]
  | 0x810 => word [(22, s.link.reads.length % 1024), (12, s.link.quarantine.length % 1024), (0, s.link.late.toNat)]
  | 0x814 => word [(16, s.link.timeouts.toNat), (0, s.link.rxPoisoned.toNat)]
  | 0x820 => word [(31, bit s.dev.button), (30, bit s.dev.cancelled)]
  | 0x824 => word [(31, bit s.dev.powerOff), (29, s.dev.attnInd.toNat)]
  | 0x830 => word [(31, bit s.dev.synced)]
  | 0x834 => s.dev.ptmOffset
  | 0x838 => lo32 s.aon.time
  | 0x83C => s.dev.timeHi
  | 0x840 => word [(31, bit s.isFrozen), (0, s.dev.freezes.toNat)]
  | _ => 0

/-- A metadata ring's registers (R395). -/
def MdRing.reg (g : MdRing) (o : Nat) : U32 :=
  match o with
  | 0x00 => lo32 g.base
  | 0x04 => hi32 g.base
  | 0x08 => word [(16, g.drops.toNat), (10, g.delay.toNat), (5, g.count.toNat), (0, g.log2.toNat)]
  | 0x0C => g.put
  | 0x10 => g.get
  | 0x14 => lo32 g.mirror
  | 0x18 => hi32 g.mirror
  | _ => 0

/-- A window descriptor's registers (R396). -/
def Win.reg (w : Win) (o : Nat) : U32 :=
  match o with
  | 0x0 => lo32 w.offset
  | 0x4 => hi32 w.offset
  | 0x8 => word [(31, bit w.enable), (30, bit w.area)]
  | _ => 0

/-- The HIF block. -/
def State.readHifAll (s : State) (o : Nat) : U32 :=
  if 0x100 ≤ o ∧ o < 0x300 then (s.mdRing ((o - 0x100) / 0x20)).reg ((o - 0x100) % 0x20)
  else if 0x300 ≤ o ∧ o < 0x340 then
    let n := (o - 0x300) / 0x10
    match (o - 0x300) % 0x10 with
    | 0 => tget 0 s.hif.hoPut n
    | 4 => tget 0 s.hif.hoGet n
    | _ => 0
  else if 0x400 ≤ o ∧ o < 0x600 then (tget {} s.wins.shadow ((o - 0x400) / 0x10)).reg ((o - 0x400) % 0x10)
  else if 0x600 ≤ o ∧ o < 0x800 then (tget {} s.wins.active ((o - 0x600) / 0x10)).reg ((o - 0x600) % 0x10)
  else s.readHif o

/-- The class a context's register shows: 4 while its invocation runs in the background class (R319). -/
def Ctx.shownClass (c : Ctx) : Nat :=
  match c.running with
  | some i => if i.background then 4 else c.cls
  | none => c.cls

/-- The deadline register of a context (R319). -/
def Ctx.deadline (c : Ctx) : U64 :=
  match c.head with
  | some i => BitVec.ofNat 64 i.deadline
  | none => 0

/-- The DIS block (R319, R320). -/
def State.readDis (s : State) (o : Nat) : U32 :=
  let d := s.dis
  let c := s.ctx d.sel.toNat
  if 0x100 ≤ o ∧ o < 0x200 then
    match tfind (s.region ((o - 0x100) / 0x20)).rslots ((o - 0x100) % 0x20 / 4) with
    | some x => word [(31, 1), (0, x)]
    | none => 0
  else if 0x200 ≤ o ∧ o < 0x220 then
    let g := s.region ((o - 0x200) / 4)
    word [(31, bit g.coresCtx.isSome), (16, g.coresCtx.getD 0), (15, bit g.gauCtx.isSome), (0, g.gauCtx.getD 0)]
  else if 0x300 ≤ o ∧ o < 0x320 then
    let g := s.region ((o - 0x300) / 4)
    word [(16, g.reissues.toNat), (0, g.copyWon.toNat)]
  else
    match o with
    | 0x00 => word [(31, bit d.inService), (16, d.nCtx), (0, (s.ctxNums.filter fun c => (s.ctx c).state == 1).length)]
    | 0x04 => word [(0, d.sel.toNat)]
    | 0x08 => word [(29, c.state.toNat), (26, c.region), (25, bit c.rslot.isSome), (22, c.rslot.getD 0), (19, c.shownClass),
        (18, bit (c.overBudget && decide (c.level s.now < token))), (17, bit c.gau), (0, c.plan)]
    | 0x0C => lo32 c.deadline
    | 0x10 => hi32 c.deadline
    | 0x14 => word [(16, c.misses.toNat), (8, c.overrun.toNat), (0, c.queue.length)]
    | 0x18 => word [(31, bit c.wait.isSome), (0, (c.wait.getD 0).toNat)]
    | 0x20 => d.swaps
    | 0x24 => d.cxrs
    | 0x28 => word [(28, d.lastCause.toNat), (0, d.lastCtx.toNat)]
    | _ => 0

/-- The BPM block (R356). -/
def State.readBpm (s : State) (o : Nat) : U32 :=
  let b := s.bpm
  let p := s.pool b.sel.toNat
  match o with
  | 0x00 => word [(31, bit b.inService), (0, b.npools)]
  | 0x04 => word [(0, b.sel.toNat)]
  | 0x08 => word [(29, p.use), (22, p.log2)]
  | 0x0C => word [(0, p.count)]
  | 0x10 => lo32 p.base
  | 0x14 => hi32 p.base
  | 0x18 => word [(0, p.free)]
  | 0x1C => word [(0, p.low)]
  | 0x20 => word [(16, p.waits.toNat), (0, satN 16 p.waiters.length)]
  | 0x40 => word [(0, b.shares)]
  | 0x80 => word [(16, b.lastReq.toNat), (0, b.lastCode.toNat)]
  | 0x84 => b.lastH
  | _ => if 0x44 ≤ o ∧ o ≤ 0x64 ∧ o % 4 = 0 then word [(0, (tget 0 b.errors ((o - 0x44) / 4 + 1)).toNat)] else 0

/-- The tracks in a state. -/
def State.tracksIn (s : State) (t : Nat) : Nat := (s.tke.tracks.filter fun e => e.2.tstate == t).length

/-- The sequences of the batch (R317). -/
def State.batchSize (s : State) : Nat := (s.tke.tracks.filter fun e => e.2.inBatch).length

/-- Free KV pages. -/
def State.kvFree (s : State) : Nat :=
  match s.tracker with
  | some t => (s.pool t.kvPool.toNat).free
  | none => 0

/-- The TKE block (R321). An association is one command, so that no pipeline is BUSY between commands (log entry 37). -/
def State.readTke (s : State) (o : Nat) : U32 :=
  let k := s.tke
  match o with
  | 0x00 => word [(31, bit k.inService)]
  | 0x04 => word [(0, s.tracksIn 1)]
  | 0x08 => word [(0, s.tracksIn 2)]
  | 0x0C => k.assocs
  | 0x10 => word [(16, k.noContext.toNat), (8, k.overDet.toNat), (0, k.concealed.toNat)]
  | 0x14 => word [(16, k.accepted.toNat), (0, k.rejected.toNat)]
  | 0x18 => k.tick
  | 0x1C => word [(16, s.batchSize), (0, k.late.toNat)]
  | 0x20 => word [(0, s.kvFree)]
  | 0x24 => word [(16, k.deferLast.toNat), (0, k.deferTotal.toNat)]
  | _ => 0

/-- The oldest blocking wait's object. -/
def State.longest (s : State) : Nat :=
  match leastBy (fun (a b : WaitEntry) => decide (a.since < b.since)) s.syn.waits with
  | some w => w.obj.toNat
  | none => 0

/-- The SYN block (R322). -/
def State.readSyn (s : State) (o : Nat) : U32 :=
  if o < 0x40000 then (if o % 4 = 0 then tget 0 s.syn.values (o / 4) else 0)
  else
    match o with
    | 0x40000 => word [(0, s.syn.waits.length % 8192)]
    | 0x40004 => s.syn.ops
    | 0x40008 => word [(0, s.longest)]
    | _ => 0

/-- Slots whose home is engine `e`; none while it is out of service. -/
def State.homeCount (s : State) (e : Nat) : Nat := if (s.deng e).inService then (s.adm.homes.filter fun h => h.2 == e).length else 0

/-- The DEC blocks (R122 to R124). -/
def State.readDec (s : State) (o : Nat) : U32 :=
  if o < 0x100000 then
    let e := o / 0x10000
    let g := s.deng e
    if 9 ≤ e then 0
    else
      match o % 0x10000 with
      | 0x0 => word [(31, bit g.inService), (30, bit g.fenced), (24, g.entries.length), (16, s.homeCount e), (15, bit g.pix.isSome),
          (0, match g.pix with | some p => p.slot | none => 0)]
      | 0x4 => g.committed
      | 0x8 => word [(16, g.undo.toNat), (0, g.steals.toNat)]
      | 0xC => word [(16, g.spillPeak.toNat)]
      | _ => 0
  else
    let n := (o - 0x100000) / 0x40
    let t := s.slot n
    if 512 ≤ n then 0
    else
      match (o - 0x100000) % 0x40 with
      | 0x00 => t.put
      | 0x04 => t.get
      | 0x08 => word [(29, t.state.toNat), (28, bit t.pull), (24, t.engine), (0, t.lastCode.toNat)]
      | 0x0C => word [(0, t.events.toNat)]
      | 0x10 => word [(16, t.dropped.toNat), (0, t.concealed.toNat)]
      | 0x14 => t.ringAddr
      | 0x18 => lo32 t.hostRing
      | 0x1C => hi32 t.hostRing
      | 0x20 => lo32 t.mirror
      | 0x24 => hi32 t.mirror
      | 0x28 => t.fetch
      | _ => 0

/-- Sessions placed on an encode engine. -/
def State.sessionsOn (s : State) (e : Nat) : Nat := (s.enc.sess.filter fun x => x.2.state != 0 && x.2.engine == e).length

/-- The ENC blocks (R148, R149). SESSIONS counts the sessions in use, and LOAD is rounded up to whole Mpix/s (DESIGN CHOICE, log entry 132). -/
def State.readEnc (s : State) (o : Nat) : U32 :=
  if o < 0x80000 then
    let e := o / 0x10000
    let g := s.eeng e
    if 5 ≤ e then 0
    else
      match o % 0x10000 with
      | 0x0 => word [(31, bit g.inService), (30, bit g.fenced), (29, bit g.job.isSome),
          (8, match g.job with | some j => j.sess | none => 0), (0, s.sessionsOn e)]
      | 0x4 => g.encoded
      | 0x8 => word [(0, satN 10 (cdiv g.load 1000000))]
      | _ => 0
  else
    let n := (o - 0x80000) / 0x40
    let t := s.sess n
    if 64 ≤ n then 0
    else
      match (o - 0x80000) % 0x40 with
      | 0x00 => word [(30, t.state.toNat), (27, t.engine), (20, t.profile.toNat % 16), (0, t.slot)]
      | 0x04 => t.put
      | 0x08 => t.get
      | 0x0C => word [(16, t.dropped.toNat), (0, t.encoded.toNat)]
      | 0x10 => word [(16, t.overflows.toNat), (0, satN 16 (t.debt / 64))]
      | _ => 0

/-- The CSE blocks (R284). -/
def State.readCse (s : State) (o : Nat) : U32 :=
  let e := o / 0x10000
  let g := s.cseEng e
  if 4 ≤ e then 0
  else
    match o % 0x10000 with
    | 0x0 => word [(31, bit g.inService), (30, bit g.fenced), (29, bit g.running.isSome), (16, g.queue.length)]
    | 0x4 => g.jobs
    | 0x8 => BitVec.ofNat 32 (g.pixels / 1024)
    | 0xC => word [(16, g.badBoxes.toNat), (0, g.poisoned.toNat)]
    | _ => 0

/-- The DMC blocks (R354, R355). -/
def State.readDmc (s : State) (o : Nat) : U32 :=
  if 0xF00000 ≤ o then
    match o - 0xF00000 with
    | 0x0 => word [(19, s.nChan), (14, s.dmc.grain)]
    | 0x4 => word ((List.range 24).map fun k => (k, bit (s.chan k).retired))
    | 0x8 => word [(16, s.dmc.wmIngest.toNat), (0, s.dmc.wmDecode.toNat)]
    | _ => 0
  else
    let k := o / 0x10000
    let c := s.chan k
    let t := tget {} s.dmc.trn k
    let x := o % 0x10000
    if 24 ≤ k then 0
    else if 0x40 ≤ x ∧ x < 0x80 ∧ x % 4 = 0 then
      word [(24, (tget 0 t.wr ((x - 0x40) / 4)).toNat), (16, (tget 0 t.rd ((x - 0x40) / 4)).toNat)]
    else
      match x with
      | 0x00 => word [(31, bit c.inService), (30, bit c.retired), (29, bit c.trained), (28, bit c.selfRefresh), (27, bit c.hot),
          (26, bit c.panic), (25, bit c.lasting), (16, c.standins.length), (8, c.pprDone.toNat), (0, c.mr4.toNat)]
      | 0x04 => word [(16, c.corrected.toNat), (8, c.uncorrected.toNat), (0, c.poisonReads.toNat)]
      | 0x08 => word [(30, c.errKind.toNat), (17, c.errBank.toNat), (0, c.errRow.toNat)]
      | 0x0C => c.panicCycles
      | 0x10 => word [(16, c.scrubPasses.toNat), (0, c.scrubMarked.toNat)]
      | 0x20 => word [(30, bit t.busy), (27, t.step.toNat), (16, t.code.toNat)]
      | 0x24 => word [(0, t.pat.toNat)]
      | 0x28 => lo32 t.user
      | 0x2C => hi32 t.user
      | 0x30 => word [(16, t.failMask.toNat), (0, t.errors.toNat)]
      | _ => 0

/-- The four abort counts of a unit as one word (R184). -/
def abortWord (p u c f : Byte) : U32 := word [(24, p.toNat), (16, u.toNat), (8, c.toNat), (0, f.toNat)]

/-- A core's registers (R183 to R185). -/
def State.readCore (s : State) (r i o : Nat) : U32 :=
  let c := s.core r i
  if 0x20 ≤ o ∧ o < 0x40 ∧ o % 4 = 0 then c.desc.getD ((o - 0x20) / 4) 0
  else
    match o with
    | 0x00 =>
      word [(31, bit c.inService), (30, bit ((s.region r).fenced.getLsbD i)),
        (28, if c.clock.aborting (s.aclk r) then 3 else match c.running with | some _ => if s.aclkStopped r then 2 else 1 | none => 0),
        (27, bit c.sat), (26, bit c.inBank), (20, match c.running with | some p => p.desc.wbits.toNat % 16 | none => 0),
        (19, match c.running with | some p => bit (p.desc.mode.getLsbD 2 && p.desc.mode.getLsbD 3) | none => 0), (16, min 3 c.queue.length)]
    | 0x04 => if c.running.isSome then BitVec.ofNat 32 (c.clock.elapsed (s.aclk r)) else c.cycles
    | 0x08 => c.passes
    | 0x0C => abortWord c.abPreempt c.abUnit c.abCtx c.abFence
    | 0x10 => word [(16, c.bubbles.toNat), (0, c.holds.toNat)]
    | 0x14 => word [(16, c.stThrottle.toNat), (0, c.stDip.toNat)]
    | _ => 0

/-- A vector engine's registers (R249 to R251). -/
def State.readVec (s : State) (r i o : Nat) : U32 :=
  let v := s.vec r i
  if 0x40 ≤ o ∧ o < 0xC0 ∧ o % 4 = 0 then v.desc.getD ((o - 0x40) / 4) 0
  else
    match o with
    | 0x00 =>
      word [(31, bit v.running.isSome), (30, bit (v.running.isSome && s.aclkStopped r)), (29, bit (v.clock.aborting (s.aclk r))), (27, min 3 v.queue.length),
        (16, (v.desc.getD 0 0).toNat % 256), (5, bit v.laneFault), (4, bit v.badInput), (3, bit v.sat), (2, bit v.nan),
        (1, bit v.inf), (0, bit v.wait)]
    | 0x04 => if v.running.isSome then BitVec.ofNat 32 (v.clock.elapsed (s.aclk r)) else v.cycles
    | 0x08 => v.done
    | 0x0C => v.skips
    | 0x10 => word [(16, v.badBoxes.toNat), (0, v.badRecs.toNat)]
    | 0x14 => v.aborts
    | 0x18 => v.fault
    | _ => 0

/-- A Millefeuille's registers (R186 to R188). -/
def State.readGau (s : State) (r o : Nat) : U32 :=
  let g := (s.region r).gau
  if 0x40 ≤ o ∧ o < 0x80 ∧ o % 4 = 0 then
    let e := mapGet g.tileMap ((o - 0x40) / 4)
    word [(31, bit e.valid), (0, e.phys)]
  else
    match o with
    | 0x00 =>
      word [(31, bit g.inService), (30, bit g.running.isSome), (28, g.gang), (26, g.gangAvail), (25, bit (g.running.isSome && s.aclkStopped r)), (24, bit g.sat),
        (23, bit g.nan), (22, bit g.inf), (16, min 3 g.queue.length)]
    | 0x04 => if g.running.isSome then BitVec.ofNat 32 (g.clock.elapsed (s.aclk r)) else g.cycles
    | 0x08 => g.passes
    | 0x0C => abortWord g.abPreempt g.abUnit g.abCtx g.abFence
    | 0x10 => word [(16, g.stThrottle.toNat), (0, g.stDip.toNat)]
    | 0x14 => word [(0, g.fenced.toNat)]
    | 0x18 => g.modeChanges
    | _ => 0

/-- A work counter's registers (R268). -/
def Wc.reg (w : Wc) (o : Nat) : U32 :=
  match o with
  | 0x0 => word [(31, bit w.active), (30, bit w.fused), (16, w.qlog), (0, w.layer)]
  | 0x4 => word [(16, w.units), (0, w.next)]
  | 0x8 => word [(16, w.tiles), (0, w.doneN)]
  | 0xC => word [(24, w.reissues.toNat), (16, w.dupes.toNat), (0, w.skips.toNat)]
  | _ => 0

/-- RGN_SLOT_MAP_n as written last. -/
def Region.written (g : Region) (n : Nat) : MapEntry :=
  match tfind g.slotNext n with
  | some e => e
  | none => mapGet g.slotMap n

/-- The RGN blocks (R26, R27, R268). -/
def State.readRgn (s : State) (o : Nat) : U32 :=
  let r := o / 0x200000
  let x := o % 0x200000
  if 0x40 ≤ x ∧ x < 0x80 ∧ x % 4 = 0 then
    let e := (s.region r).written ((x - 0x40) / 4)
    word [(31, bit e.valid), (0, e.phys)]
  else if x = 0x80 then word [(0, (s.region r).fenced.toNat)]
  else if 0x1000 ≤ x ∧ x < 0x1400 then (s.wc r ((x - 0x1000) / 0x10)).reg ((x - 0x1000) % 0x10)
  else if 0x40000 ≤ x ∧ x < 0x160000 then
    let i := (x - 0x40000) / 0x10000
    let y := x % 0x10000
    if 0x100 ≤ y ∧ y < 0x200 then s.readVec r i (y - 0x100) else s.readCore r i y
  else if 0x180000 ≤ x ∧ x < 0x190000 then s.readGau r (x - 0x180000)
  else 0

/-- The effective tolerance of R438, in µs. -/
def State.tEff (s : State) : Nat := min s.pwr.tol.toNat s.pwr.slack.toNat

/-- The deepest state whose wake latency T_eff allows: 0 Run to 4 Off (R15, R438). -/
def deepestFor (tEff : Nat) : Nat :=
  if 6000000 ≤ tEff then 4 else if 3000 ≤ tEff then 3 else if 150 ≤ tEff then 2 else if 4 ≤ tEff then 1 else 0

/-- The 1 ms average input power, in mW (R447). -/
def Pwr.average (p : Pwr) : Nat := if p.samples.isEmpty then 0 else p.samples.foldl (· + ·) 0 / p.samples.length

/-- The power states as coded in PWR_STATUS. -/
def PState.code : PState → Nat
  | .run => 0
  | .doze => 1
  | .nap => 2
  | .slumber => 3
  | .off => 0

/-- The MGC has switched domain `d` on: a unit of it is in service, or was when a PTR took it out (R437). -/
def State.switchedOn (s : State) (d : Nat) : Bool :=
  s.pwr.heldOn.contains d ||
    (if d < 144 then (s.core (d / 18) (d % 18)).inService
    else if d < 160 then (s.region (d % 8)).gau.inService
    else if d < 169 then (s.deng (d - 160)).inService
    else if d < 174 then (s.eeng (d - 169)).inService
    else if d < 178 then (s.cseEng (d - 174)).inService
    else if d < 184 then (range (4 * (d - 178)) 4).any fun k => (s.chan k).inService
    else if d < 186 then s.dis.inService
    else if d = 189 then s.tke.inService
    else if d = 190 then s.bpm.inService
    else decide (d < 192))

/-- Power domain `d` is on (R436, R437, R439, R443, R389): compute and media off in Nap and Slumber, the links, track engine and pool manager off in
Slumber, a unit that is not in service off; in PARKED only PCIe controller and CRT are on, and the dump SRAM, which stays on in every state except Off (R19). -/
def State.domainOn (s : State) (d : Nat) : Bool :=
  let deep := s.pwr.pstate == .nap || s.pwr.pstate == .slumber
  let slumber := s.pwr.pstate == .slumber
  let up := s.crt.stage != 0 || s.dev.state == .refused
  if d = 186 || d = 187 || d = 191 then up
  else if s.dev.state == .parked then false
  else if d < 144 then s.switchedOn d && !deep && !(s.regPwr (d / 18)).nap
  else if d < 160 then s.switchedOn d && !deep && !(s.regPwr (d % 8)).nap
  else if d < 178 then s.switchedOn d && !deep
  else if d < 184 then s.switchedOn d
  else if d < 186 || d = 189 || d = 190 then s.switchedOn d && !slumber
  else up && s.switchedOn d

/-- The domains of partition `p`: a region's cores, Millefeuille and region buffer; the media engines; track engine and pool manager. -/
def partDomains (p : Nat) : List Nat :=
  if p < 8 then range (18 * p) 18 ++ [144 + p, 152 + p] else if p = 8 then range 160 18 else [189, 190]

/-- A PTR leaves the power domains as they are: what is on stays on until the units are in service again (R437). -/
def State.holdDomains (p : Nat) (s : State) : State :=
  let on := (partDomains p).filter s.switchedOn
  s.updPwr fun w => { w with heldOn := on ++ w.heldOn }

/-- The units of partition `p` are back in service, and their domains follow them. -/
def State.letDomains (p : Nat) (s : State) : State :=
  s.updPwr fun w => { w with heldOn := w.heldOn.filter fun d => !(partDomains p).contains d }

/-- The PWR and CLK blocks (R454, R455). -/
def State.readPwr (s : State) (o : Nat) : U32 :=
  let p := s.pwr
  if 0x80000 ≤ o then
    if o < 0x80044 ∧ o % 4 = 0 then
      let l := tget {} s.clk ((o - 0x80000) / 4)
      word [(31, bit l.locked), (16, l.freq), (8, l.spread), (0, l.relocks.toNat)]
    else 0
  else if 0x20 ≤ o ∧ o < 0x40 ∧ o % 4 = 0 then
    let g := s.regPwr ((o - 0x20) / 4)
    word [(31, bit g.nap), (30, bit (decide (s.adm.fAdm < g.freq))), (29, bit (g.freq != 0 && decide (g.freq < s.adm.fAdm))), (16, g.freq), (8, g.volt),
      (0, g.tj.toNat)]
  else if 0x40 ≤ o ∧ o < 0x4C ∧ o % 4 = 0 then
    let d := tget {} p.dies ((o - 0x40) / 4)
    word [(16, d.tjMax.toNat), (8, d.tj.toNat), (7, bit d.throttle)]
  else if 0x60 ≤ o ∧ o < 0x78 ∧ o % 4 = 0 then word ((List.range 32).map fun i => (i, bit (s.domainOn (32 * ((o - 0x60) / 4) + i))))
  else
    match o with
    | 0x000 => word [(29, p.pstate.code), (26, if s.adm.done then deepestFor s.tEff else 0), (8, p.limit), (0, s.adm.fAdm)]
    | 0x004 => p.tol
    | 0x008 => p.slack
    | 0x00C => word [(16, satN 16 (p.average / 100)), (0, p.volts.toNat)]
    | 0x010 => word [(16, p.powerSteps.toNat), (8, p.fast.toNat), (0, p.thermal.toNat)]
    | _ => 0

/-- Threshold and window of an error class, by default those of R399. -/
def Ras.threshold (r : Ras) (k : Nat) : Nat := tget ([16, 2, 3, 16, 8].getD k 0) r.thr k
def Ras.window (r : Ras) (k : Nat) : Nat := tget ([86400, 604800, 3600, 600, 3600].getD k 0) r.win k

/-- Kept events within WINDOW seconds of the newest. -/
def within (times : List Nat) (window : Nat) : Nat :=
  match times with
  | [] => 0
  | t :: _ => (times.filter fun u => decide (t - u ≤ window * 1000000000)).length

/-- The RAS block (R434). -/
def State.readRas (s : State) (o : Nat) : U32 :=
  let r := s.ras
  let u := s.unitRas r.sel.toNat
  if 0x10 ≤ o ∧ o < 0x24 ∧ o % 4 = 0 then word [(24, r.threshold ((o - 0x10) / 4)), (0, r.window ((o - 0x10) / 4))]
  else if 0x80 ≤ o ∧ o < 0xC0 ∧ o % 4 = 0 then
    match s.trc.list[(o - 0x80) / 4]? with
    | some n => word [(28, n.kind), (0, n.id)]
    | none => 0
  else
    match o with
    | 0x000 => word [(31, bit r.inService), (16, r.lasting.toNat), (0, r.lastCode.toNat)]
    | 0x040 => word [(0, r.sel.toNat)]
    | 0x044 => word [(31, bit u.fenced), (30, bit u.spareIn), (27, u.cls.toNat)]
    | 0x048 => word ((List.range 5).map fun k => (5 * k, satN 5 (within (tget [] u.times k) (r.window k))))
    | 0x04C => BitVec.ofNat 32 u.lastAt
    | 0x050 => BitVec.ofNat 32 (u.lastAt / 2 ^ 32)
    | 0x060 => word [(16, satN 5 (within r.dipTimes (r.window 3))), (0, r.dips.toNat)]
    | 0x070 => s.trc.checks
    | 0x074 => word [(16, s.trc.cycles.toNat), (0, s.trc.stalls.toNat)]
    | 0x078 => word [(28, s.trc.kind.toNat), (16, s.trc.members.toNat), (0, s.trc.acted.toNat)]
    | 0x0C0 => word [(31, bit (s.crt.pend.any fun p => match p.payload with | .repair _ => true | _ => false)), (0, min 4095 r.repair.length)]
    | 0x0C4 => word [(30, r.stResult.toNat), (16, r.stFailed.toNat), (0, r.stMs.toNat)]
    | 0x0D0 => word [(24, r.ovCxr.toNat), (16, r.ovEnr.toNat), (8, r.ovPtr.toNat)]
    | 0x0D4 => word [(16, r.nEnr.toNat), (0, r.nPtr.toNat)]
    | _ => 0

/-- The reset runs. -/
def ResetRun.active (r : ResetRun) : Bool := !r.taken && !r.ended

/-- Every channel that is not retired takes requests. -/
def State.allChannels (s : State) : Bool := s.channels.all fun k => (s.chan k).inService && !(s.chan k).selfRefresh

/-- Crumb copies its dumps to the DRAM region: every DMC is in service, and no CHR is pending (R431). -/
def State.dumpsToDram (s : State) : Bool := s.allChannels && !s.rst.runs.any fun r => r.active && r.scope == .chip

/-- The DBG block (R435). -/
def State.readDbg (s : State) (o : Nat) : U32 :=
  let d := s.dbg
  match o with
  | 0x00 => word [(31, bit d.current.isSome), (30, bit s.dumpsToDram), (16, d.sram.length), (8, d.dramDumps)]
  | 0x04 => d.lastId
  | 0x08 => word [(8, d.errClasses.toNat), (3, bit d.resetEn), (2, bit d.treacleEn), (1, bit d.errorEn), (0, bit d.pinEn)]
  | 0x0C => word [(0, d.merged.toNat)]
  | 0x10 => word [(16, d.lastMissed.toNat), (0, d.lastKib.toNat)]
  | 0x14 => d.bar4
  | 0x18 => d.bar4Off
  | _ => 0

/-- The CART_ID of the Recipe in force (R71). -/
def State.cartId (s : State) : BitVec 128 :=
  match s.crt.recipe with
  | some r => r.header.cartId
  | none => 0

/-- erase_life is 0, by the figures of the cartridge's life record (R64, R68). -/
def Crt.worn (c : Crt) : Bool := c.lifeRead && c.erase == 0

/-- The CRT block (R68 to R71). -/
def State.readCrt (s : State) (o : Nat) : U32 :=
  let c := s.crt
  if 0x10 ≤ o ∧ o < 0x20 ∧ o % 4 = 0 then (s.cartId >>> (32 * ((o - 0x10) / 4))).setWidth 32
  else
    match o with
    | 0x0 => word [(31, bit c.present), (30, bit c.sameCart), (29, bit c.writeBusy), (28, bit c.worn),
        (16, satN 8 c.pend.length), (8, c.stage.toNat)]
    | 0x4 => word [(20, c.retention), (10, c.erase), (0, c.life)]
    | 0x8 => word [(5, bit c.untrained), (4, bit c.foreign), (3, bit c.lifeLow), (2, bit c.writeFail), (1, bit c.inserted), (0, bit c.removed)]
    | _ => 0

/-- Whole milliseconds since the watchdog's phase started (R456). -/
def State.wdogMs (s : State) : Nat := if s.aon.wdogArmed then min 2097151 ((s.now - s.aon.wdogStart) / 1000000) else 0

/-- The AON block (R456). -/
def State.readAon (s : State) (o : Nat) : U32 :=
  let a := s.aon
  match o with
  | 0x00 => word [(24, s.ep.epoch.toNat)]
  | 0x04 => s.ep.count
  | 0x08 => word [(16, a.cause.toNat), (0, a.scope.toNat)]
  | 0x0C => word [(29, a.level.toNat), (20, a.scopeKind.toNat)]
  | 0x10 => lo32 a.causeAt
  | 0x14 => hi32 a.causeAt
  | 0x18 => word [(8, bit a.pwcReq), (0, a.pwcCause.toNat)]
  | 0x1C => word [(31, bit a.warn), (30, bit a.mainOk), (0, a.v12.toNat)]
  | 0x20 => word [(31, bit a.wdogArmed), (30, bit a.wdogBoot), (0, s.wdogMs)]
  | 0x24 => a.dumpNext
  | 0x28 => lo32 a.offAt
  | 0x2C => hi32 a.offAt
  | _ => 0

/-- What a 32-bit read of BAR0 at offset `o` returns (R361). -/
def State.bar0 (s : State) (o : Nat) : U32 :=
  if o < 0x100000 then s.readHifAll o
  else if o < 0x200000 then s.readDis (o - 0x100000)
  else if o < 0x300000 then s.readBpm (o - 0x200000)
  else if o < 0x400000 then s.readTke (o - 0x300000)
  else if o < 0x800000 then s.readSyn (o - 0x400000)
  else if o < 0xA00000 then s.readDec (o - 0x800000)
  else if o < 0xB00000 then s.readEnc (o - 0xA00000)
  else if o < 0x1000000 then s.readCse (o - 0xB00000)
  else if o < 0x2000000 then s.readDmc (o - 0x1000000)
  else if o < 0x3000000 then s.readRgn (o - 0x2000000)
  else if o < 0x3100000 then s.readPwr (o - 0x3000000)
  else if o < 0x3200000 then s.readRas (o - 0x3100000)
  else if o < 0x3300000 then s.readDbg (o - 0x3200000)
  else if o < 0x3400000 then s.readCrt (o - 0x3300000)
  else if o < 0x4000000 then s.readAon (o - 0x3400000)
  else 0

/-- The register blocks of a dump (R432): base and words up to the last defined register. -/
def blocks : List (Nat × Nat) :=
  [(0x0000000, 0x211), (0x0100000, 0xC8), (0x0200000, 0x22), (0x0300000, 0x0A), (0x0400000, 0x10003)]
  ++ (List.range 9).map (fun e => (0x0800000 + e * 0x10000, 4))
  ++ [(0x0900000, 0x2000)]
  ++ (List.range 5).map (fun e => (0x0A00000 + e * 0x10000, 3))
  ++ [(0x0A80000, 0x400)]
  ++ (List.range 4).map (fun e => (0x0B00000 + e * 0x10000, 4))
  ++ (List.range 24).map (fun k => (0x1000000 + k * 0x10000, 0x20))
  ++ [(0x1F00000, 3)]
  ++ (List.range 8).flatMap (fun r =>
      [(0x2000000 + r * 0x200000, 0x500)]
      ++ (List.range 18).map (fun i => (0x2000000 + r * 0x200000 + 0x40000 + i * 0x10000, 0x70))
      ++ [(0x2000000 + r * 0x200000 + 0x180000, 0x20)])
  ++ [(0x3000000, 0x1E), (0x3080000, 0x11), (0x3100000, 0x36), (0x3200000, 7), (0x3300000, 8), (0x3400000, 0x0C)]

/-- Every register word that is not zero, by offset: what the snapshot registers take at a strobe (R427). -/
def State.image (s : State) : Tbl U32 :=
  blocks.flatMap fun b => (List.range b.2).filterMap fun i =>
    let v := s.bar0 (b.1 + 4 * i)
    if v = 0 then none else some (b.1 + 4 * i, v)

end Sys2Proof.Machine
end

