-- ==== Sys2Proof/Machine/Float.lean ====
section
/-! DEFINITION. The number formats of R194 and the conversions and roundings of R195, in exact arithmetic: a float is a sign, a whole number
and a power of two, and every operation rounds once. -/

namespace Sys2Proof.Machine

/-- A floating-point value. -/
inductive Fl where
  | nan (neg : Bool)
  | inf (neg : Bool)
  | fin (neg : Bool) (m : Nat) (e : Int)
deriving DecidableEq, Repr

/-- A format of R194: mantissa and exponent widths, bias, and whether it is E4M3, which has no infinity. -/
structure Fmt where
  man  : Nat
  exp  : Nat
  bias : Nat
  e4m3 : Bool
deriving DecidableEq, Repr

def fp32 : Fmt := { man := 23, exp := 8, bias := 127, e4m3 := false }
def fp16 : Fmt := { man := 10, exp := 5, bias := 15, e4m3 := false }
def bf16 : Fmt := { man := 7, exp := 8, bias := 127, e4m3 := false }
def e4m3 : Fmt := { man := 3, exp := 4, bias := 7, e4m3 := true }
def e5m2 : Fmt := { man := 2, exp := 5, bias := 15, e4m3 := false }

/-- The largest exponent field. -/
def Fmt.expMax (f : Fmt) : Nat := 2 ^ f.exp - 1

/-- The sign bit of a word. -/
def Fmt.signBit (f : Fmt) (neg : Bool) : Nat := bit neg * 2 ^ (f.exp + f.man)

/-- The device NaN (R194). -/
def Fmt.nanBits (f : Fmt) : Nat :=
  if f.e4m3 then f.expMax * 2 ^ f.man + (2 ^ f.man - 1) else f.expMax * 2 ^ f.man + 2 ^ (f.man - 1)

/-- The value of a word. -/
def Fmt.dec (f : Fmt) (w : Nat) : Fl :=
  let neg := w.testBit (f.exp + f.man)
  let x := w / 2 ^ f.man % 2 ^ f.exp
  let m := w % 2 ^ f.man
  if x = f.expMax ∧ f.e4m3 then
    if m = 2 ^ f.man - 1 then .nan neg else .fin neg (2 ^ f.man + m) (Int.ofNat x - f.bias - f.man)
  else if x = f.expMax then (if m = 0 then .inf neg else .nan neg)
  else if x = 0 then .fin neg m (1 - Int.ofNat f.bias - f.man)
  else .fin neg (2 ^ f.man + m) (Int.ofNat x - f.bias - f.man)

/-- `m` × 2^`-sh`, and a tail below it when `sticky`, rounded to nearest, ties to even. -/
def rneShift (m sh : Nat) (sticky : Bool) : Nat :=
  let q := m / 2 ^ sh
  let r := m % 2 ^ sh
  let h := 2 ^ (sh - 1)
  if sh = 0 then q
  else if r > h || (r == h && (sticky || q % 2 == 1)) then q + 1
  else q

/-- The word of a finite magnitude: the position in the format's order of magnitudes, which an overflow carries past the largest finite
value (R195). A `sticky` tail needs `m` to have bits to spare. -/
def Fmt.magnitude (f : Fmt) (m : Nat) (e : Int) (sticky : Bool) : Nat :=
  if m = 0 then 0
  else
    let emin : Int := 1 - Int.ofNat f.bias - f.man
    let top : Int := Int.ofNat m.log2 + e - f.man
    let q := max top emin
    let r := if q ≤ e then m * 2 ^ (e - q).toNat else rneShift m (q - e).toNat sticky
    (q - emin).toNat * 2 ^ f.man + r

/-- A value rounded to a format, ties to even (R195). -/
def Fmt.enc (f : Fmt) (v : Fl) (sticky : Bool := false) : Nat :=
  let big := if f.e4m3 then f.nanBits - 1 else f.expMax * 2 ^ f.man
  match v with
  | .nan s => f.signBit s + f.nanBits
  | .inf s => f.signBit s + big
  | .fin s m e => f.signBit s + min (f.magnitude m e sticky) big

/-- A finite value overflows to infinity in the format. -/
def Fmt.overflows (f : Fmt) (v : Fl) : Bool :=
  match v with
  | .fin _ m e => !f.e4m3 && decide (f.expMax * 2 ^ f.man ≤ f.magnitude m e false)
  | _ => false

def Fl.isNan : Fl → Bool
  | .nan _ => true
  | _ => false

def Fl.isInf : Fl → Bool
  | .inf _ => true
  | _ => false

def Fl.isFin : Fl → Bool
  | .fin _ _ _ => true
  | _ => false

def Fl.isZero : Fl → Bool
  | .fin _ 0 _ => true
  | _ => false

def Fl.neg : Fl → Bool
  | .nan s => s
  | .inf s => s
  | .fin s _ _ => s

def Fl.negate : Fl → Fl
  | .nan s => .nan (!s)
  | .inf s => .inf (!s)
  | .fin s m e => .fin (!s) m e

/-- The value of an integer. -/
def Fl.ofInt (i : Int) : Fl := .fin (decide (i < 0)) i.natAbs 0

/-- A signed whole number of units 2^`e`. -/
def signed (neg : Bool) (m : Nat) : Int := if neg then -(Int.ofNat m) else Int.ofNat m

/-- A value rounded to an integer, ties to even, NaN as 0 and infinity at the limits (R195). -/
def Fl.toInt (v : Fl) (lo hi : Int) : Int :=
  match v with
  | .nan _ => 0
  | .inf s => if s then lo else hi
  | .fin s m e =>
    let r := if 0 ≤ e then m * 2 ^ e.toNat else rneShift m (-e).toNat false
    max lo (min hi (signed s r))

/-- The largest integer not above a finite value. -/
def Fl.floor (v : Fl) : Int :=
  match v with
  | .fin s m e => if 0 ≤ e then signed s (m * 2 ^ e.toNat) else (signed s m).fdiv (2 ^ (-e).toNat)
  | _ => 0

/-- The exact product, with the sign of a NaN. -/
def Fl.mul (ns : Bool) (a b : Fl) : Fl :=
  match a, b with
  | .nan _, _ => .nan ns
  | _, .nan _ => .nan ns
  | .inf s, y => if y.isZero then .nan ns else .inf (s != y.neg)
  | x, .inf s => if x.isZero then .nan ns else .inf (s != x.neg)
  | .fin s m e, .fin t n g => .fin (s != t) (m * n) (e + g)

/-- The exact sum, with the sign of a NaN or of a zero from operands of both signs. -/
def Fl.add (ns : Bool) (a b : Fl) : Fl :=
  match a, b with
  | .nan _, _ => .nan ns
  | _, .nan _ => .nan ns
  | .inf s, .inf t => if s = t then .inf s else .nan ns
  | .inf s, _ => .inf s
  | _, .inf t => .inf t
  | .fin s m e, .fin t n g =>
    let lo := min e g
    let i := signed s (m * 2 ^ (e - lo).toNat) + signed t (n * 2 ^ (g - lo).toNat)
    if i = 0 then .fin (if s = t then s else ns) 0 0 else .fin (decide (i < 0)) i.natAbs lo

/-- The magnitudes are compared exactly: `a` < `b`, false with a NaN. -/
def Fl.lt (a b : Fl) : Bool :=
  match a, b with
  | .nan _, _ => false
  | _, .nan _ => false
  | .inf s, .inf t => s && !t
  | .inf s, _ => s
  | _, .inf t => !t
  | .fin s m e, .fin t n g =>
    let lo := min e g
    decide (signed s (m * 2 ^ (e - lo).toNat) < signed t (n * 2 ^ (g - lo).toNat))

/-- `a` ≤ `b`, false with a NaN. -/
def Fl.le (a b : Fl) : Bool := !a.isNan && !b.isNan && !b.lt a

/-- A quotient cut to at least 64 bits, and whether a tail is left. A quotient by 0 is infinity, 0 by 0 a NaN. -/
def Fl.div (ns : Bool) (a b : Fl) : Fl × Bool :=
  match a, b with
  | .nan _, _ => (.nan ns, false)
  | _, .nan _ => (.nan ns, false)
  | .inf s, .inf _ => (.nan s, false)
  | .inf s, y => (.inf (s != y.neg), false)
  | x, .inf t => (.fin (x.neg != t) 0 0, false)
  | .fin s m e, .fin t n g =>
    if n = 0 then (if m = 0 then (.nan ns, false) else (.inf (s != t), false))
    else
      let k := 64 + n.log2
      (.fin (s != t) (m * 2 ^ k / n) (e - g - k), decide (m * 2 ^ k % n ≠ 0))

/-- The whole square root of `n`, by `k` binary digits. -/
def isqrt : Nat → Nat → Nat
  | 0, _ => 0
  | k + 1, n =>
    let r := 2 * isqrt k (n / 4)
    if (r + 1) * (r + 1) ≤ n then r + 1 else r

/-- A square root cut to at least 64 bits, and whether a tail is left. -/
def Fl.sqrt (ns : Bool) (a : Fl) : Fl × Bool :=
  match a with
  | .nan _ => (.nan ns, false)
  | .inf s => if s then (.nan ns, false) else (.inf false, false)
  | .fin s m e =>
    if m = 0 then (.fin s 0 0, false)
    else if s then (.nan ns, false)
    else
      let odd := (e % 2).toNat
      let n := m * 2 ^ (140 + odd)
      let r := isqrt (n.log2 / 2 + 1) n
      (.fin false r ((e - Int.ofNat odd - 140) / 2), decide (r * r ≠ n))

/-! ### FP32 words -/

def f32 (w : U32) : Fl := fp32.dec w.toNat
def toF32 (v : Fl) (sticky : Bool := false) : U32 := BitVec.ofNat 32 (fp32.enc v sticky)

def fadd (a b : U32) : U32 := toF32 ((f32 a).add (Config.signOf 1 a b 0) (f32 b))
def fsub (a b : U32) : U32 := toF32 ((f32 a).add (Config.signOf 2 a b 0) (f32 b).negate)
def fmul (a b : U32) : U32 := toF32 ((f32 a).mul (Config.signOf 3 a b 0) (f32 b))
def fdiv (a b : U32) : U32 := let q := (f32 a).div (Config.signOf 4 a b 0) (f32 b); toF32 q.1 q.2
def fsqrt (a : U32) : U32 := let q := (f32 a).sqrt (Config.signOf 5 a 0 0); toF32 q.1 q.2

/-- fma32: `a` × `b` + `c` with one rounding (R208). -/
def fma32 (a b c : U32) : U32 :=
  let ns := Config.signOf 6 a b c
  toF32 (((f32 a).mul ns (f32 b)).add ns (f32 c))

def fmaxW (a b : U32) : U32 :=
  if (f32 a).isNan || (f32 b).isNan then toF32 (.nan (Config.signOf 7 a b 0))
  else if (f32 a).lt (f32 b) then b else if (f32 b).lt (f32 a) then a
  else if a = b then a else toF32 (.fin (Config.signOf 7 a b 0) 0 0)

def fminW (a b : U32) : U32 :=
  if (f32 a).isNan || (f32 b).isNan then toF32 (.nan (Config.signOf 8 a b 0))
  else if (f32 a).lt (f32 b) then a else if (f32 b).lt (f32 a) then b
  else if a = b then a else toF32 (.fin (Config.signOf 8 a b 0) 0 0)

/-- An integer as FP32 (R195). -/
def intF32 (i : Int) : U32 := toF32 (Fl.ofInt i)

/-- An FP32 word converted to another format. -/
def fromF32 (f : Fmt) (w : U32) : Nat := f.enc (f32 w)

/-- A word of another format converted to FP32. -/
def asF32 (f : Fmt) (w : Nat) : U32 := toF32 (f.dec w)

/-- The word is finite. -/
def finite32 (w : U32) : Bool := (f32 w).isFin

/-- A positive, finite and normal word of a format (R196, R201). -/
def Fmt.posNormal (f : Fmt) (w : Nat) : Bool :=
  match f.dec w with
  | .fin false m _ => decide (2 ^ f.man ≤ m)
  | _ => false

/-- The quotient `a` ÷ `b` of finite non-negative `a` and positive `b`, converted to FP16 toward +infinity within 2^−14 and 65,504 (R213). -/
def up16 (a : Fl) (b : Nat) : Nat :=
  match a with
  | .fin _ m e =>
    let q := (Fl.fin false m e).div false (.fin false b 0)
    match q.1 with
    | .fin _ n g =>
      -- the FP16 value that truncation gives, and the next one when anything is left
      let emin : Int := -24
      let top : Int := Int.ofNat n.log2 + g - 10
      let s := max top emin
      let exact := if s ≤ g then n * 2 ^ (g - s).toNat else n / 2 ^ (s - g).toNat
      let tail := q.2 || (decide (g < s) && decide (n % 2 ^ (s - g).toNat ≠ 0))
      let w := if n = 0 then 0 else (s - emin).toNat * 1024 + exact + bit tail
      max 0x0400 (min 0x7BFF w)
    | _ => 0x7BFF
  | _ => 0x7BFF

/-- What R213 gives for a list of values: scale (FP16), zero point, constant. -/
structure Scale where
  scale : Nat
  zp    : Int
  const : Bool
deriving DecidableEq, Repr

/-- The extremes of the finite values, with 0 among them. -/
def finiteRange (xs : List Fl) : Fl × Fl :=
  xs.foldl (fun r x => if x.isFin then (if x.lt r.1 then x else r.1, if r.2.lt x then x else r.2) else r) (.fin false 0 0, .fin false 0 0)

/-- The scale of R213. -/
def scaleOf (sym : Bool) (qmin qmax : Int) (xs : List Fl) : Scale :=
  let (lo, hi) := finiteRange xs
  if lo.isZero && hi.isZero then { scale := 0x3C00, zp := 0, const := true }
  else if sym then
    let top := if hi.lt lo.negate then lo.negate else hi
    { scale := up16 top qmax.toNat, zp := 0, const := false }
  else
    let s := up16 (hi.add false lo.negate) (qmax - qmin).toNat
    let q := lo.div false (fp16.dec s)
    { scale := s, zp := max qmin (min qmax (qmin - (Fl.toInt (sticky q) (-2 ^ 40) (2 ^ 40)))), const := false }
where
  /-- A quotient with its tail as one more bit, which decides a tie. -/
  sticky (q : Fl × Bool) : Fl :=
    match q.1 with
    | .fin s m e => .fin s (2 * m + bit q.2) (e - 1)
    | v => v

/-- The code of R213: clamp(round_half_even(x ÷ scale) + zp); a NaN is encoded as zp. -/
def codeOf (s : Scale) (qmin qmax : Int) (x : Fl) : Int :=
  match x with
  | .nan _ => s.zp
  | .inf neg => if neg then qmin else qmax
  | _ =>
    let q := x.div false (fp16.dec s.scale)
    let v := match q.1 with
      | .fin t m e => Fl.fin t (2 * m + bit q.2) (e - 1)
      | v => v
    max qmin (min qmax (v.toInt (-2 ^ 60) (2 ^ 60) + s.zp))

/-- The code of a value in a float format under R213 and R245: the value over the scale, converted under R195; a NaN takes zp, which is 0, and an infinity or what lies
beyond qmax takes the code of qmax with its sign. -/
def fpCode (f : Fmt) (qmax : Nat) (s : Scale) (x : Fl) : Nat :=
  match x with
  | .nan _ => 0
  | .inf neg => f.enc (.fin neg qmax 0) false
  | .fin neg m e =>
    let q := (Fl.fin false m e).div false (fp16.dec s.scale)
    if (Fl.fin false qmax 0).lt q.1 then f.enc (.fin neg qmax 0) false
    else match q.1 with
      | .fin _ n g => f.enc (.fin neg n g) q.2
      | v => f.enc v q.2

/-- The 72-byte EMB8 block of an embedding of 64 BF16 elements (R214). -/
def emb8 (emb : List U16) : List Byte :=
  let xs := (emb.take 64).map fun w => bf16.dec w.toNat
  let s := scaleOf true (-127) 127 xs
  (xs.map fun x => BitVec.ofInt 8 (codeOf s (-127) 127 x)) ++ zeros (64 - xs.length) ++ le 2 s.scale ++ [0x01]
    ++ [BitVec.ofNat 8 (bit s.const + 2 * bit (xs.any fun x => !x.isFin))] ++ zeros 4

/-- R215: the block is accepted. -/
def emb8Ok (b : List Byte) : Bool :=
  let scale := field b 0x40 2
  let flags := field b 0x43 1
  field b 0x42 1 == 1 && decide (flags < 4) && field b 0x44 4 == 0 && (b.take 64).all (fun c => c != 0x80)
    && (fp16.posNormal scale || (scale == 0x3C00 && flags % 2 == 1))

/-- The embedding of an EMB8 block: BF16(fp32(code) × SCALE) (R215). -/
def emb8Values (b : List Byte) : List U16 :=
  let scale := asF32 fp16 (field b 0x40 2)
  (b.take 64).map fun c => BitVec.ofNat 16 (fromF32 bf16 (fmul (intF32 c.toInt) scale))

/-! ### The functions of R233 that are bounded to 2 ULP

Their values are formed in fixed point with 256 fraction bits, which leaves an error far below the bound. -/

/-- Fraction bits of the fixed point. -/
def fixBits : Nat := 256

/-- A finite value in fixed point, cut down. -/
def toFix (a : Fl) : Int :=
  match a with
  | .fin s m e => if 0 ≤ e + fixBits then signed s (m * 2 ^ (e + fixBits).toNat) else (signed s m).fdiv (2 ^ (-(e + fixBits)).toNat)
  | _ => 0

/-- The sum of y^n ÷ n! from term `n` on, for `k` terms; `t` is the term before. -/
def expSeries (y : Nat) : Nat → Nat → Nat → Nat
  | 0, _, _ => 0
  | k + 1, n, t => let u := t * y / 2 ^ fixBits / n; u + expSeries y k (n + 1) u

/-- The square of a fixed-point number, `k` times over. -/
def squares : Nat → Nat → Nat
  | 0, x => x
  | k + 1, x => squares k (x * x / 2 ^ fixBits)

/-- e to the power of a fixed-point number of at most 200. -/
def expFix (x : Nat) : Nat := squares 10 (2 ^ fixBits + expSeries (x / 2 ^ 10) 48 1 (2 ^ fixBits))

/-- The argument of an exponential, in fixed point, beyond which every result of a function is as at the limit. -/
def expLimit : Nat := 200 * 2 ^ fixBits

/-- e to the power of `x`: beyond ±200 a value that overflows, or one far below the smallest number. -/
def expFl (x : Int) : Fl :=
  if expLimit < x.natAbs then .fin false 1 (if x < 0 then -300 else 300)
  else if x < 0 then .fin false (2 ^ (2 * fixBits + 320) / expFix x.natAbs) (-(Int.ofNat fixBits + 320))
  else .fin false (expFix x.natAbs) (-(Int.ofNat fixBits))

/-- 1 ÷ (1 + e^(−x)). -/
def sigmoidFl (x : Int) : Fl :=
  let e := expFl (-Int.ofNat x.natAbs)
  let one : Fl := .fin false 1 0
  let up := if x < 0 then e else one
  let d := one.add false e
  (up.div false (match d with | .fin s m g => .fin s (m / 2 ^ (m.log2 - 200)) (g + Int.ofNat (m.log2 - 200)) | v => v)).1

/-- The square root of 2 ÷ π, in fixed point. -/
def rootTwoByPi : Int := 92388720265562225100004042351473451001048276763068025688572742865826802514525

/-- The exact function of R233 at a finite value, where it is a finite number: SIGMOID, TANH, GELU, SILU, EXP, RECIP and RSQRT. -/
def actReal (fn : Nat) (a : Fl) : Option Fl :=
  let x := toFix a
  match a, fn with
  | .fin _ _ _, 1 => some (sigmoidFl x)
  | .fin s m _, 2 =>
    if m = 0 then some a
    else
      -- tanh |x| = (1 − E) ÷ (1 + E) with E = e^(−2|x|)
      let e := expFl (-Int.ofNat (2 * x.natAbs))
      let one : Fl := .fin false 1 0
      match ((one.add false e.negate).div false (one.add false e)).1 with
      | .fin _ n g => some (.fin s n g)
      | v => some v
  | .fin _ _ _, 3 =>
    let u := rootTwoByPi * (x + 44715 * x * x * x / (2 ^ (2 * fixBits) * 1000000)) / 2 ^ fixBits
    some (a.mul false (sigmoidFl (2 * u)))
  | .fin _ _ _, 4 => some (a.mul false (sigmoidFl x))
  | .fin _ _ _, 5 => some (expFl x)
  | .fin _ m _, 6 => if m = 0 then none else some ((Fl.fin false 1 0).div false a).1
  | .fin s m _, 7 => if m = 0 || s then none else some (((Fl.fin false 1 0).div false a).1.sqrt false).1
  | _, _ => none

/-- A value moved by at most 2 ULP of FP32, as a free word says. -/
def within2 (w : U32) (v : Fl) : Fl :=
  match v with
  | .fin _ m e =>
    let ulp : Int := max (Int.ofNat m.log2 + e - 23) (-149)
    let k : Int := Int.ofNat (w.toNat % 65537) - 32768
    v.add false (.fin (decide (k < 0)) k.natAbs (ulp - 14))
  | v => v

end Sys2Proof.Machine
end

