-- ==== Sys2Proof/Machine/TrackOps.lean ====
section
/-! DEFINITION. Track contexts as operations on the state: handles, creation, dormancy, retirement and return to FREE, with their records
(R305 to R309, R378, R379). -/

namespace Sys2Proof.Machine

/-- The generation in force of an index (R305). -/
def State.gen (s : State) (i : Nat) : Nat := tget 1 s.tke.gens i

/-- The handle of an index and a generation. -/
def trackHandle (i g : Nat) : U32 := BitVec.ofNat 32 (g * 2 ^ 20 + i)

/-- The generation after one: 12 bits, 0 skipped. -/
def nextGen (g : Nat) : Nat := if g % 4096 = 4095 then 1 else g + 1

/-- The slot of a track, for records. -/
def Track.slotOf (t : Track) : Option Nat := if t.slot = 0xFFFF then none else some t.slot.toNat

/-- A TRACK_STATE record (R378). -/
def State.trackState (i : Nat) (t : Track) (frm upto cause : Nat) (s : State) : State :=
  s.record t.slotOf 0x02 0
    (le 4 (trackHandle i t.gen).toNat ++ le 1 frm ++ le 1 upto ++ le 1 cause ++ le 1 t.zone ++ le 8 t.firstSeen ++ le 8 t.lastSeen
      ++ le 2 t.hits.toNat ++ zeros 22)

/-- A track returns to FREE from state `frm`: its generation moves on, its side buffer and its index return (R305, R307, R309). -/
def State.freeFrom (i frm : Nat) (s : State) : State :=
  let t := s.track i
  let s := s.trackState i t frm 0 6
  let s := s.freeBuf t.side
  s.updTke fun k =>
    { k with
      tracks := tdel i k.tracks
      vecs := tdel i k.vecs
      gens := tset 1 k.gens i (nextGen t.gen)
      returned := k.returned ++ [i] }

/-- A RETIRED track returns to FREE. -/
def State.freeTrack (i : Nat) (s : State) : State := s.freeFrom i 3

/-- The track leaves its zone's dormant list. -/
def State.leaveZone (z i : Nat) (s : State) : State :=
  s.updTke fun k => { k with zones := tupd [] k.zones z (fun l => l.filter fun j => !(j == i)) }

/-- DORMANT to RETIRED, and to FREE when the track is in no batch (R309). -/
def State.retire (i cause : Nat) (s : State) : State :=
  let t := s.track i
  let s := s.leaveZone t.zone i
  let s := s.trackState i t 2 3 cause
  let s := s.updTrack i fun t => { t with tstate := 3 }
  if t.inBatch then s else s.freeTrack i

/-- The track joins the tail of its zone's dormant list, which retires the oldest when it is full (R309). -/
def State.joinZone (i : Nat) (s : State) : State :=
  let z := (s.track i).zone
  let l := tget [] s.tke.zones z
  let s := match l with
    | o :: _ => if 1024 ≤ l.length then s.retire o 5 else s
    | [] => s
  s.updTke fun k => { k with zones := tupd [] k.zones z (fun l => l ++ [i]) }

/-- HANDOFF_OUT, at an even ring index, after a PAD where the next index is odd (R379); EP where its embedding lies in a poisoned block (R385). -/
def State.handoffOut (i : Nat) (s : State) : State :=
  let t := s.track i
  let n := s.ringOf t.slotOf
  let g := s.mdRing n
  let e := emb8 (s.tvec i).emb
  let slot : U16 := t.slot
  let a := s.bufAddr t.side
  let bad := s.poisonedAt a 128
  let s := s.notePoison a 128
  let odd := (g.put.toNat + g.ovf.foldl (fun k r => k + r.entries) 0) % 2 = 1
  let s := if odd then s.pushRec n 0x00 0 0xFFFF false false (zeros 48) else s
  s.pushRec n 0x05 1 slot true bad (le 4 (trackHandle i t.gen).toNat ++ le 1 t.zone ++ zeros 3 ++ le 8 t.lastSeen ++ e)

/-- LIVE to DORMANT, by misses (cause 2) or by the slot's close (cause 3) (R309, R379). -/
def State.turnDormant (i cause : Nat) (s : State) : State :=
  let t := s.track i
  let s := s.trackState i t 1 2 cause
  let s := s.updTrack i fun t => { t with tstate := 2 }
  let s := s.joinZone i
  if t.embValid then s.handoffOut i else s

/-- A free index and a side buffer, with the state that has taken them; none when there is none of either (R305, R307; log entry 22). -/
def State.newTrack (s : State) : Option (Nat × U32 × State) :=
  match s.tracker with
  | none => none
  | some tb =>
    let next : Option (Nat × State) :=
      if s.tke.fresh < 1048576 then some (s.tke.fresh, s.updTke fun k => { k with fresh := k.fresh + 1 })
      else match s.tke.returned with
        | i :: r => some (i, s.updTke fun k => { k with returned := r })
        | [] => none
    match next with
    | none => none
    | some (i, s') =>
      match s'.take reqTke tb.sidePool.toNat with
      | some (h, s'') => some (i, h, s'')
      | none => none

/-- The LIVE tracks of a slot. -/
def State.liveOf (s : State) (slot : Nat) : List Nat :=
  (s.tke.tracks.filter fun e => e.2.tstate == 1 && e.2.slot.toNat == slot).map (·.1)

/-- Every LIVE track of a slot that closes turns DORMANT (R309). -/
def State.slotTracksDormant (slot : Nat) (s : State) : State := (s.liveOf slot).foldl (fun s i => s.turnDormant i 3) s

end Sys2Proof.Machine
end

