-- ==== Sys2Proof/Machine/MediaOps.lean ====
section
/-! DEFINITION. Stream slots and clip sessions as operations on the state: codes of R121, WAIT_KEY, drops, GET, the DPB, closing, the output ring
and the end of a session (R86 to R101, R111, R116, R119, R131, R132, R143 to R145). -/

namespace Sys2Proof.Machine

/-! ### Slots -/

/-- The codes of R121 that raise attention. -/
def decAttention (code : U16) : Bool :=
  code ∈ ([0x0401, 0x0403, 0x0407, 0x0408, 0x0409, 0x040B, 0x0410] : List U16)

/-- The STREAM_EVENT body of a code (R378). -/
def streamEvent (code : U16) (picNum seq : U32) (arrival : Nat) (tag : U64) : List Byte :=
  le 2 code.toNat ++ zeros 2 ++ le 4 picNum.toNat ++ le 4 seq.toNat ++ zeros 4 ++ le 8 arrival ++ le 8 tag.toNat ++ zeros 16

/-- A code of R121: its bit of EVENTS, LAST_CODE, its record, and attention of class fault where the table says so. -/
def State.decEvent (n : Nat) (code : U16) (seq : U32) (arrival : Nat) (tag : U64) (s : State) : State :=
  let s := s.updSlot n fun t =>
    { t with events := t.events ||| BitVec.ofNat 16 (2 ^ (code.toNat - 0x0401)), lastCode := code }
  let s := s.record (some n) 0x04 0 (streamEvent code (s.sdec n).published seq arrival tag)
  if decAttention code then s.attention 0 code 1 n else s

/-- A code that no access unit carries. -/
def State.decSlotEvent (n : Nat) (code : U16) (s : State) : State := s.decEvent n code 0 s.now 0

/-- The code of an access unit. -/
def State.decAuEvent (n : Nat) (code : U16) (h : AuHdr) (s : State) : State := s.decEvent n code h.seq h.arrival h.tag

/-- The slot shows WAIT_KEY, and its 10 s begin (R86, R116). -/
def State.showWaitKey (n : Nat) (s : State) : State :=
  let now := s.now
  let was := (s.slot n).state
  let s := s.updSdec n fun d =>
    { d with keySince := if was = 1 then d.keySince else some now, noKeyDue := if was = 1 then d.noKeyDue else now + 10000000000 }
  s.updSlot n fun t => { t with state := if t.state = 4 || t.state = 0 then t.state else 1 }

/-- The slot moves to WAIT_KEY, in its registers and in its parse state (R86, R116). -/
def State.toWaitKey (n : Nat) (s : State) : State :=
  (s.showWaitKey n).updSdec n fun d => { d with parse := { d.parse with waitKey := true } }

/-- The slot moves to WAIT_KEY from the access unit accepted next on: those accepted before are still parsed as they stand (R94, R95). -/
def State.keyFromNext (n : Nat) (s : State) : State := (s.showWaitKey n).updSlot n fun t => { t with keyNext := true }

/-- The slot waits for a starting point behind access units that no engine has parsed yet. -/
def Slot.keyAhead (t : Slot) : Bool := t.keyNext || t.aus.any fun a => a.key && a.stage == .waiting

/-- Bytes of an access unit in the ring: header, payload and the padding to 32 (R91). -/
def auBytes (len : Nat) : Nat := 32 + cdiv len 32 * 32

/-- The access units at the ring's head that have committed or been dropped are passed by GET (R111). -/
def passDone : U32 → List Au → U32 × List Au
  | get, [] => (get, [])
  | get, a :: r => if a.stage = .done then passDone (a.pos + BitVec.ofNat 32 a.bytes) r else (get, a :: r)

/-- GET moves on, and the ranges that pull reads lost before it are forgotten. -/
def State.advanceGet (n : Nat) (s : State) : State :=
  s.updSlot n fun t =>
    let (g, r) := passDone t.get t.aus
    -- with nothing left, GET stands at the position judged last (an overflow moves it to PUT)
    let get := if r.isEmpty then t.judged else g
    let ahead (l : U32 × Nat) : Bool := let d := (l.1 + BitVec.ofNat 32 l.2 - get).toNat; decide (0 < d ∧ d < 2 ^ 31)
    { t with get := get, aus := r, lost := t.lost.filter ahead }

/-- The access unit at `pos` is finished. -/
def State.auDone (n : Nat) (pos : U32) (s : State) : State :=
  (s.updSlot n fun t => { t with aus := t.aus.map fun a => if a.pos = pos then { a with stage := .done } else a }).advanceGet n

/-- A dropped access unit is counted. -/
def State.countDrop (n k : Nat) (s : State) : State := s.updSlot n fun t => { t with dropped := satAdd t.dropped k }

/-- The slot's DPB is emptied: the DEC frees each picture and its motion vectors (R119). -/
def State.emptyDpb (n : Nat) (s : State) : State :=
  let pics := (s.sdec n).dpb
  let s := s.updSdec n fun d => { d with dpb := [] }
  pics.foldl (fun s p => (s.freeBuf p.buf).freeBuf p.mv) s

/-- The pictures held for clips are released (R131). -/
def State.dropHeld (n : Nat) (s : State) : State :=
  let held := (s.sdec n).held
  let s := s.updSdec n fun d => { d with held := [] }
  held.foldl (fun s p => (s.releaseBuf p.buf reqHold).releaseBuf p.mv reqHold) s

/-- A syntax entry or picture of a slot is still with an engine. -/
def State.slotBusy (s : State) (n : Nat) : Bool :=
  s.dec.engs.any fun e =>
    e.2.entries.any (fun x => x.slot == n) || (match e.2.pix with | some x => x.slot == n | none => false)
      || (match e.2.parsing with | some x => x.slot == n | none => false)

/-! ### The output ring of a session (R143 to R145) -/

/-- Bytes that a clip picture of `len` coded bytes needs at position `put` of a ring: the PAD before it, and itself. -/
def clipNeed (put : U32) (log2 len : Nat) : Nat × Nat :=
  let off := put.toNat % 2 ^ log2
  let own := 32 + cdiv len 32 * 32
  if off + 32 + len ≤ 2 ^ log2 then (0, own) else (2 ^ log2 - off, own)

/-- The ring has room for it. -/
def Sess.room (t : Sess) (len : Nat) : Bool :=
  let (pad, own) := clipNeed t.put t.ringLog2 len
  decide ((t.put - t.get).toNat + pad + own ≤ 2 ^ t.ringLog2)

/-- The 32-byte clip header (R144). -/
def clipHeader (n flags len : Nat) (pic : U32) (qpRow fill arrival : Nat) (tag : U64) : List Byte :=
  le 2 n ++ le 2 flags ++ le 4 len ++ le 4 pic.toNat ++ le 2 qpRow ++ le 2 fill ++ le 8 arrival ++ le 8 tag.toNat

/-- A picture or end header is written into the host ring, after a PAD header where it would straddle the end; PUT and its mirror move, and vector 17
follows the mirror (R381). Coded bytes that come from a buffer at `src` leave with EP where they are poisoned (R385). -/
def State.clipWrite (n : Nat) (c : ClipOut) (src : Option Nat) (s : State) : State :=
  let t := s.sess n
  let (pad, own) := clipNeed t.put t.ringLog2 c.data.length
  let at_ (p : U32) : U64 := t.ringAddr + BitVec.ofNat 64 (p.toNat % 2 ^ t.ringLog2)
  let s := if pad = 0 then s
    else s.send (.hostWrite (at_ t.put) (clipHeader n 0x20 (pad - 32) 0 0xFFFF 0 0 0) s.link.relaxed false)
  let start := t.put + BitVec.ofNat 32 pad
  let put := start + BitVec.ofNat 32 own
  let bad (off len : Nat) : Bool := src.any fun a => s.poisonedAt (a + (off - 32)) (len - (32 - off))
  let s := s.hostPut (at_ start)
    (clipHeader n c.flags.toNat c.data.length c.picNum c.qpRow.toNat c.fill.toNat c.arrival c.tag ++ c.data) s.link.relaxed bad
  let s := if t.mirror = 0 then s else (s.send (.hostWrite t.mirror (le 8 put.toNat) false false)).fire 17
  s.updSess n fun t => { t with put := put }

/-- A picture of `len` bytes can be written now: the ring has room, and the device issues TLPs (R145, R390). -/
def State.canClip (s : State) (n len : Nat) : Bool := !s.isFrozen && (s.sess n).room len

/-- A buffer with a scaled picture is given up: freed at once, or by the SCALE job that is writing it (R134). -/
def State.dropScaled (h : U32) (s : State) : State :=
  let mine (j : CseJob) : Bool := j.job == 2 && j.out == h
  let s := s.updDis fun d => { d with jobs := d.jobs.filter fun j => !mine j }
  let s := s.updCse fun t => t.map fun e => (e.1, { e.2 with queue := e.2.queue.filter fun j => !mine j })
  if s.cse.any fun e => match e.2.running with | some j => mine j | none => false then s else s.freeBuf h

/-- The scaled pictures of a session's queue are given up. -/
def State.dropQueued (n : Nat) (s : State) : State :=
  ((s.sess n).queue.filterMap (·.scaled)).foldl (fun s h => s.dropScaled h) s

/-- A source picture leaves its engine: the shares of its buffers go (R119), and its scaled picture is freed. -/
def State.dropSource (n : Nat) (q : SrcPic) (s : State) : State :=
  let s := match q.scaled with | some h => s.dropScaled h | none => s
  (s.releaseBuf q.buf (reqEnc n)).releaseBuf q.mv (reqEnc n)

/-- The session's picture is in encode. -/
def State.encoding (s : State) (n : Nat) : Bool :=
  s.enc.engs.any fun e => match e.2.job with | some j => j.sess == n | none => false

/-- The session is free again; its registers keep their values until the next CLIP_START. A reserved one waits for its next clip on the engine it has. -/
def State.freeSession (n : Nat) (s : State) : State :=
  let s := (s.dropQueued n).dropAll (reqEnc n)
  let t := s.sess n
  let s := if !t.reserved then s.updEeng t.engine fun g => { g with load := g.load - t.load }
    else if (s.eeng t.engine).inService then s.updEnc fun e => { e with idle := e.idle ++ [(t.profile.toNat, t.engine)] }
    else s
  let s := s.updSess n fun t => { t with state := 0, queue := [], win := [], rowEst := none, wantKey := false, wantGap := false, reserved := false, load := 0 }
  s.updEnc fun e => { e with prog := tdel n e.prog }

/-- A session that is ENDING writes its end header when room appears, and is freed (R132, R144, R145). -/
def State.tryEnd (n : Nat) (s : State) : State :=
  let t := s.sess n
  let p := s.prog n
  if t.state = 3 && p.ending != 0 && !s.encoding n && p.hold.isNone && s.canClip n 0 then
    (s.clipWrite n { flags := BitVec.ofNat 16 (0x40 + p.ending * 0x1000), picNum := p.lastPic, qpRow := 0xFFFF, fill := 0
                     arrival := p.lastArr, tag := p.lastTag, data := [] } none).freeSession n
  else s

/-- The session is in use and no cause has ended it: it waits, it encodes, or its final picture is encoding (R128, R132). -/
def State.sessLive (s : State) (n : Nat) : Bool :=
  let t := s.sess n
  t.state == 1 || t.state == 2 || (t.state == 3 && (s.prog n).ending == 0)

/-- The session ends with a cause; an earlier cause stands (R132). -/
def State.endSession (n cause : Nat) (s : State) : State :=
  if s.sessLive n then
    let s := (s.dropQueued n).updSess n fun t => { t with state := 3, queue := [] }
    (s.updProg n fun p => { p with ending := cause }).tryEnd n
  else s

/-- The sessions of a slot. -/
def State.sessionsOf (s : State) (slot : Nat) : List Nat :=
  (s.enc.sess.filter fun e => e.2.slot == slot && s.sessLive e.1).map (·.1)

/-- A session whose slot has closed ends once its last published picture is encoded; while that picture encodes or is held, it is ENDING (R128). -/
def State.endIfDrained (n : Nat) (s : State) : State :=
  let t := s.sess n
  if (s.slot t.slot).state = 0 && t.queue.isEmpty && s.sessLive n then
    if s.encoding n || (s.prog n).hold.isSome then s.updSess n fun t => { t with state := 3 } else s.endSession n 3
  else s

/-- A session whose picture has left its engine is no longer at its final picture, unless MAX_PICS or its slot says so. -/
def State.afterPicture (n : Nat) (s : State) : State :=
  let s := s.updSess n fun t => { t with state := if t.state = 3 && (s.prog n).ending == 0 then 2 else t.state }
  let t := s.sess n
  let s := if t.maxPics ≤ t.encoded.toNat + t.dropped.toNat then s.endSession n 1 else s
  (s.endIfDrained n).tryEnd n

/-- A coded picture is written: it counts, and its bits join the window and set the debt (R137). MAX_PICS may end the session. Bytes that were
held come from their buffer, which is freed; poisoned bytes go out with EP. -/
def State.wrote (n : Nat) (h : HeldOut) (s : State) : State :=
  let t := s.sess n
  let out := match h.buf with
    | some b => { h.out with data := s.dramBytes (s.bufAddr b) h.len }
    | none => h.out
  let s := match h.buf with
    | some b => s.notePoison (s.bufAddr b) h.len
    | none => s
  let s := (s.clipWrite n out (h.buf.map s.bufAddr)).dropAll (reqEnc n)
  let s := s.updProg n fun p => { p with hold := none, first := false, short := false }
  let s := s.updEeng t.engine fun g => { g with encoded := g.encoded + 1 }
  let s := s.updSess n fun t =>
    { t with encoded := satAdd t.encoded 1, win := (h.bits :: t.win).take 300, debt := (Int.ofNat h.bits - h.budget).toNat }
  s.afterPicture n

/-- A coded picture is dropped (R145): it counts, and the next picture is a key picture with GAP (R142). -/
def State.dropClip (n : Nat) (s : State) : State :=
  let s := (s.updProg n fun g => { g with hold := none }).dropAll (reqEnc n)
  let s := s.updSess n fun t => { t with dropped := satAdd t.dropped 1, win := (0 :: t.win).take 300, wantKey := true, wantGap := true }
  s.afterPicture n

/-- Room has appeared in a session's ring: a held picture is written, or an end header (R145). -/
def State.clipRoom (n : Nat) (s : State) : State :=
  match (s.prog n).hold with
  | some h => if s.canClip n h.len then s.wrote n h else s
  | none => s.tryEnd n

/-! ### Closing a slot -/

/-- The reply of a started command of an opcode that waits for `key`. -/
def State.replyStarted (op : Byte) (key : Nat) (code : U16) (payload : List Byte) (s : State) : State :=
  match s.hif.started.find? (fun c => c.opcode == op && c.key == key) with
  | some c =>
    (s.updHif fun h => { h with started := h.started.filter fun d => !(d.opcode == op && d.key == key) }).reply c.tag op 0 code payload
  | none => s

/-- The slot becomes CLOSED: its DPB pictures are freed, its tracks turn DORMANT, its clips end after their last picture, and STREAM_CLOSE
replies ST_OK (R88, R132, R309). The re-admission that a STREAM_CLOSE brings is due (R35). -/
def State.finishClose (n : Nat) (s : State) : State :=
  let s := (s.emptyDpb n).dropHeld n
  let s := s.updSlot n fun t => { t with state := 0, aus := [] }
  let s := s.updDec fun d => { d with readmitDue := true }
  let s := s.updSdec n fun d => { d with draining := false, openArgs := none, holder := none, keySince := none }
  let s := s.slotTracksDormant n
  let s := (s.sessionsOf n).foldl (fun s k => s.endIfDrained k) s
  s.replyStarted 0x03 n stOk []

/-- A free pixel half starts the oldest entry of its engine; the DPB is emptied first where the picture asks for it (R101). In FROZEN none starts (R390). -/
def State.startPix (e : Nat) (s : State) : State :=
  let g := s.deng e
  match g.pix, g.entries with
  | none, x :: rest =>
    if s.isFrozen || s.headWaits (mkUnit 2 e) then s
    else
      let s := s.updDeng e fun g => { g with pix := some x, entries := rest }
      if x.flush then s.emptyDpb x.slot else s
  | _, _ => s

/-- Syntax entries of a slot are discarded from an engine, each counted in UNDO_PICS (R112). -/
def DecEng.discard (g : DecEng) (n : Nat) : DecEng :=
  let k := (g.entries.filter fun x => x.slot == n).length
  { g with entries := g.entries.filter fun x => !(x.slot == n), undo := satAdd g.undo k }

/-- The same from every engine. -/
def State.discardEntries (n : Nat) (s : State) : State :=
  (List.range 9).foldl (fun s e => s.updDeng e fun g => g.discard n) s

end Sys2Proof.Machine
end

