-- ==== Sys2Proof/Machine/Operands.lean ====
section
/-! DEFINITION. The operand forms: the arguments of a command entry (R368), the bytes of the three descriptors (R161, R179, R225), feed
programs (R272), tensor elements and addresses (R226, R227, R256). -/

namespace Sys2Proof

open Machine

/-! ### Command arguments -/

/-- Bytes `off` to `off` + `n` − 1 of ARGS, which starts at byte 0x08 of the entry. -/
def Cmd.arg (c : Cmd) (off n : Nat) : Nat := field c.args off n

/-- The zero fields of the entry are zero, and so are the bytes of ARGS that a command with `n` bytes of arguments leaves unused (R368). -/
def Cmd.zeroFrom (c : Cmd) (n : Nat) : Bool := c.zero1 == 0 && c.zero4 == 0 && (c.args.drop n).all (· == 0)

/-! ### Descriptors as words -/

/-- The 32 bytes of a pass descriptor (R161). -/
def PassDesc.bytes (d : PassDesc) : List Byte :=
  [d.wbits, d.mode] ++ le 2 d.n.toNat ++ le 4 d.feed.toNat ++ le 4 d.wblock.toNat ++ le 4 d.out.toNat ++ le 4 d.scale.toNat
    ++ le 2 d.zp.toNat ++ le 2 d.rq.toNat ++ le 4 d.tile.toNat ++ le 4 d.zero.toNat

def PassDesc.first (d : PassDesc) : Bool := d.mode.getLsbD 0
def PassDesc.last (d : PassDesc) : Bool := d.mode.getLsbD 1
def PassDesc.act16 (d : PassDesc) : Bool := d.mode.getLsbD 2
def PassDesc.hiByte (d : PassDesc) : Bool := d.mode.getLsbD 3

/-- The scratchpad of a core (R171). -/
def Machine.spSize : Nat := 0x200000

/-- Every field of the descriptor is in its range, and the feed program and the weight block that it names lie in the scratchpad (R161, R168). OUT and SCALE
count for LAST only (R161, R200). -/
def PassDesc.ok (d : PassDesc) : Bool :=
  decide (1 ≤ d.wbits.toNat ∧ d.wbits.toNat ≤ 8) && decide (d.mode.toNat < 16) && decide (1 ≤ d.n.toNat ∧ d.n.toNat ≤ 512)
    && decide (d.wblock.toNat % 256 = 0) && (d.last || d.out == 0) && decide (d.rq.toNat < 256) && d.zero == 0
    && decide (d.wblock.toNat + 2048 * d.wbits.toNat ≤ spSize) && decide (d.feed.toNat + 64 ≤ spSize)
    && (!d.last || (decide (d.out.toNat < spSize) && decide (d.scale.toNat % 256 = 0) && decide (d.scale.toNat + 0x300 ≤ spSize)))

/-- The cycles of a pass (R162). -/
def PassDesc.cycles (d : PassDesc) : Nat := d.n.toNat * d.wbits.toNat + 264 + (if d.last then 6 else 0)

/-- The 40 bytes of a Millefeuille descriptor (R179). -/
def GauDesc.bytes (d : GauDesc) : List Byte :=
  [d.gang, d.fmt] ++ le 2 d.zero.toNat ++ le 4 d.k.toNat ++ le 4 d.a.toNat ++ le 4 d.b.toNat ++ le 4 d.cIn.toNat ++ le 4 d.cOut.toNat
    ++ le 4 d.aStride.toNat ++ le 4 d.bStride.toNat ++ le 4 d.cStride.toNat ++ le 4 d.tile.toNat

def GauDesc.accIn (d : GauDesc) : Bool := d.fmt.getLsbD 6

/-- Format codes of A, B and the output. -/
def GauDesc.fmtA (d : GauDesc) : Nat := d.fmt.toNat % 4
def GauDesc.fmtB (d : GauDesc) : Nat := d.fmt.toNat / 4 % 4
def GauDesc.fmtC (d : GauDesc) : Nat := d.fmt.toNat / 16 % 4

/-- Millefeuille pass cycles in mode `g` (R180). -/
def GauDesc.cyclesIn (d : GauDesc) (g : Nat) : Nat :=
  let c := (if g = 0 then 2 else 1) * (if d.fmtA = 2 then 2 else 1)
  let tg := if g = 0 then 72 else if g = 1 then 136 else 264
  let tout := if d.fmtC = 0 then 256 else if d.fmtC = 1 then 128 else 64
  max (d.k.toNat * c + tg) (max tout (if d.accIn then 256 else 0))

/-- The descriptor is one that R179 allows: one format class, a defined output format, K in range. -/
def GauDesc.ok (d : GauDesc) : Bool :=
  decide (d.gang.toNat ≤ 2) && decide (d.fmtC < 3) && decide (1 ≤ d.k.toNat ∧ d.k.toNat ≤ 65536) && decide (d.fmt.toNat < 128)
    && (decide (d.fmtA < 2 ∧ d.fmtB < 2) || d.fmtA == d.fmtB) && d.zero == 0
    && [d.a, d.b, d.cIn, d.cOut].all (fun x => decide (x.toNat % 256 = 0))

/-- The 128 bytes of a vector-engine descriptor (R225). -/
def VecDesc.bytes (d : VecDesc) : List Byte :=
  [d.op, d.flags, d.ta, d.tb, d.td, d.ndim] ++ le 2 d.after.toNat ++ le 4 d.a.toNat ++ le 4 d.b.toNat ++ le 4 d.d.toNat ++ le 4 d.m.toNat
    ++ le 4 d.p.toNat ++ le 4 d.imm.toNat ++ padTo 10 (d.counts.flatMap fun c => le 2 c.toNat) ++ le 2 d.zero.toNat ++ le 4 d.tile.toNat
    ++ padTo 20 (d.strideA.flatMap fun c => le 4 c.toNat) ++ padTo 20 (d.strideB.flatMap fun c => le 4 c.toNat)
    ++ padTo 20 (d.strideD.flatMap fun c => le 4 c.toNat) ++ padTo 20 (d.strideM.flatMap fun c => le 4 c.toNat)

def VecDesc.masked (d : VecDesc) : Bool := d.flags.getLsbD 0
def VecDesc.maskInv (d : VecDesc) : Bool := d.flags.getLsbD 1
def VecDesc.axis1 (d : VecDesc) : Bool := d.flags.getLsbD 2
def VecDesc.wait (d : VecDesc) : Bool := d.flags.getLsbD 3

/-- COUNT of a dimension (stored as value − 1). -/
def VecDesc.count (d : VecDesc) (k : Nat) : Nat := (d.counts.getD k 0).toNat + 1

end Sys2Proof

namespace Sys2Proof.Machine

/-- The bytes that a LAST pass of a format writes for one step: 128 results. -/
def outStep (fmt : Nat) : Nat := if fmt = 0 then 128 else if fmt = 1 then 256 else 512

/-- Little-endian 32-bit words of a list of bytes. -/
def words (bs : List Byte) : Nat → List U32
  | 0 => []
  | n + 1 => BitVec.ofNat 32 (field bs 0 4) :: words (bs.drop 4) n

/-- Block size and number of gangs of a ganging mode (R176). -/
def gangBlock (g : Nat) : Nat := if g = 0 then 32 else if g = 1 then 64 else 128
def gangCount (g : Nat) : Nat := if g = 0 then 16 else if g = 1 then 4 else 1

/-! ### Tensor elements (R226) -/

/-- Bytes of a type. -/
def tySize (t : Nat) : Nat := if t < 4 then 1 else if t < 7 then 2 else 4

/-- The format of a float type. -/
def tyFmt (t : Nat) : Option Fmt :=
  match t with
  | 2 => some e4m3
  | 3 => some e5m2
  | 5 => some fp16
  | 6 => some bf16
  | 8 => some fp32
  | _ => none

/-- The range of an integer type. -/
def tyRange (t : Nat) : Int × Int :=
  match t with
  | 0 => (-128, 127)
  | 1 => (0, 255)
  | 4 => (-32768, 32767)
  | _ => (-2147483648, 2147483647)

/-- The integer of an integer type's bits. -/
def tyInt (t w : Nat) : Int :=
  match t with
  | 0 => (BitVec.ofNat 8 w).toInt
  | 1 => w
  | 4 => (BitVec.ofNat 16 w).toInt
  | _ => (BitVec.ofNat 32 w).toInt

/-- The value of an element as a float: integers are first converted to FP32 (R231). -/
def tyFl (t w : Nat) : Fl :=
  match tyFmt t with
  | some f => f.dec w
  | none => f32 (intF32 (tyInt t w))

/-- An integer as the bytes of a type. -/
def intBytes (t : Nat) (i : Int) : List Byte := le (tySize t) (BitVec.ofInt 32 i).toNat

/-- An element read from a memory. -/
def Mem.elem (m : Mem) (t a : Nat) : Nat := unle (m.readN a (tySize t))

/-- Element (c, y, x) of a blocked tensor (R256). -/
def blockedAddr (base row cb size c y x : Nat) : Nat :=
  let k := if size = 1 then 32 else 16
  base + c / k * cb + y * row + x * 32 + c % k * size

/-! ### Feed programs (R272) -/

structure Feed where
  ow       : Nat
  oh       : Nat
  sh       : Nat
  sw       : Nat
  dh       : Nat
  dw       : Nat
  padT     : Nat
  padL     : Nat
  inH      : Nat
  inW      : Nat
  stage    : Nat
  stageRow : Nat
  stageCb  : Nat
  /-- VALID, I, J and CB of the four row groups. -/
  groups   : List (Bool × Nat × Nat × Nat)
deriving DecidableEq, Repr

/-- The feed program in 64 bytes. -/
def Feed.parse (b : List Byte) : Feed :=
  { ow := field b 0 2, oh := field b 2 1, sh := field b 4 1, sw := field b 5 1, dh := field b 6 2, dw := field b 8 2
    padT := field b 10 2, padL := field b 12 2, inH := field b 14 2, inW := field b 16 2
    stage := field b 20 4, stageRow := field b 24 4, stageCb := field b 28 4
    groups := (List.range 4).map fun g => let o := 0x20 + 8 * g; (field b o 1 % 2 == 1, field b (o + 1) 1, field b (o + 2) 1, field b (o + 4) 2) }

/-- Where a tile stands in its layer: its first output row, the lowest staged input row, the byte offset of the staging half in use, and the channels of
the layer's input. -/
structure TilePos where
  row0 : Nat
  r0   : Nat
  half : Nat
  chans : Nat
deriving DecidableEq, Repr, Inhabited

/-- Input row of tap row `i` at output row `y`. -/
def tapPos (y stride pad tap dil : Nat) : Int := Int.ofNat (y * stride) - Int.ofNat pad + Int.ofNat (tap * dil)

/-- The position lies in the input. -/
def inside (p : Int) (n : Nat) : Bool := decide (0 ≤ p) && decide (p < Int.ofNat n)

/-- The activation code that step `k` of a pass presents on array row `row`, or none for padding (R272, R273) and for a row beyond the reduction length: a
padding channel of the last block (R154, R257). 16-bit codes lie in C16 blocks (R256; log entry 21). -/
def Feed.code (f : Feed) (m : Mem) (pos : TilePos) (act16 : Bool) (k row : Nat) : Option Int :=
  match f.groups[row / 32]? with
  | some (true, i, j, cb) =>
    let iy := tapPos (pos.row0 + k / f.ow) f.sh f.padT i f.dh
    let ix := tapPos (k % f.ow) f.sw f.padL j f.dw
    if inside iy f.inH && inside ix f.inW && decide (32 * cb + row % 32 < pos.chans) then
      let base := f.stage + pos.half + (iy.toNat - pos.r0) * f.stageRow + ix.toNat * 32
      let c := row % 32
      if act16 then some (tyInt 4 (unle (m.readN (base + (2 * cb + c / 16) * f.stageCb + c % 16 * 2) 2)))
      else some (m.read (base + cb * f.stageCb + c)).toInt
    else none
  | _ => none

/-- The value v after zero-point subtraction: 0 for padding (R192, R193). -/
def Feed.value (f : Feed) (m : Mem) (pos : TilePos) (act16 : Bool) (zp : U16) (k row : Nat) : Int :=
  match f.code m pos act16 k row with
  | none => 0
  | some c => c - (if act16 then zp.toInt else (zp.setWidth 8).toInt)

/-- A valid group is in padding for the whole stripe of `rows` output rows from `row0` (R274). -/
def Feed.padded (f : Feed) (row0 rows : Nat) (g : Bool × Nat × Nat × Nat) : Bool :=
  let (_, i, j, _) := g
  (List.range rows).all (fun y => !inside (tapPos (row0 + y) f.sh f.padT i f.dh) f.inH)
    || (List.range f.ow).all (fun x => !inside (tapPos x f.sw f.padL j f.dw) f.inW)

/-- R274: the pass is skipped for the stripe. -/
def Feed.skipped (f : Feed) (row0 rows : Nat) : Bool := (f.groups.filter (·.1)).all (f.padded row0 rows)

end Sys2Proof.Machine
end

