-- ==== Sys2Proof/Machine/Flags.lean ====
section
/-! DEFINITION. The flags of arithmetic: integer saturation, NaN and overflow to infinity (R156, R175, R204, R231), and the requantiser
with its saturation flag (R201, R202). -/

namespace Sys2Proof.Machine

/-- The sticky flags that an operation sets. -/
structure Flags where
  sat : Bool := false
  nan : Bool := false
  inf : Bool := false
deriving DecidableEq, Repr, Inhabited

/-- Flags of two operations together. -/
def Flags.or (a b : Flags) : Flags := { sat := a.sat || b.sat, nan := a.nan || b.nan, inf := a.inf || b.inf }

/-- An exact integer saturated to a range, and whether it did. -/
def satRange (lo hi i : Int) : Int × Bool := (max lo (min hi i), decide (i < lo) || decide (hi < i))

/-- sat32 of R202. -/
def sat32 (i : Int) : Int × Bool := satRange (-2147483648) 2147483647 i

/-- The flags of a floating-point operation: a NaN among the inputs or as the result, an overflow to infinity in the format of the
result from finite inputs. -/
def flFlags (ins : List Fl) (out : Fl) (f : Option Fmt) : Flags :=
  { nan := ins.any Fl.isNan || out.isNan
    inf := ins.all Fl.isFin && (out.isInf || (match f with | some f => f.overflows out | none => false)) }

/-- A result rounded once to a type (R195, R231), with its tail. -/
def flBytes (t : Nat) (v : Fl) (tail : Bool) : List Byte :=
  match tyFmt t with
  | some f => le (tySize t) (f.enc v tail)
  | none =>
    let (lo, hi) := tyRange t
    let v := match v with
      | .fin s m e => Fl.fin s (2 * m + bit tail) (e - 1)
      | v => v
    intBytes t (v.toInt lo hi)

/-- A requantiser parameter set (R201). -/
structure RqSet where
  invOs  : U32
  asStat : Nat
  zpOut  : Int
  lo     : Int
  hi     : Int
  outFmt : Nat
  asMode : Nat
deriving DecidableEq, Repr

/-- The parameter set in 16 bytes. -/
def RqSet.parse (b : List Byte) : RqSet :=
  { invOs := BitVec.ofNat 32 (field b 0 4), asStat := field b 4 2, zpOut := tyInt 4 (field b 6 2), lo := tyInt 4 (field b 8 2)
    hi := tyInt 4 (field b 10 2), outFmt := field b 12 1, asMode := field b 13 1 }

/-- `m` × 2^−30 × 2^e of R202's normalise, from a positive normal multiplier: m and s = 30 − e. -/
def normalise (mf : Fl) : Nat × Int :=
  match mf with
  | .fin _ m e =>
    let top : Int := Int.ofNat m.log2 + e
    -- 2^30 × f is `m` shifted so that its highest bit is bit 30; FP32 has fewer mantissa bits, so nothing is lost
    (m * 2 ^ (30 - m.log2), 30 - top)
  | _ => (0, 0)

/-- round_half_even((a × m) >> s) of R202. -/
def rneInt (x : Int) (s : Nat) : Int :=
  let q := x.fdiv (2 ^ s)
  let r := x - q * 2 ^ s
  let h : Int := 2 ^ (s - 1)
  if r > h || (r == h && q % 2 != 0) then q + 1 else q

def clampInt (v lo hi : Int) : Int := max lo (min hi v)

/-- The requantiser (R202): from the sum of accumulator and bias, the scales ws and as, and the parameter set, the result as bytes, and
whether the addition saturated. -/
def requant (q : RqSet) (acc bias : Int) (ws asc : Nat) : List Byte × Bool :=
  let (a, sat) := sat32 (acc + bias)
  let mw := toF32 ((fp16.dec ws).mul false (fp16.dec asc))
  if q.outFmt = 2 then (le 4 (fmul (intF32 a) mw).toNat, sat)
  else
    let mf := f32 (fmul mw q.invOs)
    let normal := match mf with
      | .fin _ m _ => decide (2 ^ 23 ≤ m)
      | _ => true
    let zero := clampInt q.zpOut q.lo q.hi
    let out : Int :=
      if !normal then zero
      else
        let (m, s) := normalise mf
        if s < 1 then (if 0 < a then q.hi else if a < 0 then q.lo else zero)
        else if 62 < s then zero
        else clampInt (rneInt (a * m) s.toNat + q.zpOut) q.lo q.hi
    (intBytes (if q.outFmt = 0 then 0 else 4) out, sat)

end Sys2Proof.Machine
end

