-- ==== Sys2Proof/Machine/Arrays.lean ====
section
/-! DEFINITION. What a cell-array pass and a Millefeuille pass compute (R150 to R160, R174 to R181, R200 to R204), as functions of the
memories they read. -/

namespace Sys2Proof.Machine

/-! ### The cell array -/

/-- The code of the weight at row `r`, column `c` of a block of `p` planes (R151). -/
def weightCode (m : Mem) (block p r c : Nat) : Nat :=
  (List.range p).foldl (fun a j =>
    let n := r * 128 + c
    a + bit ((m.read (block + 2048 * j + n / 8)).getLsbD (n % 8)) * 2 ^ j) 0

/-- The codes that the weight registers take from a block of `p` planes: cell (r, c) at place 128 r + c, an escape code as 0 (R150, R152, R153). -/
def blockCodes (m : Mem) (block p : Nat) : List Byte :=
  (List.range 16384).map fun n =>
    let code := weightCode m block p (n / 128) (n % 128)
    if p ≠ 1 && code = 2 ^ (p - 1) then 0 else BitVec.ofNat 8 code

/-- The integer that a weight code contributes: BIN codes as +1 and −1 (R191); INTp as two's complement with the escape code as 0 (R153,
R189). -/
def weightValue (p code : Nat) : Int :=
  if p = 1 then (if code = 0 then 1 else -1)
  else if code = 2 ^ (p - 1) then 0
  else if code < 2 ^ (p - 1) then code else Int.ofNat code - 2 ^ p

/-- The value that row `row` presents in a pass: for a 16-bit pair the low or the high byte (R160). -/
def presented (d : PassDesc) (v : Int) : Int :=
  if d.act16 then (if d.hiByte then v.fdiv 256 else v.fmod 256) else v

/-- The column sum of step `k` and column `c` over the weight registers `w`, with the high pass's shift (R155, R160). A BIN block sums over all 128 values that
the step presents, and a padded row presents 0. -/
def columnSum (m : Mem) (w : List Byte) (d : PassDesc) (f : Feed) (pos : TilePos) (k c : Nat) : Int :=
  let s := (List.range 128).foldl (fun a r =>
    a + presented d (f.value m pos d.act16 d.zp k r) * weightValue d.wbits.toNat (w.getD (128 * r + c) 0).toNat) (0 : Int)
  if d.act16 && d.hiByte then s * 256 else s

/-- The feed program of a pass. -/
def feedOf (m : Mem) (a : U32) : Feed := Feed.parse (m.readN a.toNat 64)

/-- Entry `i`, column `c` of a partial-sum bank (R156). -/
def psbGet (m : Mem) (i c : Nat) : Int := tyInt 7 (unle (m.readN (512 * i + 4 * c) 4))

/-- The column accumulator of column `c` at step `i` (R156), and whether its addition saturated. -/
def columnAcc (m : Mem) (w : List Byte) (inBank : Mem) (d : PassDesc) (pos : TilePos) (i c : Nat) : Int × Bool :=
  sat32 ((if d.first then 0 else psbGet inBank i c) + columnSum m w d (feedOf m d.feed) pos i c)

/-- The column accumulators at the last step of a pass. -/
def passAccs (m : Mem) (w : List Byte) (inBank : Mem) (d : PassDesc) (pos : TilePos) : List U32 :=
  (List.range 128).map fun c => BitVec.ofInt 32 (columnAcc m w inBank d pos (d.n.toNat - 1) c).1

/-- What a LAST pass writes and reads by its parameter set lies in the scratchpad: its results, and the activation scales of a GROUP input (R161, R200). -/
def passFits (d : PassDesc) (rq : RqSet) : Bool :=
  !d.last || (decide (d.out.toNat + d.n.toNat * outStep rq.outFmt ≤ spSize)
    && (rq.asMode != 1 || decide (d.scale.toNat + 0x300 + 2 * cdiv d.n.toNat 16 ≤ spSize)))

/-- Rows of results: for each step, the 128 results as bytes, and whether an addition saturated. -/
def passRows (m : Mem) (w : List Byte) (inBank : Mem) (rq : RqSet) (d : PassDesc) (pos : TilePos) : List Byte × Bool :=
  (List.range d.n.toNat).foldl (fun (r : List Byte × Bool) i =>
    (List.range 128).foldl (fun (r : List Byte × Bool) c =>
      let (acc, s1) := columnAcc m w inBank d pos i c
      if d.last then
        let ws := unle (m.readN (d.scale.toNat + 2 * c) 2)
        let bias := tyInt 7 (unle (m.readN (d.scale.toNat + 0x100 + 4 * c) 4))
        let asc := if rq.asMode = 0 then rq.asStat else unle (m.readN (d.scale.toNat + 0x300 + 2 * (i / 16)) 2)
        let (out, s2) := requant rq acc bias ws asc
        (r.1 ++ out, r.2 || s1 || s2)
      else (r.1 ++ intBytes 7 acc, r.2 || s1)) r) ([], false)

/-! ### The Millefeuille -/

/-- An operand element of a Millefeuille format: 0 E4M3, 1 E5M2, 2 BF16, 3 INT8. -/
def gauElem (m : Mem) (fmt a : Nat) : Fl :=
  match fmt with
  | 0 => e4m3.dec (m.read a).toNat
  | 1 => e5m2.dec (m.read a).toNat
  | 2 => bf16.dec (unle (m.readN a 2))
  | _ => Fl.ofInt (m.read a).toInt

/-- Bytes of an operand element. -/
def gauSize (fmt : Nat) : Nat := if fmt = 2 then 2 else 1

/-- The output format: FP32, BF16 or E4M3. -/
def gauOut (fmt : Nat) : Fmt := if fmt = 0 then fp32 else if fmt = 1 then bf16 else e4m3

/-- The accumulator of element (i, j) of gang `g`: C_IN or 0, then every k in order, rounded once at each step (R175, R181), with flags. -/
def gauCell (m : Mem) (d : GauDesc) (n g i j : Nat) : U32 × Flags :=
  let sa := gauSize d.fmtA
  let sb := gauSize d.fmtB
  let c0 : U32 :=
    if d.accIn then BitVec.ofNat 32 (unle (m.readN (d.cIn.toNat + g * d.cStride.toNat + 4 * (i * n + j)) 4)) else 0
  (List.range d.k.toNat).foldl (fun (r : U32 × Flags) k =>
    let a := gauElem m d.fmtA (d.a.toNat + g * d.aStride.toNat + (k * n + i) * sa)
    let b := gauElem m d.fmtB (d.b.toNat + g * d.bStride.toNat + (k * n + j) * sb)
    let ns := Config.signOf 10 (toF32 a) (toF32 b) r.1
    let v := (a.mul ns b).add ns (f32 r.1)
    let fl := flFlags [a, b, f32 r.1] v (some fp32)
    (toF32 v, r.2.or { sat := fl.inf, nan := fl.nan, inf := a.isInf || b.isInf })) (c0, { nan := (f32 c0).isNan, inf := (f32 c0).isInf })

/-- The bytes of one gang's output block, row-major, with flags. The conversion of a finite accumulator to the output format sets none, also where it overflows: R186 has no
field for it (DESIGN CHOICE, log entry 132). -/
def gauBlock (m : Mem) (d : GauDesc) (n g : Nat) : List Byte × Flags :=
  (List.range (n * n)).foldl (fun (r : List Byte × Flags) e =>
    let (w, fl) := gauCell m d n g (e / n) (e % n)
    let f := gauOut d.fmtC
    (r.1 ++ le ((f.exp + f.man + 1) / 8) (fromF32 f w), r.2.or fl)) ([], {})

/-- The FP32 accumulators of one gang's block after its last step, row by row. -/
def gauAccs (m : Mem) (d : GauDesc) (n g : Nat) : List U32 := (List.range (n * n)).map fun e => (gauCell m d n g (e / n) (e % n)).1

/-- The 32 × 32 quadrant in row `i`, column `j` of an n × n block. -/
def quadrant (n i j : Nat) (w : List U32) : List U32 :=
  (List.range 1024).map fun e => w.getD ((32 * i + e / 32) * n + 32 * j + e % 32) 0

/-- Gang, quadrant row and quadrant column of logical tile `t` in a ganging mode (R176). -/
def tilePlace (mode t : Nat) : Nat × Nat × Nat :=
  if mode = 0 then (t, 0, 0) else if mode = 1 then (t / 4, t % 4 / 2, t % 2) else (0, t / 4, t % 4)

/-- The region buffer after a Millefeuille pass: every gang's block written at C_OUT, with flags. All blocks are computed from the
memory before the pass (R179). -/
def gauRun (m : Mem) (d : GauDesc) : Mem × Flags :=
  let n := gangBlock d.gang.toNat
  (List.range (gangCount d.gang.toNat)).foldl (fun (r : Mem × Flags) g =>
    let (bs, fl) := gauBlock m d n g
    (r.1.writeN (d.cOut.toNat + g * d.cStride.toNat) bs, r.2.or fl)) (m, {})

end Sys2Proof.Machine
end

