-- ==== Sys2Proof/Machine/Vector.lean ====
section
/-! DEFINITION. What a vector-engine descriptor computes (R224 to R247), as a function of the core scratchpad, with the flags and
counts that it leaves. Results are computed from the scratchpad before the descriptor (R228, R248). -/

namespace Sys2Proof.Machine

/-- An index vector: i0 first. -/
abbrev Idx := List Nat

/-- What a descriptor leaves: the writes of D and of QUANT's scales and records, flags, counts, and the first lane fault as lane and
address. -/
structure VecOut where
  writes  : List (Nat × List Byte) := []
  flags   : Flags := {}
  skips   : Nat := 0
  boxes   : Nat := 0
  records : Nat := 0
  fault   : Option (Nat × Nat) := none
deriving DecidableEq, Repr, Inhabited

/-- Outcome `b` after outcome `a`: the first fault stands. -/
def VecOut.and (a b : VecOut) : VecOut :=
  { writes := a.writes ++ b.writes, flags := a.flags.or b.flags, skips := a.skips + b.skips, boxes := a.boxes + b.boxes
    records := a.records + b.records, fault := match a.fault with | some f => some f | none => b.fault }

/-- Outcomes of a list, in its order. -/
def outAll {α : Type} (xs : List α) (f : α → VecOut) : VecOut := xs.foldl (fun o x => o.and (f x)) {}

/-- A signed stride. -/
def strideOf (l : List U32) (k : Nat) : Int := (l.getD k 0).toInt

/-- The address of an operand at an index vector (R227). -/
def opAddr (base : U32) (l : List U32) (ix : Idx) : Int :=
  Int.ofNat base.toNat + (List.range 5).foldl (fun a k => a + Int.ofNat (ix.getD k 0) * strideOf l k) 0

/-- The element lies in the scratchpad. -/
def inSp (a : Int) (n : Nat) : Bool := decide (0 ≤ a) && decide (a + n ≤ Int.ofNat spSize)

/-- Index vectors of dims 0 to 4 with the given counts, i0 fastest (R227). -/
def idxs (c0 c1 c2 c3 c4 : Nat) : List Idx :=
  (List.range c4).flatMap fun i4 => (List.range c3).flatMap fun i3 => (List.range c2).flatMap fun i2 =>
    (List.range c1).flatMap fun i1 => (List.range c0).map fun i0 => [i0, i1, i2, i3, i4]

/-- Every index vector of a descriptor. -/
def allIdx (d : VecDesc) : List Idx := idxs (d.count 0) (d.count 1) (d.count 2) (d.count 3) (d.count 4)

/-- The lane of an element is active (R235). -/
def activeLane (m : Mem) (d : VecDesc) (ix : Idx) : Bool :=
  if d.masked then
    let b := (List.range 5).foldl (fun a k => a + Int.ofNat (ix.getD k 0) * strideOf d.strideM k) (0 : Int)
    let p := Int.ofNat d.m.toNat * 8 + b
    (m.read (p.toNat / 8)).getLsbD (p.toNat % 8) != d.maskInv
  else true

/-- The lane on which an element runs: its place along dim 0 in the E elements of a cycle (R226, R230). -/
def laneOf (d : VecDesc) (ix : Idx) : Nat :=
  let w := max (tySize d.ta.toNat) (max (if d.tb = 0xF then 1 else tySize d.tb.toNat) (tySize d.td.toNat))
  ix.getD 0 0 % (256 / w)

/-- A lane fault at an address (R236). -/
def faultAt (d : VecDesc) (ix : Idx) (a : Int) : VecOut := { fault := some (laneOf d ix, (a % Int.ofNat spSize).toNat) }

/-! ### Elementwise operations, ACT, DEQUANT and REQUANT (R231 to R233, R245) -/

/-- The operation computes in floating point (R231). -/
def isFloatOp (d : VecDesc) : Bool := (tyFmt d.ta.toNat).isSome || (tyFmt d.tb.toNat).isSome || (tyFmt d.td.toNat).isSome

/-- The exact integer result of an operation. -/
def intOp (d : VecDesc) (a b : Int) : Int :=
  match d.op.toNat with
  | 0x01 => a
  | 0x02 => a + b
  | 0x03 => a - b
  | 0x04 => a * b
  | 0x05 => max a b
  | 0x06 => min a b
  | 0x07 => a * d.imm.toInt + b
  | _ => max a 0

/-- The larger or smaller of two floats; NaN if either operand is one (R232). -/
def pickFl (ns : Bool) (big : Bool) (a b : Fl) : Fl :=
  if a.isNan || b.isNan then .nan ns
  else if (if big then a.lt b else b.lt a) then b
  else if (if big then b.lt a else a.lt b) then a
  else if a.neg = b.neg then a else .fin ns 0 0

/-- The result of a function of R233, with its tail: of the functions that the rule bounds, any value within 2 ULP before the rounding to TD, and a free
one where the function has no finite value (log entry 4). -/
def actFl (fn : Nat) (a : Fl) : Fl × Bool :=
  let w := toF32 a
  match fn with
  | 0 => (pickFl (Config.signOf 20 w 0 0) true a (.fin false 0 0), false)
  | 8 => a.sqrt (Config.signOf 21 w 0 0)
  | 9 => (a.mul (Config.signOf 22 w 0 0) a, false)
  | n =>
    match actReal n a with
    | some v => (within2 (Config.act n w) v, true)
    | none => (f32 (Config.act n w), false)

/-- The exact floating-point result of an elementwise operation. -/
def flOp (d : VecDesc) (a b : Fl) : Fl × Bool :=
  let ns := Config.signOf (0x100 + d.op.toNat) (toF32 a) (toF32 b) d.imm
  match d.op.toNat with
  | 0x01 => (a, false)
  | 0x02 => (a.add ns b, false)
  | 0x03 => (a.add ns b.negate, false)
  | 0x04 => (a.mul ns b, false)
  | 0x05 => (pickFl ns true a b, false)
  | 0x06 => (pickFl ns false a b, false)
  | 0x07 => ((a.mul ns (f32 d.imm)).add ns b, false)
  | _ => actFl d.imm.toNat a

/-- The operation takes an operand B. -/
def usesB (op : Nat) : Bool := decide (0x02 ≤ op ∧ op ≤ 0x07)

/-- One element of an elementwise operation. -/
def elemOut (m : Mem) (d : VecDesc) (ix : Idx) : VecOut :=
  if !activeLane m d ix then {}
  else
    let ta := d.ta.toNat
    let tb := d.tb.toNat
    let td := d.td.toNat
    let aa := opAddr d.a d.strideA ix
    let ab := opAddr d.b d.strideB ix
    let ad := opAddr d.d d.strideD ix
    let hasB := usesB d.op.toNat
    if !inSp aa (tySize ta) then faultAt d ix aa
    else if hasB && !inSp ab (tySize tb) then faultAt d ix ab
    else if !inSp ad (tySize td) then faultAt d ix ad
    else
      let wa := m.elem ta aa.toNat
      let wb := if hasB then m.elem tb ab.toNat else 0
      if isFloatOp d then
        let a := tyFl ta wa
        let b := if hasB then tyFl tb wb else .fin false 0 0
        let (v, tail) := flOp d a b
        { writes := [(ad.toNat, flBytes td v tail)], flags := flFlags ((if hasB then [a, b] else [a]) ++ if d.op = 0x07 then [f32 d.imm] else []) v (tyFmt td) }
      else
        let (lo, hi) := tyRange td
        let (v, s) := satRange lo hi (intOp d (tyInt ta wa) (if hasB then tyInt tb wb else 0))
        { writes := [(ad.toNat, intBytes td v)], flags := { sat := s } }

/-- REQUANT: D from FP32 A under R208, with a parameter set of R201. TD gives the output format: an FP32 output is y itself (R201, R244). -/
def requantOut (m : Mem) (d : VecDesc) (ix : Idx) : VecOut :=
  if !activeLane m d ix then {}
  else
    let aa := opAddr d.a d.strideA ix
    let ad := opAddr d.d d.strideD ix
    if !inSp aa 4 then faultAt d ix aa
    else if !inSp ad (tySize d.td.toNat) then faultAt d ix ad
    else
      let q := RqSet.parse (m.readN d.p.toNat 16)
      let y := f32 (BitVec.ofNat 32 (m.elem 8 aa.toNat))
      let i := (y.mul (y.neg) (f32 q.invOs)).toInt (-2 ^ 40) (2 ^ 40)
      let out := if (tyFmt d.td.toNat).isSome then flBytes d.td.toNat y false else intBytes d.td.toNat (clampInt (i + q.zpOut) q.lo q.hi)
      { writes := [(ad.toNat, out)], flags := { nan := y.isNan } }

/-! ### Quantisation (R245) -/

/-- The parameter block of QUANT and DEQUANT. -/
structure QParam where
  mode   : Nat
  sym    : Bool
  qmin   : Int
  qmax   : Int
  scales : Nat
  aux    : Nat
deriving DecidableEq, Repr

def QParam.parse (b : List Byte) : QParam :=
  { mode := field b 0 1, sym := field b 1 1 == 1, qmin := tyInt 4 (field b 2 2), qmax := tyInt 4 (field b 4 2), scales := field b 8 4
    aux := field b 12 4 }

/-- The number of the scale that an element uses, in the order of R197 and R245. -/
def scaleIndex (d : VecDesc) (mode : Nat) (ix : Idx) : Nat :=
  let i0 := ix.getD 0 0
  let i1 := ix.getD 1 0
  let i2 := ix.getD 2 0
  let rep := ix.getD 4 0 * d.count 3 + ix.getD 3 0
  let groups := cdiv (d.count 1) 16
  match mode with
  | 0 => 0
  | 3 => ((rep * d.count 2 + i2) * d.count 1 + i1) * cdiv (d.count 0) 32 + i0 / 32
  | _ => (rep * groups + i1 / 16) * d.count 2 + i2

/-- The number of the block that an element belongs to: as its scale, but one block across the channel blocks in GROUP mode. -/
def blockIndex (d : VecDesc) (mode : Nat) (ix : Idx) : Nat :=
  if mode = 1 then scaleIndex d mode ix / d.count 2 else scaleIndex d mode ix

/-- The integer range of the codes: that of the parameters, symmetric as −qmax to qmax; 448 and 57,344 for FP8. -/
def QParam.range (q : QParam) (td : Nat) : Int × Int :=
  if td = 2 then (-448, 448) else if td = 3 then (-57344, 57344)
  else if q.sym then (-q.qmax, q.qmax) else (q.qmin, q.qmax)

/-- One code of QUANT. -/
def quantCode (td : Nat) (lo hi : Int) (s : Scale) (x : Fl) : List Byte :=
  match tyFmt td with
  | some f => le 1 (fpCode f hi.toNat s x)
  | none => intBytes td (codeOf s lo hi x)

/-- QUANT: the codes, then one scale and one record for each scale index (R213, R245). -/
def quantOut (m : Mem) (d : VecDesc) : VecOut :=
  let q := QParam.parse (m.readN d.p.toNat 16)
  let td := d.td.toNat
  let ta := d.ta.toNat
  let (lo, hi) := q.range td
  let sym := q.sym || (tyFmt td).isSome
  let lanes := (allIdx d).filter (activeLane m d)
  match lanes.find? (fun ix => !inSp (opAddr d.a d.strideA ix) (tySize ta) || !inSp (opAddr d.d d.strideD ix) (tySize td)) with
  | some ix =>
    let a := opAddr d.a d.strideA ix
    faultAt d ix (if inSp a (tySize ta) then opAddr d.d d.strideD ix else a)
  | none =>
    let val (ix : Idx) : Fl := tyFl ta (m.elem ta (opAddr d.a d.strideA ix).toNat)
    let blocks := (lanes.map (blockIndex d q.mode)).foldl (fun l k => insertN k l) []
    outAll blocks fun b =>
      let mine := lanes.filter fun ix => blockIndex d q.mode ix == b
      let s := scaleOf sym lo hi (mine.map val)
      let idx := (mine.map (scaleIndex d q.mode)).foldl (fun l k => insertN k l) []
      { writes := (mine.map fun ix => ((opAddr d.d d.strideD ix).toNat, quantCode td lo hi s (val ix)))
          ++ idx.flatMap fun k =>
            [(q.scales + 2 * k, le 2 s.scale), (q.aux + 4 * k, le 2 (bit s.const) ++ intBytes 4 (if sym then 0 else s.zp))]
        flags := { nan := mine.any fun ix => (val ix).isNan } }

/-- One element of DEQUANT: (code − zp) × scale, one rounding to TD. -/
def dequantOut (m : Mem) (d : VecDesc) (ix : Idx) : VecOut :=
  if !activeLane m d ix then {}
  else
    let q := QParam.parse (m.readN d.p.toNat 16)
    let ta := d.ta.toNat
    let td := d.td.toNat
    let aa := opAddr d.a d.strideA ix
    let ad := opAddr d.d d.strideD ix
    let k := scaleIndex d q.mode ix
    if !inSp aa (tySize ta) then faultAt d ix aa
    else if !inSp ad (tySize td) then faultAt d ix ad
    else
      let scale := fp16.dec (unle (m.readN (q.scales + 2 * k) 2))
      let zp := tyInt 4 (unle (m.readN (q.aux + 4 * k + 2) 2))
      let w := m.elem ta aa.toNat
      let a := match tyFmt ta with
        | some f => (f.dec w)
        | none => Fl.ofInt (tyInt ta w - zp)
      let v := a.mul a.neg scale
      { writes := [(ad.toNat, flBytes td v false)], flags := flFlags [a] v (tyFmt td) }

/-! ### Reductions (R234) -/

/-- A reduction's accumulator: an integer, or an FP32 word; `seen` says that an active number has been met. -/
structure Acc where
  i    : Int := 0
  f    : U32 := 0
  seen : Bool := false
  idx  : Int := -1
  fl   : Flags := {}
deriving DecidableEq, Repr

/-- The identity of an operation. -/
def accInit (op : Nat) : Acc :=
  match op with
  | 0x11 => { i := -2147483648, f := 0xFF800000 }
  | 0x14 => { i := -2147483648, f := 0xFF800000 }
  | 0x12 => { i := 2147483647, f := 0x7F800000 }
  | _ => {}

/-- Two accumulators joined. -/
def accJoin (op : Nat) (isF : Bool) (a b : Acc) : Acc :=
  let fl := a.fl.or b.fl
  match op with
  | 0x10 | 0x13 =>
    if isF then
      let v := (f32 a.f).add (Config.signOf 30 a.f b.f 0) (f32 b.f)
      { a with f := toF32 v, seen := a.seen || b.seen, fl := fl.or (flFlags [f32 a.f, f32 b.f] v (some fp32)) }
    else
      let (v, s) := sat32 (a.i + b.i)
      { a with i := v, seen := a.seen || b.seen, fl := fl.or { sat := s } }
  | _ =>
    let better := if !b.seen then false else if !a.seen then true
      else if isF then (if op = 0x12 then (f32 b.f).lt (f32 a.f) else (f32 a.f).lt (f32 b.f))
      else (if op = 0x12 then decide (b.i < a.i) else decide (a.i < b.i))
    let same := a.seen && b.seen && (if isF then !(f32 a.f).lt (f32 b.f) && !(f32 b.f).lt (f32 a.f) else a.i == b.i)
    let pick := if better then b else a
    { pick with seen := a.seen || b.seen, fl := fl, idx := if same then min a.idx b.idx else pick.idx }

/-- One active element taken in. -/
def accTake (op : Nat) (isF : Bool) (ty w : Nat) (n : Nat) (a : Acc) : Acc :=
  if isF then
    let x := tyFl ty w
    let nanFl : Flags := { nan := x.isNan }
    match op with
    | 0x10 => accJoin op true { a with fl := a.fl.or nanFl } { f := toF32 x, seen := true }
    | 0x13 =>
      let ns := Config.signOf 31 (toF32 x) a.f 0
      let v := (x.mul ns x).add ns (f32 a.f)
      { a with f := toF32 v, seen := true, fl := (a.fl.or nanFl).or (flFlags [x, f32 a.f] v (some fp32)) }
    | _ =>
      if x.isNan then { a with fl := a.fl.or nanFl }
      else accJoin op true a { f := toF32 x, seen := true, idx := n }
  else
    let x := tyInt ty w
    match op with
    | 0x13 => let (v, s) := sat32 (a.i + x * x); { a with i := v, seen := true, fl := a.fl.or { sat := s } }
    | _ => accJoin op false a { i := x, seen := true, idx := n }

/-- The result of one line: the elements of dim `axis` in the order of R234. -/
def reduceLine (m : Mem) (d : VecDesc) (line : List Idx) : VecOut :=
  let ta := d.ta.toNat
  let td := d.td.toNat
  let op := d.op.toNat
  let isF := isFloatOp d
  let act := line.filter (activeLane m d)
  let ad := opAddr d.d d.strideD (line.headD [])
  match act.find? (fun ix => !inSp (opAddr d.a d.strideA ix) (tySize ta)) with
  | some ix => faultAt d ix (opAddr d.a d.strideA ix)
  | none =>
    if !inSp ad (tySize td) then faultAt d (line.headD []) ad
    else
      let k := if d.axis1 then 1 else 0
      let take (a : Acc) (ix : Idx) : Acc := accTake op isF ta (m.elem ta (opAddr d.a d.strideA ix).toNat) (ix.getD k 0) a
      let acc : Acc :=
        if d.axis1 then act.foldl take (accInit op)
        else
          let lanes := (List.range 64).map fun j => (act.filter fun ix => ix.getD 0 0 % 64 == j).foldl take (accInit op)
          let fold (l : List Acc) (h : Nat) : List Acc := (List.range h).map fun j => accJoin op isF (l.getD j {}) (l.getD (j + h) {})
          ([32, 16, 8, 4, 2, 1].foldl fold lanes).headD {}
      let allNan := isF && !act.isEmpty && !acc.seen && (op == 0x11 || op == 0x12)
      if op = 0x14 then
        { writes := [(ad.toNat, intBytes td (if acc.seen then acc.idx else -1))], flags := acc.fl }
      else if isF then
        let v := if allNan then Fl.nan (Config.signOf 32 d.a 0 0) else f32 acc.f
        { writes := [(ad.toNat, flBytes td v false)], flags := acc.fl.or { inf := (f32 acc.f).isFin && (match tyFmt td with | some f => f.overflows v | none => false) } }
      else
        let (lo, hi) := tyRange td
        let (v, s) := satRange lo hi acc.i
        { writes := [(ad.toNat, intBytes td v)], flags := acc.fl.or { sat := s } }

/-- The lines of a reduction. -/
def reduceLines (d : VecDesc) : List (List Idx) :=
  if d.axis1 then
    (idxs (d.count 0) 1 (d.count 2) (d.count 3) (d.count 4)).map fun ix =>
      (List.range (d.count 1)).map fun i1 => [ix.getD 0 0, i1, ix.getD 2 0, ix.getD 3 0, ix.getD 4 0]
  else
    (idxs 1 (d.count 1) (d.count 2) (d.count 3) (d.count 4)).map fun ix =>
      (List.range (d.count 0)).map fun i0 => [i0, ix.getD 1 0, ix.getD 2 0, ix.getD 3 0, ix.getD 4 0]

/-- A reduction. With AXIS 1 the rows of dim 0 are read one after another, so that the first of them with a fault decides (R236). -/
def reduceOut (m : Mem) (d : VecDesc) : VecOut :=
  if !d.axis1 then outAll (reduceLines d) (reduceLine m d)
  else
    outAll (idxs 1 1 (d.count 2) (d.count 3) (d.count 4)) fun g =>
      let at_ (i0 i1 : Nat) : Idx := [i0, i1, g.getD 2 0, g.getD 3 0, g.getD 4 0]
      let rows := (List.range (d.count 1)).flatMap fun i1 => (List.range (d.count 0)).map fun i0 => at_ i0 i1
      match rows.find? fun ix => activeLane m d ix && !inSp (opAddr d.a d.strideA ix) (tySize d.ta.toNat) with
      | some ix => faultAt d ix (opAddr d.a d.strideA ix)
      | none => outAll ((List.range (d.count 0)).map fun i0 => (List.range (d.count 1)).map (at_ i0)) (reduceLine m d)

/-! ### Rotation and escape correction (R243, R244) -/

/-- One butterfly stage on bit `b` of the index (R205). -/
def butterfly (b : Nat) (xs : List U32) : List U32 :=
  (List.range xs.length).map fun i =>
    if i / 2 ^ b % 2 = 0 then fadd (xs.getD i 0) (xs.getD (i + 2 ^ b) 0) else fsub (xs.getD (i - 2 ^ b) 0) (xs.getD i 0)

/-- The rotation of a group of n values: log2 n stages, bit 0 first. -/
def rotate (xs : List U32) : List U32 := (List.range xs.length.log2).foldl (fun x b => butterfly b x) xs

/-- ROTATE on one group. -/
def rotateOut (m : Mem) (d : VecDesc) (line : List Idx) : VecOut :=
  let ta := d.ta.toNat
  match (line.filter (activeLane m d)).find?
      (fun ix => !inSp (opAddr d.a d.strideA ix) (tySize ta) || !inSp (opAddr d.d d.strideD ix) 4) with
  | some ix =>
    let a := opAddr d.a d.strideA ix
    faultAt d ix (if inSp a (tySize ta) then opAddr d.d d.strideD ix else a)
  | none =>
    -- a masked lane is not read (R236), and the value that it gives to its group is open (log entry 129)
    let xs := line.map fun ix =>
      let a := (opAddr d.a d.strideA ix)
      if activeLane m d ix then toF32 (tyFl ta (m.elem ta a.toNat)) else Config.maskedValue (a % Int.ofNat spSize).toNat
    let ys := rotate xs
    outAll (line.zip ys) fun e =>
      if activeLane m d e.1 then
        { writes := [((opAddr d.d d.strideD e.1).toNat, le 4 e.2.toNat)]
          flags := { nan := xs.any (fun x => (f32 x).isNan) || (f32 e.2).isNan
                     inf := xs.all (fun x => (f32 x).isFin) && (f32 e.2).isInf } }
      else {}

/-- The value of one step of ESCFIX's output: the corrections of the side list in its order (R206, R208). -/
def escElem (m : Mem) (f : Feed) (pos : TilePos) (zp : U16) (asc : Nat → Nat) (list : List U32) (i c : Nat) (y : U32) : U32 :=
  list.foldl (fun y e =>
    if bits e.toNat 22 16 = c then
      let x := fmul (intF32 (f.value m pos false zp i (bits e.toNat 29 23))) (asF32 fp16 (asc i))
      fma32 (asF32 bf16 (bits e.toNat 15 0)) x y
    else y) y

/-- ESCFIX: a full corrected copy of y (R244). -/
def escfixOut (m : Mem) (d : VecDesc) (pos : TilePos) : VecOut :=
  let b := m.readN d.p.toNat 32
  let f := feedOf m (BitVec.ofNat 32 (field b 0 4))
  let n := field b 4 2
  let zp : U16 := BitVec.ofNat 16 (field b 6 2)
  let asc (i : Nat) : Nat := if field b 8 1 = 0 then field b 10 2 else unle (m.readN (field b 12 4 + 2 * (i / 16)) 2)
  let list := (List.range (field b 0x14 2)).map fun k => BitVec.ofNat 32 (unle (m.readN (field b 0x10 4 + 4 * k) 4))
  outAll ((List.range n).flatMap fun i => (List.range 128).map fun c => (i, c)) fun e =>
    let off := 512 * e.1 + 4 * e.2
    if !inSp (Int.ofNat (d.a.toNat + off)) 4 then faultAt d [e.2] (Int.ofNat (d.a.toNat + off))
    else if !inSp (Int.ofNat (d.d.toNat + off)) 4 then faultAt d [e.2] (Int.ofNat (d.d.toNat + off))
    else
      let y := BitVec.ofNat 32 (m.elem 8 (d.a.toNat + off))
      let z := escElem m f pos zp asc list e.1 e.2 y
      { writes := [(d.d.toNat + off, le 4 z.toNat)]
        flags := { nan := (f32 y).isNan || (f32 z).isNan, inf := (f32 y).isFin && (f32 z).isInf } }

/-! ### The window path (R237 to R239) -/

/-- The parameter block of WINDOW. -/
structure WinParam where
  mode  : Nat
  kh    : Nat
  kw    : Nat
  group : Nat
  sh    : Nat
  sw    : Nat
  zp    : Int
  dh    : Nat
  dw    : Nat
  padT  : Nat
  padL  : Nat
  inH   : Nat
  inW   : Nat
  row0  : Nat
  col0  : Nat
  inPix : Nat
  inRow : Nat
  inCb  : Nat
  wts   : Nat
  scale : Nat
  rq    : Nat
deriving DecidableEq, Repr

def WinParam.parse (b : List Byte) : WinParam :=
  { mode := field b 0 1, kh := field b 1 1, kw := field b 2 1, group := field b 3 1, sh := field b 4 1, sw := field b 5 1
    zp := tyInt 4 (field b 6 2), dh := field b 8 2, dw := field b 10 2, padT := field b 12 2, padL := field b 14 2, inH := field b 16 2
    inW := field b 18 2, row0 := field b 20 2, col0 := field b 22 2, inPix := field b 24 4, inRow := field b 28 4, inCb := field b 32 4
    wts := field b 36 4, scale := field b 40 4, rq := field b 44 4 }

/-- The taps of a window, row-major. -/
def WinParam.taps (w : WinParam) : List (Nat × Nat) := (List.range w.kh).flatMap fun i => (List.range w.kw).map fun j => (i, j)

/-- The tap's input position for output row y and column x. -/
def WinParam.pos (w : WinParam) (y x : Nat) (t : Nat × Nat) : Int × Int :=
  (tapPos y w.sh w.padT t.1 w.dh, tapPos x w.sw w.padL t.2 w.dw)

/-- The taps skipped for an output row (R239). -/
def WinParam.skips (w : WinParam) (y cols : Nat) : Nat :=
  (w.taps.filter fun t =>
    !inside (w.pos y 0 t).1 w.inH || (List.range cols).all fun i1 => !inside (w.pos y (w.col0 + i1) t).2 w.inW).length

/-- The taps of one output element that are not in padding, with the address of channel 0 of their input pixel. -/
def WinParam.live (w : WinParam) (d : VecDesc) (y x cb : Nat) : List ((Nat × Nat) × Nat) :=
  w.taps.filterMap fun t =>
    let p := w.pos y x t
    if inside p.1 w.inH && inside p.2 w.inW then
      some (t, d.a.toNat + p.1.toNat * w.inRow + p.2.toNat * w.inPix + cb * w.inCb)
    else none

/-- One output element of WINDOW. -/
def windowElem (m : Mem) (d : VecDesc) (w : WinParam) (ix : Idx) : VecOut :=
  let mix := 0 :: ix.drop 1
  let ad := opAddr d.d d.strideD ix
  let ta := d.ta.toNat
  let td := d.td.toNat
  let c := ix.getD 0 0
  let cb := ix.getD 3 0
  let y := w.row0 + ix.getD 2 0
  let x := w.col0 + ix.getD 1 0
  let sz := tySize ta
  let live := w.live d y x cb
  let g := if w.mode = 1 then w.group else 1
  -- the elements that the lane reads: the codes of its group, or its own element
  let reads := live.flatMap fun t => if w.mode < 2 then (List.range g).map fun k => t.2 + c / g * g + k else [t.2 + c * sz]
  if !activeLane m d mix then {}
  else
    match reads.find? (fun a => !inSp (Int.ofNat a) (if w.mode < 2 then 1 else sz)) with
    | some a => faultAt d ix (Int.ofNat a)
    | none =>
      if !inSp ad (tySize td) then faultAt d ix ad
      else if w.mode < 2 then
        let q := RqSet.parse (m.readN w.rq 16)
        let sum := live.foldl (fun (a : Int) t =>
          (List.range g).foldl (fun (a : Int) k =>
            let code := tyInt 0 (m.read (t.2 + c / g * g + k)).toNat
            let wt := tyInt 0 (m.read (w.wts + ((cb * w.kh * w.kw + t.1.1 * w.kw + t.1.2) * 32 + c) * g + k)).toNat
            a + wt * (code - w.zp)) a) 0
        let ws := unle (m.readN (w.scale + 256 * cb + 2 * c) 2)
        let bias := tyInt 7 (unle (m.readN (w.scale + 256 * cb + 64 + 4 * c) 4))
        let (out, s) := requant { q with asMode := 0 } sum bias ws q.asStat
        { writes := [(ad.toNat, out)], flags := { sat := s } }
      else
        let vals := live.map fun t => m.elem ta (t.2 + c * sz)
        match tyFmt ta with
        | none =>
          let ints := vals.map (tyInt ta)
          let (lo, hi) := tyRange ta
          let out : Int :=
            if w.mode = 2 then (match ints with | [] => w.zp | i :: r => r.foldl max i)
            else
              let n := w.kh * w.kw
              let s := ints.foldl (fun a i => a + (i - w.zp)) 0
              let q := s.fdiv n
              let r := s - q * n
              clampInt ((if 2 * r > n || (2 * r == n && q % 2 != 0) then q + 1 else q) + w.zp) lo hi
          { writes := [(ad.toNat, intBytes td out)] }
        | some f =>
          let fls := vals.map f.dec
          if w.mode = 2 then
            let v := match fls with
              | [] => Fl.inf true
              | a :: r => r.foldl (fun x y => pickFl (Config.signOf 40 (toF32 x) (toF32 y) 0) true x y) a
            { writes := [(ad.toNat, flBytes td v false)], flags := { nan := fls.any Fl.isNan } }
          else
            let s := fls.foldl (fun (a : U32) x => toF32 ((f32 a).add (Config.signOf 41 a (toF32 x) 0) x)) 0
            let (v, tail) := (f32 s).div (Config.signOf 42 s 0 0) (Fl.ofInt (w.kh * w.kw))
            { writes := [(ad.toNat, flBytes td v tail)]
              flags := (flFlags fls (f32 s) none).or (flFlags [f32 s] v (some f)) }

/-- WINDOW: every output element, and the taps skipped for each output row and channel block. -/
def windowOut (m : Mem) (d : VecDesc) : VecOut :=
  let w := WinParam.parse (m.readN d.p.toNat 64)
  let o := outAll (idxs (d.count 0) (d.count 1) (d.count 2) (d.count 3) 1) (windowElem m d w)
  { o with skips := d.count 3 * ((List.range (d.count 2)).foldl (fun a i2 => a + w.skips (w.row0 + i2) (d.count 1)) 0) }

/-! ### Crop and resize (R240 to R242) -/

/-- The step kx or ky between the scaled ends of a box along one axis (R241). -/
def sampleStep (a b spatial : U32) (n : Nat) : U32 :=
  let x0 := fmul a spatial
  let x1 := fmul b spatial
  let ns := Config.signOf 43 x0 x1 spatial
  let q := ((f32 x1).add ns (f32 x0).negate).div ns (Fl.ofInt n)
  toF32 q.1 q.2

/-- The sampling position of output `u` of a box along one axis; each line of R241 rounds once. -/
def samplePos (a b spatial : U32) (n u : Nat) : U32 :=
  let x0 := fmul a spatial
  let ns := Config.signOf 43 x0 (fmul b spatial) spatial
  toF32 (((f32 x0).add ns ((Fl.fin false (2 * u + 1) (-1)).mul ns (f32 (sampleStep a b spatial n)))).add ns (.fin true 1 (-1)))

/-- The chroma position at the output centre whose double is `two`, halved (R279). -/
def chromaPos (a b spatial : U32) (n two : Nat) : U32 :=
  let x0 := fmul a spatial
  let ns := Config.signOf 43 x0 (fmul b spatial) spatial
  toF32 ((((f32 x0).add ns ((Fl.fin false two (-1)).mul ns (f32 (sampleStep a b spatial n)))).mul ns (.fin false 1 (-1))).add ns (.fin true 1 (-1)))

/-- The two clamped positions and the weight at a sampling position. -/
def sampleAt (s : U32) (n : Nat) : Nat × Nat × U32 :=
  let i := (f32 s).floor
  let cl (v : Int) : Nat := (clampInt v 0 (Int.ofNat n - 1)).toNat
  (cl i, cl (i + 1), toF32 ((f32 s).add (Config.signOf 44 s 0 0) (Fl.ofInt (-i))))

/-- a × (q − p) + p, rounded once (R241). -/
def lerp (a p q : U32) : U32 :=
  let ns := Config.signOf 45 a p q
  toF32 (((f32 a).mul ns ((f32 q).add ns (f32 p).negate)).add ns (f32 p))

/-- Bilinear interpolation of four samples (R241). -/
def bilinear (ax ay p00 p01 p10 p11 : U32) : U32 := lerp ay (lerp ax p00 p01) (lerp ax p10 p11)

/-- The box has a coordinate that is not finite after scaling (R242). -/
def boxBad (box : List U32) (sx sy : U32) : Bool :=
  !(finite32 (fmul (box.getD 0 0) sx) && finite32 (fmul (box.getD 1 0) sy) && finite32 (fmul (box.getD 2 0) sx)
    && finite32 (fmul (box.getD 3 0) sy))

/-- CROPRESIZE. -/
def cropOut (m : Mem) (d : VecDesc) : VecOut :=
  let b := m.readN d.p.toNat 32
  let boxes := field b 0 4
  let spatial := BitVec.ofNat 32 (field b 4 4)
  let inH := field b 8 2
  let inW := field b 10 2
  let pix := field b 12 4
  let row := field b 16 4
  let cbp := field b 20 4
  let zp := tyInt 4 (field b 24 2)
  let ow := d.count 1
  let oh := d.count 2
  let ta := d.ta.toNat
  let td := d.td.toNat
  let boxOf (k : Nat) : List U32 := words (m.readN (boxes + 16 * k) 16) 4
  let o := outAll (allIdx d) fun ix =>
    let box := boxOf (ix.getD 3 0)
    let ad := opAddr d.d d.strideD ix
    let c := ix.getD 0 0
    if !activeLane m d (0 :: ix.drop 1) then {}
    else if boxBad box spatial spatial then
      if !inSp ad (tySize td) then faultAt d ix ad
      else { writes := [(ad.toNat, if (tyFmt td).isSome then zeros (tySize td) else intBytes td zp)] }
    else
      let (xa, xb, ax) := sampleAt (samplePos (box.getD 0 0) (box.getD 2 0) spatial ow (ix.getD 1 0)) inW
      let (ya, yb, ay) := sampleAt (samplePos (box.getD 1 0) (box.getD 3 0) spatial oh (ix.getD 2 0)) inH
      let addr (y x : Nat) : Nat := d.a.toNat + y * row + x * pix + ix.getD 4 0 * cbp + c * tySize ta
      match [addr ya xa, addr ya xb, addr yb xa, addr yb xb].find? fun a => !inSp (Int.ofNat a) (tySize ta) with
      | some a => faultAt d ix (Int.ofNat a)
      | none =>
       if !inSp ad (tySize td) then faultAt d ix ad
       else
        let p (y x : Nat) : U32 := toF32 (tyFl ta (m.elem ta (addr y x)))
        let v := f32 (bilinear ax ay (p ya xa) (p ya xb) (p yb xa) (p yb xb))
        let ins := [f32 (p ya xa), f32 (p ya xb), f32 (p yb xa), f32 (p yb xb)]
        { writes := [(ad.toNat, flBytes td v false)], flags := flFlags ins v (tyFmt td) }
  { o with boxes := ((List.range (d.count 3)).filter fun k => boxBad (boxOf k) spatial spatial).length }

/-! ### Kalman prediction (R246, R247) -/

/-- Position of P(i, j) with i ≤ j among the 36 values of the upper triangle. -/
def triPos (i j : Nat) : Nat := i * 8 - i * (i - 1) / 2 + (j - i)

/-- P(i, j) of a symmetric matrix in its upper triangle. -/
def triGet (p : List U32) (i j : Nat) : U32 := if i ≤ j then p.getD (triPos i j) 0 else p.getD (triPos j i) 0

/-- The state and covariance after `dt` with process noise `q` (R247). -/
def kalman (dt : U32) (q x p : List U32) : List U32 × List U32 :=
  let a (i j : Nat) : U32 := triGet p i j
  let b (i j : Nat) : U32 := triGet p i (j + 4)
  let c (i j : Nat) : U32 := triGet p (i + 4) (j + 4)
  let x' := (List.range 8).map fun k => if k < 4 then fma32 dt (x.getD (k + 4) 0) (x.getD k 0) else x.getD k 0
  let aNew (i j : Nat) : U32 :=
    let s := fadd (b i j) (b j i)
    let t := fma32 dt (c i j) s
    let v := fma32 dt t (a i j)
    if i = j then fma32 (q.getD i 0) dt v else v
  let p' := (List.range 8).flatMap fun i => (List.range 8).filterMap fun j =>
    if j < i then none
    else if j < 4 then some (aNew i j)
    else if i < 4 then some (fma32 dt (c i (j - 4)) (b i (j - 4)))
    else if i = j then some (fma32 (q.getD i 0) dt (c (i - 4) (j - 4)))
    else some (triGet p i j)
  (x', p')

/-- DT is negative, above 60 s or not finite (R247). -/
def dtBad (dt : U32) : Bool :=
  let v := f32 dt
  !v.isFin || v.lt (.fin false 0 0) || (f32 0x42700000).lt v

/-- The 192-byte record after prediction, and whether it was rejected. -/
def kalmanRecord (q : List U32) (rec : List U32) : List U32 × Bool :=
  let dt := rec.getD 0 0
  let fl := rec.getD 1 0
  if !fl.getLsbD 0 then (rec, false)
  else if dtBad dt then (setAt rec 1 (fl ||| 2), true)
  else
    let (x, p) := kalman dt q ((rec.drop 2).take 8) ((rec.drop 10).take 36)
    (rec.take 2 ++ x ++ p ++ rec.drop 46, false)

/-- KALMAN. -/
def kalmanOut (m : Mem) (d : VecDesc) : VecOut :=
  let q := words (m.readN d.p.toNat 32) 8
  outAll (List.range (d.count 1)) fun i1 =>
    let ix : Idx := [0, i1]
    let aa := opAddr d.a d.strideA ix
    let ad := opAddr d.d d.strideD ix
    if !activeLane m d ix then {}
    else if !inSp aa 192 then faultAt d ix aa
    else if !inSp ad 192 then faultAt d ix ad
    else
      let r := words (m.readN aa.toNat 192) 48
      let (o, bad) := kalmanRecord q r
      let predicted := (r.getD 1 0).getLsbD 0 && !bad
      let ins := ((r.drop 2).take 44 ++ if predicted then q else []).map f32
      { writes := [(ad.toNat, o.flatMap fun w => le 4 w.toNat)], records := bit bad
        flags := flFlags ins (.fin false 0 0) none |>.or
          { nan := ((o.drop 2).take 44).any fun w => (f32 w).isNan
            inf := ins.all Fl.isFin && ((o.drop 2).take 44).any fun w => (f32 w).isInf } }

/-! ### One descriptor -/

/-- What a descriptor leaves. -/
def vecRun (m : Mem) (d : VecDesc) (pos : TilePos) : VecOut :=
  match d.op.toNat with
  | 0x09 => quantOut m d
  | 0x0A => outAll (allIdx d) (dequantOut m d)
  | 0x0B => outAll (allIdx d) (requantOut m d)
  | 0x10 | 0x11 | 0x12 | 0x13 | 0x14 => reduceOut m d
  | 0x20 => outAll (reduceLines { d with flags := 0 }) (rotateOut m d)
  | 0x21 => escfixOut m d pos
  | 0x22 => windowOut m d
  | 0x23 => cropOut m d
  | 0x24 => kalmanOut m d
  | _ => outAll (allIdx d) (elemOut m d)

/-- The scratchpad after a descriptor's writes. -/
def VecOut.apply (o : VecOut) (m : Mem) : Mem := o.writes.foldl (fun m w => m.writeN w.1 w.2) m

/-- The cycles of a descriptor (R230); `boxCount` and the executed taps come from the operands. -/
def vecCycles (m : Mem) (d : VecDesc) : Nat :=
  let r := d.count 1 * d.count 2 * d.count 3 * d.count 4
  let w := max (tySize d.ta.toNat) (max (if d.tb = 0xF then 1 else tySize d.tb.toNat) (tySize d.td.toNat))
  let line := cdiv (d.count 0) (256 / w)
  match d.op.toNat with
  | 0x09 => 16 + 2 * r * line
  | 0x10 | 0x11 | 0x12 | 0x13 | 0x14 => 22 + r * cdiv (d.count 0) 64
  | 0x20 => 24 + r * cdiv (d.count 0) 64
  | 0x21 =>
    let n := unle (m.readN (d.p.toNat + 4) 2)
    16 + 2 * n + 2 * unle (m.readN (d.p.toNat + 0x14) 2) * cdiv n 64
  | 0x22 =>
    let p := WinParam.parse (m.readN d.p.toNat 64)
    16 + d.count 3 * ((List.range (d.count 2)).foldl (fun a i2 =>
      a + cdiv (d.count 1) 8 * (p.kh * p.kw - p.skips (p.row0 + i2) (d.count 1)) * p.group) 0)
  | 0x23 => 16 + d.count 3 * d.count 4 * (d.count 2 * cdiv (d.count 1) 2)
  | 0x24 => 16 + 6 * d.count 1
  | _ => 16 + r * line

/-- The operation and its function number are defined (R232, R233). -/
def VecDesc.defined (d : VecDesc) : Bool :=
  let op := d.op.toNat
  decide ((1 ≤ op ∧ op ≤ 0x0B) ∨ (0x10 ≤ op ∧ op ≤ 0x14) ∨ (0x20 ≤ op ∧ op ≤ 0x24)) && (op != 0x08 || decide (d.imm.toNat ≤ 9))

/-! ### The bytes that a descriptor writes (R227, R228) -/

/-- Bytes `lo` to `lo + n` − 1. -/
abbrev Range := Nat × Nat

/-- Two ranges have a byte in common. -/
def meets (a b : Range) : Bool := decide (a.1 < b.1 + b.2) && decide (b.1 < a.1 + a.2) && decide (0 < a.2) && decide (0 < b.2)

/-- A range of one list has a byte in common with one of the other: the hulls are compared before the parts. -/
def meetAny (a b : List Range) : Bool :=
  let hull (l : List Range) : Range :=
    let lo := l.foldl (fun m r => min m r.1) (l.headD (0, 0)).1
    (lo, l.foldl (fun m r => max m (r.1 + r.2)) 0 - lo)
  meets (hull a) (hull b) && a.any fun x => b.any (meets x)

/-- The element size of an operand, 1 for NONE. -/
def elemSize (t : Byte) : Nat := if t = 0xF then 1 else tySize t.toNat

/-- Addresses of an operand over the index vectors that the operation uses for it. -/
def elemRanges (base : U32) (str : List U32) (n : Nat) (ixs : List Idx) : List (Int × Nat) := ixs.map fun ix => (opAddr base str ix, n)

/-- The bytes that a descriptor writes to D: elements, or the records and rows of the special operations. -/
def writesD (m : Mem) (d : VecDesc) : List (Int × Nat) :=
  let sz := elemSize d.td
  match d.op.toNat with
  | 0x10 | 0x11 | 0x12 | 0x13 | 0x14 => elemRanges d.d d.strideD sz ((reduceLines d).map fun l => l.headD [])
  | 0x21 => [(Int.ofNat d.d.toNat, 512 * unle (m.readN (d.p.toNat + 4) 2))]
  | 0x24 => (List.range (d.count 1)).map fun i => (opAddr d.d d.strideD [0, i], 192)
  | _ => elemRanges d.d d.strideD sz (allIdx d)

/-- The scales that QUANT and DEQUANT use, and the ranges of their SCALES and AUX areas (R245). -/
def scaleCount (d : VecDesc) (mode : Nat) : Nat :=
  let rep := d.count 4 * d.count 3
  match mode with
  | 0 => 1
  | 3 => rep * d.count 2 * d.count 1 * cdiv (d.count 0) 32
  | _ => rep * cdiv (d.count 1) 16 * d.count 2
def scaleAreas (m : Mem) (d : VecDesc) : List (Int × Nat) :=
  let q := QParam.parse (m.readN d.p.toNat 16)
  let n := scaleCount d q.mode
  [(Int.ofNat q.scales, 2 * n), (Int.ofNat q.aux, 4 * n)]

/-- Every byte that a descriptor writes: D, and the scales and records of QUANT. -/
def writesAll (m : Mem) (d : VecDesc) : List (Int × Nat) := writesD m d ++ if d.op = 0x09 then scaleAreas m d else []

/-- As natural ranges, for those that lie in the scratchpad. -/
def asRanges (l : List (Int × Nat)) : List Range := l.map fun r => (r.1.toNat, r.2)

/-! ### The descriptor list of a tile (R261, R274) -/

/-- Each descriptor with the number of its chain: the passes up to one with LAST. -/
def chains : Nat → List Desc → List (Nat × Desc)
  | _, [] => []
  | k, d :: r => match d with
    | .pass p b => (k, .pass p b) :: chains (if p.last then k + 1 else k) r
    | d => (k, d) :: chains k r

/-- The pass is skipped for a stripe of `rows` rows from `row0`. -/
def passSkipped (m : Mem) (row0 rows : Nat) (p : PassDesc) : Bool := (feedOf m p.feed).skipped row0 rows

/-- A pass with FIRST and LAST as given, and with OUT, SCALE and RQ of `final` when it takes LAST. -/
def remode (p : PassDesc) (first last : Bool) (final : PassDesc) : PassDesc :=
  let mode := p.mode &&& 0x0C ||| (if first then 1 else 0) ||| (if last then 2 else 0)
  if last then { p with mode := mode, out := final.out, scale := final.scale, rq := final.rq } else { p with mode := mode, out := 0 }

/-- The list that a core runs for a stripe: the passes that are not skipped, the first of a chain with FIRST and the last with LAST; of a chain that is
skipped whole, the last pass with both. With the count of skipped passes. -/
def runList (m : Mem) (row0 rows : Nat) (ds : List Desc) : List Desc × Nat :=
  let cs := (chains 0 ds).zipIdx
  let passesOf (k : Nat) : List (PassDesc × Nat) :=
    cs.filterMap fun x => match x.1.2 with | .pass p _ => if x.1.1 = k then some (p, x.2) else none | _ => none
  let runsOf (k : Nat) : List Nat :=
    let live := (passesOf k).filter fun p => !passSkipped m row0 rows p.1
    if live.isEmpty then (match (passesOf k).getLast? with | some p => [p.2] | none => []) else live.map (·.2)
  let out := cs.filterMap fun x =>
    match x.1.2 with
    | .pass p b =>
      let runs := runsOf x.1.1
      if runs.contains x.2 then
        let final := match (passesOf x.1.1).getLast? with | some q => q.1 | none => p
        some (.pass (remode p (runs.head? == some x.2) (runs.getLast? == some x.2 && final.last) final) b)
      else none
    | d => some d
  (out, cs.length - out.length)

/-- The channels of a channel block of a buffer: 32 of 1-byte types, else 16 (R256). -/
def blockChans (b : BufferEntry) : Nat := if tySize b.type.toNat = 1 then 32 else 16

/-- The output rows of stripe `st` (R260). -/
def stripeRows (l : LayerEntry) (outH st : Nat) : Nat := min l.rows.toNat (outH - st * l.rows.toNat)

/-- The channel blocks of a buffer, and the bytes of one of its rows: a LINEAR row holds every channel, a blocked one 32 B for each pixel (R256). -/
def rowShape (b : BufferEntry) : Nat × Nat :=
  let size := tySize b.type.toNat
  if b.layout = 0 then (1, b.w.toNat * b.c.toNat * size) else (cdiv b.c.toNat (if size = 2 then 16 else 32), 32 * b.w.toNat)

end Sys2Proof.Machine
end

