-- ==== Sys2Proof/Machine/Admission.lean ====
section
/-! DEFINITION. The admission test (R76 to R80, R474, R285, R329, R342 to R344, R444, R472): what a Recipe and a set of counted slots give on the
units in service, and the first test that fails. Powers are in mW, loads in units that each definition names, times in ps. -/

namespace Sys2Proof.Machine

/-! ### Exact fractions -/

/-- A fraction: the tests of R78 to R80 compare times and loads without rounding. -/
structure Frac where
  num : Nat
  den : Nat := 1
deriving DecidableEq, Repr, Inhabited

/-- A fraction in lowest terms. -/
def frac (n d : Nat) : Frac := let g := max 1 (Nat.gcd n d); { num := n / g, den := max 1 (d / g) }

def Frac.add (a b : Frac) : Frac := frac (a.num * b.den + b.num * a.den) (a.den * b.den)
def Frac.mul (a b : Frac) : Frac := frac (a.num * b.num) (a.den * b.den)
/-- The difference, 0 where it would be negative. -/
def Frac.sub (a b : Frac) : Frac := frac (a.num * b.den - b.num * a.den) (a.den * b.den)
def Frac.le (a b : Frac) : Bool := decide (a.num * b.den ≤ b.num * a.den)
def Frac.lt (a b : Frac) : Bool := decide (a.num * b.den < b.num * a.den)
def Frac.max (a b : Frac) : Frac := if a.le b then b else a
def Frac.min (a b : Frac) : Frac := if a.le b then a else b
def Frac.inv (a : Frac) : Frac := { num := a.den, den := Nat.max 1 a.num }
def Frac.floor (a : Frac) : Nat := a.num / Nat.max 1 a.den
def Frac.ceil (a : Frac) : Nat := cdiv a.num (Nat.max 1 a.den)
def Frac.sum (l : List Frac) : Frac := l.foldl Frac.add { num := 0 }

/-- What a failing test reports: its code, INDEX_KIND, index and plan (R374). -/
structure AdmFail where
  code  : U16
  kind  : Nat := 0
  index : Nat := 0
  plan  : Nat := 0
deriving DecidableEq, Repr, Inhabited

/-- A context as admission forms it (R285). -/
structure AdmCtx where
  plan   : Nat
  cls    : Nat
  slots  : List Nat
  /-- The region of TICK_REGIONS that a tick context serves. -/
  tick   : Option Nat
  gau    : Bool
  region : Option Nat
  /-- Releases per second, relative deadline in ns, worst-case time in ns. -/
  rate   : Frac := { num := 0 }
  dctx   : Frac := { num := 0 }
  cost   : Frac := { num := 0 }
deriving DecidableEq, Repr, Inhabited

/-- The step bounds of R80, in ns. -/
structure Bounds where
  b3  : Frac
  b5  : Frac
  b7  : Frac
  b8  : Frac
  b11 : Frac
deriving DecidableEq, Repr, Inhabited

/-- What a passing admission fixes. -/
structure AdmRes where
  fAdm    : Nat
  ctxs    : List AdmCtx
  homes   : Tbl Nat
  bounds  : Bounds
  traffic : Nat
  link    : Nat
  cse     : Nat
  decLoad : Nat
  /-- Pools by number: use, log2, count, base. -/
  pools   : List (Nat × Nat × Nat × Nat × Nat)
  encLoad : Tbl Nat
  encIdle : List (Nat × Nat)
  rings   : Tbl Nat
  ringEnd : Nat
  gauFree : List Nat
deriving DecidableEq, Repr, Inhabited

/-- The first failure of a list of tests. -/
def firstFail : List (Option AdmFail) → Option AdmFail
  | [] => none
  | some f :: _ => some f
  | none :: r => firstFail r

/-- A test that fails with `f` unless `ok`. -/
def unless_ (ok : Bool) (f : AdmFail) : Option AdmFail := if ok then none else some f

/-! ### Tests 1 to 4: the Recipe alone -/

/-- The range of a setting (R55). -/
def settingRange (key : Nat) : Option (Nat × Nat) :=
  match key with
  | 0x1 => some (60, 240) | 0x2 => some (0, 55) | 0x3 => some (10, 100) | 0x4 => some (20, 1000) | 0x5 => some (1, 3600)
  | 0x6 => some (5, 100) | 0x7 => some (1, 64) | 0x8 => some (500, 20000) | 0x9 => some (0, 1) | 0xA => some (64, 768)
  | 0xB => some (8, 16) | 0xC => some (0, 4) | 0xD => some (1, 16) | 0xE => some (1, 1000) | 0xF => some (1, 1000)
  | 0x10 => some (1, 1000) | _ => none

/-- A list without repeats. -/
def distinct : List Nat → Bool
  | [] => true
  | a :: r => !r.contains a && distinct r

/-- Test 1 (R55). -/
def settingsOk (es : List SettingEntry) : Bool :=
  es.all (fun e => e.zero == 0 && match settingRange e.key.toNat with
    | some (lo, hi) => decide (lo ≤ e.value.toNat ∧ e.value.toNat ≤ hi)
    | none => false) && distinct (es.map fun e => e.key.toNat)

/-- A setting of a Recipe, or its default. -/
def recSetting (r : Cartridge) (key dflt : Nat) : Nat :=
  match r.settings.find? (fun e => e.key.toNat == key) with
  | some e => e.value.toNat
  | none => dflt

/-- Powers of two. -/
def isPow2 (n : Nat) : Bool := decide (n = 2 ^ n.log2)

/-- One entry of the slot table keeps R56. -/
def slotEntryOk (r : Cartridge) (e : SlotEntry) : Bool :=
  decide (e.slot.toNat ≤ 511) && decide (100 ≤ e.rate.toNat ∧ e.rate.toNat ≤ 12000)
    && decide (1 ≤ e.maxBitrate.toNat ∧ e.maxBitrate.toNat ≤ 800000)
    && decide (65536 ≤ e.ringBytes.toNat ∧ e.ringBytes.toNat ≤ 67108864) && isPow2 e.ringBytes.toNat
    && (e.deadline == 0 || decide (20 ≤ e.deadline.toNat ∧ e.deadline.toNat ≤ 1000))
    && decide (e.ingest.toNat ≤ 1) && decide (e.prio.toNat ≤ 3) && decide (e.metaRing.toNat < recSetting r 0xD 1)
    && r.plans.any (fun p => p.plan == e.pipeline) && decide (e.flags.toNat < 8) && e.zero == 0

/-- Test 2: the first slot of the table that breaks R56. -/
def slotTableFail (r : Cartridge) : Option AdmFail :=
  let bad (e : SlotEntry) : Bool :=
    r.header.cartType == 2 || !slotEntryOk r e || (r.slots.filter fun f => f.slot == e.slot).length != 1
  if 512 < r.slots.length then some { code := 0x0111 }
  else match r.slots.find? bad with
    | some e => some { code := 0x0111, kind := 1, index := e.slot.toNat }
    | none => none

/-- The rank of a level among those of its codec, none where it is not accepted (R102). -/
def levelRank (codec level : Nat) : Option Nat :=
  let order : List Nat := match codec with
    | 0 => [10, 9, 11, 12, 13, 20, 21, 22, 30, 31, 32, 40, 41, 42, 50, 51, 52]
    | 1 => [10, 20, 21, 30, 31, 40, 41, 50, 51]
    | 2 => [0, 1, 4, 5, 8, 9, 12, 13]
    | _ => []
  order.findIdx? (· == level)

/-- Test 3: codec, profile, bit depth and level (R102). -/
def codecOk (e : SlotEntry) : Bool :=
  let d := e.bitDepth.toNat
  let p := e.profile.toNat
  (levelRank e.codec.toNat e.level.toNat).isSome
    && (match e.codec.toNat with
        | 0 => (p == 66 || p == 77 || p == 100) && d == 8
        | 1 => (p == 1 && d == 8) || (p == 2 && (d == 8 || d == 10))
        | 2 => p == 0 && (d == 8 || d == 10)
        | _ => false)

/-- The picture-size limit of a level: macroblocks for H.264, luma samples for HEVC and AV1, from the codecs' own standards (log entry 24). -/
def sizeLimit (codec level : Nat) : Nat :=
  match codec, level with
  | 0, 10 | 0, 9 => 99
  | 0, 11 | 0, 12 | 0, 13 | 0, 20 => 396
  | 0, 21 => 792
  | 0, 22 | 0, 30 => 1620
  | 0, 31 => 3600
  | 0, 32 => 5120
  | 0, 40 | 0, 41 => 8192
  | 0, 42 => 8704
  | 0, 50 => 22080
  | 0, _ => 36864
  | 1, 10 => 36864
  | 1, 20 => 122880
  | 1, 21 => 245760
  | 1, 30 => 552960
  | 1, 31 => 983040
  | 1, 40 | 1, 41 => 2228224
  | 1, _ => 8912896
  | _, 0 => 147456
  | _, 1 => 278784
  | _, 4 => 665856
  | _, 5 => 1065024
  | _, 8 | _, 9 => 2359296
  | _, _ => 8912896

/-- A picture size is within the limit of a level (R76, R105). -/
def sizeWithin (codec level w h : Nat) : Bool :=
  if codec = 0 then decide (cdiv w 16 * cdiv h 16 ≤ sizeLimit 0 level) else decide (w * h ≤ sizeLimit codec level)

/-- Test 4. -/
def pictureSizeOk (e : SlotEntry) : Bool :=
  let w := e.width.toNat
  let h := e.height.toNat
  decide (128 ≤ w ∧ w ≤ 4096 ∧ 96 ≤ h ∧ h ≤ 2304) && sizeWithin e.codec.toNat e.level.toNat w h

/-! ### Slots: rates, sizes, buffers -/

/-- 16-aligned size of a stored picture (R117). -/
def stored (n : Nat) : Nat := cdiv n 16 * 16

/-- Luma pitch, chroma offset and bytes of a picture (R117). -/
def pictureLayout (w h depth : Nat) : Nat × Nat × Nat :=
  let pitch := cdiv (stored w * (if depth = 10 then 2 else 1)) 256 * 256
  let chroma := cdiv (pitch * stored h) 4096 * 4096
  (pitch, chroma, chroma + pitch * (stored h / 2))

/-- Bytes of a picture's motion vectors (R120). -/
def mvBytes (w h : Nat) : Nat := 8 * (stored w / 16) * (stored h / 16)

/-- MaxDpbMbs of an H.264 level, from its standard (log entry 24). -/
def maxDpbMbs (level : Nat) : Nat :=
  match level with
  | 9 | 10 => 396 | 11 => 900 | 12 | 13 | 20 => 2376 | 21 => 4752 | 22 | 30 => 8100 | 31 => 18000 | 32 => 20480
  | 40 | 41 => 32768 | 42 => 34816 | 50 => 110400 | _ => 184320

/-- The largest DPB that a slot's level allows at its declared size (R344). -/
def dpbSize (e : SlotEntry) : Nat :=
  let w := stored e.width.toNat
  let h := stored e.height.toNat
  match e.codec.toNat with
  | 0 => min 16 (maxDpbMbs e.level.toNat / max 1 (w / 16 * (h / 16)))
  | 1 =>
    let m := sizeLimit 1 e.level.toNat
    if 4 * (w * h) ≤ m then 16 else if 2 * (w * h) ≤ m then 12 else if 4 * (w * h) ≤ 3 * m then 8 else 6
  | _ => 8

/-- DEADLINE in force of a slot entry, ms. -/
def deadlineOf (r : Cartridge) (e : SlotEntry) : Nat := if e.deadline = 0 then recSetting r 4 200 else e.deadline.toNat

/-- Worst-case pictures of a slot (R344). -/
def slotBuffers (r : Cartridge) (e : SlotEntry) : Nat :=
  dpbSize e + 2 + cdiv (deadlineOf r e * e.rate.toNat) 100000 + (if slotFlag e 2 then 8 else 0)

/-- Luma samples per second, in units of 1/100. -/
def pixRate (e : SlotEntry) : Nat := e.width.toNat * e.height.toNat * e.rate.toNat

/-- t_pic of R78, in ns. -/
def tPic (e : SlotEntry) : Frac :=
  (frac (e.width.toNat * e.height.toNat * 5) 12).max (frac (3 * e.maxBitrate.toNat * 50000) e.rate.toNat)

/-! ### Units in service -/

/-- Decode engines in service. -/
def State.nDec (s : State) : Nat := ((List.range 9).filter fun e => (s.deng e).inService && !(s.deng e).fenced).length
/-- Encode engines in service. -/
def State.encActive (s : State) : List Nat := (List.range 5).filter fun e => (s.eeng e).inService && !(s.eeng e).fenced
/-- Crop-and-scale engines in service. -/
def State.nCse (s : State) : Nat := ((List.range 4).filter fun e => (s.cseEng e).inService && !(s.cseEng e).fenced).length
/-- Complete groups of `q` logical slots of a region (R265). -/
def State.groups (s : State) (r q : Nat) : Nat :=
  ((List.range (16 / max 1 q)).filter fun g => (range (q * g) q).all fun n => (mapGet (s.region r).slotMap n).valid).length
/-- A cluster of the region is complete (R277). -/
def State.clusterComplete (s : State) (r : Nat) : Bool := decide (0 < s.groups r 4)
/-- Logical tiles of a Millefeuille in service. -/
def State.tilesIn (s : State) (r : Nat) : List Nat := (List.range 16).filter fun n => (mapGet (s.region r).gau.tileMap n).valid
/-- The whole gangs that the tiles in service form in mode `m` (R176, R181). -/
def State.gangList (s : State) (r m : Nat) : List Nat :=
  match m with
  | 0 => s.tilesIn r
  | 1 => (List.range 4).filter fun g => (range (4 * g) 4).all fun n => decide (n ∈ s.tilesIn r)
  | _ => if (s.tilesIn r).length = 16 then [0] else []

/-- Their number. -/
def State.gangsIn (s : State) (r m : Nat) : Nat := (s.gangList r m).length
/-- The largest mode at most `m` that is available, if any (R181). -/
def State.modeFor (s : State) (r m : Nat) : Option Nat := [2, 1, 0].find? fun k => decide (k ≤ m) && decide (0 < s.gangsIn r k)

/-! ### Plans -/

/-- The EVENT plan of a Recipe, and its tracker block. -/
def recEvent (r : Cartridge) : Option Plan := r.plans.find? (fun p => p.kind == 1)
def recTracker (r : Cartridge) : Option TrackerBlock := (recEvent r).bind (·.tracker)

/-- The plans that a slot's pictures go through from its PIPELINE on, each once (R56, R285). -/
def chain (r : Cartridge) (first : U16) : List Nat :=
  let step (ns : List Nat) : List Nat :=
    ns ++ ((ns.flatMap fun n => match r.plans.find? (fun p => p.plan.toNat == n) with
      | some p => p.feeds.map (·.toNat)
      | none => []).foldl (fun (l : List Nat) n => if ns.contains n || l.contains n then l else l ++ [n]) [])
  (List.range r.plans.length).foldl (fun ns _ => step ns) [first.toNat]

/-- The plan runs on the Millefeuille. -/
def planOnGau (p : Plan) : Bool := p.gang != 0xFF

/-- The Weond-T plan: the MODEL plan of lowest number on the Millefeuille that no slot feeds (log entry 23). -/
def tickPlan (r : Cartridge) : Option Plan :=
  let fed := r.slots.flatMap fun e => chain r e.pipeline
  leastBy (fun (a b : Plan) => decide (a.plan.toNat < b.plan.toNat))
    (r.plans.filter fun p => p.kind == 0 && planOnGau p && !fed.contains p.plan.toNat)

/-- A memory that holds a plan's image: feed programs and parameter blocks at their scratchpad addresses. -/
def planImage (p : Plan) : Mem := p.image.foldl (fun m e => m.writeN e.1 e.2) {}

/-- The bytes of one descriptor. -/
def descLen : Desc → Nat
  | .pass _ _ => 32
  | .gau _ => 40
  | .vec _ => 128

/-- What the descriptor area of a plan holds: the tracker block of an EVENT plan, a layer's descriptor with its place in the layer's list, and the parameter
blocks and feed programs with their scratchpad addresses (R252, R308). -/
inductive AreaItem where
  | tracker
  | desc (layer place : Nat) (d : Desc)
  | image (addr : Nat) (bytes : List Byte)
deriving DecidableEq, Repr

/-- A list of descriptors from offset `off` on. -/
def listItems (layer : Nat) : Nat → Nat → List Desc → List (Range × AreaItem)
  | _, _, [] => []
  | off, k, d :: r => ((off, descLen d), .desc layer k d) :: listItems layer (off + descLen d) (k + 1) r

/-- The descriptor area in address order (R258). -/
def areaItems (p : Plan) : List (Range × AreaItem) :=
  sortBy (fun (a b : Range × AreaItem) => decide (a.1.1 < b.1.1))
    ((if p.kind = 1 then [((0, 640), AreaItem.tracker)] else [])
      ++ p.layers.zipIdx.flatMap (fun x => listItems x.2 x.1.first.toNat 0 (p.descs.getD x.2 []))
      ++ (p.image.zip p.imageOffs).map fun x => ((x.2.toNat, x.1.2.length), .image x.1.1 x.1.2))

/-- The passes of a plan that name a feed program, with their layers. -/
def feedUsers (p : Plan) (addr : Nat) : List (LayerEntry × PassDesc) :=
  p.layers.zipIdx.flatMap fun x => (p.descs.getD x.2 []).filterMap fun d => match d with
    | .pass q _ => if q.feed.toNat = addr then some (x.1, q) else none
    | _ => none

/-- An item is an entry of its own: a parameter block belongs to its descriptor (R258). -/
def AreaItem.entry (p : Plan) : AreaItem → Bool
  | .image a _ => !(feedUsers p a).isEmpty
  | _ => true

/-- The entries of the descriptor area, which the loader and the admission test number from 0. -/
def areaEntries (p : Plan) : List (Range × AreaItem) := (areaItems p).filter fun x => x.2.entry p

/-- Cycles of one descriptor that runs (R162, R180, R230). A block of the planned ganging mode splits into smaller ones in a fallback, which the gangs in service take in turn (R181). -/
def descCycles (s : State) (r : Nat) (m : Mem) (d : Desc) : Nat :=
  match d with
  | .pass q _ => q.cycles
  | .gau g =>
    let planned := g.gang.toNat
    match s.modeFor r planned with
    | some k =>
      if k = planned && s.gangsIn r k = gangCount k then g.cyclesIn k
      else
        let blocks := gangCount planned * (gangBlock planned / gangBlock k) ^ 2
        cdiv blocks (s.gangsIn r k) * g.cyclesIn k
    | none => 0
  | .vec v => vecCycles m v

/-- The list that runs for a tile of stripe `st` of layer `i` (R274). -/
def planRun (p : Plan) (m : Mem) (i : Nat) (l : LayerEntry) (st : Nat) : List Desc :=
  let outH := (p.buffers.getD l.outBuf.toNat default).h.toNat
  (runList m (st * l.rows.toNat) (stripeRows l outH st) (p.descs.getD i [])).1

/-- Cycles of a tile of stripe `st`: the sum of the descriptors that run for it. -/
def tileCycles (s : State) (r : Nat) (p : Plan) (m : Mem) (i : Nat) (l : LayerEntry) (st : Nat) : Nat :=
  (planRun p m i l st).foldl (fun a d => a + descCycles s r m d) 0

/-- Cycles of the ring transfer that a stripe of the next layer of a fused group waits for, at 64 B per cycle (R276). -/
def ringCycles (p : Plan) (i : Nat) (l : LayerEntry) : Nat :=
  match p.layers[i + 1]? with
  | some n =>
    if n.lflags.getLsbD 0 && n.fgroup == l.fgroup then
      let (blocks, row) := rowShape (p.buffers.getD l.outBuf.toNat default)
      cdiv (l.crust.toNat * blocks * row) 64
    else 0
  | none => 0

/-- Cycles of a layer (R79): its units over the complete groups that serve them; of a fused layer, the stripes of one core of a complete cluster, each with
its grid channel blocks and the ring transfer in series; none where no group, or no cluster, is complete. -/
def layerCycles (s : State) (r : Nat) (p : Plan) (m : Mem) (i : Nat) (l : LayerEntry) : Option Nat :=
  let q := max 1 l.q.toNat
  let longest := (List.range l.s.toNat).foldl (fun a st => max a (tileCycles s r p m i l st)) 0
  if l.lflags.getLsbD 0 then
    if s.clusterComplete r then some (cdiv l.s.toNat 4 * (l.b.toNat * longest + ringCycles p i l)) else none
  else if l.lkind = 2 then some (l.s.toNat * l.b.toNat * longest)
  else
    let g := s.groups r q
    if g = 0 then none else some (cdiv (l.s.toNat * l.b.toNat / q) g * longest)

/-- ps of `n` ACLK cycles at `f` (10 MHz units), at the lowest instantaneous frequency (R451). -/
def cyclesPs (f n : Nat) : Nat := cdiv (n * 10 ^ 8) (995 * max 1 f)

/-- Cycles that the start of an invocation exposes: on the cores the first weight block that runs, at its largest over the stripes (R163); on the
Millefeuille a mode change, and the C_IN block of the first pass (R177, R180). -/
def startCycles (p : Plan) (m : Mem) : Nat :=
  let first (x : LayerEntry × Nat) : Option Nat :=
    leastBy (fun a b => decide (b < a)) ((List.range x.1.s.toNat).filterMap fun st =>
      (planRun p m x.2 x.1 st).findSome? fun d => match d with | .pass q _ => some (8 * q.wbits.toNat + 16) | _ => none)
  let gau := p.descs.flatten.findSome? fun d => match d with | .gau g => some (64 + if g.accIn then 256 else 0) | _ => none
  (p.layers.zipIdx.findSome? first).getD 0 + gau.getD 0

/-- The worst-case time C of an invocation of a plan in region `r` at `f`, in ns (R79). -/
def planCost (s : State) (rec : Cartridge) (p : Plan) (r f : Nat) : Option Frac :=
  let m := planImage p
  let sum := (p.layers.zipIdx).foldl (fun (a : Option Nat) x =>
    match a, layerCycles s r p m x.2 x.1 with
    | some a, some c => some (a + c)
    | _, _ => none) (some 0)
  match sum with
  | some c =>
    if planOnGau p && (s.modeFor r p.gang.toNat).isNone then none
    else some ((frac ((c + startCycles p m) * 100 * (1000 + rec.fw.stallPerMille)) (995 * max 1 f)).add { num := 20000 })
  | none => none

/-- The first pass or descriptor of a plan that lasts more than 40 µs at `f`, by its place in the descriptor area (R164, R230). A Millefeuille pass counts
in each mode that it runs in: the planned one, and the fallbacks of the regions that hold contexts of the plan (R181). -/
def longEntry (s : State) (cs : List AdmCtx) (p : Plan) (f : Nat) : Option Nat :=
  let m := planImage p
  let homes := (cs.filter fun c => c.plan == p.plan.toNat).filterMap (·.region)
  let modes (g : GauDesc) : List Nat := g.gang.toNat :: homes.filterMap fun r => s.modeFor r g.gang.toNat
  (areaEntries p).findIdx? fun x => decide (40000000 < cyclesPs f (match x.2 with
    | .desc _ _ (.pass q _) => q.cycles
    | .desc _ _ (.gau g) => (modes g).foldl (fun a k => max a (g.cyclesIn k)) 0
    | .desc _ _ (.vec v) => vecCycles m v
    | _ => 0))

/-- The bytes that step 3 of a swap moves: requantiser table, a layer's descriptor list, weight blocks and scale slices (R291). -/
def swapBytes (p : Plan) : Nat :=
  4096 + p.descs.foldl (fun a l => max a (l.foldl (fun b d => b + match d with
    | .pass q _ => 32 + 2048 * q.wbits.toNat + (if q.last then 768 else 0)
    | .gau _ => 40
    | .vec _ => 128) 0)) 0

/-! ### Contexts (R285) -/

/-- The plans that a slot feeds: its chain, and the EVENT plan for its tracker step. -/
def fedPlans (r : Cartridge) (e : SlotEntry) : List Nat :=
  chain r e.pipeline ++ (match recEvent r with | some p => if (chain r e.pipeline).contains p.plan.toNat then [] else [p.plan.toNat] | none => [])

/-- Lists of at most 64. -/
def chunks64 : Nat → List Nat → List (List Nat)
  | 0, _ => []
  | k + 1, l => if l.isEmpty then [] else l.take 64 :: chunks64 k (l.drop 64)

/-- The tick contexts: one for each region of TICK_REGIONS, in the smallest class of the table. -/
def tickCtxs (r : Cartridge) : List AdmCtx :=
  match tickPlan r, recTracker r with
  | some p, some t =>
    let cls := r.slots.foldl (fun a e => min a e.prio.toNat) 3
    ((List.range 8).filter fun g => t.tickRegions.getLsbD g).map fun g =>
      { plan := p.plan.toNat, cls := cls, slots := [], tick := some g, gau := planOnGau p, region := some g }
  | _, _ => []

/-- The contexts of a first admission: plans ascending, classes 0 to 3, groups of at most 64 slots, then tick contexts. -/
def freshCtxs (r : Cartridge) (counted : List SlotEntry) : List AdmCtx :=
  let nums := (r.plans.map fun p => p.plan.toNat).foldl (fun l n => insertN n l) []
  let per := nums.flatMap fun n =>
    (List.range 4).flatMap fun c =>
      let mine := (counted.filter fun e => e.prio.toNat == c && (fedPlans r e).contains n).map (·.slot.toNat)
      let mine := mine.foldl (fun l x => insertN x l) []
      (chunks64 9 mine).map fun g =>
        { plan := n, cls := c, slots := g, tick := none
          gau := match r.plans.find? (fun p => p.plan.toNat == n) with | some p => planOnGau p | none => false
          region := none }
  per ++ tickCtxs r

/-- The contexts in force, their slots cut to those counted, with each newly counted slot added to the first context of its plan and class
that has room, or to a new one (R83, R285; log entry 25). -/
def State.keptCtxs (s : State) (r : Cartridge) (counted : List SlotEntry) : List AdmCtx :=
  let nums := counted.map (·.slot.toNat)
  let old : List AdmCtx := s.ctxNums.map fun c =>
    let x := s.ctx c
    { plan := x.plan, cls := x.cls, slots := x.slots.filter fun n => nums.contains n
      tick := if x.tick then some x.region else none, gau := x.gau, region := some x.region }
  counted.foldl (fun l e =>
    (fedPlans r e).foldl (fun l n =>
      let same (c : AdmCtx) : Bool := c.plan == n && c.cls == e.prio.toNat && c.tick.isNone
      if l.any fun c => same c && c.slots.contains e.slot.toNat then l
      else
        match l.findIdx? fun c => same c && decide (c.slots.length < 64) with
        | some i => l.mapIdx fun j c => if j = i then { c with slots := insertN e.slot.toNat c.slots } else c
        | none =>
          l ++ [{ plan := n, cls := e.prio.toNat, slots := [e.slot.toNat], tick := none
                  gau := match r.plans.find? (fun p => p.plan.toNat == n) with | some p => planOnGau p | none => false
                  region := none }]) l) old

/-- The admitted rate of a context, in releases per second (R285). -/
def ctxRate (r : Cartridge) (c : AdmCtx) : Frac :=
  let sum := (r.slots.filter fun e => c.slots.contains e.slot.toNat).foldl (fun a e => a + e.rate.toNat) 0
  match c.tick with
  | some _ => frac 1000 (recSetting r 6 20)
  | none =>
    if isDetect r c.plan then (frac sum 100).min ((frac sum (100 * recSetting r 7 16)).add (frac 1000000 (recSetting r 8 5000)))
    else frac sum 100

/-! ### Bounds (R80, R282) -/

/-- The longest job of a CSE step over the plans that counted slots feed, in ns. -/
def cseBound (r : Cartridge) (counted : List SlotEntry) (kind : Byte) : Frac :=
  let jobs := (counted.flatMap (fedPlans r)).flatMap fun n =>
    match r.plans.find? (fun p => p.plan.toNat == n) with
    | some p => p.cseJobs.filter fun j => j.job == kind
    | none => []
  let boxes (j : CseJob) : Nat := if kind = 1 then (match recTracker r with | some t => t.maxDet.toNat | none => j.boxes.toNat) else j.boxes.toNat
  let samples := jobs.foldl (fun a j => max a (j.ow.toNat * j.oh.toNat * boxes j)) 0
  let jmax : Frac := if jobs.isEmpty then { num := 0 } else (frac samples 4).add { num := 2000 }
  Frac.max { num := 4000000 } ((jmax.add jmax).add { num := 2000000 })

/-- w_dec, in ns. -/
def wDec (s : State) (counted : List SlotEntry) : Frac :=
  ((Frac.sum (counted.map tPic)).mul (frac 1 (max 1 s.nDec))).add { num := 1000000 }

/-- The step bounds. -/
def boundsOf (s : State) (r : Cartridge) (counted : List SlotEntry) : Bounds :=
  let ms := 1000000
  let b3 := wDec s counted
  let b5 := (b3.add (cseBound r counted 0)).add { num := recSetting r 8 5000 * 1000 + recSetting r 0xE 35 * ms }
  let b7 := (b5.add (cseBound r counted 1)).add { num := recSetting r 0xF 12 * ms }
  let b8 := b7.add { num := 2 * ms }
  { b3 := b3, b5 := b5, b7 := b7, b8 := b8, b11 := b8.add { num := recSetting r 6 20 * ms + recSetting r 0x10 15 * ms + 2 * ms } }

/-- The relative deadline of a context (R80). -/
def ctxDeadline (r : Cartridge) (b : Bounds) (c : AdmCtx) : Frac :=
  match c.tick with
  | some _ => { num := recSetting r 0x10 15 * 1000000 }
  | none =>
    if isDetect r c.plan then b.b5
    else match r.plans.find? (fun p => p.plan.toNat == c.plan) with
      | some p => if p.kind = 1 then b.b8 else b.b7
      | none => b.b7

/-! ### Placement and power (R77, R285, R444) -/

/-- R(f) in mW, by step: f = 50 + 5k in units of 10 MHz (R444). -/
def stepPower (f : Nat) : Nat :=
  ([2400, 2700, 3000, 3300, 3600, 4000, 4500, 4900, 5500, 6000, 6600, 7300, 8100, 9000, 10100, 11100, 12200, 13300, 14600] : List Nat).getD
    ((f - 50) / 5) 0

/-- The core supply of a step, in units of 10 mV (R444). -/
def stepVolt (f : Nat) : Nat :=
  ([60, 61, 62, 63, 64, 65, 67, 68, 70, 71, 73, 75, 77, 79, 81, 83, 85, 87, 90] : List Nat).getD ((f - 50) / 5) 0

/-- The step below, and the step above (units of 10 MHz, R444). -/
def stepDown (f : Nat) : Nat := max 50 (f - 5)

@[inherit_doc stepDown]
def stepUp (f : Nat) : Nat := min 140 (f + 5)

/-- A power at the declared inlet temperature (R444). -/
def atInlet (r : Cartridge) (mw : Nat) : Nat := cdiv (mw * (1000 - 5 * (55 - recSetting r 2 55))) 1000

/-- A context of the Millefeuille for which no region that may take it can form a ganging mode (R181). -/
def State.noMode (s : State) (r : Cartridge) (c : AdmCtx) : Bool :=
  c.gau && match r.plans.find? (fun p => p.plan.toNat == c.plan) with
    | some p => (match c.tick with | some g => [g] | none => List.range 8).all fun g => (s.modeFor g p.gang.toNat).isNone
    | none => false

/-- Contexts placed one after another. At a re-admission the contexts in force keep their regions while those can run them; the others are placed in
ascending number: a tick context in its own region, any other in the region with the least placed load that can take it. Loads are C × rate. The first
context that finds no region is the error. -/
def placeAll (s : State) (r : Cartridge) (f : Nat) (cs : List AdmCtx) : Except AdmCtx (List AdmCtx) :=
  let costIn (c : AdmCtx) (g : Nat) : Option Frac :=
    match r.plans.find? (fun p => p.plan.toNat == c.plan) with
    | some p => planCost s r p g f
    | none => none
  let rb (c : AdmCtx) : Nat := match r.plans.find? (fun p => p.plan.toNat == c.plan) with | some p => p.rbBytes.toNat | none => 0
  let stays (c : AdmCtx) : Bool := s.dis.nCtx != 0 && match c.region with | some g => (costIn c g).isSome | none => false
  let put (c : AdmCtx) (g : Nat) : AdmCtx := { c with region := some g, cost := (costIn c g).getD { num := 0 } }
  let kept := (cs.zipIdx.filter fun x => stays x.1).map fun x => (put x.1 (x.1.region.getD 0), x.2)
  let all := (cs.zipIdx.filter fun x => !stays x.1).foldl (fun (acc : Except AdmCtx (List (AdmCtx × Nat))) x =>
    match acc with
    | .error e => .error e
    | .ok done =>
      let c := x.1
      let load (g : Nat) : Frac := Frac.sum ((done.filter fun d => d.1.region == some g && d.1.gau == c.gau).map fun d => d.1.cost.mul d.1.rate)
      let used (g : Nat) : Nat := (done.filter fun d => d.1.region == some g).foldl (fun a d => a + rb d.1) 0
      let fits (g : Nat) : Bool := (costIn c g).isSome && decide (used g + rb c ≤ 16777216)
      let pick := match c.tick with
        | some g => if fits g then some g else none
        | none => (leastBy (fun (a b : Nat × Frac) => a.2.lt b.2) (((List.range 8).filter fits).map fun g => (g, load g))).map (·.1)
      match pick with
      | some g => .ok (done ++ [(put c g, x.2)])
      | none => .error c) (.ok kept)
  all.map fun done => cs.zipIdx.map fun x => ((done.find? fun d => d.2 == x.2).map (·.1)).getD x.1

/-- Regions that hold contexts. -/
def busyRegions (cs : List AdmCtx) : List Nat := (List.range 8).filter fun g => cs.any fun c => c.region == some g

/-- The worst-case package power at `f` (R444). P_fixed comes from the firmware's figures (log entry 12). -/
def packagePower (r : Cartridge) (counted : List SlotEntry) (cs : List AdmCtx) (f : Nat) : Nat :=
  let n := (busyRegions cs).length
  let fixed := r.fw.pFixedBase + r.fw.pFixedPerMpix * (counted.foldl (fun a e => a + pixRate e) 0 / 100000000)
  atInlet r (fixed + n * stepPower f + 500 * (8 - n))

/-- The DVFS steps, highest first. -/
def dvfsSteps : List Nat := (List.range 19).map fun k => 140 - 5 * k

/-- θSA in 10⁻⁵ °C/W at an airflow in 0.1 m/s, by linear interpolation (R472). -/
def thetaSa (a : Nat) : Nat :=
  if a ≤ 10 then 17000 else if a ≤ 20 then 17000 - (a - 10) * 500 else if a ≤ 30 then 12000 - (a - 20) * 200
  else if a ≤ 50 then 10000 - (a - 30) * 100 else 8000

/-- Predicted Tj in units of 10⁻⁵ m°C (R472). -/
def predictedTj (r : Cartridge) (mw : Nat) : Nat := recSetting r 2 55 * 100000000 + mw * (6000 + thetaSa (recSetting r 3 10))

/-! ### DRAM layout and pools (R329, R342 to R344, R351) -/

/-- The pool of smallest buffer of a use that holds `n` bytes (R343). -/
def poolFor (ps : List PoolEntry) (use : Byte) (n : Nat) : Option PoolEntry :=
  leastBy (fun (a b : PoolEntry) => decide (a.log2.toNat < b.log2.toNat ∨ (a.log2.toNat = b.log2.toNat ∧ a.pool.toNat < b.pool.toNat)))
    (ps.filter fun p => p.use == use && decide (n ≤ 2 ^ p.log2.toNat))

/-- Pages that a join takes (R308). -/
def kvNeed (t : TrackerBlock) : Nat := cdiv (64 * t.kvStepBytes.toNat) 16384

/-- The worst-case tracks (R308). -/
def worstTracks (t : TrackerBlock) (n : Nat) : Nat := t.maxTracks.toNat * n + 1024 * t.zones.toNat + t.seqMax.toNat

/-- The clip profiles of a Recipe. -/
def clipProfiles (r : Cartridge) : List ClipProfile := match recEvent r with | some p => p.clips | none => []

/-- The largest display size and the highest rate among the slots with CLIP_ALLOWED (R127): width, height, rate. -/
def clipWorst (r : Cartridge) : Nat × Nat × Nat :=
  let es := r.slots.filter fun e => slotFlag e 2
  let area (e : SlotEntry) : Nat := e.width.toNat * e.height.toNat
  match leastBy (fun (a b : SlotEntry) => decide (area b < area a)) es with
  | some e => (e.width.toNat, e.height.toNat, es.foldl (fun a e => max a e.rate.toNat) 0)
  | none => (0, 0, 0)

/-- A side of a clip's output: the source side divided by OUT_DIV, rounded down to even (R126). -/
def outSide (c : ClipProfile) (n : Nat) : Nat := n / max 1 c.outDiv.toNat / 2 * 2

/-- Luma samples per second in hundredths of a session with pictures of `w` × `h` at `rate` (R127). -/
def sessionPix (c : ClipProfile) (w h rate : Nat) : Nat := cdiv (outSide c w * outSide c h * rate) (max 1 c.rateDiv.toNat)

/-- Bytes of the two buffers that a session of a profile may hold: a coded picture, and a scaled one (R343). -/
def holdSizes (r : Cartridge) (c : ClipProfile) : List Nat :=
  [c.picCap.toNat + 16384, (pictureLayout (outSide c (clipWorst r).1) (outSide c (clipWorst r).2.1) 8).2.2]

/-- The worst case of pool `p` (R344). -/
def poolWorst (r : Cartridge) (counted : List SlotEntry) (cs : List AdmCtx) (p : PoolEntry) : Nat :=
  match p.use.toNat with
  | 1 => (counted.filter fun e => poolFor r.pools 1 (pictureLayout e.width.toNat e.height.toNat e.bitDepth.toNat).2.2 == some p).foldl
      (fun a e => a + slotBuffers r e) 0
  | 2 => (counted.filter fun e => poolFor r.pools 2 (mvBytes e.width.toNat e.height.toNat) == some p).foldl (fun a e => a + slotBuffers r e) 0
  | 3 => match recTracker r with | some t => if t.kvPool == p.pool then t.seqReserve.toNat * kvNeed t else 0 | none => 0
  | 4 => match recTracker r with | some t => if t.sidePool == p.pool then worstTracks t counted.length else 0 | none => 0
  | 5 => (clipProfiles r).foldl (fun a c =>
      a + c.reserve.toNat * ((holdSizes r c).filter fun n => poolFor r.pools 5 n == some p).length) 0
  | _ => cs.foldl (fun a c => match r.plans.find? (fun q => q.plan.toNat == c.plan) with
      | some q => a + 2 * ((q.peakGeneral.find? fun e => e.1 == p.pool.toNat).map (·.2)).getD 0
      | none => a) 0

/-- Buffers of a pool: its COUNT, or its worst case. After the first admission the layout is fixed, and with it every pool's size (R329, R344). -/
def State.poolCount (s : State) (r : Cartridge) (counted : List SlotEntry) (cs : List AdmCtx) (p : PoolEntry) : Nat :=
  if s.adm.done then (s.pool p.pool.toNat).count
  else if p.count = 0 then poolWorst r counted cs p
  else p.count.toNat

/-- The header and entries of the pool plan keep R342. -/
def poolPlanOk (r : Cartridge) : Bool :=
  r.bmagic == 0x4C505042 && r.bzero == 0 && decide (1 ≤ r.pools.length ∧ r.pools.length ≤ 64) && distinct (r.pools.map fun p => p.pool.toNat)
    && r.pools.all fun p => decide (p.pool.toNat ≤ 63 ∧ p.use.toNat ≤ 5 ∧ 8 ≤ p.log2.toNat ∧ p.log2.toNat ≤ 24) && p.zero3 == 0 && p.zero8 == 0
      && decide (p.count.toNat < 2 ^ 26) && (p.count != 0 || p.use == 1 || p.use == 2 || p.use == 5)

/-- The next multiple of `a` at or above `n`. -/
def alignUp (n a : Nat) : Nat := cdiv n a * a

/-- Where the ingest rings lie: in table order, each aligned to its size; the base of each, and the end (R329). -/
def ringLayout (r : Cartridge) (start : Nat) : Tbl Nat × Nat :=
  r.slots.foldl (fun (t : Tbl Nat × Nat) e =>
    let b := alignUp t.2 e.ringBytes.toNat
    (tput e.slot.toNat b t.1, b + e.ringBytes.toNat)) ([], start)

/-- Where the dump region starts: after firmware and sections, each region aligned to 64 KiB (R329). -/
def dumpStart (r : Cartridge) (buffers : Nat) : Nat :=
  let k := 65536
  let a := alignUp (67108864 + 8 * buffers + 33554432) k
  let sections := (r.manifest.filter fun e => e.type != 1).foldl (fun a e => a + e.length.toNat) 0
  alignUp (a + sections) k

/-- Where the fixed regions before the ingest rings end: dump region, save areas, track contexts, stream contexts and spill (R329). -/
def fixedEnd (r : Cartridge) (buffers : Nat) : Nat := dumpStart r buffers + 268435456 + 268435456 + 268435456 + 134217728 + 75497472

/-- Pools in ascending number after the rings, each aligned to the larger of its buffer size and 4 KiB (R329). -/
def poolLayout (ps : List (Nat × Nat × Nat × Nat)) (start : Nat) : List (Nat × Nat × Nat × Nat × Nat) × Nat :=
  ps.foldl (fun (t : List (Nat × Nat × Nat × Nat × Nat) × Nat) p =>
    let (n, use, log2, count) := p
    let b := alignUp t.2 (max (2 ^ log2) 4096)
    (t.1 ++ [(n, use, log2, count, b)], b + count * 2 ^ log2)) ([], start)

/-- The pools and the rings as admission lays them out, with the end of the last pool. -/
def State.dramLayout (s : State) (r : Cartridge) (counted : List SlotEntry) (cs : List AdmCtx) : List (Nat × Nat × Nat × Nat × Nat) × Tbl Nat × Nat × Nat :=
  let sorted := sortBy (fun (a b : PoolEntry) => decide (a.pool.toNat < b.pool.toNat)) r.pools
  let ps := sorted.map fun p => (p.pool.toNat, p.use.toNat, p.log2.toNat, s.poolCount r counted cs p)
  let total := ps.foldl (fun a p => a + p.2.2.2) 0
  let (rings, ringEnd) := ringLayout r (fixedEnd r total)
  let (pools, last) := poolLayout ps ringEnd
  (pools, rings, ringEnd, last)

/-- Test 8: the first pool, or the plan as a whole, that breaks R342 to R344 and R351. -/
def State.poolFail (s : State) (r : Cartridge) (counted : List SlotEntry) (cs : List AdmCtx) : Option AdmFail :=
  let f (n : Nat) : AdmFail := { code := 0x0123, kind := 4, index := n }
  let shares := counted.foldl (fun a e => a + slotBuffers r e * (2 + bit (slotFlag e 2))) 0
    + cs.foldl (fun a c => a + ((r.plans.find? fun p => p.plan.toNat == c.plan).map (·.shares)).getD 0) 0
  firstFail [
    unless_ (poolPlanOk r) (f 0),
    (counted.find? fun e => (poolFor r.pools 1 (pictureLayout e.width.toNat e.height.toNat e.bitDepth.toNat).2.2).isNone
        || (poolFor r.pools 2 (mvBytes e.width.toNat e.height.toNat)).isNone).map fun e => { code := 0x0123, kind := 1, index := e.slot.toNat },
    (match recTracker r with
      | some t => firstFail [
          unless_ (r.pools.any fun p => p.pool == t.kvPool && p.use == 3 && p.log2 == 14) (f t.kvPool.toNat),
          unless_ (r.pools.any fun p => p.pool == t.sidePool && p.use == 4 && p.log2 == 9) (f t.sidePool.toNat)]
      | none => none),
    ((r.plans.flatMap (·.buffers)).find? fun b => b.space == 2 && !(r.pools.any fun p => p.pool.toNat == b.offset.toNat && p.use == 0
        && decide (b.bytes.toNat ≤ 2 ^ p.log2.toNat))).map fun b => f b.offset.toNat,
    ((clipProfiles r).find? fun c => c.reserve != 0 && (holdSizes r c).any fun n => (poolFor r.pools 5 n).isNone).map
      fun c => { code := 0x0123, kind := 6, index := c.profile.toNat },
    (r.pools.find? fun p => decide (s.poolCount r counted cs p < poolWorst r counted cs p) || decide (2 ^ 26 - 1 < s.poolCount r counted cs p)).map
      fun p => f p.pool.toNat,
    unless_ (decide (shares ≤ 4194304)) (f 0)]

/-! ### Tests 11 to 18 -/

/-- Homes for the counted slots: those in force keep their engine while it serves; any other goes to the engine with the fewest, lowest first, with at
most 64 each (R107; log entry 26). -/
def State.homesFor (s : State) (counted : List SlotEntry) : Option (Tbl Nat) :=
  let engs := (List.range 9).filter fun e => (s.deng e).inService && !(s.deng e).fenced
  let nums := (counted.map (·.slot.toNat)).foldl (fun l n => insertN n l) []
  let kept : Tbl Nat := s.adm.homes.filter fun h => nums.contains h.1 && engs.contains h.2
  nums.foldl (fun (acc : Option (Tbl Nat)) n =>
    match acc with
    | none => none
    | some t =>
      if (tfind t n).isSome then some t
      else
        let load (e : Nat) : Nat := (t.filter fun h => h.2 == e).length
        match leastBy (fun a b => decide (load a < load b)) (engs.filter fun e => decide (load e < 64)) with
        | some e => some (tput n e t)
        | none => none) (some kept)

/-- The decode load in engines (R78). -/
def decodeLoad (counted : List SlotEntry) : Frac :=
  Frac.sum (counted.map fun e => (frac e.rate.toNat (100 * 10 ^ 9)).mul (tPic e))

/-- CSE output in hundredths of a luma sample per second (R282): detector inputs, crops and scaled clip pictures (R134), `extra` for the sessions beyond the
reserved ones. -/
def cseOutput (r : Cartridge) (counted : List SlotEntry) (extra : Nat) : Nat :=
  let (w, h, rate) := clipWorst r
  let clips := ((clipProfiles r).filter fun c => c.outDiv != 1).foldl (fun a c => a + c.reserve.toNat * sessionPix c w h rate) 0
  counted.foldl (fun a e =>
    (fedPlans r e).foldl (fun a n => match r.plans.find? (fun p => p.plan.toNat == n) with
      | some p => p.cseJobs.foldl (fun a j => if j.job = 2 then a else a + j.ow.toNat * j.oh.toNat * j.boxes.toNat * e.rate.toNat) a
      | none => a) a) (clips + extra)

/-- A clip profile keeps R126. -/
def profileOk (c : ClipProfile) : Bool :=
  decide (c.profile.toNat ≤ 15 ∧ c.codec.toNat ≤ 2) && (c.outDiv == 1 || c.outDiv == 2 || c.outDiv == 4)
    && decide (1 ≤ c.rateDiv.toNat ∧ c.rateDiv.toNat ≤ 15) && decide (c.qpBase.toNat ≤ 51 ∧ c.qpBase.toNat ≤ c.qpMax.toNat ∧ c.qpMax.toNat ≤ 51)
    && decide (c.preroll.toNat ≤ 8 ∧ c.reserve.toNat ≤ 64) && decide (4096 ≤ c.picCap.toNat ∧ c.picCap.toNat ≤ c.winCap.toNat)
    && decide (1 ≤ c.winPics.toNat ∧ c.winPics.toNat ≤ 300) && decide (c.keyInterval.toNat ≤ 3600)
    && decide (c.refreshPics.toNat ≤ c.keyInterval.toNat) && decide (1 ≤ c.maxPics.toNat) && c.zero == 0

/-- The output load of a session in luma samples per second (R127). -/
def sessionLoad (c : ClipProfile) (w h rate : Nat) : Nat := cdiv (sessionPix c w h rate) 100

/-- Sessions on engines: each goes to the engine with the least load (R127), after `base`; the loads. -/
def placeSessions (engs : List Nat) (loads : List Nat) (base : Tbl Nat) : Tbl Nat :=
  loads.foldl (fun t l =>
    match leastBy (fun a b => decide (tget 0 t a < tget 0 t b)) engs with
    | some e => tput e (tget 0 t e + l) t
    | none => t) base

/-- The engine of each of a list of loads, one after another on the engine with the least load. -/
def placements (engs : List Nat) (loads : List Nat) : List Nat :=
  (loads.foldl (fun (a : List Nat × Tbl Nat) l =>
    match leastBy (fun x y => decide (tget 0 a.2 x < tget 0 a.2 y)) engs with
    | some e => (a.1 ++ [e], tput e (tget 0 a.2 e + l) a.2)
    | none => a) ([], [])).1

/-- The loads of the reserved sessions. -/
def reservedLoads (r : Cartridge) : List Nat :=
  (clipProfiles r).flatMap fun c => List.replicate c.reserve.toNat (sessionLoad c (clipWorst r).1 (clipWorst r).2.1 (clipWorst r).2.2)

/-- The places of the reserved sessions, as profile and engine (R127). -/
def reservedPlaces (engs : List Nat) (r : Cartridge) : List (Nat × Nat) :=
  ((clipProfiles r).flatMap fun c => List.replicate c.reserve.toNat c.profile.toNat).zip (placements engs (reservedLoads r))

/-- Test 13, with the sessions that hold no reservation. -/
def encodeFail (s : State) (r : Cartridge) (extra : List Nat) : Option AdmFail :=
  let f : AdmFail := { code := 0x0128 }
  match (clipProfiles r).zipIdx.find? fun c => !profileOk c.1 || ((clipProfiles r).take c.2).any fun d => d.profile == c.1.profile with
  | some c => some { f with kind := 6, index := c.1.profile.toNat }
  | none =>
    let all := reservedLoads r ++ extra
    let t := placeSessions s.encActive all []
    match t.find? fun e => decide (540000000 < e.2) with
    | some e => some { f with kind := 3, index := e.1 }
    | none => unless_ (decide (all.length ≤ 64) && (all.isEmpty || !s.encActive.isEmpty)) f

/-- A context as the compute test takes it: C in ns, releases per ns, D in ns. -/
structure CtxLoad where
  c : Frac
  ρ : Frac
  d : Frac
deriving DecidableEq, Repr

/-- The demand of a set of contexts in an interval of `l` ns (R79). -/
def demand (ts : List CtxLoad) (l : Frac) : Frac :=
  Frac.sum ((ts.filter fun t => t.d.le l).map fun t => t.c.mul { num := 4 + ((l.sub t.d).mul t.ρ).floor })

/-- The interval lengths at which a context's demand steps, up to `top`. -/
def steps (t : CtxLoad) (top : Frac) : List Frac :=
  if top.lt t.d then []
  else if t.ρ.num = 0 then [t.d]
  else (List.range (((top.sub t.d).mul t.ρ).floor + 1)).map fun k => t.d.add (t.ρ.inv.mul { num := k })

/-- The mean load of a set of contexts. -/
def meanLoad (ts : List CtxLoad) : Frac := Frac.sum (ts.map fun t => t.c.mul t.ρ)

/-- A time in which every context makes a whole number of releases: the demand over it repeats. -/
def hyperPeriod (ts : List CtxLoad) : Frac :=
  let live := ts.filter fun t => t.ρ.num != 0
  frac (live.foldl (fun a t => Nat.lcm a t.ρ.den) 1) (live.foldl (fun a t => Nat.gcd a t.ρ.num) 0)

/-- The compute test of one engine set (R79): for every L the demand is at most L − 40 µs. A mean load above 1 breaks it. At or below 1, it holds for every L
when it holds up to one repeat after the longest deadline; below 1, also when it holds until the mean load has made up the bursts. -/
def computeOk (ts : List CtxLoad) : Bool :=
  let one : Frac := { num := 1 }
  let u := meanLoad ts
  let longest := ts.foldl (fun (a : Frac) t => a.max t.d) { num := 0 }
  let again := longest.add (hyperPeriod ts)
  let burst := (Frac.sum (ts.map fun t => t.c.mul { num := 4 })).add { num := 40000 }
  let top := if u.lt one then again.min (longest.max (burst.mul (one.sub u).inv)) else again
  u.le one && (ts.flatMap fun t => steps t top).all fun l => ((demand ts l).add { num := 40000 }).le l

/-- The contexts of an engine set, as the compute test takes them. -/
def tasks (cs : List AdmCtx) (g : Nat) (gau : Bool) : List CtxLoad :=
  (cs.filter fun c => c.region == some g && c.gau == gau).map fun c => { c := c.cost, ρ := c.rate.mul (frac 1 1000000000), d := c.dctx }

/-- DRAM bytes of one invocation of a plan: its SPACE 2 buffers, read and written, and its weight blocks (R474). -/
def planDram (p : Plan) : Nat :=
  (p.buffers.filter fun b => b.space == 2).foldl (fun a b => a + 2 * b.bytes.toNat) 0 + p.weights.blocks.foldl (fun a b => a + 2048 * b.wfmt.toNat) 0

/-- DRAM bytes per second of a set of contexts. -/
def ctxTraffic (r : Cartridge) (cs : List AdmCtx) : Nat :=
  (Frac.sum (cs.filterMap fun c => (r.plans.find? fun p => p.plan.toNat == c.plan).map fun p => c.rate.mul { num := planDram p })).ceil

/-- Worst-case DRAM traffic in bytes per second, by the firmware's constants (R474; log entry 12). -/
def dramTraffic (r : Cartridge) (counted : List SlotEntry) (cs : List AdmCtx) (extra : List Nat) (scaled : Nat) : Nat :=
  let fw := r.fw
  let slots := counted.foldl (fun a e => a + e.maxBitrate.toNat * 125 * fw.trafficPerBit / 1000 + pixRate e * fw.trafficPerPix / 100000) 0
  let trk := match recTracker r with
    | some t => t.seqReserve.toNat * fw.kvPerSeq + worstTracks t counted.length * fw.trackMiss
    | none => 0
  let clips := (reservedLoads r ++ extra).foldl (fun a l => a + l * fw.clipPerPix / 1000) 0
  slots + cseOutput r counted scaled * fw.trafficPerCse / 100000 + ctxTraffic r cs + trk + clips

/-- 0.8 × the peak of the channels in use, in bytes per second. -/
def State.trafficLimit (s : State) : Nat := s.nChan * 15360000000

/-- The die whose link cannot carry the traffic of its four regions, with 0.8 of what its worse direction carries; its lowest region is the index
(R406; log entry 46). -/
def State.dieLinkFail (s : State) (r : Cartridge) (cs : List AdmCtx) : Option AdmFail :=
  let retired (d : Nat) (dir : Bool) : Nat := (s.ras.groups.filter fun g => g.1 == d && g.2.1 == dir).length
  let room (d : Nat) : Nat := 800000000000 * (32 - max (retired d false) (retired d true)) / 32
  let load (d : Nat) : Nat := ctxTraffic r (cs.filter fun c => match c.region with | some g => g / 4 == d | none => false)
  ((List.range 2).find? fun d => decide (room d < load d)).map fun d => { code := 0x012B, kind := 2, index := 4 * d }

/-- Host-link traffic in bytes per second: ingest at MAX_BITRATE, records and clips (R76 test 17). -/
def hostTraffic (r : Cartridge) (counted : List SlotEntry) (extra : List Nat) : Nat :=
  counted.foldl (fun a e => a + e.maxBitrate.toNat * 125 + r.fw.recordBytes * e.rate.toNat / 100) 0
    + (clipProfiles r).foldl (fun a c => a + c.reserve.toNat * (c.winCap.toNat * (clipWorst r).2.2 / (100 * max 1 (c.winPics.toNat * c.rateDiv.toNat)))) 0
    + extra.foldl (· + ·) 0

/-- 0.8 × the trained link rate, in bytes per second: lanes × GT/s ÷ 8, of which 128 bits in 130 carry data (R1; log entry 27). -/
def State.linkLimit (s : State) : Nat := s.link.width.toNat * 4 * 2 ^ s.link.rate.toNat * 128000000000 / 1300

/-! ### The whole test -/

/-- The clip sessions in use beyond the reserved ones: their output loads, their bytes per second, and their part of the CSE output. -/
structure Extra where
  loads  : List Nat := []
  links  : List Nat := []
  scaled : Nat := 0
deriving DecidableEq, Repr

/-- The figures of an admission at `f` with its contexts. -/
def admFigures (s : State) (r : Cartridge) (counted : List SlotEntry) (cs : List AdmCtx) (f : Nat) (x : Extra) : AdmRes :=
  let lay := s.dramLayout r counted cs
  { fAdm := f, ctxs := cs, homes := (s.homesFor counted).getD [], bounds := boundsOf s r counted
    traffic := dramTraffic r counted cs x.loads x.scaled, link := hostTraffic r counted x.links, cse := cdiv (cseOutput r counted x.scaled) 100
    decLoad := ((decodeLoad counted).mul { num := 1000 }).ceil, pools := lay.1, encLoad := placeSessions s.encActive (reservedLoads r) [], encIdle := reservedPlaces s.encActive r, rings := lay.2.1
    ringEnd := lay.2.2.1
    gauFree := (List.range 8).filter fun g => (meanLoad (tasks cs g true)).lt { num := 1 } }

/-- Tests 1 to 4. -/
def recipeFail (r : Cartridge) : Option AdmFail :=
  firstFail [
    unless_ (settingsOk r.settings) { code := 0x0110 },
    slotTableFail r,
    (r.slots.find? fun e => !codecOk e).map fun e => { code := 0x0112, kind := 1, index := e.slot.toNat },
    (r.slots.find? fun e => !pictureSizeOk e).map fun e => { code := 0x0113, kind := 1, index := e.slot.toNat }]

/-- Tests 5 to 18 for the counted slots, with the sessions beyond the reserved ones; the figures, or the first test that fails. A context that finds no
region names the one it was in, or region 0 (log entry 112). -/
def State.admitFrom5 (s : State) (r : Cartridge) (counted : List SlotEntry) (x : Extra) : Except AdmFail AdmRes :=
  let b := boundsOf s r counted
  let base := (if s.dis.nCtx = 0 then freshCtxs r counted else s.keptCtxs r counted).map fun c =>
    { c with rate := ctxRate r c, dctx := ctxDeadline r b c }
  let limit := recSetting r 1 150 * 1000
  -- where no placement exists the contexts that ran so far keep the power's figure, and test 14 fails
  let moded := base.filter fun c => !s.noMode r c
  let placed (f : Nat) : List AdmCtx := match placeAll s r f moded with | .ok cs => cs | .error _ => base
  match dvfsSteps.find? (fun f => decide (packagePower r counted (placed f) f ≤ limit)) with
  | none => .error { code := 0x0121 }
  | some f =>
    let cs := placed f
    let unplaced : Option AdmCtx := match placeAll s r f moded with | .ok _ => none | .error c => some c
    let lay := s.dramLayout r counted cs
    let tooLong := (sortBy (fun (a b : Plan) => decide (a.plan.toNat < b.plan.toNat)) r.plans).findSome? fun p =>
      match longEntry s cs p f with
      | some i => some (p.plan.toNat, i)
      | none => if 18000000 < cyclesPs f (cdiv (swapBytes p) 512) then some (p.plan.toNat, 0) else none
    let badSet := (List.range 8).find? fun g => !(computeOk (tasks cs g false) && computeOk (tasks cs g true))
    let gauShare := (List.range 8).find? fun g =>
      (frac r.fw.gauPerMille 1000).lt (meanLoad (tasks cs g true))
    let tests : List (Option AdmFail) := [
      unless_ (decide (predictedTj r (packagePower r counted cs f) ≤ 95 * 100000000)) { code := 0x0120 },
      unless_ (decide (lay.2.2.2 ≤ s.dramTop)) { code := 0x0122 },
      s.poolFail r counted cs,
      unless_ (decide (cs.length ≤ 4096) && decide (r.plans.foldl (fun a p => a + p.syncs) 0 ≤ 65536)) { code := 0x0124 },
      (match recTracker r with
        | some t => unless_ (decide (worstTracks t counted.length ≤ 1048576)) { code := 0x0125 }
        | none => none),
      unless_ ((decodeLoad counted).le { num := s.nDec } && (s.homesFor counted).isSome) { code := 0x0126 },
      unless_ (decide (cseOutput r counted x.scaled ≤ 360000000000 * s.nCse)) { code := 0x0127 },
      encodeFail s r x.loads,
      (match tooLong with
        | some x => some { code := 0x0129, kind := 5, index := x.2, plan := x.1 }
        | none => none),
      unplaced.map (fun c => { code := 0x0129, kind := 2, index := c.region.getD 0 }),
      badSet.map (fun g => { code := 0x0129, kind := 2, index := g }),
      (base.find? (s.noMode r)).map (fun c => { code := 0x012A, kind := 2, index := c.region.getD 0 }),
      gauShare.map (fun g => { code := 0x012A, kind := 2, index := g }),
      unless_ (decide (dramTraffic r counted cs x.loads x.scaled ≤ s.trafficLimit)) { code := 0x012B },
      s.dieLinkFail r cs,
      unless_ (decide (hostTraffic r counted x.links ≤ s.linkLimit)) { code := 0x012C },
      (counted.find? fun e => Frac.lt { num := deadlineOf r e * 1000000 } b.b11).map fun e => { code := 0x012D, kind := 1, index := e.slot.toNat }]
    match firstFail tests with
    | some e => .error e
    | none => .ok (admFigures s r counted cs f x)

/-- The whole test of a boot. -/
def State.admitAll (s : State) (r : Cartridge) (counted : List SlotEntry) : Except AdmFail AdmRes :=
  match recipeFail r with
  | some e => .error e
  | none => s.admitFrom5 r counted {}

/-- The entries of a set of slots. -/
def entriesOf (r : Cartridge) (nums : List Nat) : List SlotEntry := r.slots.filter fun e => nums.contains e.slot.toNat

/-- The slots that a first admission counts: those with RESERVE (R56). -/
def reserveSlots (r : Cartridge) : List Nat := (r.slots.filter isReserve).map (·.slot.toNat)

/-- The clip sessions in use beyond the reserved ones, at their slots' declared sizes and rates. -/
def State.extraSessions (s : State) (r : Cartridge) : Extra :=
  (s.enc.sess.filter fun x => x.2.state != 0 && !x.2.reserved).foldl (fun (t : Extra) x =>
    match (clipProfiles r).find? (fun c => c.profile == x.2.profile), r.slots.find? (fun e => e.slot.toNat == x.2.slot) with
    | some c, some e =>
      { loads := t.loads ++ [sessionLoad c e.width.toNat e.height.toNat e.rate.toNat]
        links := t.links ++ [c.winCap.toNat * e.rate.toNat / (100 * max 1 (c.winPics.toNat * c.rateDiv.toNat))]
        scaled := t.scaled + if c.outDiv = 1 then 0 else sessionPix c e.width.toNat e.height.toNat e.rate.toNat }
    | _, _ => t) {}

/-- A re-admission with the given slots counted (R35). -/
def State.readmitWith (s : State) (r : Cartridge) (nums : List Nat) : Except AdmFail AdmRes :=
  s.admitFrom5 r (entriesOf r nums) (s.extraSessions r)

/-! ### What a passing admission puts in force -/

/-- The contexts in force after an admission: those that exist keep what runs on them (R285). -/
def ctxRecord (old : Ctx) (now : Nat) (fresh : Bool) (a : AdmCtx) : Ctx :=
  { old with
    region := a.region.getD 0, cls := a.cls, gau := a.gau, plan := a.plan, slots := a.slots, tick := a.tick.isSome
    dctx := a.dctx.ceil, rate := (a.rate.mul { num := 100000000000 }).ceil
    bucket := if fresh then 4 * token else old.level now, bucketAt := now }

/-- SLACK of R438 in µs: the least deadline of an open slot less the end-to-end bound; unbounded when none is open. -/
def State.slackFor (s : State) (b11 : Nat) : U32 :=
  let open_ := (s.dec.slots.filter fun t => t.2.state != 0).filterMap fun t => s.entry t.1
  match leastBy (fun (a b : Nat) => decide (a < b)) (open_.map fun e => s.deadlineMs e * 1000 - b11 / 1000) with
  | some v => BitVec.ofNat 32 (min v 0xFFFFFFFE)
  | none => 0xFFFFFFFF

/-- SLACK brought up to date with the open slots. -/
def State.setSlack (s : State) : State :=
  let v := s.slackFor (s.adm.b11us * 1000)
  s.updPwr fun p => { p with slack := v }

/-- A region starts a step to `f`: ACLK stops and its PLL is unlocked until it has relocked (R446, R455). -/
def State.stepTo (r f : Nat) (s : State) : State :=
  if (s.regPwr r).target.isSome || (s.regPwr r).freq = f then s
  else (s.stopAclk r false fun p => { p with target := some f, stopDvfs := true }).updClk fun t => tupd {} t r fun p => { p with locked := false }

/-- A region is throttled: it stays below the admitted frequency because of power or of its die's temperature (R447, R450). -/
def RegPwr.throttled (g : RegPwr) : Bool := g.thermal || g.lowSince.isSome

/-- A region on its way to a new admitted frequency takes the next adjacent step, once the step in progress has ended; there it has arrived (R446). A
throttled region rises by the checks of R447 and R450 alone. -/
def State.onward (r : Nat) (s : State) : State :=
  let g := s.regPwr r
  match g.goal, g.target with
  | some f, none =>
    if g.freq = f || (decide (g.freq < f) && g.throttled) then s.updRegPwr r fun g => { g with goal := none }
    else s.stepTo r (if g.freq < f then stepUp g.freq else stepDown g.freq)
  | _, _ => s

/-- A region is on its way to a new admitted frequency. -/
def State.freqMoving (s : State) : Bool := (List.range 8).any fun r => (s.regPwr r).goal.isSome

/-- The pictures that waited for the admitted frequency are free once every region has it (R83). -/
def State.freqSettled (s : State) : State :=
  if s.freqMoving then s else s.updDec fun d => { d with decs := d.decs.map fun x => (x.1, { x.2 with awaitFreq := false }) }

/-- At or above the admitted frequency `f` no throttle holds a region (R447, R450). -/
def RegPwr.atLeast (f : Nat) (g : RegPwr) : RegPwr := if f ≤ g.freq then { g with lowSince := none, lowRaised := false, thermal := false } else g

/-- Every region runs at the admitted frequency (R445): at once at the first admission, and by the steps of R446 when a re-admission has changed it
(R35). A region without contexts naps (R443). -/
def State.regionsTo (was f : Nat) (s : State) : State :=
  (List.range 8).foldl (fun s r =>
    let busy := s.ctxNums.any fun c => (s.ctx c).region == r
    if (s.regPwr r).freq = 0 then s.updRegPwr r fun g => { g with freq := f, volt := stepVolt f, nap := !busy }
    else if f = was then s.updRegPwr r fun g => { g with nap := !busy && g.nap }
    else (s.updRegPwr r fun g => RegPwr.atLeast f { g with goal := some f, nap := !busy && g.nap }).onward r) s

/-- The admission is put in force (R76 to R80, R285). -/
def State.applyAdm (nums : List Nat) (a : AdmRes) (s : State) : State :=
  let now := s.now
  let n0 := s.dis.nCtx
  let first := !s.adm.done
  let was := s.adm.fAdm
  let s := s.updAdm fun d =>
    { d with done := true, slots := nums, fAdm := a.fAdm, homes := a.homes, traffic := cdiv a.traffic 100000000
             trafficMax := s.trafficLimit / 100000000, linkUse := cdiv a.link 100000000, cseMpix := cdiv a.cse 1000000
             decLoad := a.decLoad, b11us := (a.bounds.b11.mul (frac 1 1000)).ceil, b5 := a.bounds.b5.ceil, b7 := a.bounds.b7.ceil, b8 := a.bounds.b8.ceil, gauFree := a.gauFree, failing := 0 }
  let s := s.updDis fun d =>
    { d with
      nCtx := a.ctxs.length
      ctxs := (a.ctxs.zipIdx).foldl (fun t x => tset {} t x.2 (ctxRecord (tget {} t x.2) now (decide (n0 ≤ x.2)) x.1)) d.ctxs }
  let s := s.updDec fun d =>
    { d with slots := a.homes.foldl (fun t h => tupd {} t h.1 fun x => { x with engine := h.2 }) d.slots }
  -- the reserved sessions take their engines at the first admission; later ones move only with their engines (R127, R147)
  let s := if first then
      s.updEnc fun e => { e with idle := a.encIdle, engs := (List.range 5).foldl (fun t k => tupd {} t k fun g => { g with load := tget 0 a.encLoad k }) e.engs }
    else s
  (s.regionsTo was a.fAdm).setSlack

/-- At the first admission the pools, rings and areas take their places (R329, R342). -/
def State.applyLayout (r : Cartridge) (a : AdmRes) (s : State) : State :=
  let s := s.updBpm fun b =>
    { b with
      npools := a.pools.length
      pools := a.pools.foldl (fun t p =>
        let (n, use, log2, count, base) := p
        tset {} t n { use := use, log2 := log2, count := count, base := BitVec.ofNat 64 base, low := count }) b.pools }
  let s := s.updBpm fun b => { b with layout := b.pools }
  let total := a.pools.foldl (fun k p => k + p.2.2.2.1) 0
  let s := s.updAdm fun d => { d with rings := a.rings, dumpBase := match s.crt.recipe with | some r => dumpStart r total | none => 0 }
  let s := s.updDec fun d =>
    { d with slots := r.slots.foldl (fun t e => tupd {} t e.slot.toNat fun x =>
        { x with ringAddr := BitVec.ofNat 32 (tget 0 a.rings e.slot.toNat / 65536), pull := e.ingest.toNat == 1 }) d.slots }
  let area := match a.rings with
    | [] => a.ringEnd
    | _ => a.rings.foldl (fun m x => min m x.2) a.ringEnd
  s.updHif fun h => { h with areaIngest := BitVec.ofNat 16 (area / 65536), areaHandoff := 0x03F0 }

/-- The device is DEGRADED with a failing code (R38). -/
def State.degrade (f : AdmFail) (s : State) : State :=
  let s := s.updAdm fun a => { a with failing := f.code }
  let s := if s.dev.state == .run then s.updDev fun d => { d with state := .degraded }
    else if s.isFrozen && s.dev.thawTo == .run then s.updDev fun d => { d with thawTo := .degraded } else s
  s.updDev fun d => { d with refCode := f.code, refKind := BitVec.ofNat 8 f.kind, refIndex := BitVec.ofNat 32 f.index, refPlan := BitVec.ofNat 16 f.plan }

/-- The device returns to Run once a re-admission passes (R38). QUERY REFUSAL keeps the code last reported (R374). -/
def State.undegrade (s : State) : State :=
  if s.dev.state == .degraded then s.updDev fun d => { d with state := .run }
  else if s.isFrozen && s.dev.thawTo == .degraded then s.updDev fun d => { d with thawTo := .run } else s

/-- A re-admission of the slots now counted (R38): on a pass the result is in force and the device is in Run; on a failure nothing else changes,
and the device is DEGRADED with the failing code. The attention is the caller's. -/
def State.readmit (s : State) : State × Option AdmFail :=
  match s.crt.recipe with
  | none => (s, none)
  | some r =>
    if !s.adm.done then (s, none)
    else
      match s.readmitWith r s.adm.slots with
      | .ok a => ((s.applyAdm s.adm.slots a).undegrade, none)
      | .error f => (s.degrade f, some f)

/-- A re-admission after which class degraded is raised: with the failing code, or with `code` on a pass (R38). -/
def State.readmitFor (code : U16) (kind index : Nat) (s : State) : State :=
  let (t, f) := s.readmit
  match f with
  | some f => t.attention 1 f.code f.kind f.index
  | none => if s.adm.done then t.attention 1 code kind index else t

end Sys2Proof.Machine
end

