-- ==== Sys2Proof/Machine/ClipOps.lean ====
section
/-! DEFINITION. Starting a clip session: profiles, the choice of engine, the tests of R130 and the preroll (R126 to R131). -/

namespace Sys2Proof.Machine

/-! ### Starting a session (R127 to R131) -/

/-- A clip profile of the Recipe in force. -/
def State.profile (s : State) (p : Nat) : Option ClipProfile :=
  match s.crt.recipe with
  | some r => (clipProfiles r).find? fun c => c.profile.toNat == p
  | none => none

/-- The engine of a free reserved session of a profile; none when all are in use. -/
def State.freeReserved (s : State) (p : ClipProfile) : Option Nat := (s.enc.idle.find? fun i => i.1 == p.profile.toNat).map (·.2)

/-- Tests 13, 16 and 17 of R76 with one session more, of a load, a byte rate and a CSE output (R130, R134). -/
def State.sessionFail (s : State) (r : Cartridge) (load bytes scaled : Nat) : Option AdmFail :=
  let x := s.extraSessions r
  let loads := x.loads ++ [load]
  let links := x.links ++ [bytes]
  let counted := entriesOf r s.adm.slots
  let cs := (s.keptCtxs r counted).map fun c => { c with rate := ctxRate r c }
  firstFail [
    encodeFail s r loads,
    unless_ (decide (dramTraffic r counted cs loads (x.scaled + scaled) ≤ s.trafficLimit)) { code := 0x012B },
    unless_ (decide (hostTraffic r counted links ≤ s.linkLimit)) { code := 0x012C }]

/-- How many of the pictures held a preroll of `p` takes. -/
def prerollCount (held : List HeldPic) (p rateDiv : Nat) : Nat := min p (cdiv held.length (max 1 rateDiv))

/-- The held pictures that a preroll of `p` begins with: of the pictures held, those on a step of RATE_DIV counted back from the most recent, oldest
first (R131; log entry 35). A picture takes over the DISCONT of those that RATE_DIV skips before it (R142). -/
def prerollOf (held : List HeldPic) (p rateDiv : Nat) : List HeldPic :=
  let step := max 1 rateDiv
  let n := prerollCount held p rateDiv
  (List.range n).reverse.filterMap fun i =>
    let k := held.length - 1 - i * step
    let skipped := if i + 1 < n then (held.take k).drop (k + 1 - step) else []
    held[k]?.map fun h => { h with discont := h.discont || skipped.any (·.discont) }

/-- The display size changed among the pictures held from the first of the preroll on (R132). -/
def prerollResized (held : List HeldPic) (p rateDiv : Nat) : Bool :=
  match held.drop (held.length - 1 - (prerollCount held p rateDiv - 1) * max 1 rateDiv) with
  | h :: r => prerollCount held p rateDiv != 0 && r.any fun x => x.width != h.width || x.height != h.height
  | [] => false

/-- A held picture as a source picture; with OUT_DIV above 1 it has to be scaled first. -/
def HeldPic.src (h : HeldPic) (scale : Bool) : SrcPic :=
  { descAt := h.descAt, buf := h.buf, mv := h.mv, ready := !scale
    picNum := h.picNum, arrival := h.arrival, tag := h.tag, width := h.width, height := h.height, concealed := h.concealed, discont := h.discont }

/-- The lowest session in FREE. -/
def State.freeSess (s : State) : Option Nat := (List.range 64).find? fun n => (s.sess n).state = 0

/-- Where a session's output goes. -/
structure ClipRing where
  addr   : U64
  log2   : Nat
  mirror : U64
deriving DecidableEq, Repr

/-- A session starts on an engine (R128, R131, R139). A change of the display size within its preroll ends it (R132). -/
def State.startSession (n eng slot : Nat) (p : ClipProfile) (preroll maxPics : Nat) (ring : ClipRing) (reserved : Bool) (load : Nat) (s : State) : State :=
  let held := (s.sdec slot).held
  let pre := prerollOf held preroll p.rateDiv.toNat
  let s := s.updSess n fun _ =>
    { state := if pre.isEmpty then 1 else 2, engine := eng, profile := p.profile, slot := slot, ringAddr := ring.addr, ringLog2 := ring.log2
      mirror := ring.mirror, maxPics := maxPics, reserved := reserved, load := load, queue := pre.map fun h => h.src (decide (1 < p.outDiv.toNat))
      skip := if pre.isEmpty then 0 else max 1 p.rateDiv.toNat - 1 }
  let s := s.updProg n fun _ => { short := decide (pre.length < preroll), dispW := (pre.head?.map (·.width)).getD 0, dispH := (pre.head?.map (·.height)).getD 0 }
  let s := if reserved then s.updEnc fun e => { e with idle := e.idle.erase (p.profile.toNat, eng) } else s.updEeng eng fun g => { g with load := g.load + load }
  if prerollResized held preroll p.rateDiv.toNat then s.endSession n 4 else s

/-- A session for a slot: a free reserved one, else one that the tests admit; the session and the state, or the code that refuses it. -/
def State.takeSession (slot : Nat) (e : SlotEntry) (p : ClipProfile) (preroll maxPics : Nat) (ring : ClipRing) (onlyReserved : Bool) (s : State) :
    Except U16 (Nat × State) :=
  match s.freeSess, s.crt.recipe with
  | some n, some r =>
    match s.freeReserved p with
    | some eng => .ok (n, s.startSession n eng slot p preroll maxPics ring true (sessionLoad p (clipWorst r).1 (clipWorst r).2.1 (clipWorst r).2.2))
    | none =>
      if onlyReserved then .error 0x0043
      else
        let load := sessionLoad p e.width.toNat e.height.toNat e.rate.toNat
        match s.sessionFail r load (p.winCap.toNat * e.rate.toNat / (100 * max 1 (p.winPics.toNat * p.rateDiv.toNat)))
            (if p.outDiv = 1 then 0 else sessionPix p e.width.toNat e.height.toNat e.rate.toNat) with
        | some f => .error f.code
        | none =>
          match leastBy (fun a b => decide ((s.eeng a).load < (s.eeng b).load)) (s.encActive.filter fun k => decide ((s.eeng k).load + load ≤ 540000000)) with
          | some eng => .ok (n, s.startSession n eng slot p preroll maxPics ring false load)
          | none => .error 0x0128
  | _, _ => .error 0x0043

end Sys2Proof.Machine
end

