-- ==== Sys2Proof/Machine/TickOps.lean ====
section
/-! DEFINITION. What the end of a tick invocation does to the sequences of the batch, and the event records of a tick (R300, R317, R318, R378). -/

namespace Sys2Proof.Machine

/-- The side buffer of a track as it stands in device DRAM: embedding, summary, KV page handles (R307). -/
def TrackVec.bytes (v : TrackVec) : List Byte :=
  padTo 128 (v.emb.flatMap fun w => le 2 w.toNat) ++ padTo 128 (v.summary.flatMap fun w => le 2 w.toNat) ++ padTo 256 (v.pages.flatMap fun h => le 4 h.toNat)

/-- The side buffer is written. -/
def State.putSide (i : Nat) (s : State) : State := s.dramPut (s.bufAddr (s.track i).side) (s.tvec i).bytes false

/-- The KV entries of one step go into the sequence's own pages: `n` bytes from offset `off` of the pages become what the plan computes, which
the spec does not give (log entry 38). -/
def State.appendKv (i off n : Nat) (s : State) : State :=
  ((s.tvec i).pages.zipIdx).foldl (fun (s : State) p =>
    let lo := max off (16384 * p.2)
    let hi := min (off + n) (16384 * (p.2 + 1))
    if lo < hi then s.dramForget (s.bufAddr p.1 + (lo - 16384 * p.2)) (s.bufAddr p.1 + (hi - 16384 * p.2)) else s) s

/-- The summary that a step writes: 64 free BF16 values. -/
def freeSummary (tag : Nat) : List U16 := (List.range 64).map fun k => (Config.freeWord (tag * 64 + k)).setWidth 16

/-- A sequence advances one step (R317 step 3). -/
def State.advanceSeq (i : Nat) (s : State) : State :=
  let t := s.track i
  if !t.inBatch then s
  else
    let kv := match s.tracker with | some b => b.kvStepBytes.toNat | none => 0
    let s := s.appendKv i (t.steps * kv) kv
    let tag := s.tag
    let s := (s.burn).updTrack i fun t => { t with steps := min 64 (t.steps + 1), seqValid := true }
    (s.updTvec i fun v => { v with summary := freeSummary tag }).putSide i

/-- The session that an event asks for starts where a reserved one of its profile is free; the session number, and whether it was refused (R130). A clip
whose slot is closed, lacks CLIP_ALLOWED or names no profile is refused in the same way (DESIGN CHOICE, log entry 132). -/
def State.eventClip (slot : Nat) (c : EventClip) (s : State) : Nat × Bool × State :=
  match s.entry slot, s.profile c.profile.toNat with
  | some e, some p =>
    if (s.slot slot).state = 0 || !slotFlag e 2 then (255, true, s)
    else
      let ring : ClipRing := { addr := c.ringAddr, log2 := c.ringLog2.toNat, mirror := c.mirror }
      let maxPics := if c.maxPics = 0 then p.maxPics.toNat else min c.maxPics.toNat p.maxPics.toNat
      match s.takeSession slot e p (min c.preroll.toNat p.preroll.toNat) maxPics ring true with
      | .ok (k, s) => (k, false, s)
      | .error _ => (255, true, s)
  | _, _ => (255, true, s)

/-- An EVENT record of a track (R378). -/
def State.postEvent (e : EventOut) (s : State) : State :=
  let i := e.track.val
  if (tfind s.tke.tracks i).isNone then s
  else
    let t := s.track i
    let (sess, refused, s) : Nat × Bool × State := match e.clip with
      | some q => s.eventClip t.slot.toNat q
      | none => (255, false, s)
    let flags := 2 * bit (t.deferred || t.lateJoin) + 8 * bit refused
    s.record t.slotOf 0x03 (BitVec.ofNat 8 flags)
      (le 4 (trackHandle i t.gen).toNat ++ le 2 e.event.toNat ++ le 1 sess ++ zeros 1 ++ le 8 t.obsArr ++ le 8 (s.tvec i).obsTag.toNat
        ++ padTo 24 e.payload)

/-- The tick ends once none of its invocations is left: the event logic's records are posted (R317 step 4). -/
def State.endTick (s : State) : State :=
  if s.tke.running && s.tke.stepping.isEmpty then
    let evts := s.tke.evts
    evts.foldl (fun s e => s.postEvent e) (s.updTke fun k => { k with running := false, evts := [] })
  else s

/-- The invocation of a tick context ends: its sequences advance, or keep their observations where it failed (R300; log entry 40). -/
def State.tickRan (c : Nat) (ok : Bool) (s : State) : State :=
  match s.tke.stepping.find? fun p => p.1 == c with
  | none => s
  | some p =>
    let s := s.updTke fun k => { k with stepping := k.stepping.filter fun q => !(q.1 == c) }
    let s := p.2.foldl (fun (s : State) i =>
      if ok then s.advanceSeq i else s.updTrack i fun t => if t.inBatch then { t with obs := true } else t) s
    s.endTick

end Sys2Proof.Machine
end

