-- ==== Sys2Proof/Machine/CartOps.lean ====
section
/-! DEFINITION. The cartridge controller as operations on the state: pending records and their writes (R57 to R61, R473), life (R62 to R64), the usable
records (R58) and the repair list (R409). -/

namespace Sys2Proof.Machine

/-! ### Replies to started commands -/

/-- A started command, found by its opcode and TAG, is replied to. -/
def State.replyTag (op : Byte) (tag code : U16) (payload : List Byte) (s : State) : State :=
  (s.updHif fun h => { h with started := h.started.filter fun d => !(d.opcode == op && d.tag == tag) }).reply tag op 0 code payload

/-! ### Writes (R59, R60, R473) -/

/-- The CRT may write: the cartridge of the Recipe in force is present, no hold is set, and the device is past its boot and not PARKED. -/
def State.canWrite (s : State) : Bool :=
  s.crt.present && s.crt.sameCart && !s.crt.hold
    && (s.dev.state == .run || s.dev.state == .degraded || s.dev.state == .frozen || s.dev.state == .refused)

/-- The record whose write comes next: a failed one that the write now due retries, else the first that has not failed; none when all have. -/
def Crt.nextWrite (c : Crt) : Option Nat :=
  match c.pend.findIdx? fun p => !p.failed with
  | none => none
  | some r =>
    match c.pend.findIdx? fun p => p.failed && !p.tried with
    | some f => some f
    | none => some r

/-- The next write starts, where one is due and the CRT may write. -/
def State.kickWrite (s : State) : State :=
  if s.crt.writeBusy || !s.canWrite then s
  else
    match s.crt.nextWrite with
    | some i => s.updCrt fun c => { c with writeBusy := true, pend := c.pend.mapIdx fun j p => if j = i then { p with writing := true } else p }
    | none => s.updCrt fun c => { c with pend := c.pend.map fun p => { p with tried := false } }

/-- A record arises (R60). -/
def State.pendRecord (payload : CartPayload) (origin : RecOrigin) (cmd : Option U16) (holds : Bool) (s : State) : State :=
  (s.updCrt fun c => { c with pend := c.pend ++ [{ payload := payload, origin := origin, cmd := cmd, holds := holds }] }).kickWrite

/-- A fresh life record: AGE in 1/16 h and the erase counts held (R62). -/
def State.lifeRecord (s : State) : CartPayload :=
  .life (BitVec.ofNat 32 (s.crt.age / 15)) (s.crt.counts.map fun e => (e.1, BitVec.ofNat 16 e.2))

/-- A life record arises. -/
def State.pendLife (cmd : Option U16) (holds : Bool) (s : State) : State :=
  s.pendRecord s.lifeRecord .life cmd holds

/-- BIND of the Recipe in force: bytes 0–15 of MANIFEST_HASH (R57). -/
def bindOf (r : Cartridge) : BitVec 128 := r.header.manifestHash.setWidth 128

/-- The kind of a payload, as RTYPE. -/
def rtypeOf : CartPayload → Nat
  | .repair _ => 1
  | .adapter _ => 2
  | .life _ _ => 3

/-- The bytes of an adapter image (R220). -/
def adapterBytes (a : AdapterImage) : List Byte :=
  le 4 a.amagic.toNat ++ le 4 a.weondRelease.toNat ++ le 2 a.tensors.length ++ le 2 a.origin.toNat ++ le 4 a.steps.toNat ++ le 4 a.lossBefore.toNat
    ++ le 4 a.lossAfter.toNat ++ le 8 a.done.toNat
    ++ a.tensors.flatMap (fun t => le 2 t.1.toNat ++ le 2 t.2.1.toNat ++ le 1 t.2.2.1.toNat ++ zeros 3 ++ le 4 t.2.2.2.1.toNat ++ le 4 t.2.2.2.2.toNat) ++ a.data

/-- The bytes of a payload: the repair list of R409, the adapter image, or the erase counts of the 1,024 blocks and then AGE (R62 names both and no order of them;
log entry 117). -/
def payloadBytes : CartPayload → List Byte
  | .repair es => le 2 es.length ++ zeros 14
      ++ es.flatMap fun e => le 2 e.unit.toNat ++ le 1 e.ekind.toNat ++ le 1 e.cls.toNat ++ le 4 e.detail.toNat ++ le 8 e.at_.toNat
  | .adapter none => []
  | .adapter (some a) => adapterBytes a
  | .life age erase => ((List.range 1024).flatMap fun b => le 2 ((erase.find? fun e => e.1 == b).elim 0 (·.2.toNat))) ++ le 4 age.toNat

/-- Bytes 0x00 to 0x3B of a record's header. -/
def recordHead (c : CartRecord) : List Byte :=
  le 4 c.rmagic.toNat ++ le 2 c.rtype.toNat ++ le 2 c.zero6.toNat ++ le 4 c.seq.toNat ++ le 4 c.length.toNat ++ le 16 c.deviceId.toNat ++ le 16 c.bind.toNat
    ++ le 12 c.zero30.toNat

/-- RMAGIC, and the CRC over header and payload. -/
def recordMagic : U32 := 0x52434D4B
def recordCrc (c : CartRecord) : U32 := crc32c (recordHead c ++ payloadBytes c.payload)

/-- A record is whole: its magic, its type and length, and its CRC (R57). -/
def recordOk (c : CartRecord) : Bool :=
  c.rmagic == recordMagic && c.rtype.toNat == rtypeOf c.payload && c.length.toNat == (payloadBytes c.payload).length && c.crc == recordCrc c

/-- A record of a cartridge is usable by the Recipe `r` on this device (R58). -/
def recordUsable (r : Cartridge) (deviceId : BitVec 128) (c : CartRecord) : Bool :=
  recordOk c && c.bind == bindOf r && (rtypeOf c.payload != 1 || c.deviceId == deviceId)

/-- The newest usable record of an RTYPE. -/
def newestRecord (r : Cartridge) (deviceId : BitVec 128) (rtype : Nat) : Option CartRecord :=
  leastBy (fun (a b : CartRecord) => decide (b.seq.toNat < a.seq.toNat))
    (r.records.filter fun c => rtypeOf c.payload == rtype && recordUsable r deviceId c)

/-- The 1,024 mutable blocks (R48), of 16 places of 4 KiB each. -/
def mutableBlocks : List Nat := range 31744 1024

/-- Places that a record takes, and the place after it. -/
def recordPlaces (len : Nat) : Nat := cdiv (64 + len) 4096
def endPlace (c : CartRecord) : Nat := c.place + recordPlaces c.length.toNat

/-- The first place of a block that no record has used. -/
def freePlace (c : Cartridge) (b : Nat) : Nat :=
  c.records.foldl (fun m r => if r.place < 16 * (b + 1) then Nat.max m (endPlace r) else m) (16 * b)

/-- `n` places from `at_` on are free, and no block of `avoid` lies there. -/
def roomAt (c : Cartridge) (avoid : List Nat) (at_ n : Nat) : Bool :=
  decide (at_ + n ≤ 32768 * 16) && c.records.all (fun r => decide (endPlace r ≤ at_) || decide (at_ + n ≤ r.place))
    && avoid.all fun b => decide (16 * (b + 1) ≤ at_) || decide (at_ + n ≤ 16 * b)

/-- The place of a new record of `len` payload bytes: in the block of lowest erase count with room for it, outside the blocks out of use; of equal counts the
lowest block (R59, R473; log entry 108). -/
def State.writePlace (s : State) (c : Cartridge) (avoid : List Nat) (len : Nat) : Option Nat :=
  let n := recordPlaces len
  (leastBy (fun a b => decide (tget 0 s.crt.counts (a - 31744) < tget 0 s.crt.counts (b - 31744)))
    (mutableBlocks.filter fun b => let p := freePlace c b; decide (p < 16 * (b + 1)) && roomAt c (avoid ++ s.crt.badBlocks) p n)).map (freePlace c)

/-- The block in which the write of a payload would begin. -/
def State.writeBlock (s : State) (p : CartPayload) : Nat :=
  match s.crt.cart with
  | some c => ((s.writePlace c [] (payloadBytes p).length).getD (31744 * 16)) / 16
  | none => 31744

/-- The sequence number of the next record: one higher than the last written to the area (R57). -/
def State.nextSeq (s : State) : U32 :=
  let last := match s.crt.cart with | some c => (c.records.filter recordOk).foldl (fun m x => max m x.seq.toNat) s.crt.seq.toNat | none => s.crt.seq.toNat
  BitVec.ofNat 32 (last + 1)

/-- The cartridge holds a record more, outside the blocks of `avoid` (R57, R59). -/
def State.storeRecord (p : CartPayload) (avoid : List Nat) (s : State) : State :=
  let seq := s.nextSeq
  match s.crt.cart, s.crt.recipe with
  | some c, some r =>
    let len := (payloadBytes p).length
    match s.writePlace c avoid len with
    | none => s
    | some at_ =>
      let rec_ : CartRecord :=
        { place := at_, rmagic := recordMagic, rtype := BitVec.ofNat 16 (rtypeOf p), zero6 := 0, seq := seq, length := BitVec.ofNat 32 len
          deviceId := if rtypeOf p = 1 then s.fuses.deviceId else 0, bind := bindOf r, zero30 := 0, crc := 0, payload := p }
      s.updCrt fun d => { d with seq := seq, cart := some { c with records := c.records ++ [{ rec_ with crc := recordCrc rec_ }] } }
  | _, _ => s

/-- The blocks that records lie in. -/
def usedBlocks (c : Cartridge) : List Nat :=
  c.records.foldl (fun l r => (range (r.place / 16) ((endPlace r - 1) / 16 + 1 - r.place / 16)).foldl (fun l b => insertN b l) l) []

/-- The blocks of one record. -/
def blocksOf (r : CartRecord) : List Nat := range (r.place / 16) ((endPlace r - 1) / 16 + 1 - r.place / 16)

/-- The records that a reclaim pass copies forward: the newest usable repair list and adapter. -/
def keptRecords (c : Cartridge) (deviceId : BitVec 128) : List CartRecord := [1, 2].filterMap fun t => newestRecord c deviceId t

/-- The first half of a reclaim pass: the kept records are copied into blocks that hold no record. -/
def State.copyForward (s : State) : State :=
  match s.crt.cart with
  | none => s
  | some c => (keptRecords c s.fuses.deviceId).foldl (fun (s : State) k => s.storeRecord k.payload (usedBlocks c)) s

/-- The blocks that a pass has emptied, of the blocks `old` that held the records before it: not one out of use (R473), and not one of a record that is still the
newest of its RTYPE because no room took its copy. -/
def State.emptied (s : State) (old : List Nat) : List Nat :=
  match s.crt.cart with
  | none => []
  | some c =>
    let held := (keptRecords c s.fuses.deviceId).flatMap blocksOf
    old.filter fun b => !decide (b ∈ s.crt.badBlocks) && !decide (b ∈ held)

/-- Erase counts of blocks, raised by one each. -/
def raiseCounts (blocks : List Nat) (t : Tbl Nat) : Tbl Nat := blocks.foldl (fun t b => tset 0 t (b - 31744) (tget 0 t (b - 31744) + 1)) t

/-- A reclaim pass (R59, R64): the newest usable repair list and adapter are copied forward, a life record with the new counts is written, and then the emptied blocks
are erased. -/
def State.reclaim (s : State) : State :=
  match s.crt.cart with
  | none => s
  | some c =>
    let old := usedBlocks c
    let s := s.copyForward
    let gone := s.emptied old
    let s := s.updCrt fun d => { d with counts := raiseCounts gone d.counts }
    let s := s.storeRecord s.lifeRecord old
    s.updCrt fun d => { d with cart := d.cart.map fun c => { c with
      records := c.records.filter fun x => (blocksOf x).all fun b => !decide (b ∈ gone)
      erase := gone.foldl (fun t b => tset 0 t (b - 31744) (tget 0 t (b - 31744) + 1)) c.erase } }

/-- How many records the cartridge holds. -/
def State.recordCount (s : State) : Nat := match s.crt.cart with | some c => c.records.length | none => 0

/-- The payload that a write stores: of a life record the figures of that moment, so that no record of a higher sequence number lacks the counts of a reclaim pass
before it (R64; log entry 108). -/
def State.written (s : State) : CartPayload → CartPayload
  | .life _ _ => s.lifeRecord
  | p => p

/-- The write of a payload needs a reclaim pass before it: the payload has no room, or it would leave no room in empty blocks for the copies and the life record of
the next pass (R59: no copy is lost; log entry 108). -/
def State.tight (s : State) (p : CartPayload) : Bool :=
  match s.crt.cart, s.crt.recipe with
  | some c, some _ =>
    let t := s.storeRecord p []
    let d := t.crt.cart.getD c
    let u := t.copyForward.storeRecord s.lifeRecord (usedBlocks d)
    t.recordCount == s.recordCount || u.recordCount != t.recordCount + (keptRecords d s.fuses.deviceId).length + 1
  | _, _ => false

/-! ### Life (R63, R64) -/

/-- erase_life, retention_life and life, in tenths of a percent. -/
def lifeFigures (counts : Tbl Nat) (age : Nat) : Nat × Nat × Nat :=
  let worst := counts.foldl (fun a e => max a e.2) 0
  let erase := 1000 - 1000 * worst / 3000
  let retention := 1000 - 1000 * age * 15 / (3600 * 87600)
  (erase, retention, min erase retention)

/-- The thresholds that a life has reached: 0 none, 1 at most 100, 2 at most 10. -/
def lifeLevelOf (life : Nat) : Nat := if life ≤ 10 then 2 else if life ≤ 100 then 1 else 0

/-- The life registers follow the figures held. -/
def State.showLife (s : State) : State :=
  let (erase, retention, life) := lifeFigures s.crt.counts s.crt.age
  s.updCrt fun c => { c with erase := erase, retention := retention, life := life }

/-- The life registers follow the figures held; each fall across a threshold raises attention, and during service writes a life record. -/
def State.judgeLife (service : Bool) (s : State) : State :=
  let s := s.showLife
  let lv := lifeLevelOf s.crt.life
  if s.crt.lifeLevel < lv then
    let s := s.updCrt fun c => { c with lifeLevel := lv, lifeLow := true }
    let s := s.attention 4 (if lv = 2 then 0x051C else 0x051B) 0 0
    if service then s.pendLife none false else s
  else s


/-- The device is in service: past its boot, and not refused (R64). -/
def State.serving (s : State) : Bool := s.dev.state == .run || s.dev.state == .degraded || s.dev.state == .frozen || s.dev.state == .parked

/-! ### The end of a write -/

/-- The adapter of a record whose write has completed takes effect: every Weond-A invocation that starts from here on takes it (R221, R61). -/
def State.adapterWritten (p : PendRec) (s : State) : State :=
  match p.origin, p.payload with
  | .calibrate, .adapter (some a) => s.updCrt fun c => { c with adapter := some a }
  | _, _ => s

/-- The CALIBRATE run that waits for its record replies and ends. -/
def State.calReply (code : U16) (s : State) : State :=
  let c := s.cal
  let payload := le 4 c.before.toNat ++ le 4 c.after.toNat ++ le 4 c.done
  (s.updCal fun _ => {}).replyTag 0x0C c.tag code payload

/-- The failed record stays pending, and its command replies. -/
def State.writeFailed (p : PendRec) (i : Nat) (s : State) : State :=
  let b := s.writeBlock p.payload
  let s := s.updCrt fun c =>
    { c with
      writeFail := true
      badBlocks := insertN b c.badBlocks
      pend := c.pend.mapIdx fun j q =>
        let q := if q.origin = .life then { q with bad := true } else q
        if j = i then { q with writing := false, failed := true, tried := p.failed, cmd := none, holds := false } else q }
  if p.origin = .calibrate then
    let s := s.updCrt fun c => { c with pend := c.pend.eraseIdx i }
    if p.cmd.isSome then s.calReply 0x0033 else s
  else
    match p.cmd with
    | some t => s.replyTag 0x0D t 0x0033 []
    | none => s

/-- The record is in the cartridge, and its command replies. -/
def State.writeOk (p : PendRec) (i : Nat) (s : State) : State :=
  let s := (s.storeRecord (s.written p.payload) []).updCrt fun c => { c with pend := c.pend.eraseIdx i }
  let s := s.adapterWritten p
  let s := match p.cmd with
    | some t => if p.origin = RecOrigin.calibrate then s.calReply 0 else s.replyTag 0x0D t (if p.bad then 0x0033 else 0) []
    | none => s
  if s.serving then s.judgeLife true else s.showLife

/-- No block has room for a payload. -/
def State.full (s : State) (p : CartPayload) : Bool :=
  match s.crt.cart with
  | some c => (s.writePlace c [] (payloadBytes p).length).isNone
  | none => false

/-- The write in progress ends, and the next one starts. -/
def State.endWrite (ok reclaim : Bool) (s : State) : State :=
  if !s.crt.writeBusy then s
  else
    match s.crt.pend.findIdx? (·.writing) with
    | none => s
    | some i =>
      match s.crt.pend[i]? with
      | none => s
      | some p =>
        let s := s.updCrt fun c => { c with writeBusy := false, hold := c.hold || p.holds }
        let s := if ok && (reclaim || s.tight (s.written p.payload)) then s.reclaim else s
        -- a cartridge whose blocks all hold records in force, or are out of use, fails the write
        let s := if ok && !s.full (s.written p.payload) then s.writeOk p i else s.writeFailed p i
        -- a retry belongs to the write that follows it; that write's end lets the next one retry again
        let s := if p.failed then s else s.updCrt fun c => { c with pend := c.pend.map fun q => { q with tried := false } }
        s.kickWrite

/-- FLUSH and PREPARE_REMOVAL: every pending record and a life record are written, then the command replies (R61). -/
def State.flushRecords (tag : U16) (holds : Bool) (s : State) : State :=
  (s.updCrt fun c => { c with hold := false, pend := c.pend.map fun p => { p with failed := false, tried := false } }).pendLife (some tag) holds

/-! ### The repair list (R409) -/

/-- A repair-list entry is added, and a record with the whole list arises. A list that is full raises attention instead. -/
def State.addRepair (unit : U16) (ekind cls : Byte) (detail : U32) (s : State) : State :=
  let now := s.now
  if s.ras.repair.any fun e => e.unit == unit && e.ekind == ekind && e.detail == detail then s
  else if 2048 ≤ s.ras.repair.length then s.attention 1 rasSramExhausted 3 unit.toNat
  else
    let s := s.updRas fun r => { r with repair := r.repair ++ [{ unit := unit, ekind := ekind, cls := cls, detail := detail, at_ := BitVec.ofNat 64 now }] }
    s.pendRecord (.repair s.ras.repair) .plain none false

end Sys2Proof.Machine
end

