-- ==== Sys2Proof/Machine/Training.lean ====
section
/-! DEFINITION. Training of the Weond-A adapter: the data set, the tensors held narrow, the Adam update of a step and the image of the result (R209, R213, R217 to
R220). -/

namespace Sys2Proof.Machine

/-! ### Narrow tensors (R209, R213, R219) -/

/-- A list in pieces of `n`, the last one shorter. -/
def pieces {α : Type} (n : Nat) : Nat → List α → List (List α)
  | 0, _ => []
  | k + 1, xs => if xs.isEmpty then [] else xs.take n :: pieces n k (xs.drop n)

/-- The blocks of 32 elements along the rows of a tensor with `cols` columns. -/
def rowBlocks {α : Type} (cols : Nat) (xs : List α) : List (List α) := (pieces cols xs.length xs).flatMap fun r => pieces 32 r.length r

/-- A tensor with its axes exchanged. -/
def transpose (rows cols : Nat) (xs : List U32) : List U32 :=
  (List.range cols).flatMap fun c => (List.range rows).map fun r => xs.getD (r * cols + c) 0

/-- A tensor quantised in blocks, each with the scale of R213. -/
def narrow (sym : Bool) (qmin qmax : Int) (code : Scale → Fl → Byte) (blocks : List (List U32)) : Narrow :=
  let bs := blocks.map fun b => let xs := b.map f32; (scaleOf sym qmin qmax xs, xs)
  { codes := bs.flatMap fun b => b.2.map (code b.1), scales := bs.map fun b => BitVec.ofNat 16 b.1.scale }

/-- A code in a float format, and an integer code (R213, R245). -/
def floatCode (f : Fmt) (qmax : Nat) (s : Scale) (x : Fl) : Byte := BitVec.ofNat 8 (fpCode f qmax s x)
def intCode (qmin qmax : Int) (s : Scale) (x : Fl) : Byte := BitVec.ofInt 8 (codeOf s qmin qmax x)

/-- Activations, gradients along one axis, and the two moments, as they are held. -/
def narrowActs (cols : Nat) (xs : List U32) : Narrow := narrow true (-448) 448 (floatCode e4m3 448) (rowBlocks cols xs)
def narrowGrads (cols : Nat) (xs : List U32) : Narrow := narrow true (-57344) 57344 (floatCode e5m2 57344) (rowBlocks cols xs)
def narrowM (cols : Nat) (xs : List U32) : Narrow := narrow true (-127) 127 (intCode (-127) 127) (rowBlocks cols xs)
def narrowV (cols : Nat) (xs : List U32) : Narrow := narrow false 0 255 (intCode 0 255) (rowBlocks cols xs)

/-- The values of a narrow tensor, in FP32. -/
def Narrow.values (n : Narrow) (cols : Nat) (code : Byte → U32) : List U32 :=
  ((rowBlocks cols n.codes).zip n.scales).flatMap fun b => b.1.map fun c => fmul (code c) (asF32 fp16 b.2.toNat)

/-! ### The Adam update (R217, R219) -/

/-- β1, 1 - β1, β2, 1 - β2, ε and the learning rate, as FP32. -/
def beta1 : U32 := 0x3F666666
def beta1c : U32 := 0x3DCCCCCD
def beta2 : U32 := 0x3F7FBE77
def beta2c : U32 := 0x3A83126F
def adamEps : U32 := 0x322BCC77
def adamRate : U32 := 0x3A83126F

/-- A power by repeated products. -/
def fpow (b : U32) : Nat → U32
  | 0 => 0x3F800000
  | k + 1 => fmul (fpow b k) b

/-- The rate of step `t`, from 1, with Adam's correction of both moments (log entry 118). -/
def stepRate (t : Nat) : U32 := fdiv (fmul adamRate (fsqrt (fsub 0x3F800000 (fpow beta2 t)))) (fsub 0x3F800000 (fpow beta1 t))

/-- One element: its moments and its master weight after a step with gradient `g`; m, the root of v, and the weight. -/
def adam (rate m rv w g : U32) : U32 × U32 × U32 :=
  let m := fadd (fmul beta1 m) (fmul beta1c g)
  let v := fadd (fmul beta2 (fmul rv rv)) (fmul beta2c (fmul g g))
  let rv := fsqrt v
  (m, rv, fsub w (fdiv (fmul rate m) (fadd rv adamEps)))

/-- A tensor after step `t`: the passes' activations and gradients are held narrow, and the update takes the gradients as they are held. -/
def TrainTensor.step (x : TrainTensor) (t : Nat) (acts grads : List U32) : TrainTensor :=
  let gr := narrowGrads x.cols grads
  let g := gr.values x.cols fun c => asF32 e5m2 c.toNat
  let m := x.m.values x.cols fun c => intF32 c.toInt
  let rv := x.v.values x.cols fun c => intF32 c.toNat
  let rate := stepRate t
  let out := (x.master.zipIdx).map fun e => adam rate (m.getD e.2 0) (rv.getD e.2 0) e.1 (g.getD e.2 0)
  let w := out.map (·.2.2)
  { x with master := w, weights := w.map fun v => BitVec.ofNat 16 (fromF32 bf16 v), acts := narrowActs x.cols acts, gradRow := gr
           gradCol := narrowGrads x.rows (transpose x.rows x.cols grads), m := narrowM x.cols (out.map (·.1)), v := narrowV x.cols (out.map (·.2.1)) }

/-- The adapter as training begins: the masters are the BF16 weights of the initial adapter. -/
def startTensors (a : AdapterImage) : List TrainTensor :=
  a.tensors.map fun t =>
    let b := (a.data.drop (t.2.2.2.1.toNat - (32 + 16 * a.tensors.length))).take t.2.2.2.2.toNat
    let w := (List.range (t.1.toNat * t.2.1.toNat)).map fun i => BitVec.ofNat 16 (field b (2 * i) 2)
    let z := (List.range (t.1.toNat * t.2.1.toNat)).map fun _ => (0 : U32)
    { rows := t.1.toNat, cols := t.2.1.toNat, master := w.map fun x => asF32 bf16 x.toNat, weights := w, m := narrowM t.2.1.toNat z, v := narrowV t.2.1.toNat z }

/-- Every master weight and gradient scale is finite (R218); a scale of R213 always is, and a gradient that is not finite is held under its rule. -/
def TrainTensor.finite (x : TrainTensor) : Bool :=
  x.master.all finite32 && (x.gradRow.scales ++ x.gradCol.scales).all fun c => (fp16.dec c.toNat).isFin

/-- The steps of a run, until one makes a value non-finite; the tensors, the steps completed, and whether all stayed finite. -/
def trainSteps : List CalStep → Nat → List TrainTensor → List TrainTensor × Nat × Bool
  | [], t, xs => (xs, t, true)
  | c :: r, t, xs =>
    let ys := (xs.zipIdx).map fun x => x.1.step (t + 1) (c.acts.getD x.2 []) (c.grads.getD x.2 [])
    if ys.all TrainTensor.finite then trainSteps r (t + 1) ys else (ys, t + 1, false)

/-! ### The data set (R217) -/

/-- An entry of the collection joins the validation set, where its track's index is a multiple of 10, or else the training set. -/
def validation (es : List (Nat × List U16)) : List (Nat × List U16) := es.filter fun e => e.1 % 10 == 0
def trainingSet (es : List (Nat × List U16)) : List (Nat × List U16) := es.filter fun e => e.1 % 10 != 0

/-- A positive pair of a batch: two entries of one track, of the training set, by their places there. -/
def positivePair (es : List (Nat × List U16)) (p : Nat × Nat) : Bool :=
  p.1 != p.2 && (match es[p.1]?, es[p.2]? with | some a, some b => a.1 == b.1 | _, _ => false)

/-- A step takes a batch of 256 positive pairs of the training set; the other pairs of the batch are its negatives. -/
def State.stepOk (s : State) (c : CalStep) : Bool :=
  c.batch.length == 256 && c.batch.all (positivePair (trainingSet s.cal.entries))

/-- The steps that a run has taken: up to STEPS, each on a batch of the training set. -/
def State.runSteps (s : State) (r : CalResult) : List CalStep := (r.steps.filter s.stepOk).take s.cal.steps

/-- The validation losses of a run, over the validation set; of an empty set the spec states none, and they are free values (log entry 118). -/
def State.losses (s : State) (r : CalResult) : U32 × U32 :=
  if (validation s.cal.entries).isEmpty then (Config.freeWord s.tag, Config.freeWord (s.tag + 1)) else (r.lossBefore, r.lossAfter)

/-- The collection is complete: training begins, from the initial adapter of the Recipe. -/
def State.startTraining (s : State) : State :=
  let xs := match s.crt.recipe with | some r => startTensors r.adapter | none => []
  s.updCal fun c => { c with training := true, tensors := xs, done := 0 }

/-- The regions whose Millefeuille has a share in training: admission leaves it free time, a gang of it is in service, and no reset holds it (R217, R222). -/
def State.trainRegions (s : State) (reset : ResetScope → Bool) : List Nat :=
  s.adm.gauFree.filter fun r => (s.modeFor r 2).isSome && !(if h : r < 10 then reset (.part ⟨r, h⟩) else false)

/-! ### The image (R220) -/

/-- The image of a trained adapter: the shape and places of the initial one, the masters rounded to BF16, and the figures of the run. -/
def trainedImage (a : AdapterImage) (xs : List TrainTensor) (steps : Nat) (before after : U32) (now : Nat) : AdapterImage :=
  let base := 32 + 16 * a.tensors.length
  let put (b : List Byte) (o : Nat) (v : List Byte) : List Byte := b.take o ++ v ++ b.drop (o + v.length)
  let data := (a.tensors.zip xs).foldl (fun b p =>
    put b (p.1.2.2.2.1.toNat - base) (p.2.master.flatMap fun w => le 2 (fromF32 bf16 w))) (zeros (a.length.toNat - base))
  { a with origin := 1, steps := BitVec.ofNat 32 steps, lossBefore := before, lossAfter := after, done := BitVec.ofNat 64 now, data := data }

end Sys2Proof.Machine
end

