-- ==== Sys2Proof/Machine/Resets.lean ====
section
/-! DEFINITION. Units and scopes (R398, R13), Glaze (R427 to R429), what each reset loses (R426) and restores, and the one operation that starts a
reset above CXR (R421, R423). -/

namespace Sys2Proof.Machine

/-! ### Unit numbers (R398) -/

/-- The unit is one of those that RESET_REQ can name and the device carries (R372, R422). -/
def unitPresent (u : U16) : Bool :=
  let i := unitIdx u
  match unitKind u with
  | 0 => decide (i < 256 ∧ i % 32 < 18)
  | 1 => decide (i < 256 ∧ i % 32 < 17)
  | 2 => decide (i < 9)
  | 3 => decide (i < 5)
  | 4 => decide (i < 4)
  | 5 => decide (i < 24)
  | _ => false

/-- The reset partition a unit lies in (R3); a channel lies in none. -/
def unitPart (u : U16) : Option Nat :=
  match unitKind u with
  | 0 | 1 => some (unitIdx u / 32)
  | 2 | 3 | 4 => some 8
  | _ => none

/-- An ENR of one tile is an ENR of its whole Millefeuille (R182). -/
def unitKey (u : U16) : Nat := if unitKind u = 1 then 4096 + unitIdx u / 32 * 32 else u.toNat

/-- `a` contains `b`, or is equal to it. -/
def State.scopeHolds (s : State) (a b : ResetScope) : Bool :=
  match a, b with
  | .chip, _ => true
  | .part p, .part q => p == q
  | .part p, .unit u => unitPart u == some p.val
  | .part p, .ctx c => (s.ctx c.val).region == p.val
  | .unit u, .unit v => unitKey u == unitKey v
  | .ctx c, .ctx d => c == d
  | _, _ => false

/-- A reset of `b`, or of a scope that holds it, is in progress. -/
def State.underReset (s : State) (b : ResetScope) : Bool := s.rst.runs.any fun r => r.active && s.scopeHolds r.scope b

/-- LEVEL, SCOPE_KIND and SCOPE of a reset (R378, R423). A CXR has level 5 here, which no record carries. -/
def scopeLevel : ResetScope → Nat
  | .ctx _ => 5
  | .unit _ => 1
  | .part _ => 2
  | .chip => 3
def scopeKindOf : ResetScope → Nat
  | .ctx _ => 0
  | .unit u => unitKind u
  | .part p => p.val
  | .chip => 6
def scopeIndex : ResetScope → Nat
  | .unit u => unitIdx u
  | _ => 0

/-! ### Glaze (R427 to R429) -/

/-- The register blocks that lie in a switched domain, with its number (R436); every other lies in the hub base or the AON. -/
def blockDomains : List (Nat × Nat) :=
  ((List.range 8).flatMap fun r =>
    let base := 0x2000000 + r * 0x200000
    (List.range 18).map (fun i => (base + 0x40000 + i * 0x10000, 18 * r + i)) ++ [(base + 0x180000, 144 + r), (base, 152 + r)])
    ++ (List.range 9).map (fun e => (0x800000 + e * 0x10000, 160 + e))
    ++ (List.range 5).map (fun e => (0xA00000 + e * 0x10000, 169 + e))
    ++ (List.range 4).map (fun e => (0xB00000 + e * 0x10000, 174 + e))
    ++ [(0, 186), (0x3300000, 187), (0x300000, 189), (0x200000, 190)]

/-- The bases of the blocks that are power-gated or fenced (R430): a fenced unit's and an idle spare's domain is off (R437). -/
def State.offBlocks (s : State) : List Nat := (blockDomains.filter fun b => !s.domainOn b.2).map (·.1)

/-- Glaze fires: every block's registers are copied, and Crumb starts to collect; a strobe during a collection is merged. -/
def State.glaze (trigger : Nat) (reason : U32) (s : State) : State :=
  match s.dbg.current with
  | some _ => s.updDbg fun d => { d with merged := satAdd d.merged 1 }
  | none =>
    let img := s.image
    let d : Dump := { id := s.aon.dumpNext, at_ := s.aon.time, trigger := BitVec.ofNat 8 trigger, epoch := s.ep.epoch
                      state := BitVec.ofNat 8 s.dev.state.code, reason := reason, missed := [], offBlk := s.offBlocks, image := img }
    (s.updAon fun a => { a with dumpNext := a.dumpNext + 1 }).updDbg fun g => { g with current := some d, snap := img }

/-! ### Counting (R399 to R402) -/

/-- The RAS_ code of an error class (R425). -/
def classCode (k : Nat) : U16 := ([0x0501, 0x0502, 0x0503, 0x0506, 0x0505, 0x0510] : List U16).getD k 0x0510

/-- An event of class `k` joins the times kept for a unit; the newest THRESHOLD are kept. -/
def State.keepEvent (u k : Nat) (s : State) : State :=
  let now := s.now
  let n := s.ras.threshold k
  s.updUnit u fun x => { x with times := tset [] x.times k ((now :: tget [] x.times k).take n), lastAt := now }

/-- The event just kept is lasting (R401). -/
def State.isLasting (s : State) (u k : Nat) : Bool :=
  let t := tget [] (s.unitRas u).times k
  decide (s.ras.threshold k ≤ t.length) && decide (s.now - t.getLastD s.now ≤ s.ras.window k * 1000000000)

/-- Glaze fires on an error whose class is set in DBG_TRIG (R427). -/
def State.errorGlaze (k : Nat) (s : State) : State :=
  if s.dbg.errorEn && s.dbg.errClasses.getLsbD k then s.glaze 3 ((classCode k).setWidth 32) else s

/-- The device freezes on an uncorrectable error, a completion timeout or a poisoned TLP where setting 0x0009 is 1 (R390). -/
def State.freeze (s : State) : State :=
  if s.setting 9 0 = 1 && (s.dev.state == .run || s.dev.state == .degraded) then
    s.updDev fun d => { d with thawTo := d.state, state := .frozen, freezes := satAdd d.freezes 1 }
  else s

/-- An event of class `k` is counted against a unit: the state, and whether it is lasting. Counters stand still out of service and once a unit is fenced
(R401, R402). -/
def State.countError (u : U16) (k : Nat) (s : State) : State × Bool :=
  if !s.ras.inService || (s.unitRas u.toNat).fenced then (s, false)
  else
    let s := (s.errorGlaze k).keepEvent u.toNat k
    let lasting := s.isLasting u.toNat k
    (if k = 1 then s.freeze else s, lasting)

/-! ### Stopped passes (R167, R170) -/

/-- An 8-bit count in a 32-bit word of four, saturating: the word of aborts of a vector engine (R250). -/
def bumpByte (w : U32) (lo : Nat) : U32 :=
  let v := bits w.toNat (lo + 7) lo
  if v = 255 then w else w + BitVec.ofNat 32 (2 ^ lo)

/-- The engine of a core that runs a pass, or a descriptor. -/
def arrayUnit (i : Nat) : PassUnit := .array (Fin.ofNat 18 i)
def vecUnit (i : Nat) : PassUnit := .vec (Fin.ofNat 18 i)

/-- A pass is to be aborted by a fence. -/
def PassClock.askFence (u : PassUnit) (c : PassClock) : PassClock := { c with asked := c.asked ++ [(u, .fence)] }

/-- The pass of core `i` is aborted and dropped, and counted as a fence's; while ACLK is stopped it stands, and is aborted in the first cycle after the restart (R170,
R184). -/
def Core.fenceStop (stopped : Bool) (now i : Nat) (x : Core) : Core :=
  if x.running.isNone then x
  else if stopped then { x with clock := x.clock.askFence (arrayUnit i) }
  else { x with running := none, shadowed := none, clock := x.clock.abort now, abFence := satAdd x.abFence 1 }

@[inherit_doc Core.fenceStop]
def Vec.fenceStop (stopped : Bool) (now i : Nat) (v : Vec) : Vec :=
  if v.running.isNone then v
  else if stopped then { v with clock := v.clock.askFence (vecUnit i) }
  else { v with running := none, clock := v.clock.abort now, aborts := bumpByte v.aborts 0 }

/-- The unit number that a fault of the engine counts against. -/
def faultUnit (r : Nat) (u : PassUnit) : U16 :=
  match u with
  | .array i => mkUnit 0 (r * 32 + i.val)
  | .vec i => mkUnit 0 (r * 32 + i.val)
  | .gau t => mkUnit 1 (r * 32 + t.val)

/-- The faults of a unit that waited for ACLK and that another abort overtakes still count (R170). -/
def State.countAsked (r : Nat) (asked : List (PassUnit × AbortCause)) (s : State) : State :=
  (asked.filter fun x => x.2 == .unitFault).foldl (fun (s : State) x => (s.countError (faultUnit r x.1) 1).1) s

/-! ### What ENR loses -/

/-- The logical slot that physical core `i` serves. -/
def Region.slotOfCore (g : Region) (i : Nat) : Option Nat :=
  (List.range 16).find? fun n => let e := mapGet g.slotMap n; e.valid && e.phys == i

/-- The tiles that logical slot `n` runs lose that runner; one without a runner returns to ISSUED and goes first (R266). -/
def Wc.dropSlot (n : Nat) (w : Wc) : Wc :=
  let mine := (w.runners.filter fun r => r.slot == n).map (·.tile)
  let rest := w.runners.filter fun r => !(r.slot == n)
  let lost := mine.filter fun t => !(rest.any fun r => r.tile == t) && tget 0 w.board t != 3
  { w with
    runners := rest
    board := lost.foldl (fun b t => tset 0 b t 1) w.board
    requeue := lost.foldl (fun q t => insertN t q) w.requeue }

/-- Core `i` of region `r` gives up its tile. -/
def State.dropCoreTile (r i : Nat) (s : State) : State :=
  match (s.region r).slotOfCore i with
  | some n => (List.range 64).foldl (fun (s : State) k => if (tfind (s.region r).wcs k).isSome then s.updWc r k (Wc.dropSlot n) else s) s
  | none => s

/-- The context and the fused layer whose steps a core has still to run. -/
def Core.fusedLayer (x : Core) : Option (Nat × Nat) := x.todo.findSome? fun t => match t with | .finish c l _ _ => some (c, l) | _ => none

/-- The steps of some layers of context `c` leave the cores of a region; what runs of them is aborted (R167). -/
def State.dropSteps (r c : Nat) (group : List Nat) (s : State) : State :=
  let now := s.aclk r
  let stopped := s.aclkStopped r
  let mine (d l : Nat) : Bool := d == c && group.contains l
  (List.range 18).foldl (fun s k =>
    let s := s.updCore r k fun x =>
      { x with
        queue := x.queue.filter fun p => !mine p.ctx p.layer
        todo := x.todo.filter fun t => !mine t.owner t.layer }
    let s := s.updCore r k fun x => if x.running.any fun p => mine p.ctx p.layer then x.fenceStop stopped now k else x
    let s := s.updVec r k fun v =>
      { v with
        queue := v.queue.filter fun p => !mine p.ctx p.layer }
    s.updVec r k fun v => if v.running.any fun p => mine p.ctx p.layer then v.fenceStop stopped now k else v) s

/-- Core `i` loses the work of a fused group, and with it the intermediate outputs in its scratchpad: the group starts over on a complete cluster, from the
inputs in the region buffer (R275; log entry 109). -/
def State.restartGroup (r i : Nat) (s : State) : State :=
  match (s.core r i).fusedLayer with
  | none => s
  | some (c, l) =>
    match (s.openGroups c).find? fun g => g.contains l with
    | some g => (s.dropSteps r c g).dropGroup r c g
    | none => s

/-- The scratchpad, the requantiser table and the partial-sum banks of a core become undefined (R173), its weight registers and accumulators too. -/
def State.forgetCore (r i : Nat) (s : State) : State :=
  let t := s.tag
  (s.burn).updCoreMem r i fun m =>
    { sp := m.sp.forget 0 spSize t, rq := m.rq.forget 0 4096 t, psb0 := m.psb0.forget 0 spSize t, psb1 := m.psb1.forget 0 spSize t }

/-- The wait of a queue head is dropped. -/
def State.dropHeadWait (u : U16) (s : State) : State := s.dropWait (.queueHead u)

/-- ENR of a core. -/
def State.enrCore (r i : Nat) (s : State) : State :=
  let s := s.countAsked r ((s.core r i).clock.asked ++ (s.vec r i).clock.asked)
  let s := (s.restartGroup r i).dropCoreTile r i
  let s := s.updCore r i fun c => { inService := c.inService }
  let s := s.updVec r i fun _ => {}
  (s.forgetCore r i).dropHeadWait (mkUnit 0 (r * 32 + i))

/-- ENR of a Millefeuille: QUEUE clears, and the dispatcher hands its pass and what waited over again after it (R182, R186). -/
def State.enrGau (r : Nat) (s : State) : State :=
  (s.countAsked r (s.region r).gau.clock.asked).updGau r fun g =>
    { inService := g.inService, gangAvail := g.gangAvail, fenced := g.fenced, tileMap := g.tileMap, first := true
      todo := (match g.running with | some x => [x] | none => []) ++ g.queue ++ g.todo }

/-- The slot's state follows its restored parse state (R101, R112): it decodes on, or waits for a key picture. -/
def State.showParse (n : Nat) (s : State) : State :=
  let p := (s.sdec n).parse
  let st := (s.slot n).state
  if st = 1 && !p.waitKey && !(s.slot n).keyAhead then
    (s.updSdec n fun d => { d with keySince := none }).updSlot n fun t => { t with state := if p.planned then 3 else 2 }
  else if (st = 2 || st = 3) && p.waitKey then s.toWaitKey n
  else s

/-- The access units of a slot that an engine had taken wait again, and its parse state is the one before its earliest picture that is
not committed (R112); of the units at `rests` a picture has committed. -/
def State.unparse (n : Nat) (before : Option Parse) (rests : List U32) (s : State) : State :=
  let s := s.updSlot n fun t =>
    { t with aus := t.aus.map fun a => match a.stage with
        | .done => a
        | .waiting => a
        | _ => { a with stage := .waiting, rest := rests.contains a.pos } }
  let s := s.updSdec n fun d => { d with parse := before.getD d.parse, holder := none }
  s.showParse n

/-- ENR or fence of a decode engine: every entry and the picture in the pixel half are discarded and their slots released; a slot in DRAIN
closes (R89, R112). -/
def State.discardEngine (e : Nat) (s : State) : State :=
  let g := s.deng e
  let entries := (match g.pix with | some x => [x] | none => []) ++ g.entries
  let slots := (entries.map (·.slot) ++ (match g.parsing with | some p => [p.slot] | none => [])).foldl (fun l n => insertN n l) []
  let s := s.updDeng e fun g => { g with entries := [], pix := none, parsing := none, undo := satAdd g.undo g.entries.length }
  slots.foldl (fun s n =>
    let mine := entries.filter fun x => x.slot == n
    let begun := match g.parsing with
      | some p => if p.slot = n && !p.first && !(mine.any fun x => x.pos == p.pos) then [p.pos] else []
      | none => []
    let cut := (mine.filter fun x => !x.first && !(mine.any fun y => y.pos == x.pos && y.first)).map (·.pos)
    let before := match mine.head?, g.parsing with
      | some x, _ => some x.before
      | none, some p => if p.slot = n then some p.before else none
      | none, none => none
    let s := s.unparse n before (begun ++ cut)
    if (s.sdec n).draining then s.finishClose n else s) s

/-- ENR of a decode engine. -/
def State.enrDec (e : Nat) (s : State) : State :=
  (s.discardEngine e).updDeng e fun g => { inService := g.inService, fenced := g.fenced }

/-- The picture an encode engine codes is discarded; its session's next picture is a key picture with GAP (R142, R147). -/
def State.discardEncode (e : Nat) (s : State) : State :=
  match (s.eeng e).job with
  | some j =>
    let s := s.updEeng e fun g => { g with job := none }
    let s := (s.dropSource j.sess j.pic).dropAll (reqEnc j.sess)
    let s := s.updSess j.sess fun t => { t with wantKey := true, wantGap := true }
    s.afterPicture j.sess
  | none => s

/-- ENR of an encode engine: its sessions resume from a key picture with GAP (R147, R426). -/
def State.enrEnc (e : Nat) (s : State) : State :=
  let s := s.updEnc fun c => { c with sess := c.sess.map fun x =>
    (x.1, if x.2.state != 0 && x.2.engine == e then { x.2 with wantKey := true, wantGap := true } else x.2) }
  (s.discardEncode e).updEeng e fun g => { inService := g.inService, fenced := g.fenced, load := g.load }

/-! ### Queues of the crop-and-scale engines (R278, R282) -/

/-- A free crop-and-scale engine starts the job at the head of its queue. -/
def CseEng.start (g : CseEng) : CseEng :=
  match g.running, g.queue with
  | none, j :: rest => { g with running := some j, queue := rest }
  | _, _ => g

/-- Engine `e` starts the job at the head of its queue, where it may: in FROZEN none starts (R390), nor while the queue head waits (R302). -/
def State.startCseEng (e : Nat) (s : State) : State := if s.isFrozen || s.headWaits (mkUnit 4 e) then s else s.updCseEng e CseEng.start

/-- A job joins the queue of engine `e`, which starts it when it is free. -/
def State.enqueue (e : Nat) (j : CseJob) (s : State) : State :=
  (s.updCseEng e fun g => { g with queue := g.queue ++ [j] }).startCseEng e

/-- The engine takes jobs: in service, and not in a reset. -/
def State.cseTakes (s : State) (e : Nat) : Bool :=
  (s.cseEng e).inService && !(s.cseEng e).fenced && !s.underReset (.unit (mkUnit 4 e))

/-- The engine takes jobs and has room for one more: its queue is 16 deep. -/
def State.cseRoom (s : State) (e : Nat) : Bool := s.cseTakes e && decide ((s.cseEng e).queue.length < 16)

/-- The engine in service with the fewest jobs. -/
def State.leastCse (s : State) : Option Nat :=
  leastBy (fun a b => decide ((s.cseEng a).queue.length < (s.cseEng b).queue.length))
    ((List.range 4).filter s.cseTakes)

/-- Jobs that found no room go to engines that have room now, in order. -/
def State.drainJobs : Nat → State → State
  | 0, s => s
  | k + 1, s =>
    match s.dis.jobs, s.leastCse with
    | j :: rest, some e => if s.cseRoom e then State.drainJobs k ((s.updDis fun d => { d with jobs := rest }).enqueue e j) else s
    | _, _ => s

/-- Jobs that an engine gives back are submitted again, before those that already wait. -/
def State.resubmit (js : List CseJob) (s : State) : State :=
  let s := s.updDis fun d => { d with jobs := js ++ d.jobs }
  s.drainJobs s.dis.jobs.length

/-- The dispatcher submits a job. -/
def State.submitJob (e : Nat) (j : CseJob) (s : State) : State :=
  if s.cseRoom e then s.enqueue e j else s.updDis fun d => { d with jobs := d.jobs ++ [j] }

/-- The jobs of an engine, the one in progress first. -/
def CseEng.all (g : CseEng) : List CseJob := (match g.running with | some j => [j] | none => []) ++ g.queue

/-- ENR of a crop-and-scale engine: the job in progress is discarded and submitted again; QUEUE clears, and the dispatcher submits again what
waited (R283). -/
def State.enrCse (e : Nat) (s : State) : State :=
  let g := s.cseEng e
  (s.updCseEng e fun g => { inService := g.inService, fenced := g.fenced }).resubmit g.all

/-- ENR of a channel: it is in self-refresh meanwhile, and DRAM contents, trained delays and stand-in rows survive (R338, R426). -/
def State.enrChan (k : Nat) (s : State) : State :=
  let s := s.updChan k fun c =>
    { inService := c.inService, retired := c.retired, trained := c.trained, lasting := c.lasting, pprDone := c.pprDone, standins := c.standins
      selfRefresh := true, held := c.held }
  s.updTrn k fun t => { wr := t.wr, rd := t.rd }

/-- What an ENR loses. -/
def State.clearUnit (u : U16) (s : State) : State :=
  let i := unitIdx u
  match unitKind u with
  | 0 => s.enrCore (i / 32) (i % 32)
  | 1 => s.enrGau (i / 32)
  | 2 => s.enrDec i
  | 3 => s.enrEnc i
  | 4 => s.enrCse i
  | 5 => s.enrChan i
  | _ => s

/-! ### What PTR loses -/

/-- A running invocation ends as failed (R300): its plan's completion signals are made, its private objects return to 0, and the TKE will skip
the picture of a Weond-D or Weond-E invocation. -/
def State.failInv (c : Nat) (s : State) : State :=
  let x := s.ctx c
  match x.running with
  | none => s
  | some i =>
    let s := s.updCtx c fun x => { x with running := none, layersDone := [], started := [] }
    let s := s.complete c true
    match s.plan x.plan with
    | some p =>
      let s := if p.kind = 0 && !x.tick then s.skipPics i.pics else s
      let s := p.privateSyncs.foldl (fun s o => s.synSet o 0) s
      let s := p.signals.foldl (fun s e => s.releaseOn e.1) s
      if x.tick then s.tickRan c false else s
    | none => s

/-- A context stands idle with its queued releases kept; the first of them makes it READY. -/
def Ctx.rest (x : Ctx) : Ctx :=
  { x with state := if x.queue.isEmpty then 0 else 1, wait := none }

/-- A context leaves its blocking wait and the pools it waits for. -/
def State.unwait (c : Nat) (s : State) : State :=
  let s := s.updSyn fun y => { y with waits := y.waits.filter fun e => match e.waiter with | .ctx d => !(d.val == c) | _ => true }
  s.updBpm fun b => { b with pools := b.pools.map fun p => (p.1, { p.2 with waiters := p.2.waiters.filter fun w => !(w == reqCtx c) }) }

/-- Every memory of a region becomes undefined. -/
def State.forgetRegion (r : Nat) (s : State) : State :=
  let t := s.tag
  let s := (s.burn).updRb r fun m => m.forget 0 16777216 t
  (List.range 18).foldl (fun s i => s.forgetCore r i) s

/-- The contexts whose region is `r`. -/
def State.ctxsIn (s : State) (r : Nat) : List Nat := s.ctxNums.filter fun c => (s.ctx c).region == r

/-- PTR of a region (R29, R301): its invocations end as failed, its resident slots empty, and every register of it takes its default. -/
def State.ptrRegion (r : Nat) (s : State) : State :=
  let cs := s.ctxsIn r
  let s := cs.foldl (fun s c => ((s.unwait c).dropAll (reqCtx c)).failInv c) s
  let s := cs.foldl (fun (s : State) c => s.updCtx c fun x => { x with rslot := none, state := 0, wait := none }) s
  let s := s.updDis fun d => { d with saved := cs.foldl (fun t c => tdel c t) d.saved }
  let s := (List.range 18).foldl (fun s i => s.dropHeadWait (mkUnit 0 (r * 32 + i))) s
  let s := s.updRegMem r fun m => { m with vecs := [] }
  let s := s.updRegPwr r fun p => { stopDip := p.stopDip, stopFast := p.stopFast }
  (s.forgetRegion r).updRegion r fun _ => {}

/-- The end header of a session that ends with nothing left to encode is written where the ring has room (R132). -/
def State.endNow (n cause : Nat) (s : State) : State :=
  let t := s.sess n
  if t.state = 0 then s
  else
    let s := (s.dropQueued n).updProg n fun p => { p with hold := none, ending := if p.ending = 0 then cause else p.ending }
    let s := s.updSess n fun t => { t with state := 3, queue := [] }
    let s := if t.room 0 then s.tryEnd n else s
    s.freeSession n

/-- PTR of partition 8: clips end, the engines and slots take their defaults (R89, R132, R426). Which slots were open is kept for the re-opening. -/
def State.ptrMedia (s : State) : State :=
  let s := (List.range 5).foldl (fun s e => s.updEeng e fun g => { g with job := none }) s
  let s := (List.range 64).foldl (fun s n => s.endNow n 5) s
  let s := (List.range 512).foldl (fun s n =>
    if (tfind s.dec.decs n).isSome then
      let s := (s.emptyDpb n).dropHeld n
      s.updSdec n fun d => { draining := d.draining, openArgs := d.openArgs }
    else s) s
  let s := (List.range 4).foldl (fun s e => s.dropAll (reqCse e)) s
  let s := s.updDec fun d => { d with engs := [], slots := [] }
  (s.updEnc fun e => { e with engs := [], sess := [], prog := [] }).updCse fun _ => []

/-- A CALIBRATE run ends without a reply of its own, and nothing of it is written to the cartridge (R222). -/
def State.endCal (s : State) : State :=
  let mine (p : PendRec) : Bool := s.cal.writing && decide (p.origin = .calibrate) && p.cmd.isSome
  let s := s.updCrt fun c => { c with writeBusy := c.writeBusy && !(c.pend.any fun p => mine p && p.writing), pend := c.pend.filter fun p => !mine p }
  (s.updCal fun _ => {}).kickWrite

/-- PTR of partition 9 (R222, R353, R375): invocations end as failed, DPBs empty, track contexts return to FREE, clips want a key picture with GAP,
started commands are lost, and pools and track engine take their defaults. -/
def State.ptrHost (s : State) : State :=
  let s := s.ctxNums.foldl (fun s c =>
    let blocked := (s.ctx c).state == 4
    let s := (s.unwait c).failInv c
    if (s.ctx c).state != 0 || blocked then
      let g := (s.ctx c).gau
      let r := (s.ctx c).region
      let s := if (s.region r).active g == some c then s.leave r g c 0 else s
      let s := s.updRegion r fun x => { x with swapCores := if x.swapCores = some c then none else x.swapCores
                                               swapGau := if x.swapGau = some c then none else x.swapGau }
      s.updCtx c Ctx.rest
    else s) s
  let s := (List.range 512).foldl (fun s n =>
    let st := (s.slot n).state
    let s := s.updSdec n fun d => { d with dpb := [], held := [] }
    if st = 0 then s else if st = 4 then s else s.toWaitKey n) s
  -- no holder keeps a handle: pictures in encode and held, and the jobs of the crop-and-scale engines, go with the pools
  let s := s.updEnc fun e =>
    { engs := e.engs.map fun x => (x.1, { x.2 with job := none })
      sess := e.sess.map fun x => (x.1, if x.2.state = 0 then x.2 else { x.2 with wantKey := true, wantGap := true, queue := [] })
      prog := e.prog.map fun x => (x.1, { x.2 with hold := none }) }
  let s := s.updCse fun t => t.map fun x => (x.1, { x.2 with queue := [], running := none })
  let s := (List.range 64).foldl (fun s n => if (s.sess n).state = 0 then s else s.afterPicture n) s
  let s := s.updDis fun d => { d with failed := [], jobs := [] }
  let s := s.updTke fun k =>
    { gens := k.tracks.foldl (fun g t => tset 1 g t.1 (nextGen t.2.gen)) k.gens, t0 := k.t0 }
  let s := s.updBpm fun b => { layout := b.layout }
  let started := s.hif.started
  let s := s.updHif fun h => { h with started := [], streams := [] }
  let s := started.foldl (fun s c => s.reply c.tag c.opcode 0 stCmdLost []) s
  -- records of a CART_WRITE that has ended stay due, and reply no more
  let s := s.endCal
  s.updCrt fun c => { c with pend := c.pend.map fun p => { p with cmd := none, holds := false } }

/-- The BPM's pools in their admitted, empty state (R353). -/
def State.emptyPools (s : State) : State :=
  s.updBpm fun b => { inService := b.inService, sel := b.sel, npools := b.layout.length, layout := b.layout, pools := b.layout }

/-! ### What CHR loses -/

/-- Everything but the AON with its clock, the latched HIF_TIME_HI, the wires, the JTAG port, the fuses, the cartridge in its socket and the snapshot
registers, dump SRAM and DBG fields takes its default (R12, R397, R426). The dumps in DRAM are lost with the region (log entry 107). -/
def State.clearChip (s : State) : State :=
  let t := s.tag
  let s := s.burn
  let s := s.updHif fun _ => {}
  let s := s.updWins fun _ => {}
  let s := s.updLink fun _ => {}
  let s := s.updDev fun d => { timeHi := d.timeHi }
  let s := s.updCrt fun c => { cart := c.cart }
  let s := s.updCal fun _ => {}
  let s := s.updAdm fun _ => {}
  let s := s.updDec fun _ => {}
  let s := s.updEnc fun _ => {}
  let s := s.updCse fun _ => []
  let s := s.updRgn fun _ => []
  let s := (List.range 8).foldl (fun s r => (s.updRegMem r fun m => { m with vecs := [] }).forgetRegion r) s
  let s := s.updDis fun _ => {}
  let s := s.updSyn fun _ => {}
  let s := s.updBpm fun _ => {}
  let s := s.updTke fun _ => {}
  let s := s.updDmc fun _ => {}
  let s := s.updDram fun d => { mem := d.mem.forget 0 (24 * chanBytes) t, poison := [] }
  let s := s.updPwr fun _ => {}
  let s := s.updClk fun t => t.filter fun e => e.1 == 16
  let s := s.updRas fun _ => {}
  let s := s.updTrc fun _ => {}
  s.updDbg fun d => { d with dram := [] }

/-! ### Starting a reset (R421, R423, R424) -/

/-- What a reset of a scope loses. -/
def State.clearScope (scope : ResetScope) (s : State) : State :=
  match scope with
  | .ctx _ => s
  | .unit u => s.clearUnit u
  | .part p =>
    let s := s.holdDomains p.val
    if p.val < 8 then s.ptrRegion p.val else if p.val = 8 then s.ptrMedia else s.ptrHost
  | .chip => s.clearChip

/-- The start of a reset above CXR, counted: RESET_EPOCH and RESET_COUNT move on, and the AON's reset-cause register names it. -/
def State.countReset (scope : ResetScope) (cause : U16) (s : State) : State :=
  let s := s.updEp fun e => { epoch := e.epoch + 1, count := e.count + 1 }
  s.updAon fun a => { a with cause := cause, scope := BitVec.ofNat 16 (scopeIndex scope), level := BitVec.ofNat 3 (scopeLevel scope)
                             scopeKind := BitVec.ofNat 4 (scopeKindOf scope), causeAt := a.time }

/-- The reset joins those in progress, and takes over each that its scope holds. -/
def State.joinRuns (scope : ResetScope) (cause : U16) (s : State) : State :=
  let run : ResetRun := { scope := scope, level := scopeLevel scope, cause := cause, since := s.now, epoch := s.ep.epoch, count := s.ep.count
                          taken := false, ended := false, units := [] }
  let held (r : ResetRun) : Bool := r.active && s.scopeHolds scope r.scope
  let runs := (s.rst.runs.filter fun r => !(held r && r.level == 5)).map fun r => if held r then { r with taken := true } else r
  s.updRst fun t => { t with runs := runs ++ [run] }

/-- Counts of resets started, in RAS_RESETS (R434). -/
def State.countRas (scope : ResetScope) (s : State) : State :=
  match scope with
  | .unit _ => s.updRas fun r => { r with nEnr := satAdd r.nEnr 1 }
  | .part _ => s.updRas fun r => { r with nPtr := satAdd r.nPtr 1 }
  | _ => s

/-- A reset above CXR starts (R421, R423): dropped inside one in progress of equal or larger scope; else Glaze fires before it unless the host asked for
it, it takes over the resets its scope holds, and its scope is lost. A CHR starts the AON's watchdog (R420). In Off nothing is there for Glaze to copy. -/
def State.startReset (scope : ResetScope) (cause : U16) (hostAsked : Bool) (s : State) : State :=
  if s.underReset scope then s
  else
    let s := if s.dbg.resetEn && !hostAsked && s.pwr.pstate != .off then s.glaze 4 (cause.setWidth 32) else s
    let s := ((s.countReset scope cause).countRas scope).joinRuns scope cause
    let s := s.clearScope scope
    match scope with
    | .chip =>
      let now := s.now
      (s.updWires fun w => { w with linkUp := false, l23 := false }).updAon fun a => { a with wdogArmed := true, wdogBoot := false, wdogStart := now }
    | _ => s.judgeAll

/-- A CHR starts, by hardware. -/
def State.chr (cause : U16) (s : State) : State := s.startReset .chip cause false

/-! ### The AON asks for a power cycle (R393, R419, R424) -/

/-- PWR_CYCLE_REQ# is asserted with its SMBus cause, after a RESET record with LEVEL 4 and RESET_EPOCH 0 where the rings work. -/
def State.powerCycle (smbusCause : Nat) (code : U16) (s : State) : State :=
  let s :=
    if s.hif.ringEn then
      (s.record none 0x10 0 (le 1 4 ++ le 1 6 ++ le 2 0 ++ le 2 code.toNat ++ le 1 0 ++ le 1 0 ++ le 4 s.ep.count.toNat ++ le 8 s.now ++ zeros 28)).attention
        7 code 0 0
    else s
  s.updAon fun a =>
    { a with
      pwcReq := true, pwcCause := BitVec.ofNat 8 smbusCause, cause := code, scope := 0, level := 4, scopeKind := 6, causeAt := a.time
      wdogArmed := false }

/-! ### RESET records (R378, R423) -/

/-- The body of a RESET record. -/
def ResetRun.body (r : ResetRun) : List Byte :=
  le 1 r.level ++ le 1 (scopeKindOf r.scope) ++ le 2 (scopeIndex r.scope) ++ le 2 r.cause.toNat ++ le 1 r.epoch.toNat ++ zeros 1
    ++ le 4 r.count.toNat ++ le 8 r.since ++ zeros 28

/-- The records of the resets whose scope is back in service are posted in order of start, each with its attention (R423). -/
def State.postRuns : List ResetRun → State → State
  | [], s => s.updRst fun t => { t with runs := [] }
  | r :: rest, s =>
    if r.ended then State.postRuns rest ((s.record none 0x10 0 r.body).attention 7 r.cause 0 0)
    else s.updRst fun t => { t with runs := r :: rest }

/-- The same, where the device is in service. The run of a CXR, which posts no RESET record, holds none back. -/
def State.postResets (s : State) : State :=
  if s.serving then
    let cxrs := s.rst.runs.filter (·.level == 5)
    (s.postRuns (s.rst.runs.filter (·.level != 5))).updRst fun t => { t with runs := cxrs ++ t.runs }
  else s

/-- The reset of a scope ends, with those it took over. -/
def State.endRun (scope : ResetScope) (s : State) : State :=
  s.updRst fun t => { t with runs := t.runs.map fun r =>
    if (r.active && s.scopeHolds scope r.scope && s.scopeHolds r.scope scope) || (r.taken && s.scopeHolds scope r.scope) then { r with ended := true } else r }

end Sys2Proof.Machine
end

