-- ==== Sys2Proof/Machine/Errors.lean ====
section
/-! DEFINITION. Spares and fences (R29, R37, R405 to R408), counting of errors (R399 to R404), the context reset (R299), and what a reset's end restores. -/

namespace Sys2Proof.Machine

/-! ### Maps and service from the repair list (R29, R37, R410) -/

/-- The repair list in force fences the unit. -/
def State.listFenced (s : State) (u : U16) : Bool := s.ras.repair.any fun e => e.unit == u && e.ekind == 0

/-- A map of 16 logical units over `count` physical ones: each fenced one is replaced by a spare, lowest first, or left empty. -/
def buildMap (count : Nat) (fenced : Nat → Bool) : Tbl MapEntry :=
  ((List.range 16).foldl (fun (a : Tbl MapEntry × List Nat) n =>
    if fenced n then
      match a.2 with
      | p :: rest => (mapSet a.1 n { valid := true, phys := p }, rest)
      | [] => (mapSet a.1 n { valid := false, phys := n }, [])
    else a) ([], (range 16 (count - 16)).filter fun p => !fenced p)).1

/-- The physical units that a map serves with. -/
def mapped (t : Tbl MapEntry) : List Nat := ((List.range 16).filter fun n => (mapGet t n).valid).map fun n => (mapGet t n).phys

/-- A set of bits. -/
def bitsOf (w : Nat) (f : Nat → Bool) : BitVec w := BitVec.ofNat w ((List.range w).foldl (fun a i => a + bit (f i) * 2 ^ i) 0)

/-- The cores of a region that its slot map names are in service, the others are not; GANG_AVAIL follows the tile map. -/
def State.serveCores (r : Nat) (s : State) : State :=
  let m := mapped (s.region r).slotMap
  let s := (List.range 18).foldl (fun s i => s.updCore r i fun c => { c with inService := decide (i ∈ m) }) s
  let av := (s.modeFor r 2).getD 0
  s.updGau r fun g => { g with gangAvail := av }

/-- A region enters service on the maps of the repair list (R29). -/
def State.serveRegion (r : Nat) (s : State) : State :=
  let core (i : Nat) : Bool := s.listFenced (mkUnit 0 (r * 32 + i))
  let tile (i : Nat) : Bool := s.listFenced (mkUnit 1 (r * 32 + i))
  let s := s.updRegion r fun g => { g with slotMap := buildMap 18 core, slotNext := [], fenced := bitsOf 18 core }
  let s := s.updGau r fun g => { g with tileMap := buildMap 17 tile, fenced := bitsOf 17 tile, inService := true }
  let s := ((mapped (s.region r).slotMap).filter (16 ≤ ·)).foldl (fun s p => s.updUnit (r * 32 + p) fun u => { u with spareIn := true }) s
  let s := ((mapped (s.region r).gau.tileMap).filter (16 ≤ ·)).foldl (fun s p => s.updUnit (4096 + r * 32 + p) fun u => { u with spareIn := true }) s
  s.serveCores r

/-- The first `k` of `n` engines of a kind that the repair list leaves. -/
def State.engines (s : State) (kind n k : Nat) : List Nat := ((List.range n).filter fun e => !s.listFenced (mkUnit kind e)).take k

/-- The media engines enter service: 8 of 9 decode engines, 4 of 5 encode engines, and 4 crop-and-scale engines (R37). -/
def State.serveMedia (s : State) : State :=
  let dec := s.engines 2 9 8
  let enc := s.engines 3 5 4
  let cse := s.engines 4 4 4
  let fenced (k e : Nat) : Bool := s.listFenced (mkUnit k e)
  let spare (k e : Nat) (s : State) : State := s.updUnit (k * 4096 + e) fun u => { u with spareIn := true }
  let s := if 8 ∈ dec then spare 2 8 s else s
  let s := if 4 ∈ enc then spare 3 4 s else s
  let s := (List.range 9).foldl (fun s e => s.updDeng e fun g => { g with inService := decide (e ∈ dec), fenced := fenced 2 e }) s
  let s := (List.range 5).foldl (fun s e => s.updEeng e fun g => { g with inService := decide (e ∈ enc), fenced := fenced 3 e }) s
  (List.range 4).foldl (fun s e => s.updCseEng e fun g => { g with inService := decide (e ∈ cse), fenced := fenced 4 e }) s

/-! ### Homes and sessions move (R147, R405) -/

/-- The slots' ENGINE fields follow the homes of the admission. -/
def State.showHomes (s : State) : State :=
  s.updDec fun d => { d with slots := s.adm.homes.foldl (fun t h => tupd {} t h.1 fun x => { x with engine := h.2 }) d.slots }

/-- The home slots of engine `e` go to `spare`, or are spread over the engines in service, each to the one with the fewest. -/
def State.moveHomes (e : Nat) (spare : Option Nat) (s : State) : State :=
  let mine := (s.adm.homes.filter fun h => h.2 == e).map (·.1)
  let others := (List.range 9).filter fun k => (s.deng k).inService
  let homes := mine.foldl (fun (t : Tbl Nat) n =>
    match spare with
    | some p => tput n p t
    | none =>
      let load (k : Nat) : Nat := (t.filter fun h => h.2 == k).length
      match leastBy (fun a b => decide (load a < load b)) others with
      | some k => tput n k t
      | none => t) s.adm.homes
  (s.updAdm fun a => { a with homes := homes }).showHomes

/-- The load of a session in use (R127). -/
def State.loadOf (s : State) (n : Nat) : Nat := (s.sess n).load

/-- The engine that takes one more session of a load: the spare that takes a whole engine's place, or the engine in service with the least load that has room. -/
def State.pickEnc (s : State) (spare : Option Nat) (l : Nat) : Option Nat :=
  match spare with
  | some p => some p
  | none => leastBy (fun a b => decide ((s.eeng a).load < (s.eeng b).load)) ((List.range 5).filter fun k => (s.eeng k).inService && decide ((s.eeng k).load + l ≤ 540000000))

/-- A session goes to the engine that takes it, or ends with END_CAUSE 5. -/
def State.moveSession (spare : Option Nat) (n : Nat) (s : State) : State :=
  let l := s.loadOf n
  match s.pickEnc spare l with
  | some p => (s.updEeng p fun g => { g with load := g.load + l }).updSess n fun t => { t with engine := p, wantKey := true, wantGap := true }
  | none => s.endSession n 5

/-- A reserved session without a clip goes to the engine that takes it, or its place is lost. -/
def State.moveIdle (spare : Option Nat) (r : Cartridge) (i : Nat × Nat) (s : State) : State :=
  let l := match (clipProfiles r).find? fun c => c.profile.toNat == i.1 with
    | some c => sessionLoad c (clipWorst r).1 (clipWorst r).2.1 (clipWorst r).2.2
    | none => 0
  let s := s.updEnc fun e => { e with idle := e.idle.erase i }
  match s.pickEnc spare l with
  | some p => (s.updEeng p fun g => { g with load := g.load + l }).updEnc fun e => { e with idle := e.idle ++ [(i.1, p)] }
  | none => s

/-- The sessions of encode engine `e` go to `spare`, or to the engines left with the least load; reserved sessions are placed first, and one that fits
nowhere ends with END_CAUSE 5. The next picture of each is a key picture with GAP (R142, R147). -/
def State.moveSessions (e : Nat) (spare : Option Nat) (s : State) : State :=
  let mine := (s.enc.sess.filter fun x => x.2.state != 0 && x.2.engine == e).map (·.1)
  let idle := s.enc.idle.filter fun i => i.2 == e
  let s := s.updEeng e fun g => { g with load := 0 }
  let s := (mine.filter fun n => (s.sess n).reserved).foldl (fun s n => s.moveSession spare n) s
  let s := match s.crt.recipe with
    | some r => idle.foldl (fun s i => s.moveIdle spare r i) s
    | none => s
  (mine.filter fun n => !(s.sess n).reserved).foldl (fun s n => s.moveSession spare n) s

/-! ### Fencing (R405 to R407) -/

/-- The work on core `i` is aborted by a fence, and counted (R168, R170, R184). -/
def State.fenceAbort (r i : Nat) (s : State) : State :=
  let now := s.aclk r
  let stopped := s.aclkStopped r
  let s := s.updCore r i fun c => { c.fenceStop stopped now i with queue := [], todo := [] }
  s.updVec r i fun v => { v.fenceStop stopped now i with queue := [] }

/-- The on-chip state that a context needs goes into a core: the requantiser table, the feed programs and the parameter blocks (R252, R291). -/
def State.loadCore (r i c : Nat) (s : State) : State :=
  match s.plan (s.ctx c).plan with
  | some p =>
    (s.updCoreMem r i fun m => { m with sp := p.image.foldl (fun m e => m.writeN e.1 e.2) m.sp, rq := m.rq.writeN 0 p.rqTable }).updCore r i fun x =>
      { x with holding := none }
  | none => s

/-- The work of a core, from the pass or descriptor that it runs on. -/
def State.workOf (s : State) (r i : Nat) : List TileStep :=
  let x := s.core r i
  let v := s.vec r i
  (x.running.toList ++ x.queue).map TileStep.pass ++ (v.running.toList ++ v.queue).map TileStep.vec ++ x.todo

/-- A fused group goes on where core `i` stood, on the core `p` that takes its slot: the pass in progress starts again, from inputs that are unchanged, so that `p`
holds what `i` held (R30; log entry 109). -/
def State.moveFused (r i p : Nat) (s : State) : State :=
  let x := s.core r i
  let work := s.workOf r i
  (s.updRegMem r fun m => { m with cores := tset {} m.cores p (tget {} m.cores i) }).updCore r p fun y => { y with inBank := x.inBank, half := x.half, todo := work, loaded := false, shadowed := none }

/-- Core `p` takes logical slot `n` (R28): a map write that waited for the slot is void, and `p` gets the on-chip state of the running context (R252). -/
def State.mapCore (r n p : Nat) (s : State) : State :=
  let s := s.updRegion r fun g => { g with slotMap := mapSet g.slotMap n { valid := true, phys := p }, slotNext := tdel n g.slotNext }
  let s := match (s.region r).coresCtx with
    | some c => s.loadCore r p c
    | none => s
  s.serveCores r

/-- No core takes logical slot `n` any more. -/
def State.unmapCore (r n i : Nat) (s : State) : State :=
  (s.updRegion r fun g => { g with slotMap := mapSet g.slotMap n { valid := false, phys := i }, slotNext := tdel n g.slotNext }).serveCores r

/-- Core `i`, which runs a fused group, gives up its slot `n` to `p`, or to none: the pass in progress is aborted, and starts again on `p` (R30); without one the group
starts over. -/
def State.replaceCore (r n i : Nat) (p : Option Nat) (s : State) : State :=
  match p with
  | some p => ((s.moveFused r i p).fenceAbort r i).mapCore r n p
  | none => ((s.restartGroup r i).fenceAbort r i).unmapCore r n i

/-- The spare that takes logical slot `n`: a core that is neither fenced nor mapped, nor named by a map write that waits, the lower of two free ones (DESIGN
CHOICE: R33 names no order; log entry 108). -/
def State.spareCore (s : State) (r n : Nat) : Option Nat :=
  let used := mapped (s.region r).slotMap ++ ((s.region r).slotNext.filter fun e => !(e.1 == n)).map fun e => e.2.phys
  (List.range 18).find? fun p => !(s.region r).fenced.getLsbD p && !decide (p ∈ used)

/-- A core is marked as fenced. A map write that waits and names it is void: a fenced core is never mapped (R28). -/
def State.markFenced (r i : Nat) (s : State) : State :=
  s.updRegion r fun g => { g with fenced := g.fenced ||| BitVec.ofNat 18 (2 ^ i), slotNext := g.slotNext.filter fun e => !(e.2.valid && e.2.phys == i) }

/-- A core is fenced, and a spare core of its region takes its logical slot (R28, R30): tiles are issued again, a fused group goes on with the spare, and starts
over where there is none. True when a spare took the slot, or when none was needed. -/
def State.fenceCore (r i : Nat) (s : State) : State × Bool :=
  let n := (s.region r).slotOfCore i
  let spare := n.bind (s.spareCore r)
  let s := match spare with
    | some p => if (s.core r i).fusedLayer.isSome then s.moveFused r i p else s
    | none => s.restartGroup r i
  let s := (((s.dropCoreTile r i).fenceAbort r i).dropHeadWait (mkUnit 0 (r * 32 + i))).markFenced r i
  match n, spare with
  | none, _ => (s.serveCores r, true)
  | some n, some p => ((s.mapCore r n p).updUnit (r * 32 + p) fun u => { u with spareIn := true }, true)
  | some n, none => (s.unmapCore r n i, false)

/-- A Millefeuille pass in progress aborts and goes back to the head of its queue (R178, R182); `cause` names the byte of GAU_ABORTS. -/
def Gau.restart (g : Gau) (now : Nat) (cause : Gau → Gau) : Gau :=
  match g.running with
  | some x => cause { g with running := none, queue := x :: g.queue, clock := g.clock.abort now }
  | none => g

/-- The queue takes what it has room for: it is 4 deep with the pass that runs (R179). -/
def Gau.fill (g : Gau) : Gau :=
  let k := 3 - g.queue.length
  { g with queue := g.queue ++ g.todo.take k, todo := g.todo.drop k }

/-- The cycles of a pass in the ganging mode that runs; the first pass of an invocation exposes the load of C_IN (R180). A descriptor that a smaller mode splits into rounds
counts as one pass, with the cycles of one round (R187; DESIGN CHOICE, log entry 132). -/
def gauCycles (g : Gau) (d : GauDesc) : Nat := d.cyclesIn g.gang + (if g.first && d.accIn then 256 else 0)

/-- The first pass of a free Millefeuille starts, after the cycles of a mode change (R177). -/
def Gau.start (now : Nat) (g : Gau) : Gau :=
  match g.running, g.fill.queue with
  | none, x :: rest =>
    Gau.fill { g.fill with running := some x, queue := rest, clock := g.clock.start now g.changing (gauCycles g x.desc), changing := 0 }
  | _, _ => g.fill

/-- Nothing more of the running context starts on the engine set: a freeze, a stopped clock, or a context that is due to pre-empt (R290, R390). -/
def State.held (s : State) (r : Nat) (gau : Bool) : Bool := s.isFrozen || s.aclkStopped r || (s.preemptor r gau).isSome

/-- A free Millefeuille starts the descriptor at the head of its queue, unless it is under a reset. -/
def State.startGau (r : Nat) (s : State) : State :=
  if s.held r true || s.gauHeadWaits r || s.underReset (.unit (mkUnit 1 (r * 32))) then s
  else
    let now := s.aclk r
    s.updGau r (Gau.start now)

/-- The Millefeuille takes a mode, over 64 cycles where it is another (R177). -/
def State.takeMode (r m : Nat) (s : State) : State :=
  s.updGau r fun g => if g.gang = m then g else { g with gang := m, modeChanges := g.modeChanges + 1, changing := 64 }

/-- The mode that an invocation of context `c` takes: that of its plan, or the largest one that the tiles in service form (R177, R181). -/
def State.modeOf (s : State) (r c : Nat) : Option Nat :=
  match s.plan (s.ctx c).plan with
  | some p => some ((s.modeFor r p.gang.toNat).getD 0)
  | none => none

/-- The tile map has changed: GANG_AVAIL follows, the mode of the invocation that runs is one that the tiles form (R181), and the pass in progress, where the change
takes its tile, is aborted and starts again on the new map (R178); while ACLK is stopped it stands until the restart (R170). -/
def State.tilesChanged (r t : Nat) (lost : Bool) (s : State) : State :=
  let now := s.aclk r
  let stopped := s.aclkStopped r
  let s := if lost then
      s.updGau r fun g =>
        if g.running.isNone then g
        else if stopped then { g with clock := g.clock.askFence (.gau (Fin.ofNat 17 t)) }
        else g.restart now fun g => { g with abFence := satAdd g.abFence 1 }
    else s
  let s := s.serveCores r
  let s := match (s.region r).gauCtx.bind (s.modeOf r) with
    | some m => s.takeMode r m
    | none => s
  s.startGau r

/-- A tile is fenced, and the spare tile takes its logical position (R178, R182, R405). -/
def State.fenceTile (r i : Nat) (s : State) : State × Bool :=
  let g := (s.region r).gau
  let n := (List.range 16).find? fun n => let e := mapGet g.tileMap n; e.valid && e.phys == i
  let s := s.updGau r fun g => { g with fenced := g.fenced ||| BitVec.ofNat 17 (2 ^ i) }
  match n with
  | none => (s, true)
  | some n =>
    let used := mapped g.tileMap
    let (s, ok) : State × Bool := match (List.range 17).find? fun p => !(s.region r).gau.fenced.getLsbD p && !decide (p ∈ used) with
      | some p =>
        let s := s.updGau r fun g => { g with tileMap := mapSet g.tileMap n { valid := true, phys := p } }
        (s.updUnit (4096 + r * 32 + p) fun u => { u with spareIn := true }, true)
      | none => (s.updGau r fun g => { g with tileMap := mapSet g.tileMap n { valid := false, phys := i } }, false)
    (s.tilesChanged r i true, ok)

/-- The spare engine of a kind: one that is neither fenced nor in service. -/
def State.spareDec (s : State) : Option Nat := (List.range 9).find? fun e => !(s.deng e).fenced && !(s.deng e).inService
def State.spareEnc (s : State) : Option Nat := (List.range 5).find? fun e => !(s.eeng e).fenced && !(s.eeng e).inService

/-- A decode engine is fenced. -/
def State.fenceDec (e : Nat) (s : State) : State × Bool :=
  let was := (s.deng e).inService
  let s := (s.discardEngine e).updDeng e fun g => { g with fenced := true, inService := false }
  if !was then (s, true)
  else match s.spareDec with
    | some p =>
      let s := s.updDeng p fun g => { g with inService := true }
      ((s.updUnit (0x2000 + p) fun u => { u with spareIn := true }).moveHomes e (some p), true)
    | none => (s.moveHomes e none, false)

/-- An encode engine is fenced. -/
def State.fenceEnc (e : Nat) (s : State) : State × Bool :=
  let was := (s.eeng e).inService
  let s := (s.discardEncode e).updEeng e fun g => { g with fenced := true, inService := false }
  if !was then (s, true)
  else match s.spareEnc with
    | some p =>
      let s := s.updEeng p fun g => { g with inService := true }
      ((s.updUnit (0x3000 + p) fun u => { u with spareIn := true }).moveSessions e (some p), true)
    | none => (s.moveSessions e none, false)

/-- A crop-and-scale engine is fenced: its jobs go to the engines left, each to the one with the fewest. -/
def State.fenceCse (e : Nat) (s : State) : State × Bool :=
  let g := s.cseEng e
  let s := s.updCseEng e fun g => { g with fenced := true, inService := false, running := none, queue := [] }
  (s.resubmit g.all, !g.inService)

/-- A channel whose fault has become lasting stays in service until the next CHR (R328). -/
def State.lastChannel (k : Nat) (cls : Byte) (s : State) : State :=
  let s := s.updChan k fun c => { c with lasting := true }
  (s.addRepair (mkUnit 5 k) 4 cls 0).attention 1 0x050E 3 (mkUnit 5 k).toNat

/-- A lasting fault in service is counted (R434). -/
def State.countLasting (s : State) : State := s.updRas fun r => if r.inService then { r with lasting := satAdd r.lasting 1 } else r

/-- A lasting fault of class `cls` fences the unit (R405, R407, R408): its spare takes its place, or the device re-admits without it (R38). -/
def State.fence (u : U16) (cls : Nat) (s : State) : State :=
  if (s.unitRas u.toNat).fenced then s
  else if s.underReset (.unit u) then s.updRas fun r => { r with fenceWait := r.fenceWait ++ [(u, cls, classCode cls)] }
  else
    let i := unitIdx u
    let r := i / 32
    let s := if unitKind u = 0 then s.countAsked r ((s.core r (i % 32)).clock.asked ++ (s.vec r (i % 32)).clock.asked) else s
    let s := s.updUnit u.toNat fun x => { x with fenced := true, cls := BitVec.ofNat 3 cls }
    let s := s.countLasting
    match unitKind u with
    | 5 => s.lastChannel i (BitVec.ofNat 8 cls)
    | 0 | 1 | 2 | 3 | 4 =>
      let (s, spare) : State × Bool := match unitKind u with
        | 0 => s.fenceCore (i / 32) (i % 32)
        | 1 => s.fenceTile (i / 32) (i % 32)
        | 2 => s.fenceDec i
        | 3 => s.fenceEnc i
        | _ => s.fenceCse i
      let s := s.addRepair u 0 (BitVec.ofNat 8 cls) 0
      if spare then (s.attention 0 (classCode cls) 3 u.toNat).judgeAll
      else ((s.attention 1 (classCode cls) 3 u.toNat).readmitFor 0x050C 3 u.toNat).judgeAll
    | _ => s

/-! ### Counting (R399 to R402) -/

/-- A counted event and its consequence: a lasting one fences the unit; a transient one takes the unit's ENR where the first-level table says so (R402,
R418). A fenced unit counts nothing more and is not reset. -/
def State.unitEvent (u : U16) (k : Nat) (reset : Bool) (code : U16) (s : State) : State :=
  if (s.unitRas u.toNat).fenced then s
  else
    let (s, lasting) := s.countError u k
    if lasting then s.fence u k
    else if reset then s.startReset (.unit u) code false else s

/-! ### Context reset (R299, R300) -/

/-- The units that a context occupies: the cores that run its work, and the Millefeuille (R299). -/
def State.occupied (s : State) (c : Nat) : List U16 :=
  let x := s.ctx c
  let r := x.region
  ((List.range 18).filter fun i =>
      (match (s.core r i).running with | some p => p.ctx == c | none => false) || (match (s.vec r i).running with | some v => v.ctx == c | none => false)).map
    (fun i => mkUnit 0 (r * 32 + i))
  ++ (match (s.region r).gau.running with | some g => if g.ctx == c then [mkUnit 1 (r * 32)] else [] | none => [])

/-- Aborts of the context's work are counted as context faults. -/
def State.countCtxAborts (c : Nat) (s : State) : State :=
  let r := (s.ctx c).region
  let s := (List.range 18).foldl (fun s i =>
    let s := s.updCore r i fun x => match x.running with
      | some p => if p.ctx == c then { x with abCtx := satAdd x.abCtx 1 } else x
      | none => x
    s.updVec r i fun v => match v.running with
      | some p => if p.ctx == c then { v with aborts := bumpByte v.aborts 8 } else v
      | none => v) s
  s.updGau r fun g => match g.running with
    | some p => if p.ctx == c then { g with abCtx := satAdd g.abCtx 1 } else g
    | none => g

/-- The queue heads of a context's work on the cores leave their waits. -/
def State.dropCtxHeads (c : Nat) (s : State) : State :=
  let r := (s.ctx c).region
  (List.range 18).foldl (fun s i =>
    match (s.vec r i).queue with
    | v :: _ => if v.ctx = c then (s.updVec r i fun x => { x with wait := false }).dropHeadWait (mkUnit 0 (r * 32 + i)) else s
    | [] => if (s.core r i).queue.any fun p => p.ctx = c then s.dropHeadWait (mkUnit 0 (r * 32 + i)) else s) s

/-- CXR (R299): the context's passes abort, its counters take their defaults, its wait goes, its buffers and shares are returned, its invocation ends as
failed, and it stays resident and takes its next queued release. It posts a FAULT record and no RESET record. -/
def State.cxrNow (c : Nat) (cause : Nat) (code : U16) (layer : Nat) (tile : Nat) (s : State) : State :=
  if c < s.dis.nCtx && !s.underReset (.ctx (Fin.ofNat 4096 c)) then
    let x := s.ctx c
    let r := x.region
    let units := s.occupied c
    let run : ResetRun := { scope := .ctx (Fin.ofNat 4096 c), level := 5, cause := code, since := s.now, epoch := s.ep.epoch, count := s.ep.count
                            taken := false, ended := false, units := units }
    let s := s.updRst fun t => { t with runs := t.runs ++ [run] }
    let s := ((s.countCtxAborts c).dropCtxHeads c)
    let s := (s.clearCores r c).clearGau r c
    let s := match x.rslot with
      | some k => s.updRegion r fun g => { g with wcs := (slotWcs k).foldl (fun t n => tdel n t) g.wcs }
      | none => s
    let s := s.updRegion r fun g =>
      { g with coresCtx := if g.coresCtx = some c then none else g.coresCtx, gauCtx := if g.gauCtx = some c then none else g.gauCtx
               swapCores := if g.swapCores = some c then none else g.swapCores, swapGau := if g.swapGau = some c then none else g.swapGau }
    let s := s.updDis fun d => { d with saved := tdel c d.saved, cxrs := d.cxrs + 1, lastCause := BitVec.ofNat 4 cause, lastCtx := BitVec.ofNat 12 c }
    -- a fault of the incoming context ends its swap and fails the invocation that it was to start (R291, R300)
    let s := if x.state = 2 then s.beginInv c else s
    let s := ((s.unwait c).dropAll (reqCtx c)).failInv c
    let s := s.updCtx c fun x => { x.rest with misses := 0, overrun := 0, overBudget := false }
    let s := s.noteCode code
    let s := s.record none 0x11 0 (le 2 c ++ le 1 cause ++ zeros 1 ++ le 2 code.toNat ++ le 2 layer ++ le 4 tile ++ le 2 x.plan ++ zeros 2
      ++ le 8 s.now ++ zeros 24)
    s.judgeAll
  else s

/-- A CXR, which waits for ACLK where a pass of the context runs on a region whose clock is stopped: an abort needs the clock (R170). -/
def State.cxr (c : Nat) (cause : Nat) (code : U16) (layer : Nat) (tile : Nat) (s : State) : State :=
  let r := (s.ctx c).region
  if s.aclkStopped r && !(s.occupied c).isEmpty then s.updRegion r fun g => { g with cxrWait := g.cxrWait ++ [(c, cause, code, layer, tile)] }
  else s.cxrNow c cause code layer tile

/-- A pool failure of a context takes a CXR; one of an engine or of the TKE raises attention of class fault (R350). -/
def State.poolFault (req : U16) (h : U32) (code : U16) (s : State) : State :=
  let s := s.poolError req h code
  match ctxOfReq req with
  | some c => s.cxr c 3 code 0 0
  | none => s.attention 0 code 4 (hPool h)

/-! ### SRAM rows (R403, R404) -/

/-- The structure of a DETAIL (R409). -/
def rowStruct (d : U32) : Nat := d.toNat / 2 ^ 28
/-- Its bank. -/
def rowBank (d : U32) : Nat := bits d.toNat 27 20

/-- The rows of a bank that are faults: each takes one of its 4 spares. -/
def State.bankFaults (s : State) (u : U16) (d : U32) : Nat :=
  (s.ras.rows.filter fun r => r.unit == u && r.bad && rowStruct r.detail == rowStruct d && rowBank r.detail == rowBank d).length

/-- The row that serves an address of a bank: one that a spare row has replaced serves no more. -/
def RowRas.serves (r : RowRas) (u : U16) (d : U32) : Bool := r.unit == u && r.detail == d && !(r.bad && r.spared)

/-- An error of an SRAM row joins the row's log; true when the row becomes a row fault now (R403). -/
def State.rowError (u : U16) (d : U32) (unc : Bool) (s : State) : State × Bool :=
  let now := s.now
  match s.ras.rows.find? fun r => r.serves u d with
  | some r =>
    if r.bad then (s, false)
    else
      let bad := unc || decide (now - r.times.headD 0 ≤ 86400 * 1000000000)
      (s.updRas fun x => { x with rows := x.rows.map fun q => if q.serves u d then { q with times := [now], bad := bad } else q }, bad)
  | none => (s.updRas fun x => { x with rows := x.rows ++ [{ unit := u, detail := d, times := [now], bad := unc, spared := false }] }, unc)

/-- The row is known to be a row fault, so that its correctable errors are not counted. -/
def State.rowBad (s : State) (u : U16) (d : U32) : Bool := s.ras.rows.any fun r => r.serves u d && r.bad

/-- A new row fault: it joins the repair list; with no spare row left in its bank the owner's fault becomes lasting, or the device raises attention of
class degraded (R404). -/
def State.rowFault (u : U16) (d : U32) (cls : Nat) (s : State) : State :=
  let full := decide (4 < s.bankFaults u d)
  let s := s.addRepair u 1 (BitVec.ofNat 8 cls) d
  if full then
    if unitKind u ≤ 5 then s.fence u cls else s.attention 1 rasSramExhausted 3 u.toNat
  else s

/-- Two rows lie in one bank of one structure. -/
def RowRas.sameBank (a b : RowRas) : Bool := a.unit == b.unit && rowStruct a.detail == rowStruct b.detail && rowBank a.detail == rowBank b.detail

/-- A spare row of the bank is left for row `q`: a bank has 4 (R403). -/
def spareLeft (rows : List RowRas) (q : RowRas) : Bool := decide ((rows.filter fun r => r.spared && r.sameBank q).length < 4)

/-- The row faults of an owner take the spare rows that their banks have left, at its reset (R403). -/
def State.spareRows (owner : U16 → Bool) (s : State) : State :=
  s.updRas fun r =>
    { r with rows := (List.range r.rows.length).foldl (fun rows i =>
        match rows[i]? with
        | some q => if q.bad && !q.spared && owner q.unit && spareLeft rows q then rows.set i { q with spared := true } else rows
        | none => rows) r.rows }

/-! ### DRAM requests (R328, R332, R335, R337, R338) -/

/-- A row of a channel has a stand-in; a seventeenth makes the channel's fault lasting (R337). -/
def State.standIn (k bank row cls : Nat) (s : State) : State :=
  if (s.chan k).standins.contains (bank, row) then s
  else if 16 ≤ (s.chan k).standins.length then s.fence (mkUnit 5 k) cls
  else s.updChan k fun c => { c with standins := c.standins ++ [(bank, row)] }

/-- DETAIL of a DRAM row (R409). -/
def rowDetail (bank row : Nat) : U32 := BitVec.ofNat 32 (bank * 2 ^ 17 + row)

/-- A row of a channel is a lasting row fault: a stand-in row takes over, what it could not correct keeps the poison mark, and the row joins the repair list. -/
def State.dramRowFault (k bank row cls : Nat) (s : State) : State :=
  (s.standIn k bank row cls).addRepair (mkUnit 5 k) 2 (BitVec.ofNat 8 cls) (rowDetail bank row)

/-- A correctable error of a row at time `now`, in a log of 32 rows, the oldest of which makes room (log entry 49); true at the second one within 24 h. -/
def Chan.logRow (bank row now : Nat) (c : Chan) : Chan × Bool :=
  match c.log.find? fun r => r.bank == bank && r.row == row with
  | some r =>
    let again := match r.times with | t :: _ => decide (now - t ≤ 86400 * 1000000000) | [] => false
    (({ c with log := (c.log.filter fun x => !(x.bank == bank && x.row == row)) ++ [{ bank := bank, row := row, times := [now] }] } : Chan), again)
  | none => (({ c with log := (c.log ++ [({ bank := bank, row := row, times := [now] } : RowLog)]).drop (c.log.length - 31) } : Chan), false)

/-- A half of a block is read and checked: `h` is the half's number, `e` what its code shows. A stored poison mark hides the code. The state, and whether the half is
bad. A row served by a stand-in is not logged again. -/
def State.checkHalf (p : Place) (h : Nat) (e : HalfErr) (s : State) : State × Bool :=
  if h ∈ s.dram.poison then
    (s.updChan p.chan (fun c => ({ c with poisonReads := satAdd c.poisonReads 1 } : Chan).note 3 p.bank p.row), true)
  else
    match e with
    | .clean => (s, false)
    | .single =>
      let now := s.now
      let (c, again) := (s.chan p.chan).logRow p.bank p.row now
      let s := s.updChan p.chan fun _ => ({ c with corrected := satAdd c.corrected 1 } : Chan).note 1 p.bank p.row
      (if again then s.dramRowFault p.chan p.bank p.row 0 else s, false)
    | .double =>
      let s := s.updChan p.chan fun c => ({ c with uncorrected := satAdd c.uncorrected 1 } : Chan).note 2 p.bank p.row
      let s := s.updDram fun d => { d with poison := insertN h d.poison }
      ((s.dramRowFault p.chan p.bank p.row 1).freeze, true)

/-- Both halves of the block at `a` are checked; whether the lower and the upper half is bad. -/
def State.checkBlock (a : Nat) (lo hi : HalfErr) (s : State) : State × Bool × Bool :=
  let p := s.placeOf a
  let h := a / 64 * 2
  let (s, x) := s.checkHalf p h lo
  let (s, y) := s.checkHalf p (h + 1) hi
  (s, x, y)

/-- The channel of an address serves requests. -/
def State.dramServes (s : State) (a : Nat) : Bool :=
  let c := s.chan (s.placeOf a).chan
  c.inService && !c.selfRefresh && !s.aon.tripped

/-- A read that the channel serves: the data, with the poison mark where a half that was read is bad. -/
def State.readReq (a size : Nat) (lo hi : HalfErr) (s : State) : State :=
  let (s, x, y) := s.checkBlock a lo hi
  let bad := (x && decide (a % 64 < 32)) || (y && decide (32 < a % 64 + size))
  s.send (.dramData (s.dramBytes a size) bad)

/-- A write that the channel serves: a partial block is read first, and an uncorrectable error there poisons the whole merged block (R332). -/
def State.writeReq (a : Nat) (data : List Byte) (poisoned : Bool) (lo hi : HalfErr) (s : State) : State :=
  if data.length = 64 then s.dramPut a data poisoned
  else
    let old := s.dram.poison
    let h := a / 64 * 2
    let (s, x, y) := s.checkBlock a lo hi
    let fresh := (x && !decide (h ∈ old)) || (y && !decide (h + 1 ∈ old))
    let s := s.dramPut a data poisoned
    if fresh then s.updDram fun d => { d with poison := insertN (h + 1) (insertN h d.poison) } else s

/-- A request is performed. -/
def State.serveReq (q : DramReq) (s : State) : State :=
  match q with
  | .read a n lo hi => s.readReq a n lo hi
  | .write a d p lo hi => s.writeReq a d p lo hi

/-- A request reaches its channel: under an ENR of the channel it is held, and released in order when that ends (R338). -/
def State.request (a : Nat) (q : DramReq) (s : State) : State :=
  let k := (s.placeOf a).chan
  if (s.chan k).inService && s.underReset (.unit (mkUnit 5 k)) then s.updChan k fun c => { c with held := c.held ++ [q] }
  else if s.dramServes a then s.serveReq q
  else s

/-- The end of a channel's ENR: it leaves self-refresh and serves the requests that it held (R338). -/
def State.releaseChan (k : Nat) (s : State) : State :=
  let held := (s.chan k).held
  held.foldl (fun s q => s.serveReq q) (s.updChan k fun c => { c with selfRefresh := c.retired, held := [] })

/-! ### Re-opening a slot (R87) -/

/-- A slot opens (R87): its positions, DPB and picture count restart, its bucket is full, and it waits for a key picture. The ring's contents are undefined
until the host writes them. -/
def State.openSlot (n : Nat) (hostRing mirror : U64) (s : State) : State :=
  let now := s.now
  let bytes := match s.entry n with | some e => e.ringBytes.toNat | none => 0
  let s := (s.emptyDpb n).dropHeld n
  let s := s.updSlot n fun t =>
    { t with
      state := 1, hostRing := hostRing, mirror := mirror, put := 0, get := 0, fetch := 0, asked := 0, judged := 0, marks := [], lost := []
      dropped := 0, concealed := 0, bucket := 200000000000, clock := none, lastSeq := none, gap := false, aus := [] }
  let s := s.updSdec n fun _ => { keySince := some now, noKeyDue := now + 10000000000, openArgs := some (hostRing, mirror) }
  let base := tget 0 s.adm.rings n
  if bytes = 0 then s else s.dramForget base (base + bytes)

/-- The registers of every slot of the table that admission fixes: ring, kind and home. -/
def State.placeSlots (s : State) : State :=
  match s.crt.recipe with
  | none => s
  | some r =>
    s.updDec fun d => { d with slots := r.slots.foldl (fun t e => tupd {} t e.slot.toNat fun x =>
      { x with ringAddr := BitVec.ofNat 32 (tget 0 s.adm.rings e.slot.toNat / 65536), pull := e.ingest.toNat == 1
               engine := tget 0 s.adm.homes e.slot.toNat }) d.slots }

/-! ### The end of a reset (R29, R89, R353, R420, R423, R426) -/

/-- The boot ROM starts: BOOT_STAGE 1, and the watchdog times the boot (R72, R420). -/
def State.startBoot (s : State) : State :=
  let now := s.now
  let s := s.updCrt fun c => { c with stage := 1, present := c.cart.isSome }
  let s := s.updWires fun w => { w with cartVcc := s.crt.present }
  let s := if s.crt.present then s.send .cartReset else s
  s.updAon fun a => { a with wdogArmed := true, wdogBoot := true, wdogStart := now }

/-- The encode loads of the reserved sessions, after partition 8 returns. -/
def State.reloadEnc (s : State) : State :=
  match s.crt.recipe with
  | none => s
  | some r =>
    let t := placeSessions s.encActive (reservedLoads r) []
    let places := reservedPlaces s.encActive r
    s.updEnc fun e => { e with idle := places, engs := (List.range 5).foldl (fun x k => tupd {} x k fun g => { g with load := tget 0 t k }) e.engs }

/-- Partition 8 returns to service: a slot in DRAIN closes, and every other open slot opens again with its STREAM_OPEN arguments (R89, R426). -/
def State.restoreMedia (s : State) : State :=
  let s := s.serveMedia.placeSlots.reloadEnc
  (List.range 512).foldl (fun s n =>
    let d := s.sdec n
    if d.draining then s.finishClose n
    else match d.openArgs with
      | some a => s.openSlot n a.1 a.2
      | none => s) s

/-- Partition 9 returns to service with its pools empty (R353). -/
def State.restoreHost (s : State) : State :=
  let s := s.emptyPools.updBpm fun b => { b with inService := true }
  s.updTke fun k => { k with inService := true }

/-- The Millefeuille takes the mode of the invocation that follows (R177, R181). The first pass after an ENR, and after a pre-empted invocation returns, loads its C_IN as
exposed as the first of an invocation does (R180; DESIGN CHOICE, log entry 132). -/
def State.setMode (r c : Nat) (s : State) : State :=
  match s.modeOf r c with
  | none => s
  | some m => (s.takeMode r m).updGau r fun g => { g with first := true }

/-- What the end of a reset restores before its scope takes work: a core gets the on-chip state of the running context (R168), a Millefeuille the mode of its
invocation (R182). -/
def State.restoreScope (scope : ResetScope) (s : State) : State :=
  match scope with
  | .ctx _ => s
  | .unit u =>
    let r := unitIdx u / 32
    let s := s.spareRows fun v => unitKey v == unitKey u
    if unitKind u = 0 then match (s.region r).coresCtx with | some c => s.loadCore r (unitIdx u % 32) c | none => s
    else if unitKind u = 1 then match (s.region r).gauCtx with | some c => s.setMode r c | none => s
    else if unitKind u = 5 then s.releaseChan (unitIdx u)
    else s
  | .part p =>
    if p.val < 8 then
      let s := (s.spareRows fun v => v == mkUnit 8 p.val || unitPart v == some p.val).serveRegion p.val
      let busy := !(s.ctxsIn p.val).isEmpty
      let f := s.adm.fAdm
      let s := s.updRegPwr p.val fun g => { g with freq := f, volt := stepVolt f, nap := !busy, target := none, goal := none }
      let s := s.updClk fun t => tupd {} t p.val fun l => { l with locked := true, freq := 10 * f }
      ((s.ctxsIn p.val).foldl (fun s c => s.updCtx c Ctx.rest) s).freqSettled.letDomains p.val
    else if p.val = 8 then (s.spareRows fun v => unitPart v == some 8).restoreMedia.letDomains 8 else s.restoreHost.letDomains 9
  | .chip => s.startBoot

/-- The fences that waited for the end of a reset (R408). -/
def State.lateFences (s : State) : State :=
  let w := s.ras.fenceWait
  let s := s.updRas fun r => { r with fenceWait := [] }
  w.foldl (fun s f => s.fence f.1 f.2.1) s

end Sys2Proof.Machine
end

