-- ==== Sys2Proof/Machine/TileOps.lean ====
section
/-! DEFINITION. Tiles and layers as operations on the state: staging, descriptor lists with their skips, the queues of a core and of a Millefeuille, fused
groups, write-back, and the completion of layers and invocations (R162, R229, R254 to R277, R286 to R291). -/

namespace Sys2Proof.Machine

/-! ### Layers of a running context -/

/-- A buffer of a context's plan. -/
def State.bufferOf (s : State) (c : Nat) (b : U16) : Option BufferEntry := (s.plan (s.ctx c).plan).bind fun p => p.buffers[b.toNat]?

/-- Where a context's reservation starts in its region's buffer: the reservations lie in ascending context number, each aligned to 256 B (R285). -/
def State.rbBase (s : State) (c : Nat) : Nat :=
  let r := (s.ctx c).region
  ((s.ctxNums.filter fun d => decide (d < c) && (s.ctx d).region == r)).foldl (fun a d =>
    match s.plan (s.ctx d).plan with
    | some p => a + alignUp p.rbBytes.toNat 256
    | none => a) 0

/-- The input rows that the stripe's taps reach: lowest and highest, none when no tap row is in range (R271). -/
def windowRows (l : LayerEntry) (inH row0 rows : Nat) : Option (Nat × Nat) :=
  let ys := (List.range rows).flatMap fun y => (List.range l.kh.toNat).filterMap fun i =>
    let p := tapPos (row0 + y) l.sh.toNat l.padT.toNat i l.dh.toNat
    if inside p inH then some p.toNat else none
  match ys with
  | [] => none
  | y :: r => some (r.foldl min y, r.foldl max y)

/-- Where a tile of a layer stands: its first row, its lowest staged row, and the staging half in use. -/
def State.tilePos (s : State) (c : Nat) (l : LayerEntry) (tile : Nat) (half : Bool) : TilePos :=
  let st := tile / max 1 l.b.toNat
  let inH := match s.bufferOf c l.inBuf with | some b => b.h.toNat | none => 0
  let outH := match s.bufferOf c l.outBuf with | some b => b.h.toNat | none => 0
  let r0 := match windowRows l inH (st * l.rows.toNat) (stripeRows l outH st) with | some w => w.1 | none => 0
  let off := match s.bufferOf c l.stage with | some b => if half then b.bytes.toNat / 2 else 0 | none => 0
  let chans := match s.bufferOf c l.inBuf with | some b => b.c.toNat | none => 0
  { row0 := st * l.rows.toNat, r0 := r0, half := off, chans := chans }

/-- The staging of a tile's input window from the region buffer (R264, R271), or from the core's scratchpad in a fused group (R275). -/
def State.stageTile (r i c layer tile : Nat) (s : State) : State :=
  match (s.layersOf c)[layer]? with
  | none => s
  | some l =>
    match s.bufferOf c l.inBuf, s.bufferOf c l.stage, s.bufferOf c l.outBuf with
    | some ib, some sb, some ob =>
      let half := !(s.core r i).half
      let st := tile / max 1 l.b.toNat
      let s := s.updCore r i fun x => { x with half := half }
      match windowRows l ib.h.toNat (st * l.rows.toNat) (stripeRows l ob.h.toNat st) with
      | none => s
      | some (y0, y1) =>
        let (base, src) := if ib.space = 0 then (ib.offset.toNat, (s.coreMem r i).sp) else (s.rbBase c + ib.offset.toNat, (s.regMem r).rb)
        let dst := sb.offset.toNat + (if half then sb.bytes.toNat / 2 else 0)
        let (blocks, row) := rowShape ib
        s.updCoreMem r i fun m =>
          { m with sp := (List.range blocks).foldl (fun sp cb => (range y0 (y1 + 1 - y0)).foldl (fun sp y =>
              sp.writeN (dst + (y - y0) * sb.rowPitch.toNat + cb * sb.cbPitch.toNat)
                (src.readN (base + cb * ib.cbPitch.toNat + y * ib.rowPitch.toNat) row)) sp) m.sp }
    | _, _, _ => s

/-! ### What a pass reads and writes (R158, R229) -/

/-- The bytes of a buffer in its space. -/
def bufRange (b : BufferEntry) : Range := (b.offset.toNat, b.bytes.toNat)

/-- The set that a pass names. -/
def rqOf (p : Plan) (d : PassDesc) : List Byte := (p.rqTable.drop (16 * d.rq.toNat)).take 16

/-- The bytes that a LAST pass writes, and those that a pass reads: its staging buffer, feed program, weight block and scale slice. -/
def passWrites (p : Plan) (d : PassDesc) : List Range :=
  if d.last then [(d.out.toNat, d.n.toNat * outStep (RqSet.parse (rqOf p d)).outFmt)] else []
def passReads (p : Plan) (l : LayerEntry) (d : PassDesc) : List Range :=
  let stage := match p.buffers[l.stage.toNat]? with | some b => [bufRange b] | none => []
  let slice := if d.last then
      [(d.scale.toNat, 0x300 + (if (RqSet.parse (rqOf p d)).asMode = 1 then 2 * cdiv d.n.toNat 16 else 0))]
    else []
  stage ++ (d.feed.toNat, 64) :: (d.wblock.toNat, 2048 * d.wbits.toNat) :: slice

/-- TILE is patched into a descriptor. -/
def patchTile (t : Nat) : Desc → Desc
  | .pass p b => .pass { p with tile := BitVec.ofNat 32 t } b
  | .gau g => .gau { g with tile := BitVec.ofNat 32 t }
  | .vec v => .vec { v with tile := BitVec.ofNat 32 t }

/-- The descriptor list of a layer. -/
def State.listOf (s : State) (c layer : Nat) : List Desc := match s.plan (s.ctx c).plan with | some p => p.descs.getD layer [] | none => []

/-- Weight blocks that one grid channel block of a layer uses: the blocks of the next one follow them in the block table (log entry 28). -/
def blockSpan (ds : List Desc) : Nat :=
  let bs := ds.filterMap fun d => match d with | .pass _ b => some b | _ => none
  match bs with
  | [] => 0
  | b :: r => r.foldl max b + 1 - r.foldl min b

/-- The weight blocks and scale slices of a tile's grid channel block, as scratchpad addresses with their bytes (R200, R269). -/
def State.weightsOf (s : State) (c layer tile : Nat) : List (Nat × List Byte) :=
  match s.plan (s.ctx c).plan, (s.layersOf c)[layer]? with
  | some p, some l =>
    let ds := s.listOf c layer
    let shift := tile % max 1 l.b.toNat * blockSpan ds
    ds.flatMap fun d =>
      match d with
      | .pass q b =>
        match p.weights.blocks[b + shift]? with
        | some w => (q.wblock.toNat, w.data) ::
            (if q.last then [(q.scale.toNat, padTo 256 (w.ws.flatMap fun x => le 2 x.toNat) ++ padTo 512 (w.bias.flatMap fun x => le 4 x.toNat))] else [])
        | none => []
      | _ => []
  | _, _ => []

/-- Weights arrive in a core's scratchpad, which then holds those of the tile's grid channel block (R269). -/
def State.putWeights (r i c layer tile : Nat) (ws : List (Nat × List Byte)) (s : State) : State :=
  let b := match (s.layersOf c)[layer]? with | some l => tile % max 1 l.b.toNat | none => 0
  (s.updCoreMem r i fun m => { m with sp := ws.foldl (fun sp w => sp.writeN w.1 w.2) m.sp }).updCore r i fun x => { x with holding := some (c, layer, b) }

/-- The weight blocks and scale slices of a tile go into a core's scratchpad by unicast, unless it holds them already: each core keeps those of its grid channel
block for the whole layer (R269). -/
def State.loadWeights (r i c layer tile : Nat) (s : State) : State :=
  let b := match (s.layersOf c)[layer]? with | some l => tile % max 1 l.b.toNat | none => 0
  if (s.core r i).holding == some (c, layer, b) then s else s.putWeights r i c layer tile (s.weightsOf c layer tile)

/-- The physical cores of the slots in the MASK of a multicast group that are mapped, with their slots; a fused layer's MASK counts from slot `base` (R255). -/
def State.maskCores (s : State) (r base : Nat) (e : McastEntry) : List (Nat × Nat) :=
  ((List.range 16).filter fun n => e.mask.getLsbD n && (mapGet (s.region r).slotMap (base + n)).valid).map fun n => (n, (mapGet (s.region r).slotMap (base + n)).phys)

/-- Before a layer's first tile its weights are sent to the WMCAST group: each member takes those of its first grid channel block, where they lie in the group's
BUFFER (R255, R269). -/
def State.sendWeights (r c layer base : Nat) (s : State) : State :=
  match s.plan (s.ctx c).plan, (s.layersOf c)[layer]? with
  | some p, some l =>
    match p.mcasts[l.wmcast.toNat]? with
    | some e =>
      match s.bufferOf c e.buffer with
      | some buf =>
        (s.maskCores r base e).foldl (fun (s : State) n =>
          let tile := n.1 % max 1 l.q.toNat
          let ws := s.weightsOf c layer tile
          if ws.all fun w => decide (buf.offset.toNat ≤ w.1) && decide (w.1 + w.2.length ≤ buf.offset.toNat + buf.bytes.toNat) then s.putWeights r n.2 c layer tile ws
          else s) s
      | none => s
    | none => s
  | _, _ => s

/-- The steps of a tile on a core, with the passes skipped counted. -/
def State.tileSteps (s : State) (r i c layer wc tile : Nat) : List TileStep × Nat :=
  match (s.layersOf c)[layer]? with
  | none => ([], 0)
  | some l =>
    let outH := match s.bufferOf c l.outBuf with | some b => b.h.toNat | none => 0
    let st := tile / max 1 l.b.toNat
    let (ds, k) := runList (s.coreMem r i).sp (st * l.rows.toNat) (stripeRows l outH st) (s.listOf c layer)
    let steps := ds.filterMap fun d => match patchTile tile d with
      | .pass p b => some (.pass { desc := p, block := b, ctx := c, tile := tile, layer := layer, wc := wc })
      | .vec v => some (.vec { desc := v, ctx := c, tile := tile, layer := layer, wc := wc })
      | .gau _ => none
    let staged := match s.bufferOf c l.inBuf with | some b => b.space != 2 && l.stage != 0xFFFF | none => false
    ((if staged then [.stage c layer tile] else []) ++ steps, k)

/-! ### Write-back (R264; log entry 29) -/

/-- Where the last descriptor of a tile's list leaves the tile's output in the scratchpad, and the bytes it leaves for one pixel: the 128 columns of a reduction, or a
channel block of the output (R260). -/
def tileOut (ds : List Desc) (m : CoreMem) (b : BufferEntry) : Option (Nat × Nat) :=
  let size := tySize b.type.toNat
  match ds.getLast? with
  | some (.pass p _) => some (p.out.toNat, outStep (RqSet.parse (m.rq.readN (16 * p.rq.toNat) 16)).outFmt)
  | some (.vec v) => some (v.d.toNat, if ds.any fun d => match d with | .pass _ _ => true | _ => false then 128 * size else blockChans b * size)
  | _ => none

/-- The address of element (c, y, x) of a buffer that starts at `base` (R256). -/
def bufferElem (b : BufferEntry) (base c y x : Nat) : Nat :=
  let size := tySize b.type.toNat
  if b.layout = 0 then base + y * b.rowPitch.toNat + (x * b.c.toNat + c) * size
  else blockedAddr base b.rowPitch.toNat b.cbPitch.toNat size c y x

/-- The channels that a tile writes: its own, of those the buffer has, and whether the last of them ends in padding channels (R257). -/
def tileChans (l : LayerEntry) (b : BufferEntry) (tile per : Nat) : Nat × Nat :=
  let c0 := tile % max 1 l.b.toNat * per
  (c0, min per (b.c.toNat - c0))

/-- The padding channels of a tile's pixels in a blocked buffer at `base`: address and bytes of each run. The device writes unspecified values into them (R257). -/
def tilePads (l : LayerEntry) (b : BufferEntry) (base tile per : Nat) : List (Nat × Nat) :=
  let size := max 1 (tySize b.type.toNat)
  let k := if size = 1 then 32 else 16
  let (c0, n) := tileChans l b tile per
  let pad := cdiv b.c.toNat k * k - b.c.toNat
  if b.layout = 0 || pad = 0 || n = 0 || c0 + n ≠ b.c.toNat then []
  else
    let st := tile / max 1 l.b.toNat
    (List.range (stripeRows l b.h.toNat st)).flatMap fun dy => (List.range b.w.toNat).map fun x =>
      (blockedAddr base b.rowPitch.toNat b.cbPitch.toNat size b.c.toNat (st * l.rows.toNat + dy) x, pad * size)

/-- The output bytes of a tile with their element places: channel, row, column. -/
def tileElems (l : LayerEntry) (b : BufferEntry) (tile out pix : Nat) (sp : Mem) : List ((Nat × Nat × Nat) × List Byte) :=
  let size := max 1 (tySize b.type.toNat)
  let st := tile / max 1 l.b.toNat
  let (c0, n) := tileChans l b tile (pix / size)
  (List.range (stripeRows l b.h.toNat st)).flatMap fun dy => (List.range b.w.toNat).flatMap fun x =>
    (List.range n).map fun k =>
      ((c0 + k, st * l.rows.toNat + dy, x), sp.readN (out + (dy * b.w.toNat + x) * pix + k * size) size)

/-- The DRAM buffer of an invocation for a plan buffer in SPACE 2: of the handles the context owns in the pool, the one at the buffer's place among
the plan's buffers of that pool. -/
def State.dramBuffer (s : State) (c : Nat) (n : Nat) (b : BufferEntry) : Option U32 :=
  let pool := b.offset.toNat
  let place := match s.plan (s.ctx c).plan with
    | some p => ((p.buffers.take n).filter fun (x : BufferEntry) => x.space == 2 && x.offset == b.offset).length
    | none => 0
  let mine := s.bpm.bufs.filter fun e => e.2.owner == reqCtx c && !e.2.freed && hPool (BitVec.ofNat 32 e.1) == pool
  (mine[place]?).map fun e => BitVec.ofNat 32 e.1

/-- Runs of bytes take free values of one number. -/
def Mem.forgetRuns (m : Mem) (runs : List (Nat × Nat)) (tag : Nat) : Mem := runs.foldl (fun m e => m.forget e.1 (e.1 + e.2) tag) m

/-- The granted core writes its tile's output into the OUT buffer, in its own scratchpad where that lies there (R275); padding channels take free values (R257; log entry 110). -/
def State.writeBack (r i c layer tile : Nat) (s : State) : State :=
  match (s.layersOf c)[layer]? with
  | none => s
  | some l =>
    match s.bufferOf c l.outBuf with
    | none => s
    | some b =>
      let m := s.coreMem r i
      match tileOut (s.listOf c layer) m b with
      | none => s
      | some (out, pix) =>
        let es := tileElems l b tile out pix m.sp
        let per := pix / max 1 (tySize b.type.toNat)
        let t := s.tag
        if b.space = 1 then
          let base := s.rbBase c + b.offset.toNat
          (s.burn).updRb r fun rb =>
            (es.foldl (fun rb e => rb.writeN (bufferElem b base e.1.1 e.1.2.1 e.1.2.2) e.2) rb).forgetRuns (tilePads l b base tile per) t
        else if b.space = 2 then
          match s.dramBuffer c l.outBuf.toNat b with
          | some h =>
            let base := s.bufAddr h
            let s := es.foldl (fun s e => s.dramPut (bufferElem b base e.1.1 e.1.2.1 e.1.2.2) e.2 false) s
            (s.burn).updDram fun d => { d with mem := d.mem.forgetRuns (tilePads l b base tile per) t }
          | none => s
        else
          (s.burn).updCoreMem r i fun m =>
            { m with sp := (es.foldl (fun sp e => sp.writeN (bufferElem b b.offset.toNat e.1.1 e.1.2.1 e.1.2.2) e.2) m.sp).forgetRuns (tilePads l b b.offset.toNat tile per) t }

/-! ### The queues of a core -/

/-- While a pass runs, the weight block of the pass that waits next is loaded into the shadow registers (R152). -/
def State.loadShadow (r i : Nat) (s : State) : State :=
  let x := s.core r i
  match x.running, x.queue with
  | some _, q :: _ =>
    if x.shadowed == some q then s
    else (s.updCoreMem r i fun m => { m with shadow := blockCodes m.sp q.desc.wblock.toNat q.desc.wbits.toNat }).updCore r i fun x => { x with shadowed := some q }
  | _, _ => s

/-- An idle array starts the pass at the head of its queue: the shadow registers become the active weights, or the array waits for the load of its block (R152);
of the loads only the first block of an invocation is exposed, whole (R163). -/
def State.startPass (r i : Nat) (s : State) : State :=
  let x := s.core r i
  match x.running, if s.headWaits (mkUnit 0 (r * 32 + i)) then [] else x.queue with
  | none, p :: rest =>
    let now := s.aclk r
    let p8 := p.desc.wbits.toNat
    let ready := x.shadowed == some p
    let s := s.updCoreMem r i fun m => { m with weights := if ready then m.shadow else blockCodes m.sp p.desc.wblock.toNat p8 }
    let s := s.updCore r i fun x =>
      { x with running := some p, queue := rest, shadowed := none, desc := words p.desc.bytes 8
               clock := x.clock.start now (if x.loaded then 0 else 8 * p8 + 16) p.desc.cycles }
    s.loadShadow r i
  | _, _ => s

/-- AFTER of a descriptor with WAIT has been reached (R229). -/
def afterReached (passes : U32) (v : VecDesc) : Bool := !v.wait || decide ((passes.setWidth 16 - v.after).toNat < 32768)

/-- An idle vector engine starts the descriptor at the head of its queue, once its AFTER condition holds. -/
def State.startVec (r i : Nat) (s : State) : State :=
  let v := s.vec r i
  match v.running, if s.headWaits (mkUnit 0 (r * 32 + i)) then [] else v.queue with
  | none, d :: rest =>
    if afterReached (s.core r i).passes d.desc then
      let now := s.aclk r
      let n := vecCycles (s.coreMem r i).sp d.desc
      s.updVec r i fun v =>
        { v with running := some d, queue := rest, wait := false, desc := words d.desc.bytes 32, clock := v.clock.start now 0 n }
    else s.updVec r i fun v => { v with wait := true }
  | _, _ => s

/-- Neither engine of a core runs or holds anything. -/
def State.coreQuiet (s : State) (r i : Nat) : Bool :=
  let x := s.core r i
  let v := s.vec r i
  x.running.isNone && x.queue.isEmpty && v.running.isNone && v.queue.isEmpty

/-! ### Layers end and start -/

/-- The layer's dependencies have completed. -/
def depsDone (done : List Nat) (l : LayerEntry) : Bool :=
  (l.dep0 == 0xFFFF || done.contains l.dep0.toNat) && (l.dep1 == 0xFFFF || done.contains l.dep1.toNat)

/-- A work counter takes a layer (R262). -/
def wcFor (l : LayerEntry) (layer : Nat) : Wc :=
  let n := l.s.toNat * l.b.toNat
  { active := true, fused := l.lflags.getLsbD 0, qlog := (max 1 l.q.toNat).log2, layer := layer, units := n / max 1 l.q.toNat, tiles := n }

/-- The core is under a reset, and takes no work. -/
def State.coreReset (s : State) (r i : Nat) : Bool := s.underReset (.unit (mkUnit 0 (r * 32 + i)))

/-- The lowest complete cluster whose cores run nothing (R275, R277). -/
def State.freeCluster (s : State) (r : Nat) : Option Nat :=
  (List.range 4).find? fun k => (range (4 * k) 4).all fun n =>
    let e := mapGet (s.region r).slotMap n
    e.valid && (s.core r e.phys).todo.isEmpty && s.coreQuiet r e.phys && !s.coreReset r e.phys

/-- A logical slot may fetch a tile: it runs none that it has not claimed. -/
def State.slotFree (s : State) (r n : Nat) : Bool :=
  let i := (mapGet (s.region r).slotMap n).phys
  !((s.region r).wcs.any fun w => w.2.runners.any fun x => x.slot == n && tget 0 w.2.board x.tile == 1) && (s.core r i).todo.isEmpty && s.coreQuiet r i

/-- The slot-map writes that wait for the next tile fetch of the slots `ns` take effect (R28, R30); none maps a fenced core. -/
def State.applyMaps (r : Nat) (ns : List Nat) (s : State) : State :=
  ((s.region r).slotNext.filter fun e => ns.contains e.1 && s.slotFree r e.1).foldl (fun (s : State) e =>
    if !e.2.valid then s.unmapCore r e.1 e.2.phys
    else if (s.region r).fenced.getLsbD e.2.phys then s.updRegion r fun g => { g with slotNext := tdel e.1 g.slotNext }
    else s.mapCore r e.1 e.2.phys) s

/-- The steps of one core of a cluster for a fused group: its stripes in order, and in each the group's layers in order. A layer after the head waits for the crust
rows of the layer before it, from the stripe before, and the core sends those of each intermediate layer on (R276). -/
def State.fusedSteps (s : State) (r i c cluster k : Nat) (group : List Nat) : List TileStep :=
  let ls := s.layersOf c
  let crustOf (g : Nat) : Nat := match ls[g]? with | some l => l.crust.toNat | none => 0
  let head := match group.head?.bind fun h => ls[h]? with | some l => l.s.toNat | none => 0
  ((List.range head).filter fun st => st % 4 = k).flatMap fun st =>
    (group.zipIdx).flatMap fun g =>
      match ls[g.1]? with
      | none => []
      | some l =>
        let w := s.wcOf c l
        let before := g.1 - 1
        let wait := if g.2 = 0 || st = 0 || crustOf before = 0 then [] else [TileStep.crust c (4 * cluster + (st + 3) % 4) before (st - 1)]
        let send := if g.2 + 1 = group.length || st + 1 = head || l.crust = 0 then [] else [TileStep.send c g.1 st]
        wait ++ ((List.range l.b.toNat).flatMap fun b =>
          let tile := st * l.b.toNat + b
          .begin c g.1 w tile :: (s.tileSteps r i c g.1 w tile).1 ++ [.finish c g.1 w tile]) ++ send

/-- A fused group is handed to the cores of cluster `k` (R275), the weights of each layer's first block to its WMCAST group (R269). -/
def State.dispatchFused (r c k : Nat) (group : List Nat) (s : State) : State :=
  let s := group.foldl (fun s g => s.sendWeights r c g (4 * k)) s
  (range 0 4).foldl (fun (s : State) j =>
    let i := (mapGet (s.region r).slotMap (4 * k + j)).phys
    let steps := s.fusedSteps r i c k j group
    s.updCore r i fun x => { x with todo := x.todo ++ steps }) s

/-- The Millefeuille descriptors of a layer's tiles that are not DONE wait for the queue, in tile order. -/
def State.dispatchGau (r c layer : Nat) (l : LayerEntry) (s : State) : State :=
  let w := s.wcOf c l
  let tiles := (List.range (l.s.toNat * l.b.toNat)).filter fun t => tget 0 (s.wc r w).board t != 3
  let items := tiles.flatMap fun t => (s.listOf c layer).filterMap fun d => match patchTile t d with
    | .gau g => some { desc := g, ctx := c, layer := layer, wc := w : GauItem }
    | _ => none
  let s := s.updWc r w fun x => { x with board := tiles.foldl (fun b t => tset 0 b t 1) x.board, next := x.units, requeue := [] }
  s.updGau r fun g => { g with todo := g.todo ++ items }

/-- The layers have started: each holds its counter (R254, R262). -/
def State.takeCounters (r c : Nat) (group : List Nat) (s : State) : State :=
  let s := s.updCtx c fun t => { t with started := t.started ++ group }
  group.foldl (fun (s : State) g => match (s.layersOf c)[g]? with
    | some m => s.updWc r (s.wcOf c m) fun _ => wcFor m g
    | none => s) s

/-- A fused group starts once a complete cluster is free and its layers' counters are (R275); until then it waits. -/
def State.startGroup (r c head : Nat) (s : State) : State :=
  let s := s.applyMaps r (List.range 16)
  let group := fusedLayers (s.layersOf c) head
  let free := group.all fun g => match (s.layersOf c)[g]? with | some m => !(s.wc r (s.wcOf c m)).active | none => true
  match s.freeCluster r with
  | some k => if free then (s.takeCounters r c group).dispatchFused r c k group else s
  | none => s

/-- One layer starts, where it may: it takes its counter, its weights are sent out, and a fused group or a Millefeuille layer is handed out (R254, R269). -/
def State.startLayer (r c : Nat) (x : LayerEntry × Nat) (s : State) : State :=
  let (l, k) := x
  let t := s.ctx c
  let fused := l.lflags.getLsbD 0
  if t.started.contains k || !depsDone t.layersDone l || (fused && !l.lflags.getLsbD 1) || (s.wc r (s.wcOf c l)).active then s
  else if fused then s.startGroup r c k
  else
    let s := s.takeCounters r c [k]
    if l.lkind = 2 then s.dispatchGau r c k l else s.sendWeights r c k 0

/-- Every layer that may start does. -/
def State.startLayers (r c : Nat) (s : State) : State := ((s.layersOf c).zipIdx).foldl (fun s x => s.startLayer r c x) s

/-- The invocation of a context completes (R288, R294): a late one counts in MISSES, its plan signals, and the context takes its next release. -/
def State.completeInv (c : Nat) (s : State) : State :=
  let x := s.ctx c
  match x.running with
  | none => s
  | some i =>
    let now := s.now
    let r := x.region
    let s := s.updCtx c fun x =>
      { x with running := none, layersDone := [], started := [], ranAt := now, misses := if i.deadline < now then satAdd x.misses 1 else x.misses
               state := if x.queue.isEmpty then 0 else 1 }
    let s := s.updRegion r fun g => if x.gau then { g with gauCtx := none } else { g with coresCtx := none }
    let s := s.complete c false
    let s : State := match s.plan x.plan with
      | some p => p.signals.foldl (fun s e => s.releaseOn e.1) s
      | none => s
    let s := if x.tick then s.tickRan c true else s
    s.judgeAll

/-- A layer is complete: its counter is free, and layers that waited for it start; the last one ends the invocation. -/
def State.layerDone (r c layer wc : Nat) (s : State) : State :=
  let s := s.updWc r wc fun w => { w with active := false }
  let s := s.updCtx c fun x => { x with layersDone := x.layersDone ++ [layer] }
  if (s.ctx c).state != 3 then s
  else if (s.ctx c).layersDone.length = (s.layersOf c).length then s.completeInv c else s.startLayers r c

/-- A tile is DONE (R263). -/
def State.tileDone (r c layer wc tile : Nat) (s : State) : State :=
  let s := s.updWc r wc fun w => { w with board := tset 0 w.board tile 3, doneN := w.doneN + 1, runners := w.runners.filter fun x => !(x.tile == tile) }
  let s := s.progressed c
  let w := s.wc r wc
  if w.doneN = w.tiles then s.layerDone r c layer wc else s

/-! ### Feeding a core -/

/-- The tile of a fused layer ends on a core: its output goes to its OUT buffer, of an intermediate layer in the core's scratchpad (R275). -/
def State.finishFused (r i c layer wc tile : Nat) (s : State) : State :=
  let s := s.writeBack r i c layer tile
  (s.updWc r wc fun w => { w with next := w.next + 1 }).tileDone r c layer wc tile

/-- A tile of a fused layer begins on a core: its weights come in, and its skipped passes count (R269, R274). -/
def State.beginTile (r i c layer wc tile : Nat) (s : State) : State :=
  let s := s.loadWeights r i c layer tile
  let k := (s.tileSteps r i c layer wc tile).2
  s.updWc r wc fun w => { w with skips := satAdd w.skips k }

/-- A pass that reads what a descriptor of the core writes is held until that has committed (R229). -/
def State.awaitsVec (s : State) (r i : Nat) (p : PassItem) : Bool :=
  let m := (s.coreMem r i).sp
  let v := s.vec r i
  match s.plan (s.ctx p.ctx).plan, (s.layersOf p.ctx)[p.layer]? with
  | some pl, some l => meetAny ((v.running.toList ++ v.queue).flatMap fun d => asRanges (writesAll m d.desc)) (passReads pl l p.desc)
  | _, _ => false

/-- The steps of a core's tile go to its queues in list order, each queue 4 deep with the one running: a pass that reads what a vector descriptor writes waits for
its commit (R229), and staging, crust rows and the beginning and end of a fused tile wait for both engines. -/
def State.feedCore (r i : Nat) : Nat → State → State
  | 0, s => s
  | k + 1, s =>
    if s.held r false then s
    else
      let s := (s.startPass r i).startVec r i
      let x := s.core r i
      match x.todo with
      | [] => s
      | t :: rest =>
        let pop (s : State) : State := s.updCore r i fun x => { x with todo := rest }
        match t with
        | .stage c l n => if s.coreQuiet r i then State.feedCore r i k ((pop s).stageTile r i c l n) else s
        | .begin c l w n => if s.coreQuiet r i then State.feedCore r i k ((pop s).beginTile r i c l w n) else s
        | .pass p =>
          if !s.awaitsVec r i p && decide (x.queue.length < 3) then
            State.feedCore r i k (((pop s).updCore r i fun x => { x with queue := x.queue ++ [p] }).loadShadow r i)
          else s
        | .vec v =>
          if (s.vec r i).queue.length < 3 then State.feedCore r i k ((pop s).updVec r i fun q => { q with queue := q.queue ++ [v] }) else s
        | .crust _ sender l st =>
          if s.coreQuiet r i && (tget [] (s.region r).crust sender).contains (l, st) then
            State.feedCore r i k ((pop s).updRegion r fun g => { g with crust := tupd [] g.crust sender fun x => x.filter fun y => !(y == (l, st)) })
          else s
        | .send _ _ _ => s
        | .finish c l w n => if s.coreQuiet r i then State.feedCore r i k ((pop s).finishFused r i c l w n) else s

/-- A core is fed until it waits. -/
def State.feed (r i : Nat) (s : State) : State := s.feedCore r i ((s.core r i).todo.length + 2)

/-- A core starts a tile: the weights of its channel block come in, and its steps are set (R264, R269). -/
def State.startTile (r i c layer wc tile : Nat) (s : State) : State :=
  let s := s.beginTile r i c layer wc tile
  let steps := (s.tileSteps r i c layer wc tile).1
  (s.updCore r i fun x => { x with todo := steps }).feed r i

/-- The cores of a region go on where they may. -/
def State.feedRegion (r : Nat) (s : State) : State := (List.range 18).foldl (fun s i => s.feed r i) s

/-! ### Aborted passes (R167 to R170, R182, R248) -/

/-- An aborted pass of the array starts again from its first step, at the head of its queue; the block in the shadow registers is discarded (R167). -/
def Core.restart (x : Core) (now : Nat) (count : Core → Core) : Core :=
  match x.running with
  | some p => count { x with running := none, queue := p :: x.queue, shadowed := none, clock := x.clock.abort now }
  | none => x

/-- An aborted vector descriptor starts again. -/
def Vec.restart (v : Vec) (now lo : Nat) : Vec :=
  match v.running with
  | some d => { v with running := none, queue := d :: v.queue, clock := v.clock.abort now, aborts := bumpByte v.aborts lo }
  | none => v

/-- The context whose pass the unit runs, with its layer and tile. -/
def State.runningOn (s : State) (r : Nat) (u : PassUnit) : Option (Nat × Nat × Nat) :=
  match u with
  | .array i => (s.core r i.val).running.map fun p => (p.ctx, p.layer, p.tile)
  | .vec i => (s.vec r i.val).running.map fun v => (v.ctx, v.layer, v.tile)
  | .gau _ => (s.region r).gau.running.map fun g => (g.ctx, g.layer, g.desc.tile.toNat)

/-- The clock of the unit's pass. -/
def State.clockOf (s : State) (r : Nat) (u : PassUnit) : PassClock :=
  match u with
  | .array i => (s.core r i.val).clock
  | .vec i => (s.vec r i.val).clock
  | .gau _ => (s.region r).gau.clock

/-- The same, changed. -/
def State.updClock (r : Nat) (u : PassUnit) (f : PassClock → PassClock) (s : State) : State :=
  match u with
  | .array i => s.updCore r i.val fun x => { x with clock := f x.clock }
  | .vec i => s.updVec r i.val fun x => { x with clock := f x.clock }
  | .gau _ => s.updGau r fun x => { x with clock := f x.clock }

/-- The abort of a pass for pre-emption: it restarts when its context is next resident, so the engine set stands at a boundary. -/
def State.abortPreempt (r : Nat) (u : PassUnit) (s : State) : State :=
  let now := s.aclk r
  match u with
  | .array i => (((s.updCore r i.val fun x => x.restart now fun x => { x with abPreempt := satAdd x.abPreempt 1 }).judgeAll).feed r i.val)
  | .vec i => (((s.updVec r i.val fun v => v.restart now 24).judgeAll).feed r i.val)
  | .gau _ => ((s.updGau r fun g => g.restart now fun g => { g with abPreempt := satAdd g.abPreempt 1 }).judgeAll).startGau r

/-- The abort of a pass by a fault of its unit: it counts, and the unit takes an ENR or is fenced. The pass stands at the head of its queue, for a fused group that a
fence moves to the spare starts it again there (R30). -/
def State.abortUnit (r : Nat) (u : PassUnit) (s : State) : State :=
  let now := s.aclk r
  let s := match u with
    | .array i => s.updCore r i.val fun x => x.restart now fun x => { x with abUnit := satAdd x.abUnit 1 }
    | .vec i => s.updVec r i.val fun v => v.restart now 16
    | .gau _ => s.updGau r fun g => g.restart now fun g => { g with abUnit := satAdd g.abUnit 1 }
  s.unitEvent (faultUnit r u) 1 true 0x0502

/-- The abort of a core's pass or descriptor by a map change: the tile is issued again, and a fused group restarts its current pass (R30). -/
def State.abortCore (r i : Nat) (s : State) : State :=
  if (s.core r i).fusedLayer.isSome then
    let work := s.workOf r i
    ((s.fenceAbort r i).updCore r i fun x => { x with todo := work }).feed r i
  else ((s.fenceAbort r i).dropCoreTile r i).judgeAll

/-- The abort of a pass by a map change; a Millefeuille pass restarts on the new map (R178). -/
def State.abortFence (r : Nat) (u : PassUnit) (s : State) : State :=
  match u with
  | .array i => s.abortCore r i.val
  | .vec i => s.abortCore r i.val
  | .gau _ =>
    let now := s.aclk r
    ((s.updGau r fun g => g.restart now fun g => { g with abFence := satAdd g.abFence 1 }).startGau r)

/-- A pass that runs is aborted for a cause (R168). -/
def State.abortPass (r : Nat) (u : PassUnit) (cause : AbortCause) (s : State) : State :=
  match s.runningOn r u with
  | none => s
  | some (c, layer, tile) =>
    match cause with
    | .preempt => s.abortPreempt r u
    | .unitFault => s.abortUnit r u
    | .ctxFault k => s.cxr c k.val 0 layer tile
    | .fence => s.abortFence r u

/-- The units of a region that run passes. -/
def passUnits : List PassUnit :=
  (List.range 18).map (fun i => .array (Fin.ofNat 18 i)) ++ (List.range 18).map (fun i => .vec (Fin.ofNat 18 i)) ++ [.gau 0]

/-- Of the aborts asked for, the one that decides: a fence before a fault, and a fault before a pre-emption (R170). -/
def deciding (l : List (PassUnit × AbortCause)) : Option (PassUnit × AbortCause) :=
  match l.find? (fun c => c.2 == .fence), l.find? (fun c => c.2 != .preempt) with
  | some c, _ => some c
  | none, some c => some c
  | none, none => l.head?

/-- The aborts that a unit was asked for while ACLK was stopped take effect, where the deciding one is a fence or is none as `fence` says; a unit fault that a fence
overrules still counts (R170). -/
def State.takeAbort (r : Nat) (fence : Bool) (u : PassUnit) (s : State) : State :=
  let asked := (s.clockOf r u).asked
  match deciding asked with
  | some c =>
    if (c.2 == .fence) != fence then s
    else
      let s := s.updClock r u fun x => { x with asked := [] }
      (if fence then s.countAsked r asked else s).abortPass r c.1 c.2
  | none => s

/-- The context resets that waited for ACLK. -/
def State.takeCxrs (r : Nat) (s : State) : State :=
  let w := (s.region r).cxrWait
  w.foldl (fun s x => s.cxrNow x.1 x.2.1 x.2.2.1 x.2.2.2.1 x.2.2.2.2) (s.updRegion r fun g => { g with cxrWait := [] })

/-- What waited for ACLK takes effect in its first cycle: fences decide before faults, and faults before pre-emptions (R170). -/
def State.takeAborts (r : Nat) (s : State) : State :=
  let s := passUnits.foldl (fun s u => s.takeAbort r true u) s
  passUnits.foldl (fun s u => s.takeAbort r false u) (s.takeCxrs r)

/-- Every engine of a region goes on where it may: layers that waited for a counter or a cluster start, and queues are fed. -/
def State.resumeRegion (r : Nat) (s : State) : State :=
  let s := s.feedRegion r
  let s := match (s.region r).coresCtx with
    | some c => if (s.ctx c).state = 3 then s.startLayers r c else s
    | none => s
  (s.feedRegion r).startGau r

/-- The free media engines take what stands at the heads of their queues, where nothing holds it. -/
def State.resumeMedia (s : State) : State :=
  let s := (List.range 9).foldl (fun s e => if s.underReset (.unit (mkUnit 2 e)) then s else s.startPix e) s
  (List.range 4).foldl (fun s e => if s.underReset (.unit (mkUnit 4 e)) then s else s.startCseEng e) s

/-- Every engine goes on after a change of the state: contexts are judged again, and queues fed again. -/
def State.resumeAll (s : State) : State := ((List.range 8).foldl (fun s r => s.resumeRegion r) s.judgeAll).resumeMedia

/-- A cause for which a region's ACLK stopped has gone: with the last one, the clock restarts, and the aborts asked for take effect in its first cycle
(R168, R170, R449). -/
def State.restartAclk (r : Nat) (s : State) : State := (if s.aclkStopped r then s else s.takeAborts r).resumeRegion r

/-- The same in every region. -/
def State.restartAll (s : State) : State := (List.range 8).foldl (fun s r => s.restartAclk r) s.judgeAll

end Sys2Proof.Machine
end

