-- ==== Sys2Proof/Machine/Compute.lean ====
section
/-! DEFINITION. The commands of the arrays, the vector engines, the Millefeuilles, the work counters and the dispatcher (R157, R167, R180, R230, R263, R276,
R286, R291, R296). -/

namespace Sys2Proof.Machine

/-! ### PASS_COMMIT -/

/-- ACLK cycles of a committed descriptor are added to the runner of its tile (R295). -/
def State.addCycles (r wc slot tile n : Nat) (s : State) : State :=
  s.updWc r wc fun w => { w with runners := w.runners.map fun x => if x.tile = tile && x.slot = slot then { x with cycles := x.cycles + n } else x }

/-- The parameter set that a pass of a core names. -/
def CoreMem.rqOf (m : CoreMem) (d : PassDesc) : RqSet := RqSet.parse (m.rq.readN (16 * d.rq.toNat) 16)

/-- The memories of a core after a pass has written its last result (R156, R157): the output buffer for LAST, else the out-bank, and the column accumulators. -/
def CoreMem.commit (m : CoreMem) (inBank : Bool) (d : PassDesc) (pos : TilePos) : CoreMem :=
  let bank := if inBank then m.psb1 else m.psb0
  let bytes := (passRows m.sp m.weights bank (m.rqOf d) d pos).1
  let m := { m with acc := passAccs m.sp m.weights bank d pos }
  if d.last then { m with sp := m.sp.writeN d.out.toNat bytes }
  else if inBank then { m with psb0 := m.psb0.writeN 0 bytes } else { m with psb1 := m.psb1.writeN 0 bytes }

/-- A pass commits: its results are written, and a pass without LAST swaps the roles of the banks (R156, R157). -/
def State.commitPass (r i : Nat) (p : PassItem) (l : LayerEntry) (s : State) : State :=
  let x := s.core r i
  let m := s.coreMem r i
  let d := p.desc
  let pos := s.tilePos p.ctx l p.tile x.half
  let sat := (passRows m.sp m.weights (if x.inBank then m.psb1 else m.psb0) (m.rqOf d) d pos).2
  let s := s.updCoreMem r i fun m => m.commit x.inBank d pos
  let s := s.updCore r i fun x =>
    { x with running := none, passes := x.passes + 1, cycles := BitVec.ofNat 32 d.cycles, sat := x.sat || sat
             inBank := if d.last then x.inBank else !x.inBank, loaded := true }
  (s.addCycles r p.wc (((s.region r).slotOfCore i).getD 16) p.tile d.cycles).progressed p.ctx

/-- The running pass of a core commits, and the next one starts. A descriptor out of its range is a context fault instead (R161, R168). -/
def State.passCommit (r i : Nat) (s : State) : State :=
  match (s.core r i).running with
  | none => s
  | some p =>
    if s.aclkStopped r then s
    else if !p.desc.ok || !passFits p.desc ((s.coreMem r i).rqOf p.desc) then s.cxr p.ctx 2 0 p.layer p.tile
    else match (s.layersOf p.ctx)[p.layer]? with
      | some l => ((s.commitPass r i p l).resumeRegion r).judgeAll
      | none => s

/-- PASS_COMMIT. -/
def execPassCommit (r : Fin 8) (core : Fin 18) (s : State) : Host.Outcome State Fault Refusal := .next (s.passCommit r.val core.val)

/-! ### VEC_DESCRIPTOR_COMMIT -/

/-- The vector engine after a descriptor that completed. -/
def Vec.after (v : Vec) (o : VecOut) (cycles : Nat) : Vec :=
  { v with
    running := none, done := v.done + 1, cycles := BitVec.ofNat 32 cycles, skips := v.skips + BitVec.ofNat 32 o.skips
    badBoxes := satAdd v.badBoxes o.boxes, badRecs := satAdd v.badRecs o.records, badInput := v.badInput || decide (0 < o.boxes + o.records)
    sat := v.sat || o.flags.sat, nan := v.nan || o.flags.nan, inf := v.inf || o.flags.inf }

/-- A lane fault of a cause of VEC_FAULT aborts the descriptor and is recorded, and the context takes a CXR (R236). -/
def State.laneFault (r i : Nat) (v : VecItem) (cause lane addr : Nat) (s : State) : State :=
  let s := s.updVec r i fun x => { x with laneFault := true, fault := word [(24, lane % 256), (21, cause), (0, addr % 2097152)] }
  s.cxr v.ctx 4 0 v.layer v.tile

/-- The running descriptor of a vector engine commits. -/
def State.vecCommit (r i : Nat) (s : State) : State :=
  match (s.vec r i).running with
  | none => s
  | some v =>
    if s.aclkStopped r then s
    else if !VecDesc.defined v.desc then s.cxr v.ctx 2 0 v.layer v.tile
    else match (s.layersOf v.ctx)[v.layer]? with
      | none => s
      | some l =>
        let m := (s.coreMem r i).sp
        let o := vecRun m v.desc (s.tilePos v.ctx l v.tile (s.core r i).half)
        match o.fault with
        | some f => s.laneFault r i v 1 f.1 f.2
        | none =>
          let n := vecCycles m v.desc
          let s := (s.updCoreMem r i fun m => { m with sp := o.apply m.sp }).updVec r i fun x => x.after o n
          (((s.progressed v.ctx).addCycles r v.wc (((s.region r).slotOfCore i).getD 16) v.tile n).resumeRegion r).judgeAll

/-- VEC_DESCRIPTOR_COMMIT. -/
def execVecDescriptorCommit (r : Fin 8) (core : Fin 18) (s : State) : Host.Outcome State Fault Refusal := .next (s.vecCommit r.val core.val)

/-! ### GAU_PASS_COMMIT -/

/-- A Millefeuille descriptor with its addresses moved to its context's reservation. -/
def rebase (d : GauDesc) (base : Nat) : GauDesc :=
  let b := BitVec.ofNat 32 base
  { d with a := d.a + b, b := d.b + b, cIn := d.cIn + b, cOut := d.cOut + b }

/-- After a pass, a tile that has no further descriptor in the queue, or waiting for it, is done. -/
def State.gauNext (r : Nat) (p : GauItem) (s : State) : State :=
  let g := (s.region r).gau
  let more := match (g.queue ++ g.todo).head? with
    | some q => q.ctx == p.ctx && q.layer == p.layer && q.desc.tile == p.desc.tile
    | none => false
  if more then s else s.tileDone r p.ctx p.layer p.wc p.desc.tile.toNat

/-- The accumulators that logical tile `t` is left with: those of the last block that its gang computed. A block of the planned mode splits into smaller ones in
a fallback, which the gangs in service take in turn (R176, R181). None where its gang took none. -/
def State.tileAccs (s : State) (r : Nat) (m : Mem) (d : GauDesc) (mode t : Nat) : Option (List U32) :=
  let gangs := s.gangList r mode
  let (g, i, j) := tilePlace mode t
  let n := gangBlock d.gang.toNat
  let side := gangBlock mode / 32
  let q := max 1 (n / gangBlock mode)
  let blocks := gangCount d.gang.toNat * (q * q)
  match gangs.findIdx? (· == g) with
  | some a =>
    if blocks ≤ a then none
    else
      let b := a + (blocks - 1 - a) / gangs.length * gangs.length
      some (quadrant n (b % (q * q) / q * side + i) (b % (q * q) % q * side + j) (gauAccs m d n (b / (q * q))))
  | none => none

/-- The accumulators and output registers of the tiles after a pass (R174, R180). -/
def State.keepAccs (r : Nat) (m : Mem) (d : GauDesc) (s : State) : State :=
  let g := (s.region r).gau
  let vals := (List.range 16).filterMap fun t =>
    if (mapGet g.tileMap t).valid then (s.tileAccs r m d g.gang t).map fun w => ((mapGet g.tileMap t).phys, w) else none
  let put (t : Tbl (List U32)) : Tbl (List U32) := vals.foldl (fun t e => tset [] t e.1 e.2) t
  s.updGau r fun g => { g with accs := put g.accs, drain := put g.drain }

/-- A Millefeuille descriptor is one that R179 allows, in the mode that its plan's invocations have. -/
def State.gauOk (s : State) (p : GauItem) : Bool :=
  p.desc.ok && match s.plan (s.ctx p.ctx).plan with | some pl => p.desc.gang == pl.gang | none => false

/-- The running Millefeuille pass completes; the last descriptor of a tile ends the tile. -/
def State.gauCommit (r : Nat) (s : State) : State :=
  let g := (s.region r).gau
  match g.running with
  | none => s
  | some p =>
    if s.aclkStopped r then s
    else if !s.gauOk p then s.cxr p.ctx 2 0 p.layer p.desc.tile.toNat
    else
      let d := rebase p.desc (s.rbBase p.ctx)
      let fl := (gauRun (s.regMem r).rb d).2
      let s := s.keepAccs r (s.regMem r).rb d
      let s := s.updRb r fun m => (gauRun m d).1
      let s := s.updGau r fun g =>
        { g with running := none, passes := g.passes + 1, cycles := BitVec.ofNat 32 (gauCycles g p.desc), first := false
                 sat := g.sat || fl.sat, nan := g.nan || fl.nan, inf := g.inf || fl.inf }
      ((((s.progressed p.ctx).gauNext r p).resumeRegion r)).judgeAll

/-- GAU_PASS_COMMIT. -/
def execGauPassCommit (r : Fin 8) (s : State) : Host.Outcome State Fault Refusal := .next (s.gauCommit r.val)

/-! ### PASS_ABORT (R167 to R170, R182, R248) -/

/-- PASS_ABORT: nothing where no pass runs, and for a pre-emption nothing where at most 40 µs of the pass remain, which is then left to commit (R168, R169). While
ACLK is stopped the request waits, a second pre-emption merged with the first (R170). -/
def execPassAbort (r : Fin 8) (u : PassUnit) (cause : AbortCause) (s : State) : Host.Outcome State Fault Refusal :=
  .next <|
    if (s.runningOn r.val u).isNone || (cause == .preempt && !s.longLeft r.val (s.clockOf r.val u)) then s
    else if s.aclkStopped r.val then
      s.updClock r.val u fun c => if cause == .preempt && c.asked.any (fun x => x.2 == .preempt) then c else { c with asked := c.asked ++ [(u, cause)] }
    else s.abortPass r.val u cause

/-! ### FETCH, CLAIM, DONE (R263 to R266) -/

/-- The context that holds a work counter and runs. -/
def State.wcOwner (s : State) (r wc : Nat) : Option Nat :=
  match tfind (s.region r).rslots (wc / 8) with
  | some c => if (s.ctx c).state = 3 then some c else none
  | none => none

/-- The member slot runs a tile that it has not claimed, on any counter of the region. -/
def State.slotBusyTile (s : State) (r slot : Nat) : Bool :=
  (s.region r).wcs.any fun w => w.2.runners.any fun x => x.slot == slot && tget 0 w.2.board x.tile == 1

/-- The slots of a multicast group. -/
def groupSlots (w : Wc) (slot : Nat) : List Nat := range slot (2 ^ w.qlog)

/-- The tiles that a FETCH hands out: the requeued tiles of the unit with the lowest one, else those of the next unit. -/
def Wc.dispense (w : Wc) : Option (Nat × List Nat × Wc) :=
  let q := 2 ^ w.qlog
  match w.requeue with
  | t :: _ =>
    let u := t / q
    let ts := w.requeue.filter fun x => x / q = u
    some (u, ts, { w with requeue := w.requeue.filter fun x => !(x / q == u), board := ts.foldl (fun b x => tset 0 b x 1) w.board })
  | [] =>
    if w.next < w.units then
      let ts := range (w.next * q) q
      some (w.next, ts, { w with next := w.next + 1, board := ts.foldl (fun b x => tset 0 b x 1) w.board })
    else none

/-- A served FETCH. -/
def State.fetchTile (r wc slot c : Nat) (s : State) : State :=
  let w := s.wc r wc
  let members := groupSlots w slot
  match w.dispense with
  | none => (s.updWc r wc fun w => { w with emptied := members.foldl (fun l n => insertN n l) w.emptied }).send (.wcEmpty r slot)
  | some (u, ts, w') =>
    let pairs := members.filterMap fun n => let t := u * 2 ^ w.qlog + (n - slot); if ts.contains t then some (n, t) else none
    let s := s.updWc r wc fun _ =>
      { w' with runners := w'.runners ++ pairs.map fun p => { tile := p.2, slot := p.1, since := s.aclk r, copy := false }
                emptied := w'.emptied.filter fun n => !members.contains n }
    let s := s.send (.wcUnit r slot u)
    pairs.foldl (fun (s : State) p => s.startTile r (mapGet (s.region r).slotMap p.1).phys c w.layer wc p.2) s

/-- FETCH from the lowest slot of a group. A group with an empty slot sends none; it is served once every member has its answer for its last tile. -/
def execFetch (r : Fin 8) (wc : Fin 64) (slot : Fin 16) (s : State) : Host.Outcome State Fault Refusal :=
  let members := groupSlots (s.wc r.val wc.val) slot.val
  let s := s.applyMaps r.val members
  let w := s.wc r.val wc.val
  let ok := w.active && !w.fused && decide (slot.val % 2 ^ w.qlog = 0)
    && members.all (fun n =>
      let e := mapGet (s.region r.val).slotMap n
      e.valid && !s.slotBusyTile r.val n && !s.coreReset r.val e.phys)
    && !s.held r.val false
  .next <|
    match s.wcOwner r.val wc.val with
    | some c => if ok then s.fetchTile r.val wc.val slot.val c else s
    | none => s

/-- The other cores that run a granted tile drop it: what runs may commit, nothing of the tile follows (R266). -/
def State.dropCopies (r wc slot tile : Nat) (s : State) : State :=
  let others := ((s.wc r wc).runners.filter fun x => x.tile == tile && !(x.slot == slot)).map (·.slot)
  let s := others.foldl (fun (s : State) n =>
    let i := (mapGet (s.region r).slotMap n).phys
    let s := s.updCore r i fun x => { x with todo := [], queue := [] }
    s.updVec r i fun v => { v with queue := [], wait := false }) s
  s.updWc r wc fun w =>
    { w with runners := w.runners.filter fun x => !(x.tile == tile) || x.slot == slot, dupes := satAdd w.dupes others.length }

/-- The time of a tile: the ACLK cycles since it started, and at least those of its descriptors and of the checks it has lived through (R295). -/
def Runner.time (now : Nat) (x : Runner) : Nat := max ((now - x.since) / 100) (max x.cycles (256 * x.checks))

/-- GRANTED: the entry is CLAIMED, the tile's time is kept, other copies drop it, and the output goes to the OUT buffer (R263, R264). A granted re-issued
copy counts, and one straggler event counts against the unit of the original core (R297). -/
def State.grant (r wc slot tile c : Nat) (x : Runner) (s : State) : State :=
  let w := s.wc r wc
  let now := s.aclk r
  let s := s.updWc r wc fun w => { w with board := tset 0 w.board tile 2, times := (x.time now :: w.times).take 31, requeue := w.requeue.filter fun t => t != tile }
  let s := s.writeBack r (mapGet (s.region r).slotMap slot).phys c w.layer tile
  let s := s.send (.wcGranted r slot tile)
  let original := ((s.wc r wc).runners.find? fun y => y.tile == tile && !y.copy).map (·.slot)
  let s := s.dropCopies r wc slot tile
  if x.copy then
    match original with
    | some n =>
      let s := s.updRegion r fun g => { g with copyWon := satAdd g.copyWon 1 }
      s.unitEvent (mkUnit 0 (r * 32 + (mapGet (s.region r).slotMap n).phys)) 4 false 0x0505
    | none => s.updRegion r fun g => { g with copyWon := satAdd g.copyWon 1 }
  else s

/-- CLAIM: the first of an ISSUED tile is GRANTED, every other is LOST. -/
def execClaim (r : Fin 8) (wc : Fin 64) (slot : Fin 16) (tile : Fin 4096) (s : State) : Host.Outcome State Fault Refusal :=
  let w := s.wc r.val wc.val
  let i := (mapGet (s.region r.val).slotMap slot.val).phys
  .next <|
    match s.wcOwner r.val wc.val with
    | none => s
    | some c =>
      if !w.active || w.fused then s
      else match w.runners.find? (fun x => x.tile == tile.val && x.slot == slot.val) with
        | none => s.send (.wcLost r.val slot.val tile.val)
        | some x =>
          if tget 0 w.board tile.val != 1 then
            (s.updWc r.val wc.val fun w =>
              { w with dupes := satAdd w.dupes 1, runners := w.runners.filter fun y => !(y.tile == tile.val && y.slot == slot.val) }).send
                (.wcLost r.val slot.val tile.val)
          else if (s.core r.val i).todo.isEmpty && s.coreQuiet r.val i then (s.grant r.val wc.val slot.val tile.val c x).judgeAll
          else s

/-- DONE from the granted core. -/
def execDone (r : Fin 8) (wc : Fin 64) (slot : Fin 16) (tile : Fin 4096) (s : State) : Host.Outcome State Fault Refusal :=
  let w := s.wc r.val wc.val
  .next <|
    match tfind (s.region r.val).rslots (wc.val / 8) with
    | none => s
    | some c =>
      if w.active && tget 0 w.board tile.val == 2 && w.runners.any (fun x => x.tile == tile.val && x.slot == slot.val) then
        ((s.tileDone r.val c w.layer wc.val tile.val).resumeRegion r.val).judgeAll
      else s

/-! ### STRAGGLER_CHECK (R295 to R297) -/

/-- The exact median of a list of odd or even length: its middle element in order, the lower of two. -/
def median (xs : List Nat) : Nat := (sortBy (fun a b => decide (a < b)) xs).getD ((xs.length - 1) / 2) 0

/-- The running median of a counter: the nominal count of the tile until 8 tiles have completed. -/
def State.medianOf (s : State) (r c wc tile : Nat) : Nat :=
  let w := s.wc r wc
  if 8 ≤ w.times.length then median w.times
  else
    let m := (s.coreMem r (mapGet (s.region r).slotMap 0).phys).sp
    match (s.layersOf c)[w.layer]?, s.plan (s.ctx c).plan with
    | some l, some p => tileCycles s r p m w.layer l (tile / max 1 l.b.toNat)
    | _, _ => 0

/-- The idle core that takes a copy: its slot VALID, no tile running, EMPTY at its last FETCH on the counter; lowest first. -/
def State.idleSlot (s : State) (r wc : Nat) : Option Nat :=
  (List.range 16).find? fun n =>
    let e := mapGet (s.region r).slotMap n
    e.valid && decide (n ∈ (s.wc r wc).emptied) && !s.slotBusyTile r n && (s.core r e.phys).todo.isEmpty && s.coreQuiet r e.phys && !s.coreReset r e.phys

/-- One tile is checked, and re-issued when it is a straggler. -/
def State.checkTile (r c wc : Nat) (x : Runner) (s : State) : State :=
  let w := s.wc r wc
  if !x.copy && tget 0 w.board x.tile == 1 && !w.reissued.contains x.tile && decide (4 * s.medianOf r c wc x.tile < x.time (s.aclk r)) then
    match s.idleSlot r wc with
    | some n =>
      let s := s.updWc r wc fun w =>
        { w with reissues := satAdd w.reissues 1, reissued := x.tile :: w.reissued, runners := w.runners ++ [{ tile := x.tile, slot := n, since := s.aclk r, copy := true }] }
      let s := s.updRegion r fun g => { g with reissues := satAdd g.reissues 1 }
      s.startTile r (mapGet (s.region r).slotMap n).phys c w.layer wc x.tile
    | none => s
  else s

/-- STRAGGLER_CHECK: 256 ACLK cycles have passed, and each ISSUED tile of the running context is checked; fused layers never. -/
def execStragglerCheck (r : Fin 8) (s : State) : Host.Outcome State Fault Refusal :=
  .next <|
    match (s.region r.val).coresCtx with
    | none => s
    | some c =>
      if s.aclkStopped r.val || (s.ctx c).state != 3 then s
      else match (s.ctx c).rslot with
        | none => s
        | some k => (slotWcs k).foldl (fun (s : State) n =>
            if (s.wc r.val n).active && !(s.wc r.val n).fused then
              let s := s.updWc r.val n fun w => { w with runners := w.runners.map fun x => { x with checks := x.checks + 1 } }
              (s.wc r.val n).runners.foldl (fun s x => s.checkTile r.val c n x) s
            else s) s

/-! ### CRUST_ROW_TRANSFER (R276) -/

/-- The crust rows that a core stands ready to send, its passes committed: context, layer, stripe. -/
def State.sending (s : State) (r i : Nat) : Option (Nat × Nat × Nat) :=
  match (s.core r i).todo with
  | .send c l st :: _ => if s.coreQuiet r i then some (c, l, st) else none
  | _ => none

/-- The bottom crust rows of an intermediate layer's stripe go to the next core's copy of the same buffer (log entry 30). -/
def State.copyCrust (r i j c layer st : Nat) (s : State) : State :=
  match (s.layersOf c)[layer]? with
  | none => s
  | some l =>
    match s.bufferOf c l.outBuf with
    | none => s
    | some b =>
      let rows := stripeRows l b.h.toNat st
      let n := min l.crust.toNat rows
      let y0 := st * l.rows.toNat + rows - n
      let src := (s.coreMem r i).sp
      let (blocks, row) := rowShape b
      s.updCoreMem r j fun m =>
        { m with sp := (List.range blocks).foldl (fun sp cb => (range y0 n).foldl (fun sp y =>
            let a := b.offset.toNat + cb * b.cbPitch.toNat + y * b.rowPitch.toNat
            sp.writeN a (src.readN a row)) sp) m.sp }

/-- CRUST_ROW_TRANSFER from a slot: the crust rows of the intermediate layer's stripe that its core has just completed arrive at the next core of the cluster's
ring, unless the link still holds those of another stripe. Both cores then go on. -/
def execCrustRowTransfer (r : Fin 8) (slot : Fin 16) (s : State) : Host.Outcome State Fault Refusal :=
  let i := (mapGet (s.region r.val).slotMap slot.val).phys
  let next := slot.val / 4 * 4 + (slot.val + 1) % 4
  let j := (mapGet (s.region r.val).slotMap next).phys
  .next <|
    match s.sending r.val i with
    | none => s
    | some (c, layer, st) =>
      if s.aclkStopped r.val || (tget [] (s.region r.val).crust slot.val).any fun x => !(x.2 == st) then s
      else
        let s := (s.copyCrust r.val i j c layer st).updCore r.val i fun x => { x with todo := x.todo.drop 1 }
        ((s.updRegion r.val fun g => { g with crust := tupd [] g.crust slot.val (· ++ [(layer, st)]) }).feed r.val i).resumeRegion r.val

/-! ### BATCH_CLOSE (R286) -/

/-- Picture count and time of a batch close (settings 0x0007 and 0x0008). -/
def State.batchCount (s : State) : Nat := s.setting 7 16
def State.batchTime (s : State) : Nat := s.setting 8 5000 * 1000

/-- The batch of a context closes: its first pictures, at most the batch-close count, make one release whose deadline starts at the earliest ARRIVAL. -/
def State.closeBatch (c : Nat) (s : State) : State :=
  let x := s.ctx c
  let n := s.batchCount
  let taken := x.batch.take n
  match leastBy (fun a b => decide (a.2 < b.2)) taken with
  | none => s
  | some p =>
    let now := s.now
    let s := s.updCtx c fun x => { x with batch := x.batch.drop n, batchAt := now }
    (s.release c taken (p.2 + x.dctx)).judgeAll

/-- BATCH_CLOSE: at the picture count at once, else at its time after the first picture. -/
def execBatchClose (ctx : Fin 4096) (s : State) : Host.Outcome State Fault Refusal :=
  let x := s.ctx ctx.val
  .next <|
    if x.batch.isEmpty || !s.batches ctx.val || !s.dis.inService || s.isFrozen then s
    else if s.batchCount ≤ x.batch.length then s.closeBatch ctx.val
    else (s.waitUntil (x.batchAt + s.batchTime)).closeBatch ctx.val

/-! ### SWAP_COMPLETE (R177, R291) -/

/-- What a context that returns had handed out to the Millefeuille and not finished is handed out again; its fused groups start over with its layers. -/
def State.redispatch (r c : Nat) (s : State) : State :=
  ((s.layersOf c).zipIdx).foldl (fun (s : State) x =>
    let t := s.ctx c
    if t.started.contains x.2 && !t.layersDone.contains x.2 && x.1.lkind = 2 then s.dispatchGau r c x.2 x.1 else s) s

/-- The incoming context is RUNNING on its engine set. -/
def State.swapIn (r : Nat) (gau : Bool) (c : Nat) (s : State) : State :=
  let s := s.updRegion r fun g => if gau then { g with swapGau := none, gauCtx := some c } else { g with swapCores := none, coresCtx := some c }
  let s := s.updDis fun d => { d with swaps := d.swaps + 1 }
  s.updCtx c fun x => { x with state := 3 }

/-- What a context that has come in does: it begins its invocation, or takes up the one it left. -/
def State.runIn (r : Nat) (gau : Bool) (c : Nat) (s : State) : State :=
  let back := (s.ctx c).running.isSome
  let s := s.beginInv c
  let s := if gau then s.setMode r c
    else (mapped (s.region r).slotMap).foldl (fun s i => (s.loadCore r i c).updCore r i fun x => { x with loaded := false, shadowed := none }) s
  let s := if back then s.redispatch r c else s
  if back && (s.ctx c).layersDone.length == (s.layersOf c).length then s.completeInv c else ((s.startLayers r c).resumeRegion r).judgeAll

/-- SWAP_COMPLETE: the incoming context is RUNNING. -/
def execSwapComplete (r : Fin 8) (gau : Bool) (s : State) : Host.Outcome State Fault Refusal :=
  .next <|
    match (s.region r.val).swapping gau with
    | none => s
    | some c => if s.aclkStopped r.val then s else (s.swapIn r.val gau c).runIn r.val gau c

end Sys2Proof.Machine
end

