-- ==== Sys2Proof/Machine/SyncPool.lean ====
section
/-! DEFINITION. The commands of the sync objects (R302 to R304) and of the buffer pool manager (R346 to R351). -/

namespace Sys2Proof.Machine

/-! ### Sync objects -/

/-- SYN_SIGNAL: the object counts up, satisfied waiters go on, and the contexts that it releases are judged. -/
def execSynSignal (obj : U16) (n : U32) (s : State) : Host.Outcome State Fault Refusal := .next ((s.signalAll obj n).resumeAll)

/-- A running context leaves its engine set for a wait (R288). -/
def State.blockCtx (c : Nat) (obj : Option U16) (s : State) : State :=
  let x := s.ctx c
  if x.state = 3 then
    let now := s.now
    ((s.leave x.region x.gau c 4).updCtx c fun x => { x with wait := obj, blockedAt := now }).judgeAll
  else s

/-- The wait entry of a waiter that is not satisfied (R304). -/
def State.addWait (w : Waiter) (obj : U16) (v : U32) (s : State) : State :=
  let e : WaitEntry := { waiter := w, obj := obj, v := v, since := s.now }
  s.updSyn fun y => { y with waits := y.waits ++ [e] }

/-- The waiter stands still: a context leaves its engine set; a queue head and a TKE pipeline stand by their entry (`State.headWaits`). -/
def State.block (w : Waiter) (obj : U16) (s : State) : State :=
  match w with
  | .ctx c => s.blockCtx c.val (some obj)
  | .queueHead _ => s
  | .tke _ => s

/-- The waiter can issue a WAIT: a context while it runs, any other at any time, and each has one blocking wait at most (R288, R304). -/
def State.mayWait (s : State) (w : Waiter) : Bool :=
  !s.waits w && (match w with
    | .ctx c => (s.ctx c.val).state == 3
    | _ => true)

/-- SYN_WAIT: a WAIT that is satisfied when issued never blocks; any other gets its entry. -/
def execSynWait (w : Waiter) (obj : U16) (v : U32) (s : State) : Host.Outcome State Fault Refusal :=
  .next <|
    if !s.mayWait w then s
    else
      let s := s.updSyn fun y => { y with ops := y.ops + 1 }
      if satisfied (s.synValue obj) v then s else (s.addWait w obj v).block w obj

/-- SYN_RESET: the object takes `v`, and its waiters are checked again. -/
def execSynReset (obj : U16) (v : U32) (s : State) : Host.Outcome State Fault Refusal :=
  .next (((s.synSet obj v).releaseOn obj).resumeAll)

/-! ### Allocation (R347, R348) -/

/-- The pool is one of the plan's (R350; log entry 31). -/
def State.poolOk (s : State) (p : Nat) : Bool := (tfind s.bpm.pools p).isSome

/-- ALLOC and TRY: a free buffer, or a wait, or POOL_EMPTY. -/
def State.allocate (req : U16) (p : Nat) (wait : Bool) (s : State) : State :=
  if !s.bpm.inService then s
  else if !s.poolOk p then s.poolFault req (mkHandle p 0) 0x0301
  else
    match s.take req p with
    | some (h, s) => s.send (.bpmHandle req h)
    | none =>
      if wait then
        let s := s.updPool p fun g => { g with waits := satAdd g.waits 1, waiters := g.waiters ++ [req] }
        match ctxOfReq req with
        | some c => s.blockCtx c none
        | none => s
      else s.poolFault req (mkHandle p 0) 0x0308

/-- ALLOC. -/
def execAlloc (req : U16) (pool : Fin 64) (s : State) : Host.Outcome State Fault Refusal := .next (s.allocate req pool.val true)

/-- TRY. -/
def execTry (req : U16) (pool : Fin 64) (s : State) : Host.Outcome State Fault Refusal := .next (s.allocate req pool.val false)

/-! ### The release protocol (R347, R349, R350) -/

/-- The code of an operation on a handle that names no buffer in use; none where it names one. -/
def State.handleCode (s : State) (h : U32) : Option U16 :=
  if !s.handleOk h then some 0x0301 else if (s.buf h).isNone then some 0x0302 else none

/-- SHARE: by the named owner alone, while the share table has room (R351). -/
def execShare (req : U16) (h : U32) (holder : U16) (owner : U16) (s : State) : Host.Outcome State Fault Refusal :=
  .next <|
    if !s.bpm.inService then s
    else match s.handleCode h with
      | some code => s.poolFault req h code
      | none =>
        if (s.buf h).any fun b => b.owner != req then s.poolFault req h 0x0305
        else if s.sharesFull then s.poolFault req h poolShareFull
        else (s.shareBuf h holder owner).send (.bpmOk req)

/-- RELEASE: one share of the holder goes. -/
def execRelease (req : U16) (h : U32) (s : State) : Host.Outcome State Fault Refusal :=
  .next <|
    if !s.bpm.inService then s
    else match s.handleCode h with
      | some code => s.poolFault req h code
      | none =>
        if (s.buf h).any fun b => !b.shares.contains req then s.poolFault req h 0x0307
        else ((s.releaseBuf h req).send (.bpmOk req)).judgeAll

/-- FREE: once, by the named owner. -/
def execFree (req : U16) (h : U32) (s : State) : Host.Outcome State Fault Refusal :=
  .next <|
    if !s.bpm.inService then s
    else match s.handleCode h with
      | some code => s.poolFault req h code
      | none =>
        if (s.buf h).any fun b => b.owner != req then s.poolFault req h 0x0305
        else if (s.buf h).any (·.freed) then s.poolFault req h 0x0306
        else ((s.freeBuf h).send (.bpmOk req)).judgeAll

/-! ### BUFFER_ACCESS (R346) -/

/-- The natural size that an access is aligned to: 64 B for the block transfers of an engine (kinds 1 to 3 of R349), the element size for a core's. -/
def naturalSize (req : U16) (elem : Nat) : Nat := if 0x1000 ≤ req.toNat ∧ req.toNat < 0x4000 then 64 else max 1 elem

/-- The first check of R346 that an access fails. -/
def State.accessCode (s : State) (h : U32) (offset size natural : Nat) : Option U16 :=
  match s.handleCode h with
  | some code => some code
  | none =>
    if 2 ^ (s.pool (hPool h)).log2 < offset + size then some poolRange
    else if offset % natural ≠ 0 then some 0x0304
    else none

/-- The access that passed its checks: bytes written, or bytes returned with their poison mark; poisoned data read by a context is its fault (R168). -/
def State.accessBuffer (req : U16) (h : U32) (offset size : Nat) (write : Option (List Byte)) (s : State) : State :=
  let a := s.bufAddr h + offset
  match write with
  | some d => (s.dramPut a (padTo size d) false).send (.bpmOk req)
  | none =>
    let bad := s.poisonedAt a size
    let s := (s.notePoison a size).send (.bpmData req (s.dramBytes a size) bad)
    match ctxOfReq req with
    | some c => if bad then s.cxr c 1 0 0 0 else s
    | none => s

/-- BUFFER_ACCESS: an access that fails a check is not performed. -/
def execBufferAccess (req : U16) (h : U32) (offset : U32) (size : U32) (natural : U32) (write : Option (List Byte)) (s : State) :
    Host.Outcome State Fault Refusal :=
  .next <|
    if !s.bpm.inService then s
    else match s.accessCode h offset.toNat size.toNat (naturalSize req natural.toNat) with
      | some code => s.poolFault req h code
      | none => s.accessBuffer req h offset.toNat size.toNat write

end Sys2Proof.Machine
end

