-- ==== Sys2Proof/Machine/HostOps.lean ====
section
/-! DEFINITION. The host interface as operations on the state: when it works (R72, R361), read tags (R382), LTR (R386), dumps as bytes (R430 to R433), the
frame of a host command (R367, R372, R373), and the opening and closing of streams (R82 to R88). -/

namespace Sys2Proof.Machine

/-! ### When the host interface works (R72, R75) -/

/-- The function is ready: from step 6 of the boot, and where the boot ROM alone runs after a refusal (R75; log entry 32). -/
def State.funcReady (s : State) : Bool := s.wires.linkUp && !s.wires.l23 && (decide (4 ≤ s.crt.stage.toNat) || s.dev.state == .refused)

/-- BARs answer: the function is ready and Memory Space Enable is set. -/
def State.mmio (s : State) : Bool := s.funcReady && s.link.memSpace

/-- The rings work, and the device is in Run to use them (R365, R370). -/
def State.ringsWork (s : State) : Bool := s.funcReady && s.hif.ringEn && s.pwr.pstate == .run

/-! ### Tags (R382) -/

/-- The tag budget: the setting, and 256 without 10-bit tags. -/
def State.tagBudget (s : State) : Nat := if s.link.tag10 then s.setting 10 512 else min (s.setting 10 512) 256

/-- Tags in use: outstanding and quarantined. -/
def State.tagsUsed (s : State) : Nat := s.link.reads.length + s.link.quarantine.length

/-- The lowest free tag below the budget, none where `kept` tags must stay free. -/
def State.freeTag (s : State) (kept : Nat) : Option Nat :=
  if s.tagBudget ≤ s.tagsUsed + kept then none
  else (List.range s.tagBudget).find? fun t => !(s.link.reads.any fun r => r.tag == t) && !(s.link.quarantine.any fun r => r.tag == t)

/-- A read request goes out. -/
def State.issueRead (tag : Nat) (use : ReadUse) (addr : U64) (len : Nat) (s : State) : State :=
  let r : ReadReq := { tag := tag, use := use, at_ := s.now }
  (s.updLink fun l => { l with reads := l.reads ++ [r] }).send (.hostRead tag addr len)

/-- Outstanding reads of commands. -/
def State.cmdReads (s : State) : Nat := (s.link.reads.filter fun r => match r.use with | .command _ => true | _ => false).length

/-! ### LTR (R386) -/

/-- The tolerance to report, in ns; 0 for no requirement. -/
def State.ltrValue (s : State) : Nat :=
  if s.pwr.pstate == .slumber then 0
  else if (s.dec.slots.any fun t => t.2.pull && t.2.state != 0) || !s.hif.started.isEmpty || decide (0 < s.cmdReads) then 20000 else 1000000

/-- A change of the tolerance is reported while LTR is enabled. -/
def State.reportLtr (s : State) : State :=
  let v := s.ltrValue
  if !s.link.ltrOn || !s.funcReady || s.isFrozen || s.link.ltrSent == some v then s
  else (s.updLink fun l => { l with ltrSent := some v }).send (.ltr (if v = 0 then none else some v))

/-! ### Waking (R440, R341) -/

/-- A resident context is swapped in again after Slumber (R293): the swap counts, and the on-chip state it needs is loaded. -/
def State.swapBack (e : Nat × Nat × Nat) (s : State) : State :=
  let (r, _, c) := e
  let s := s.updDis fun d => { d with swaps := d.swaps + 1 }
  if (s.ctx c).gau then s else (mapped (s.region r).slotMap).foldl (fun s i => s.loadCore r i c) s

/-- The wake from Slumber completes: DCLK's PLL has locked, the channels that are not retired leave self-refresh, the maps are built from the repair list,
and the resident contexts return before any release is taken (R29, R293, R341). -/
def State.leaveSlumber (s : State) : State :=
  let now := s.now
  let s := s.updClk fun t => tupd {} t 10 fun p => { p with locked := true, relocks := satAdd p.relocks 1 }
  let s := (List.range 24).foldl (fun s k => s.updChan k fun c => if c.retired then c else { c with selfRefresh := false }) s
  let s := (List.range 8).foldl (fun s r => s.serveRegion r) s
  let s := s.dis.recorded.foldl (fun s e => s.swapBack e) s
  let s := s.updDis fun d => { d with recorded := [] }
  ((s.updPwr fun p => { p with pstate := .run, waking := false, wakeAt := none, idleAt := now }).resumeAll).reportLtr

/-- The device leaves Doze or Nap. -/
def State.leaveNap (s : State) : State :=
  let now := s.now
  (s.updPwr fun p => { p with pstate := .run, wakeAt := none, idleAt := now }).resumeAll

/-- What a TLP addressed to the device finds: a device that has woken to serve it (R125, R440). -/
def State.awake (s : State) : State :=
  match s.pwr.pstate with
  | .doze | .nap => s.leaveNap
  | .slumber => s.leaveSlumber
  | _ => s

/-- Bytes of a slot's ring, and where it lies. -/
def State.ringBytes (s : State) (n : Nat) : Nat := match s.entry n with | some e => e.ringBytes.toNat | none => 0
def State.ringBase (s : State) (n : Nat) : Nat := tget 0 s.adm.rings n

/-- Entries of a handoff ring, and where it starts (R329). -/
def handoffEntries : Nat := 1024
def handoffBase (n : Nat) : Nat := 0x03F00000 + n * 0x20000

/-- A poisoned TLP that the host interface receives is counted and logged (R385, R397). -/
def State.countPoison (h : Option TlpHead) (s : State) : State :=
  s.updLink fun l => { l with rxPoisoned := satAdd l.rxPoisoned 1, aerPoison := true, aerHead := if l.aerHead.isSome then l.aerHead else h }

/-! ### Windows (R362 to R364) -/

/-- The two areas: base and end, empty until admission has placed them (R329, R361). -/
def State.areaBounds (s : State) (handoff : Bool) : Nat × Nat :=
  if !s.adm.done then (0, 0)
  else if handoff then (handoffBase 0, handoffBase 4)
  else
    let base := s.hif.areaIngest.toNat * 65536
    (base, s.adm.rings.foldl (fun a e => max a (e.2 + s.ringBytes e.1)) base)

/-- The device addresses that a BAR2 access of `n` bytes reaches: where its window is enabled and maps it inside its area. -/
def State.windowTo (s : State) (addr : U64) (n : Nat) : Option Nat :=
  let size := 2 ^ s.link.bar2Log2 / 32
  let w := tget {} s.wins.active (addr.toNat / size % 32)
  let (lo, hi) := s.areaBounds w.area
  let a := lo + w.offset.toNat + addr.toNat % size
  if w.enable && decide (a + n ≤ hi) then some a else none

/-- The bytes lie inside the ring of an open push slot, or inside a handoff ring that the Recipe declares. -/
def State.writable (s : State) (a n : Nat) : Bool :=
  (s.adm.rings.any fun e => let t := s.slot e.1; t.state != 0 && !t.pull && decide (e.2 ≤ a ∧ a + n ≤ e.2 + s.ringBytes e.1))
    || ((List.range (min 4 (s.setting 12 0))).any fun k => s.serving && decide (handoffBase k ≤ a ∧ a + n ≤ handoffBase (k + 1)))

/-- A BAR2 write is performed, or dropped and counted. In FROZEN and in PARKED none is performed (R389, R390). -/
def State.bar2Put (addr : U64) (data : List Byte) (poisoned : Bool) (s : State) : State :=
  let drop := s.updWins fun w => { w with drops := satAdd w.drops 1 }
  if s.isFrozen || s.dev.state == .parked then drop
  else
    match s.windowTo addr data.length with
    | some a => if s.writable a data.length then s.dramPut a data poisoned else drop
    | none => drop

/-- A BAR2 write as the host interface takes it: a poisoned one is counted and may freeze the device (R385, R390). -/
def State.bar2Take (addr : U64) (data : List Byte) (poisoned : Bool) (s : State) : State :=
  let s := s.bar2Put addr data poisoned
  if poisoned then (s.countPoison (some (.write 2 addr))).freeze else s

/-- A BAR2 read completes with data, EP where they are poisoned, or with Unsupported Request. -/
def State.bar2Get (addr : U64) (n : Nat) (s : State) : State :=
  match s.windowTo addr n with
  | some a => if s.dev.state == .parked then s.send .unsupported else (s.notePoison a n).answer a (s.dramBytes a n) fun off len => s.poisonedAt (a + off) len
  | none => s.send .unsupported

/-- A TLP of BAR2 through the active descriptors. -/
def State.runTlp (t : Bar2Tlp) (s : State) : State :=
  match t with
  | .write a d p => s.bar2Take a d p
  | .read a n => s.bar2Get a n

/-- The window commit completes: the shadow descriptors become active, and the TLPs that waited proceed in order (R363). -/
def State.commitDone (s : State) : State :=
  if !s.wins.busy then s
  else
    let held := s.wins.held
    let hold := BitVec.ofNat 14 (satN 14 ((s.now - s.wins.commitAt) / 2))
    let s := s.updWins fun w => { w with busy := false, active := w.shadow, holdMax := if w.holdMax.toNat < hold.toNat then hold else w.holdMax, held := [] }
    held.foldl (fun s t => s.runTlp t) s

/-- The device as the next TLP of a BAR finds it: awake, and with no window commit in progress, for a TLP after the commit point waits until the commit is done
(R363; log entry 18). -/
def State.taken (s : State) : State := s.awake.commitDone

/-- An access through a BAR has its effect while the function answers, and wakes the device; it waits for a window commit in progress. -/
def State.onMmio (f : State → State) (s : State) : State := if s.mmio then f s.taken else s

/-- An access that the host interface takes during a window commit as well: BAR2 TLPs, which then wait in its buffer, and GO (R363). -/
def State.onMmioNow (f : State → State) (s : State) : State := if s.mmio then f s.awake else s

/-! ### Dumps (R430 to R433) -/

/-- The base of the AON block, whose dump entry is LIVE (R427). -/
def aonBase : Nat := 0x3400000

/-- FLAGS of a block's directory entry. -/
def Dump.flags (d : Dump) (base : Nat) : Nat :=
  bit (decide (base ∈ d.missed)) + 2 * bit (base == aonBase) + 4 * bit (decide (base ∈ d.offBlk))

/-- A block's image: its words, 0 for a block that is off, 0x0BAD_CAFE for one not captured. -/
def Dump.block (d : Dump) (b : Nat × Nat) : List Byte :=
  (List.range b.2).flatMap fun i =>
    le 4 (if b.1 ∈ d.missed then 0x0BADCAFE else if b.1 ∈ d.offBlk then 0 else (tget 0 d.image (b.1 + 4 * i)).toNat)

/-- BYTES of a dump. -/
def dumpLength : Nat := 64 + 16 * blocks.length + 4 * blocks.foldl (fun a b => a + b.2) 0

/-- The directory. -/
def Dump.directory (d : Dump) : List Byte :=
  (blocks.foldl (fun (a : List Byte × Nat) b =>
    (a.1 ++ le 4 b.1 ++ le 4 b.2 ++ le 4 a.2 ++ le 4 (d.flags b.1), a.2 + 4 * b.2)) ([], 64 + 16 * blocks.length)).1

/-- The header with a CRC word. -/
def Dump.header (d : Dump) (crc : U32) : List Byte :=
  le 4 0x504D5544 ++ le 4 d.id.toNat ++ le 8 d.at_.toNat ++ [d.trigger, d.epoch, d.state, 0] ++ le 4 d.reason.toNat ++ le 4 dumpLength
    ++ le 2 blocks.length ++ le 2 d.missed.length ++ zeros 28 ++ le 4 crc.toNat

/-- The bytes of a dump. -/
def Dump.bytes (d : Dump) : List Byte :=
  let body := d.directory ++ blocks.flatMap d.block
  d.header (crc32c (d.header 0 ++ body)) ++ body

/-- The dump of a number: the newest for 0; from the DRAM region where it lies there, else from the dump SRAM. -/
def State.findDump (s : State) (id : U32) : Option Dump :=
  let all := s.dbg.dram ++ s.dbg.sram
  if id = 0 then leastBy (fun (a b : Dump) => decide (b.id.toNat < a.id.toNat)) all else all.find? fun d => d.id == id

/-- Where a dump of the DRAM region lies: the region's first MiB is its index, and the dumps take its slots of 1 MiB in turn (R431; log entry 119). -/
def State.dumpPlace (s : State) (d : Dump) : Option Nat :=
  if d ∈ s.dbg.dram then some (s.adm.dumpBase + 2 ^ 20 * (1 + (d.id.toNat - 1) % 255)) else none

/-- Bytes of a dump from an offset lie in a poisoned block of its place in the DRAM region (R385). -/
def State.dumpBad (s : State) (d : Dump) (from_ off len : Nat) : Bool :=
  (s.dumpPlace d).any fun a => s.poisonedAt (a + from_ + off) (min len (dumpLength - (from_ + off)))

/-- Bytes of a dump are read from its place in the DRAM region: each mark counts (R335). -/
def State.noteDump (d : Dump) (off len : Nat) (s : State) : State :=
  match s.dumpPlace d with
  | some a => s.notePoison (a + off) (min len (dumpLength - off))
  | none => s

/-- `n` bytes of a dump from an offset, 0 beyond its end. -/
def Dump.slice (d : Dump) (off n : Nat) : List Byte := padTo n ((d.bytes.drop off).take n)

/-! ### The frame of a command (R367, R372, R373) -/

/-- The oldest outstanding command read completes, and GET moves on; a command given with no read outstanding leaves both (log entry 33). -/
def State.takeRead (s : State) : State :=
  match s.link.reads.find? fun r => match r.use with | .command _ => true | _ => false with
  | some r => (s.updLink fun l => { l with reads := l.reads.filter fun q => !(q.tag == r.tag) }).updHif fun h => { h with cmdGet := h.cmdGet + 1 }
  | none => s

/-- Bytes of the arguments of a command, by OPCODE (R372, R129, R216). -/
def argBytes (op : Byte) : Nat :=
  match op.toNat with
  | 0x01 => 8
  | 0x02 => 24
  | 0x03 => 2
  | 0x04 => 24
  | 0x05 => 1
  | 0x06 => 1
  | 0x07 => 4
  | 0x08 => 32
  | 0x09 => 4
  | 0x0A => 4
  | 0x0C => 8
  | 0x0D => 1
  | _ => 0

/-- What a served command gets: the state check comes first, then the zero fields, with the unused bytes of ARGS
among them (R368, R373; log entry 14). -/
def State.command (op : Byte) (c : Cmd) (served : DevState → Bool) (f : State → State) (s : State) : State :=
  if !s.ringsWork then s
  else
    let s := s.takeRead
    let s :=
      if !served s.dev.state then s.reply c.tag op 0 (if s.isFrozen then stFrozen else stState) []
      else if !c.zeroFrom (argBytes op) then s.reply c.tag op 0 stBadArg []
      else f s
    s.reportLtr

/-- The states that serve a command. -/
def inRun (d : DevState) : Bool := d == .run
def inService (d : DevState) : Bool := d == .run || d == .degraded
def inServiceF (d : DevState) : Bool := d == .run || d == .degraded || d == .frozen
def inServiceX (d : DevState) : Bool := d == .run || d == .degraded || d == .refused
def notParked (d : DevState) : Bool := d != .parked
def anyState (_ : DevState) : Bool := true

/-- Bytes of the arguments that must be zero. -/
def argZero (c : Cmd) (off n : Nat) : Bool := field c.args off n == 0

/-- An argument. -/
def arg (c : Cmd) (off n : Nat) : Nat := field c.args off n

/-- A command is started, and replies later. -/
def State.startCommand (op : Byte) (tag : U16) (key : Nat) (s : State) : State :=
  s.updHif fun h => { h with started := h.started ++ [{ opcode := op, tag := tag, key := key }] }

/-! ### Opening and closing streams (R82 to R88) -/

/-- The key of a started STREAM_OPEN or STREAM_CLOSE that waits for its turn (R85): no slot number. -/
def waitKey : Nat := 65536

/-- The slot opens, and replies ST_OK (R87). -/
def State.openWith (c : Cmd) (n : Nat) (s : State) : State :=
  let s := s.openSlot n (BitVec.ofNat 64 (arg c 8 8)) (BitVec.ofNat 64 (arg c 16 8))
  (s.setSlack).reply c.tag 0x02 0 stOk []

/-- STREAM_OPEN in Run or DEGRADED. -/
def State.doOpen (c : Cmd) (s : State) : State :=
  let n := arg c 0 2
  let no (code : U16) : State := s.reply c.tag 0x02 0 code []
  match s.entry n, s.crt.recipe with
  | some e, some r =>
    if (s.slot n).state ≠ 0 then no 0x0036
    else if (e.ingest = 0 && arg c 8 8 != 0) || (e.ingest = 1 && arg c 8 8 % 4096 != 0) then no stBadArg
    else if s.dev.state == .degraded then no s.adm.failing
    else if isReserve e then s.openWith c n
    else
      match s.readmitWith r (insertN n s.adm.slots) with
      | .ok a =>
        let s := (s.applyAdm (insertN n s.adm.slots) a).openWith c n
        let moving := s.freqMoving
        s.updSdec n fun d => { d with awaitFreq := moving }
      | .error f => no f.code
  | _, _ => no 0x0035

/-- A slot moves to DRAIN: units that no engine has started to parse and entries that the pixel half has not started are discarded (R88). -/
def State.drainSlot (n : Nat) (s : State) : State :=
  let s := s.updSlot n fun t => { t with state := 4, aus := t.aus.filter fun a => a.stage != .waiting }
  let s := s.updSdec n fun d => { d with draining := true }
  let s := s.discardEntries n
  if s.slotBusy n then s else s.finishClose n

/-- STREAM_CLOSE in Run or DEGRADED. -/
def State.doClose (c : Cmd) (s : State) : State :=
  let n := arg c 0 2
  if (s.entry n).isNone then s.reply c.tag 0x03 0 0x0035 []
  else if (s.slot n).state = 0 then s.reply c.tag 0x03 0 0x0040 []
  else (s.startCommand 0x03 c.tag n).drainSlot n

/-- A close is in progress. -/
def State.closing (s : State) : Bool := s.dec.decs.any fun d => d.2.draining

/-- A re-admission after a close in Run: one that fails changes nothing (R35). -/
def State.readmitRun (s : State) : State :=
  match s.readmit with
  | (t, none) => t
  | (_, some _) => s

/-- After a close, the reservation of a slot without RESERVE is released, and a re-admission follows (R84, R35, R38). -/
def State.dropReservations (s : State) : State :=
  let keep := s.adm.slots.filter fun n => (s.slot n).state != 0 || (match s.entry n with | some e => isReserve e | none => false)
  if keep == s.adm.slots && !s.dec.readmitDue then s
  else
    let s := ((s.updAdm fun a => { a with slots := keep }).updDec fun d => { d with readmitDue := false }).setSlack
    if s.dev.state == .degraded || (s.isFrozen && s.dev.thawTo == .degraded) then s.readmit.1
    else if s.dev.state == .run || s.isFrozen then s.readmitRun
    else s

/-- POWER_OFF is 1 and the device has still to park. -/
def State.parking (s : State) : Bool := s.dev.powerOff && s.dev.state != .parked && s.dev.state != .refused

/-- Waiting STREAM_OPEN and STREAM_CLOSE commands are handled one at a time, in order (R85); none once POWER_OFF is 1. -/
def State.serveStreams : Nat → State → State
  | 0, s => s
  | k + 1, s =>
    match s.hif.streams with
    | [] => s
    | (op, c) :: rest =>
      if s.closing || s.parking then s
      else
        let s := s.updHif fun h =>
          { h with streams := rest, started := h.started.filter fun d => !(d.opcode == op && d.tag == c.tag && d.key == waitKey) }
        let s := if op = 0x02 then s.doOpen c else s.doClose c
        State.serveStreams k s.dropReservations

/-- Every condition of Off holds: D3hot, T_eff of 6 s, no open slot and no session, and the link in L2/L3 Ready. -/
def State.mayOff (s : State) : Bool :=
  s.link.d3hot && s.wires.l23 && decide (6000000 ≤ s.tEff) && s.dec.slots.all (fun t => t.2.state == 0) && s.enc.sess.all (fun x => x.2.state == 0)

/-- The pending records and a life record are written, where the cartridge of the Recipe in force is present (R442). -/
def State.writeAll (s : State) : State :=
  if s.crt.present && s.crt.sameCart then
    ((s.crt.pend.map (·.payload)) ++ [s.lifeRecord]).foldl (fun s p => (if s.tight (s.written p) then s.reclaim else s).storeRecord (s.written p) []) s
  else s

/-- The device enters Off: everything but the AON, the wires and the cartridge is lost. -/
def State.enterOff (s : State) : State :=
  let s := s.writeAll
  let t := s.aon.time
  let s := s.clearChip
  let s := ((s.updDbg fun _ => {}).updRst fun _ => {}).updDev fun _ => {}
  let s := s.updWires fun w => { w with cartVcc := false }
  (s.updAon fun a => { a with offAt := t, wdogArmed := false }).updPwr fun p => { p with pstate := .off }

/-- The device enters Off where it may. -/
def State.tryOff (s : State) : State := if s.pwr.pstate != .off && s.mayOff then s.enterOff else s

/-- The encode engines pause between pictures while the hub die throttles (R450). -/
def State.encPaused (s : State) : Bool := (tget {} s.pwr.dies 0).throttle

/-- Step 1 of R389 is done: every slot is closed, and no clip session has a picture in encode or one that an engine could still take. -/
def State.parkReady (s : State) : Bool :=
  s.dec.slots.all (fun t => t.2.state == 0) && s.enc.engs.all (fun e => e.2.job.isNone)
    && (s.isFrozen || s.encPaused || s.enc.sess.all fun x => x.2.queue.isEmpty)

/-- The device parks: the sessions left end with END_CAUSE 3, DRAM enters self-refresh, every domain but the PCIe controller and the CRT is off, and DEV_STATE becomes
PARKED. Commands started and not done are lost. -/
def State.park (s : State) : State :=
  let s := (List.range 64).foldl (fun s n => s.endNow n 3) s
  let lost := s.hif.started.filter fun d => d.opcode != 0x0D
  let s := s.updHif fun h => { h with started := h.started.filter fun d => d.opcode == 0x0D, streams := [] }
  let s := lost.foldl (fun s c => s.reply c.tag c.opcode 0 stCmdLost []) s
  let s := s.updCal fun _ => {}
  let s := s.updCse fun t => (tkeys t).foldl (fun t e => tupd {} t e fun g => { g with running := none, queue := [] }) t
  let s := ((s.updDis fun d => { d with jobs := [] }).updBpm fun b => { b with inService := false }).updTke fun k => { k with inService := false }
  let s := (List.range 24).foldl (fun s k => s.updChan k fun c => { c with selfRefresh := c.selfRefresh || c.trained }) s
  (s.updDev fun d => { d with state := .parked }).reportLtr

/-- The device parks where it may. -/
def State.tryPark (s : State) : State := if s.parking && s.parkReady then s.park else s

/-- What waits for the last slot to close and the last clip session to end: parking (R389) and Off (R442). -/
def State.rest (s : State) : State := s.tryPark.tryOff

/-- What follows a command that may have ended a close or a clip session. -/
def State.afterClose (s : State) : State :=
  let s := s.dropReservations
  (s.serveStreams s.hif.streams.length).reportLtr.rest

/-- STREAM_OPEN and STREAM_CLOSE wait their turn. -/
def State.streamCommand (op : Byte) (c : Cmd) (s : State) : State :=
  let s := (s.startCommand op c.tag waitKey).updHif fun h => { h with streams := h.streams ++ [(op, c)] }
  s.afterClose

end Sys2Proof.Machine
end

