-- ==== Sys2Proof/Machine/HostCmd.lean ====
section
/-! DEFINITION. The host commands (R367 to R375), less those of clip sessions. -/

namespace Sys2Proof.Machine

/-! ### The command ring (R366, R367) -/

/-- A producer or consumer index write that is out of range raises attention of class fault with ST_RING (R366). -/
def State.badRing (s : State) : State := s.attention 0 stRing 0 0

/-- A PUT of the command ring: one beyond the ring is ignored. -/
def State.putCmd (v : U32) (s : State) : State :=
  if 2 ^ s.hif.cmdLog2.toNat < ringUsed v s.hif.cmdGet then s.badRing
  else s.updHif fun h => { h with cmdPut := v }

/-- HIF_CMD_PUT. -/
def execHifCmdPut (v : U32) (s : State) : Host.Outcome State Fault Refusal := .next <| s.onMmio (State.putCmd v)

/-- A command may be read: fewer than 64 are started, and the reply ring has room for each of them and one more. -/
def State.mayFetch (s : State) : Bool :=
  let n := s.hif.started.length + s.cmdReads
  s.ringsWork && s.hif.cmdIssued != s.hif.cmdPut && decide (n < 64)
    && decide (ringUsed s.hif.rplPut s.hif.rplGet + n + 1 ≤ 2 ^ s.hif.rplLog2.toNat)

/-- COMMAND_FETCH: the read of the next entry, where a tag is free. -/
def execCommandFetch (s : State) : Host.Outcome State Fault Refusal :=
  .next <|
    match s.freeTag 0 with
    | some t =>
      if s.mayFetch then
        let i := s.hif.cmdIssued
        let addr := s.hif.cmdBase + BitVec.ofNat 64 (64 * (i.toNat % 2 ^ s.hif.cmdLog2.toNat))
        ((s.issueRead t (.command i) addr 64).updHif fun h => { h with cmdIssued := h.cmdIssued + 1 }).reportLtr
      else s
    | none => s

/-- UNKNOWN_OPCODE. -/
def execUnknownOpcode (op : Byte) (c : Cmd) (s : State) : Host.Outcome State Fault Refusal :=
  .next <| if s.ringsWork then ((s.takeRead).reply c.tag op 0 stBadOpcode []).reportLtr else s

/-- The tag of the oldest outstanding command read. -/
def State.readTag (s : State) : Option Nat := (s.link.reads.find? fun r => match r.use with | .command _ => true | _ => false).map (·.tag)

/-- The ring index of the oldest outstanding command read. -/
def State.readIndex (s : State) : U32 :=
  match s.link.reads.findSome? fun r => match r.use with | .command i => some i | _ => none with
  | some i => i
  | none => s.hif.cmdGet

/-- LOST_COMMAND: the command is not executed (R369, R373). A poisoned entry may freeze the device (R390). -/
def execLostCommand (poisoned : Bool) (s : State) : Host.Outcome State Fault Refusal :=
  .next <|
    if !s.ringsWork then s
    else
      let i := s.readIndex
      let s := if poisoned then (s.countPoison (s.readTag.map .completion)).freeze else s
      ((s.takeRead).reply 0 0xFF 0 stCmdLost (le 4 i.toNat)).reportLtr

/-! ### QUERY (R374) -/

/-- A QUERY of a SUBOP with its payload. -/
def State.query (sub : Nat) (c : Cmd) (f : State → State) (s : State) : State :=
  s.command 0x01 c anyState (fun s => if arg c 0 1 = sub && argZero c 1 3 then f s else s.reply c.tag 0x01 0 stBadArg []) 

/-- Open slots. -/
def State.openSlots (s : State) : Nat := (s.dec.slots.filter fun t => t.2.state != 0).length

/-- QUERY DEVICE. -/
def execQueryDevice (c : Cmd) (s : State) : Host.Outcome State Fault Refusal :=
  .next <| s.query 0 c fun s =>
    let (rel, fw) := match s.crt.recipe with
      | some r => (r.header.weondRelease.toNat, r.fwVersion.toNat)
      | none => (0, 0)
    s.reply c.tag 0x01 0 stOk
      (le 4 rel ++ le 4 fw ++ le 2 (10 * s.adm.fAdm) ++ le 2 s.pwr.limit ++ le 2 s.openSlots ++ zeros 2 ++ le 8 s.cartId.toNat)

/-- QUERY ATTENTION: exactly the bits returned are cleared (R371). -/
def execQueryAttention (c : Cmd) (s : State) : Host.Outcome State Fault Refusal :=
  .next <| s.query 1 c fun s =>
    let p := s.hif.attn
    let codes := (List.range 8).flatMap fun k => le 2 (tget 0 s.hif.attnCode k).toNat
    let s := s.updHif fun h => { h with attn := 0, attnWait := [] }
    s.reply c.tag 0x01 0 stOk (le 1 p.toNat ++ zeros 1 ++ codes ++ zeros 6)

/-- QUERY REFUSAL. -/
def execQueryRefusal (c : Cmd) (s : State) : Host.Outcome State Fault Refusal :=
  .next <| s.query 2 c fun s =>
    let d := s.dev
    s.reply c.tag 0x01 0 stOk (le 2 d.refCode.toNat ++ le 1 d.refKind.toNat ++ zeros 1 ++ le 4 d.refIndex.toNat ++ le 2 d.refPlan.toNat)

/-- PIC_NUM of the last picture published: they count from 0 (R118). -/
def State.lastPicNum (s : State) (n : Nat) : U32 := if (s.sdec n).published = 0 then 0 else (s.sdec n).published - 1

/-- QUERY SLOT. -/
def execQuerySlot (c : Cmd) (s : State) : Host.Outcome State Fault Refusal :=
  .next <| s.query 3 c fun s =>
    let n := arg c 4 4
    if 512 ≤ n then s.reply c.tag 0x01 0 stBadArg []
    else
      let base := 0x100000 + 0x40 * n
      s.reply c.tag 0x01 0 stOk (le 4 (s.readDec (base + 8)).toNat ++ le 4 (s.readDec (base + 0x10)).toNat ++ le 4 (s.slot n).get.toNat
        ++ le 4 (s.slot n).put.toNat ++ le 4 (s.lastPicNum n).toNat)

/-- QUERY TIME. -/
def execQueryTime (c : Cmd) (s : State) : Host.Outcome State Fault Refusal :=
  .next <| s.query 4 c fun s =>
    s.reply c.tag 0x01 0 stOk (le 8 s.now ++ le 4 s.dev.ptmOffset.toNat ++ le 1 (bit s.dev.synced))

/-- QUERY ADMISSION. -/
def execQueryAdmission (c : Cmd) (s : State) : Host.Outcome State Fault Refusal :=
  .next <| s.query 5 c fun s =>
    let a := s.adm
    s.reply c.tag 0x01 0 stOk (le 4 a.traffic ++ le 4 a.trafficMax ++ le 4 a.linkUse ++ le 4 a.cseMpix ++ le 4 a.decLoad ++ le 4 a.b11us)

/-! ### Streams -/

/-- STREAM_OPEN. -/
def execStreamOpen (c : Cmd) (s : State) : Host.Outcome State Fault Refusal :=
  .next <| s.command 0x02 c inService fun s =>
    if argZero c 2 6 then s.streamCommand 0x02 c else s.reply c.tag 0x02 0 stBadArg []

/-- STREAM_CLOSE. -/
def execStreamClose (c : Cmd) (s : State) : Host.Outcome State Fault Refusal :=
  .next <| s.command 0x03 c inService fun s => s.streamCommand 0x03 c

/-! ### Snapshots and dumps -/

/-- SNAPSHOT: Glaze fires with the REASON, or the strobe is merged; the reply names the dump being collected (R427, R429). -/
def execSnapshot (c : Cmd) (s : State) : Host.Outcome State Fault Refusal :=
  .next <| s.command 0x07 c inServiceF fun s =>
    let s := s.glaze 0 (BitVec.ofNat 32 (arg c 0 4))
    s.reply c.tag 0x07 0 stOk (le 4 (match s.dbg.current with | some d => d.id.toNat | none => 0))

/-- DUMP_READ: to host memory, or through BAR4 (R372, R433; log entry 34). -/
def execDumpRead (c : Cmd) (s : State) : Host.Outcome State Fault Refusal :=
  .next <| s.command 0x08 c notParked fun s =>
    let off := arg c 8 8
    let len := arg c 16 4
    let host := arg c 24 8
    if !argZero c 4 4 || !argZero c 20 4 || off % 4096 != 0 || (host != 0 && decide (16777216 < len)) then s.reply c.tag 0x08 0 stBadArg []
    else
      match s.findDump (BitVec.ofNat 32 (arg c 0 4)) with
      | none => s.reply c.tag 0x08 0 0x0010 []
      | some d =>
        if dumpLength ≤ off then s.reply c.tag 0x08 0 0x0010 []
        else
          let s := if host = 0 then s.updDbg fun g => { g with bar4 := d.id, bar4Off := BitVec.ofNat 32 off }
            else (s.noteDump d off len).hostPut (BitVec.ofNat 64 host) (d.slice off len) false (s.dumpBad d off)
          s.reply c.tag 0x08 0 stOk (le 8 dumpLength ++ le 4 d.missed.length)

/-! ### Latency tolerance, resets, freeze -/

/-- SET_LAT_TOL (R438). -/
def execSetLatTol (c : Cmd) (s : State) : Host.Outcome State Fault Refusal :=
  .next <| s.command 0x09 c inService fun s =>
    let s := s.updPwr fun p => { p with tol := BitVec.ofNat 32 (arg c 0 4) }
    s.reply c.tag 0x09 0 stOk (le 1 (deepestFor s.tEff))

/-- The scope that RESET_REQ names, or the code that refuses it (R372, R422). -/
def resetScope (level kind index : Nat) : Except U16 ResetScope :=
  if level = 1 then
    if 5 < kind then .error stBadArg
    else if index < 4096 && unitPresent (mkUnit kind index) then .ok (.unit (mkUnit kind index))
    else .error 0x0011
  else if level = 2 then (if h : kind < 10 then .ok (.part ⟨kind, h⟩) else .error 0x0011)
  else if level = 3 then .ok .chip
  else .error stBadArg

/-- RESET_REQ: the reply is posted, then the reset starts. -/
def execResetReq (c : Cmd) (s : State) : Host.Outcome State Fault Refusal :=
  .next <| s.command 0x0A c inServiceF fun s =>
    match resetScope (arg c 0 1) (arg c 1 1) (arg c 2 2) with
    | .error code => s.reply c.tag 0x0A 0 code []
    | .ok scope => ((s.reply c.tag 0x0A 0 stOk []).startReset scope 0x050A true).afterClose

/-- The freeze ends (R391): open slots wait for a key picture, sessions carry GAP, the waiting attention and records go out, the engines resume. -/
def State.thaw (s : State) : State :=
  let s := s.updDev fun d => { d with state := d.thawTo }
  let s := (List.range 512).foldl (fun s n => if (s.slot n).state = 0 || (s.slot n).state = 4 then s else s.toWaitKey n) s
  let s := s.updEnc fun e => { e with sess := e.sess.map fun x => (x.1, if x.2.state = 0 then x.2 else { x.2 with wantKey := true, wantGap := true }) }
  let held := s.dev.heldAttn
  let s := s.updDev fun d => { d with heldAttn := [] }
  let s := held.foldl (fun s a => s.setAttn a.1 a.2) s
  let s := s.drainRings
  let s := (List.range 64).foldl (fun s n => if (s.sess n).state = 0 then s else s.clipRoom n) s
  ((s.drainJobs s.dis.jobs.length).resumeAll).reportLtr

/-- RELEASE_FREEZE. -/
def execReleaseFreeze (c : Cmd) (s : State) : Host.Outcome State Fault Refusal :=
  .next <| s.command 0x0B c (· == .frozen) fun s => (s.thaw).reply c.tag 0x0B 0 stOk []

/-! ### CALIBRATE (R216) -/

/-- An argument of CALIBRATE: 0 takes its default, any other value lies in its range. -/
def calArg (v lo hi dflt : Nat) : Option Nat := if v = 0 then some dflt else if lo ≤ v ∧ v ≤ hi then some v else none

/-- A run starts, or is refused. -/
def State.doCalibrate (c : Cmd) (s : State) : State :=
  let no (code : U16) : State := s.reply c.tag 0x0C 0 code []
  let mode := arg c 0 1
  match calArg (arg c 2 2) 100 20000 2000, calArg (arg c 4 2) 64 8192 512, calArg (arg c 6 2) 10 1800 900 with
  | some steps, some tracks, some limit =>
    if !argZero c 1 1 || (mode != 1 && mode != 2) then no stBadArg
    else if s.cal.running then no 0x0050
    else if mode = 1 && !s.crt.present then no 0x0030
    else if mode = 1 && s.crt.worn then no 0x0031
    else
      let now := s.now
      (s.startCommand 0x0C c.tag 0).updCal fun _ =>
        { running := true, tag := c.tag, mode := BitVec.ofNat 8 mode, steps := steps, minTracks := tracks, deadline := now + limit * 1000000000 }
  | _, _, _ => no stBadArg

/-- CALIBRATE. -/
def execCalibrate (c : Cmd) (s : State) : Host.Outcome State Fault Refusal := .next <| s.command 0x0C c inRun fun s => s.doCalibrate c

/-! ### CART_WRITE (R61) -/

/-- The checks of CART_WRITE: the operation byte, the cartridge, its header. -/
def State.cartWrite (opByte : Nat) (c : Cmd) (f : State → State) (s : State) : State :=
  s.command 0x0D c inServiceX fun s =>
    if s.dev.state == .refused && s.crt.present && !s.crt.verified then s.reply c.tag 0x0D 0 0x0032 []
    else if arg c 0 1 != opByte then s.reply c.tag 0x0D 0 stBadArg []
    else if !s.crt.present then s.reply c.tag 0x0D 0 0x0030 []
    else if !s.crt.verified || !s.crt.sameCart then s.reply c.tag 0x0D 0 0x0032 []
    else f s

/-- FLUSH. -/
def execFlush (c : Cmd) (s : State) : Host.Outcome State Fault Refusal :=
  .next <| s.cartWrite 1 c fun s => (s.startCommand 0x0D c.tag 0).flushRecords c.tag false

/-- DISCARD_ADAPTER: it ends the hold, and a record of an empty adapter is written; with no erase life left the device refuses it (R61, R64). -/
def execDiscardAdapter (c : Cmd) (s : State) : Host.Outcome State Fault Refusal :=
  .next <| s.cartWrite 2 c fun s =>
    let s := s.updCrt fun d => { d with hold := false }
    if s.crt.worn then (s.reply c.tag 0x0D 0 0x0031 []).kickWrite
    else (s.startCommand 0x0D c.tag 0).pendRecord (.adapter none) .discard (some c.tag) false

/-- PREPARE_REMOVAL. -/
def execPrepareRemoval (c : Cmd) (s : State) : Host.Outcome State Fault Refusal :=
  .next <| s.cartWrite 3 c fun s => (s.startCommand 0x0D c.tag 0).flushRecords c.tag true

end Sys2Proof.Machine
end

