-- ==== Sys2Proof/Machine/Motion.lean ====
section
/-! DEFINITION. What the encode engines work with: source pictures in device DRAM and the queues of the engines that scale them (R117, R118, R134, R278),
levels and quantisers (R133, R137), the motion search (R135, R136, R140) and the coded stream (R133, R143). -/

namespace Sys2Proof.Machine

/-! ### The source picture (R117, R118, R134) -/

/-- A picture in device DRAM, as its descriptor gives it. -/
structure CsePic where
  slot     : Nat
  flags    : U16
  arrival  : Nat
  width    : Nat
  height   : Nat
  cropX    : Nat
  cropY    : Nat
  buf      : U32
  base     : Nat
  pitch    : Nat
  chroma   : Nat
  mv       : U32
  mvCols   : Nat
  mvRows   : Nat
deriving DecidableEq, Repr

/-- The picture that a descriptor in device DRAM describes. -/
def State.picAt (s : State) (addr : Nat) : CsePic :=
  let b := s.dramBytes addr 64
  let h := BitVec.ofNat 32 (field b 0x20 4)
  { slot := field b 0 2, flags := BitVec.ofNat 16 (field b 2 2), arrival := field b 8 8, width := field b 0x18 2, height := field b 0x1A 2
    cropX := field b 0x1C 2, cropY := field b 0x1E 2, buf := h, base := s.bufAddr h, pitch := field b 0x24 4, chroma := field b 0x28 4
    mv := BitVec.ofNat 32 (field b 0x2C 4), mvCols := field b 0x30 2, mvRows := field b 0x32 2 }

/-- TEN_BIT of the picture. -/
def CsePic.ten (p : CsePic) : Bool := p.flags.getLsbD 4

/-- Bytes of a sample. -/
def CsePic.bps (p : CsePic) : Nat := if p.ten then 2 else 1

/-- The address of a luma sample, and of a chroma sample, of the display window. -/
def CsePic.lumaAt (p : CsePic) (y x : Nat) : Nat := p.base + (p.cropY + y) * p.pitch + (p.cropX + x) * p.bps
def CsePic.chromaAt (p : CsePic) (c y x : Nat) : Nat :=
  p.base + p.chroma + (p.cropY / 2 + y) * p.pitch + ((p.cropX / 2 + x) * 2 + c) * p.bps

/-- Bytes of the buffer up to the end of the display window's chroma rows. -/
def CsePic.span (p : CsePic) : Nat := p.chroma + (p.cropY / 2 + cdiv p.height 2) * p.pitch

/-- The check of R346 that the source picture fails: its reads are then not performed, and the output is that of a read that could not be corrected (DESIGN
CHOICE; log entry 126). -/
def State.picCode (s : State) (p : CsePic) : Option U16 :=
  match s.handleCode p.buf with
  | some c => some c
  | none => if 2 ^ (s.pool (hPool p.buf)).log2 < p.span then some poolRange else none

/-- The 8-bit sample at an address (R134, R280). -/
def State.sample8 (s : State) (p : CsePic) (a : Nat) : Nat :=
  if p.ten then min 255 ((unle (s.dramBytes a 2) / 64 + 2) / 4) else unle (s.dramBytes a 1)

/-! ### Scaling for a clip (R134) -/

/-- The SCALE job of a source picture: the template of the event-logic plan, or one that signals no sync object, with the picture, the size and the output filled in. -/
def scaleJob (r : Cartridge) (q : SrcPic) (w h : Nat) (out : U32) : CseJob :=
  let t := ((recEvent r).bind fun p => p.cseJobs.find? fun j => j.job == 2).getD { (default : CseJob) with sync := 0xFFFFFFFF }
  { t with job := 2, ofmt := 1, ow := BitVec.ofNat 16 w, oh := BitVec.ofNat 16 h, boxes := 1, out := out, pic := q.descAt, boxList := 0
           spatialX := 0x3F800000, spatialY := 0x3F800000 }

/-- The next picture of a session is sent to be scaled, where its profile asks for that: a buffer of the CLIPHOLD pool takes the output (R343), and the picture has
a share for the engine. Without a free buffer or an engine it waits. -/
def State.scaleNext (n : Nat) (s : State) : State :=
  let t := s.sess n
  match t.queue, s.crt.recipe, s.profile t.profile.toNat, s.leastCse with
  | q :: rest, some r, some c, some e =>
    let w := outSide c q.width.toNat
    let h := outSide c q.height.toNat
    if q.ready || q.scaled.isSome || s.encoding n then s
    else
      match (poolFor r.pools 5 (pictureLayout w h 8).2.2).bind fun p => s.take (reqCse e) p.pool.toNat with
      | none => s
      | some (b, s) =>
        let s := s.updSess n fun t => { t with queue := { q with scaled := some b } :: rest }
        (s.shareBuf q.buf (reqCse e) (reqDec t.slot)).submitJob e (scaleJob r q w h b)
  | _, _, _, _ => s

/-- A scaled picture is complete: the session that waits for it may encode it; with none, its buffer is freed. -/
def State.scaleDone (out : U32) (s : State) : State :=
  match (List.range 64).find? fun n => (s.sess n).queue.any fun q => q.scaled == some out with
  | some n => s.updSess n fun t => { t with queue := t.queue.map fun q => if q.scaled == some out then { q with ready := true } else q }
  | none => s.freeBuf out

/-! ### Blocks, levels and quantisers (R133, R137, R140) -/

/-- Samples of a coding block of R133. -/
def codingBlock (codec : Nat) : Nat := [16, 32, 64].getD codec 64

/-- 16 × 16 blocks across, and down, an output of `w` × `h`. -/
def blockCols (w : Nat) : Nat := cdiv w 16

/-- Coding blocks in a column of a sweep over a picture `w` samples wide, and the columns (R140). -/
def sweepWidth (p : ClipProfile) (w : Nat) : Nat := cdiv (cdiv w (codingBlock p.codec.toNat)) (max 1 p.refreshPics.toNat)
def sweepCols (p : ClipProfile) (w : Nat) : Nat := cdiv (cdiv w (codingBlock p.codec.toNat)) (max 1 (sweepWidth p w))

/-- The sweep column of the 16 × 16 block at column `bx`. -/
def sweepColOf (p : ClipProfile) (w bx : Nat) : Nat := bx * 16 / codingBlock p.codec.toNat / max 1 (sweepWidth p w)

/-- The levels that a clip may signal, lowest first: each with its luma samples, or macroblocks, a second (from the codecs' own standards, log entry 24).
HEVC levels are level × 10, AV1 levels seq_level_idx. -/
def clipLevels (codec : Nat) : List (Nat × Nat) :=
  match codec with
  | 0 => [(10, 1485), (11, 3000), (12, 6000), (13, 11880), (21, 19800), (22, 20250), (30, 40500), (31, 108000), (32, 216000), (40, 245760), (42, 522240),
          (50, 589824), (51, 983040), (52, 2073600)]
  | 1 => [(10, 552960), (20, 3686400), (21, 7372800), (30, 16588800), (31, 33177600), (40, 66846720), (41, 133693440), (50, 267386880), (51, 534773760),
          (52, 1069547520), (60, 1069547520)]
  | _ => [(0, 4423680), (1, 8363520), (4, 19975680), (5, 31950720), (8, 70778880), (9, 141557760), (12, 267386880), (13, 534773760), (14, 1069547520),
          (16, 1069547520)]

/-- Luma samples that a clip level admits, or macroblocks. -/
def clipLevelSize (codec level : Nat) : Nat := if (codec = 1 && level = 60) || (codec = 2 && level = 16) then 35651584 else sizeLimit codec level

/-- The width and height that a level admits: in H.264 and HEVC each at most the root of eight times its size, in macroblocks or samples; in AV1 by its own table (from
the codecs' own standards, log entry 24). -/
def clipLevelSides (codec level w h : Nat) : Bool :=
  match codec with
  | 0 | 1 => decide (w * w ≤ 8 * clipLevelSize codec level) && decide (h * h ≤ 8 * clipLevelSize codec level)
  | _ =>
    let (mw, mh) := if level = 0 then (2048, 1152) else if level = 1 then (2816, 1584) else if level = 4 then (4352, 2448) else if level = 5 then (5504, 3096)
      else if level < 12 then (6144, 3456) else if level < 16 then (8192, 4352) else (16384, 8704)
    decide (w ≤ mw) && decide (h ≤ mh)

/-- The lowest level that admits a size at a rate, in hundredths of a picture a second and divided by `div` (R133). -/
def clipLevel (codec w h rate div : Nat) : Nat :=
  let (w, h) := if codec = 0 then (cdiv w 16, cdiv h 16) else (w, h)
  let area := w * h
  ((clipLevels codec).find? fun l => decide (area ≤ clipLevelSize codec l.1) && clipLevelSides codec l.1 w h && decide (area * rate ≤ l.2 * 100 * max 1 div)).elim 0 (·.1)

/-- The QP of a block: in a key picture or the refresh column 3 below QP_BASE, and QP_MAX from where rate control says so (R137, R138). -/
def blockQp (p : ClipProfile) (intra atMax : Bool) : Nat :=
  if atMax then p.qpMax.toNat else if intra then p.qpBase.toNat - 3 else p.qpBase.toNat

/-- The quantiser that a QP means in a codec: AV1 takes base_q_idx = 5 × QP. -/
def quantiser (codec qp : Nat) : Nat := if codec = 2 then 5 * qp else qp

/-- The bits of a block at a quantiser. -/
def blkAt (b : BlkBits) (q : Nat) : List Bool := ((b.coded.find? fun c => c.1 == q).map (·.2)).getD []

/-! ### The motion search (R135, R136) -/

/-- A luma plane of 8-bit samples in raster order. -/
structure Plane where
  w  : Nat
  h  : Nat
  px : List Nat
deriving DecidableEq, Repr

/-- A sample of a plane extended over its edges. -/
def Plane.at (p : Plane) (x y : Int) : Nat :=
  let cx := (max 0 (min x (Int.ofNat p.w - 1))).toNat
  let cy := (max 0 (min y (Int.ofNat p.h - 1))).toNat
  p.px.getD (cy * p.w + cx) 0

/-- The samples of the 16 × 16 block whose top left sample is at (x, y). -/
def Plane.block (p : Plane) (x y : Int) : List Nat :=
  (List.range 16).flatMap fun j => (List.range 16).map fun i => p.at (x + Int.ofNat i) (y + Int.ofNat j)

/-- The sum of absolute differences. -/
def sad (a b : List Nat) : Nat := (a.zip b).foldl (fun t p => t + ((p.1 : Int) - p.2).natAbs) 0

/-- An integer over a positive number, rounded to the nearest integer with halves away from zero (R135). -/
def roundAway (i : Int) (d : Nat) : Int :=
  let m : Nat := (2 * i.natAbs + d) / (2 * d)
  if i < 0 then -(m : Int) else m

/-- What bounds the reference block of a block at (x0, y0): the picture extended by 64 samples on each side, and in a sweep the refreshed area, `edge` samples wide, less its
margin of 16 (R136, R140). -/
structure SearchArea where
  x0   : Nat
  y0   : Nat
  w    : Nat
  h    : Nat
  edge : Option Nat
  /-- Samples that the codec's interpolation reads to the right of a block. -/
  taps : Nat
deriving DecidableEq, Repr

/-- One component of a vector, in quarter-pels, clamped so that the 16 samples lie inside `n` samples extended by 64. -/
def clampVec (v : Int) (at_ n : Nat) : Int := max (-(64 + (at_ : Int)) * 4) (min v ((Int.ofNat n + 48 - at_) * 4))

/-- A vector clamped to its area. -/
def SearchArea.clamp (a : SearchArea) (v : Int × Int) : Int × Int :=
  let x := clampVec v.1 a.x0 a.w
  let x := match a.edge with
    | none => x
    | some e =>
      -- the last sample that the reference block's footprint reads lies at least 16 samples inside the refreshed area
      let most : Int := Int.ofNat e - 31 - a.x0
      let reads := x / 4 + (if x % 4 = 0 then 0 else (a.taps : Int))
      if reads ≤ most then x else most * 4
  (x, clampVec v.2 a.y0 a.h)

/-- The block of the motion-vector side data that covers a sample of the stored picture: its vector and distance, where it may serve as a candidate (R120, R135). -/
def State.cameraEntry (s : State) (p : CsePic) (bx by_ : Nat) : Option (Int × Int × Nat) :=
  if p.mvCols ≤ bx || p.mvRows ≤ by_ then none
  else
    let b := s.dramBytes (s.bufAddr p.mv + 8 * (by_ * p.mvCols + bx)) 8
    let sg (n lo : Nat) : Int := (BitVec.ofNat n (field b lo (n / 8))).toInt
    let flags := field b 5 1
    let dist := sg 8 4
    if flags % 2 = 1 || flags / 4 % 2 = 1 || dist ≤ 0 then none else some (sg 16 0, sg 16 2, dist.toNat)

/-- The camera vectors of an output block: of the source block that covers its first sample, and of those to the right and below, each scaled to the
encoder's reference distance and output size (R135). -/
def State.cameraVectors (s : State) (p : CsePic) (c : ClipProfile) (x0 y0 : Nat) : List (Int × Int) :=
  let bx := (p.cropX + x0 * c.outDiv.toNat) / 16
  let by_ := (p.cropY + y0 * c.outDiv.toNat) / 16
  ([(bx, by_), (bx + 1, by_), (bx, by_ + 1)].filterMap fun q => s.cameraEntry p q.1 q.2).map fun e =>
    let k (v : Int) : Int := roundAway (v * c.rateDiv.toNat) (max 1 (e.2.2 * c.outDiv.toNat))
    (k e.1, k e.2.1)

/-- The predictor candidates of block `i` (R135), without duplicates: `done` are the vectors chosen in this picture so far, `prev` those of the previous one. -/
def candidates (done prev : List (Option (Int × Int))) (cols i : Nat) (camera : List (Int × Int)) : List (Int × Int) :=
  let get (l : List (Option (Int × Int))) (k : Nat) : List (Int × Int) := (l.getD k none).toList
  let left := if i % cols = 0 then [] else get done (i - 1)
  let above := if i < cols then [] else get done (i - cols)
  let aboveRight := if i < cols || i % cols + 1 = cols then [] else get done (i - cols + 1)
  (([(0, 0)] ++ left ++ above ++ aboveRight ++ get prev i ++ camera).foldl (fun (l : List (Int × Int)) v => if l.contains v then l else l ++ [v]) []).take 8

/-- The vector that the search chooses (R136): of the candidates at their nearest integer positions the cheapest, then of the 1,089 integer positions around it,
then of the half-pel and of the quarter-pel neighbours. Of equal costs the first stands (log entry 114). -/
def searchBlock (codec qp : Nat) (src ref : Plane) (a : SearchArea) (cands : List (Int × Int)) : Int × Int :=
  let blk := src.block a.x0 a.y0
  let bits (v : Int × Int) : Nat := Config.lambda qp * Config.vecBits codec cands v
  let whole (v : Int × Int) : Nat := sad blk (ref.block (a.x0 + v.1 / 4) (a.y0 + v.2 / 4)) + bits v
  let part (v : Int × Int) : Nat := Config.satd codec blk ref.w ref.px (4 * (a.x0 : Int) + v.1, 4 * (a.y0 : Int) + v.2) + bits v
  let pick (cost : Int × Int → Nat) (l : List (Int × Int)) : Int × Int := (leastBy (fun x y => decide (cost x < cost y)) (l.map a.clamp)).getD (0, 0)
  let around (v : Int × Int) (n step : Nat) : List (Int × Int) :=
    let d : List Int := (List.range (2 * n + 1)).map fun k => (Int.ofNat k - n) * step
    d.flatMap fun dy => d.map fun dx => (v.1 + dx, v.2 + dy)
  let start := pick whole (cands.map fun v => (roundAway v.1 4 * 4, roundAway v.2 4 * 4))
  let best := pick whole (around start 16 4)
  let half := pick part (best :: around best 1 2)
  pick part (half :: around half 1 1)

/-- How a block of a picture is coded (R137, R138): at a QP, or as fill. -/
inductive BlkCode where
  | coded (qp : Nat)
  | fill
deriving DecidableEq, Repr

/-- The vectors of a picture's blocks in raster order: none in a key picture and in the refresh column; a fill block copies its reference at the zero vector, also where R140
keeps other vectors a margin from a column not yet refreshed (DESIGN CHOICE, log entry 132). -/
def State.searchPicture (s : State) (c : ClipProfile) (j : EncJob) (src ref : Plane) (prev : List (Option (Int × Int))) (codes : List BlkCode) :
    List (Option (Int × Int)) :=
  let cols := blockCols src.w
  let p := s.picAt j.pic.descAt.toNat
  (codes.zipIdx).foldl (fun (done : List (Option (Int × Int))) x =>
    let bx := x.2 % max 1 cols
    let col := sweepColOf c src.w bx
    let v := match x.1 with
      | .fill => if j.key then none else some (0, 0)
      | .coded qp =>
        if j.key || j.sweepCol == some col then none
        else
          let edge := match j.sweepCol with
            | some k => if col < k then some (k * sweepWidth c src.w * codingBlock c.codec.toNat) else none
            | none => none
          let a : SearchArea := { x0 := 16 * bx, y0 := 16 * (x.2 / max 1 cols), w := src.w, h := src.h, edge := edge, taps := if c.codec = 0 then 3 else 4 }
          some (searchBlock c.codec.toNat qp src ref a (candidates done prev cols x.2 (s.cameraVectors p c a.x0 a.y0)))
    done ++ [v]) []

/-- The buffer that an engine reads the luma of a source picture from, and the check of R346 that the reads fail. -/
def State.encCode (s : State) (c : ClipProfile) (q : SrcPic) : U32 × Option U16 :=
  match q.scaled with
  | some b =>
    let size := (pictureLayout (outSide c q.width.toNat) (outSide c q.height.toNat) 8).2.2
    (b, match s.handleCode b with
      | some code => some code
      | none => if 2 ^ (s.pool (hPool b)).log2 < size then some poolRange else none)
  | none => let p := s.picAt q.descAt.toNat; (p.buf, s.picCode p)

/-- The luma that an engine encodes: the scaled picture, or the display window of the source, 8 bits a sample (R134). -/
def State.encLuma (s : State) (c : ClipProfile) (q : SrcPic) : Plane :=
  let w := outSide c q.width.toNat
  let h := outSide c q.height.toNat
  let px := match q.scaled with
    | some b => (List.range h).flatMap fun y => (s.dramBytes (s.bufAddr b + y * (pictureLayout w h 8).1) w).map (·.toNat)
    | none =>
      let p := s.picAt q.descAt.toNat
      (List.range h).flatMap fun y => (List.range w).map fun x => s.sample8 p (p.lumaAt y x)
  { w := w, h := h, px := px }

/-- The DC value of the 16 × 16 block at column `bx` and row `by_`: the mean of the samples above it and to its left, those that the picture has; 128 where it has none
(R138; log entry 128). -/
def dcOf (w : Nat) (px : List Byte) (bx by_ : Nat) : Byte :=
  let above := if by_ = 0 then [] else (List.range (min 16 (w - 16 * bx))).map fun i => (px.getD ((16 * by_ - 1) * w + 16 * bx + i) 0).toNat
  let left := if bx = 0 then [] else (List.range 16).filterMap fun j => (px[(16 * by_ + j) * w + 16 * bx - 1]?).map (·.toNat)
  let n := above.length + left.length
  if n = 0 then 128 else BitVec.ofNat 8 (((above ++ left).foldl (· + ·) 0 + n / 2) / n)

/-- The reference picture after a picture: what the engine reconstructed. Where a block is fill, it is in a P picture the samples of the reference before, and in a key
picture the DC prediction from the blocks before it (R138). -/
def reference (key : Bool) (w : Nat) (old recon : List Byte) (codes : List BlkCode) : List Byte :=
  let cols := max 1 (blockCols w)
  if key then
    (codes.zipIdx).foldl (fun px c =>
      if c.1 == .fill then
        let dc := dcOf w px (c.2 % cols) (c.2 / cols)
        (px.zipIdx).map fun x => if x.2 / max 1 w / 16 * cols + x.2 % max 1 w / 16 = c.2 then dc else x.1
      else px) recon
  else (recon.zipIdx).map fun x =>
    let blk := x.2 / max 1 w / 16 * blockCols w + x.2 % max 1 w / 16
    if codes[blk]? == some .fill then old.getD x.2 x.1 else x.1

/-! ### The coded stream (R133, R143) -/

/-- Bits as bytes, the first in bit 7, padded with zeros. -/
def packBits : Nat → List Bool → List Byte
  | 0, _ => []
  | n + 1, bs =>
    if bs.isEmpty then []
    else BitVec.ofNat 8 ((List.range 8).foldl (fun a i => 2 * a + bit (bs.getD i false)) 0) :: packBits n (bs.drop 8)

/-- The bits of a field of `n` bits, the highest first. -/
def fieldBits (n v : Nat) : List Bool := (List.range n).map fun i => v.testBit (n - 1 - i)

/-- The payload of a NAL unit: a byte 3 goes before any byte up to 3 that follows two zero bytes. -/
def escapeNal : Nat → List Byte → List Byte
  | _, [] => []
  | z, b :: r =>
    if z = 2 && decide (b.toNat ≤ 3) then 3 :: b :: escapeNal (if b = 0 then 1 else 0) r
    else b :: escapeNal (if b = 0 then min 2 (z + 1) else 0) r

/-- A NAL unit in Annex B: start code, header, payload. -/
def nalUnit (hdr payload : List Byte) : List Byte := [0, 0, 0, 1] ++ hdr ++ escapeNal 0 payload

/-- An OBU of the low-overhead format: type, size, payload. -/
def obu (type : Nat) (payload : List Byte) : List Byte :=
  let n := payload.length
  let size : List Byte := if n < 128 then le 1 n else if n < 16384 then le 1 (n % 128 + 128) ++ le 1 (n / 128)
    else le 1 (n % 128 + 128) ++ le 1 (n / 128 % 128 + 128) ++ (if n < 2097152 then le 1 (n / 16384) else le 1 (n / 16384 % 128 + 128) ++ le 1 (n / 2097152))
  le 1 (8 * type + 2) ++ size ++ payload

/-- A picture's access unit or temporal unit (R143): the first of a clip has the parameter sets or the sequence header, with the profile and the level of R133. The
numbers of the unit types and the places of profile and level are those of the codecs' standards; `tails` is what else the parameter sets hold (log entry 115). -/
def accessUnit (codec level : Nat) (first key : Bool) (tails : List (List Byte)) (bits : List Bool) : List Byte :=
  let tail (i : Nat) : List Byte := tails.getD i []
  let body (stop : Bool) : List Byte := let b := if stop then bits ++ [true] else bits; packBits b.length b
  match codec with
  | 0 =>
    (if first then nalUnit [0x67] ([100, 0] ++ le 1 level ++ tail 0) ++ nalUnit [0x68] (tail 1) else [])
      ++ nalUnit [if key then 0x65 else 0x61] (body true)
  | 1 =>
    let ptl : List Byte := [0x01, 0x60, 0, 0, 0, 0x90, 0, 0, 0, 0, 0] ++ le 1 (3 * level)
    (if first then nalUnit [0x40, 1] ([0x0C, 0x01, 0xFF, 0xFF] ++ ptl ++ tail 0) ++ nalUnit [0x42, 1] ([0x01] ++ ptl ++ tail 1) ++ nalUnit [0x44, 1] (tail 2)
     else []) ++ nalUnit [if key then 0x28 else 0x02, 1] (body true)
  | _ =>
    let seq := List.replicate 24 false ++ fieldBits 5 level ++ (tail 0).flatMap fun b => fieldBits 8 b.toNat
    obu 2 [] ++ (if first then obu 1 (packBits seq.length seq) else []) ++ obu 6 (body false)

end Sys2Proof.Machine
end

