-- ==== Sys2Proof/Machine/Clips.lean ====
section
/-! DEFINITION. Clip sessions: the commands of the host, the choice of engine, source pictures, rate control, key pictures and sweeps (R126 to R146). -/

namespace Sys2Proof.Machine

/-! ### CLIP_START, CLIP_STOP and KEY_PICTURE (R129, R130, R132, R141) -/

/-- The arguments of CLIP_START are within R129. -/
def clipArgsOk (c : Cmd) (p : ClipProfile) : Bool :=
  decide (arg c 3 1 ≤ p.preroll.toNat) && decide (arg c 4 2 ≤ p.maxPics.toNat) && decide (16 ≤ arg c 6 1 ∧ arg c 6 1 ≤ 26) && argZero c 7 1
    && arg c 8 8 % 4096 == 0

/-- CLIP_START in Run or DEGRADED. -/
def State.doClipStart (c : Cmd) (s : State) : State :=
  let n := arg c 0 2
  let no (code : U16) : State := s.reply c.tag 0x04 0 code []
  match s.entry n with
  | none => no 0x0035
  | some e =>
    if (s.slot n).state = 0 then no 0x0040
    else if !slotFlag e 2 then no 0x0041
    else
      match s.profile (arg c 2 1) with
      | none => no 0x0042
      | some p =>
        if !clipArgsOk c p then no stBadArg
        else
          let ring : ClipRing := { addr := BitVec.ofNat 64 (arg c 8 8), log2 := arg c 6 1, mirror := BitVec.ofNat 64 (arg c 16 8) }
          let maxPics := if arg c 4 2 = 0 then p.maxPics.toNat else arg c 4 2
          match s.takeSession n e p (arg c 3 1) maxPics ring false with
          | .ok (k, s) => s.reply c.tag 0x04 0 stOk (le 1 k)
          | .error code => no code

/-- CLIP_START. -/
def execClipStart (c : Cmd) (s : State) : Host.Outcome State Fault Refusal := .next <| s.command 0x04 c inService fun s => s.doClipStart c

/-- The session that a command names, where it is in use. -/
def State.sessArg (c : Cmd) (s : State) : Option Nat :=
  let n := arg c 0 1
  if n < 64 && (s.sess n).state != 0 then some n else none

/-- CLIP_STOP (R132). -/
def execClipStop (c : Cmd) (s : State) : Host.Outcome State Fault Refusal :=
  .next <| State.rest <| s.command 0x05 c inService fun s =>
    match s.sessArg c with
    | some n => (s.endSession n 2).reply c.tag 0x05 0 stOk []
    | none => s.reply c.tag 0x05 0 stBadArg []

/-- KEY_PICTURE (R141). -/
def execKeyPicture (c : Cmd) (s : State) : Host.Outcome State Fault Refusal :=
  .next <| s.command 0x06 c inService fun s =>
    match s.sessArg c with
    | some n => (s.updSess n fun t => { t with wantKey := true }).reply c.tag 0x06 0 stOk []
    | none => s.reply c.tag 0x06 0 stBadArg []

/-! ### Source pictures (R131, R132) -/

/-- A published picture is offered to a session: it joins the queue on a step of RATE_DIV; a change of the display size ends the session. -/
def State.offerTo (n : Nat) (p : SrcPic) (s : State) : State :=
  let t := s.sess n
  let g := s.prog n
  let sized := g.dispW != 0
  if sized && (g.dispW != p.width || g.dispH != p.height) then s.endSession n 4
  else
    let s := s.updProg n fun g => { g with dispW := p.width, dispH := p.height }
    if t.skip = 0 then
      let div := match s.profile t.profile.toNat with | some c => max 1 c.rateDiv.toNat | none => 1
      let scale := match s.profile t.profile.toNat with | some c => decide (1 < c.outDiv.toNat) | none => false
      let q : SrcPic := { p with discont := p.discont || g.carry, ready := !scale }
      let s := s.updProg n fun g => { g with carry := false }
      (s.updSess n fun t => { t with state := if t.state = 3 then 3 else 2, queue := t.queue ++ [q], skip := div - 1 }).scaleNext n
    else
      (s.updSess n fun t => { t with skip := t.skip - 1 }).updProg n fun g => { g with carry := g.carry || p.discont }

/-- A published picture is held for clips, where the slot has CLIP_ALLOWED: the oldest of nine is released (R131). -/
def State.holdPic (n : Nat) (h : HeldPic) (s : State) : State :=
  let s := (s.shareBuf h.buf reqHold (reqDec n)).shareBuf h.mv reqHold (reqDec n)
  let kept := (s.buf h.buf).any fun b => b.shares.contains reqHold
  let s := if kept then s.updSdec n fun d => { d with held := d.held ++ [h] } else s
  match (s.sdec n).held with
  | o :: rest => if 8 ≤ rest.length then ((s.updSdec n fun d => { d with held := rest }).releaseBuf o.buf reqHold).releaseBuf o.mv reqHold else s
  | [] => s

/-- A published picture of a slot goes to the hold and to the slot's sessions. -/
def State.offer (n : Nat) (h : HeldPic) (s : State) : State :=
  let s := match s.entry n with
    | some e => if slotFlag e 2 then s.holdPic n h else s
    | none => s
  (s.sessionsOf n).foldl (fun s k => s.offerTo k (h.src false)) s

/-! ### Rate control (R137, R138) -/

/-- The running totals of a picture's coding. -/
structure Coding where
  used   : Nat := 0
  qpRow  : Option Nat := none
  fill   : Nat := 0
  rowEst : Option Nat := none
  /-- The bits of the blocks so far, and how each is coded. -/
  bits   : List Bool := []
  codes  : List BlkCode := []
deriving DecidableEq, Repr

/-- A block as rate control sees it: the quantiser of each QP that it may take, and its bits. -/
structure RowBlk where
  base : Nat
  max  : Nat
  av1  : Bool
  blk  : BlkBits
deriving DecidableEq, Repr

/-- The bits of a block at a QP. -/
def RowBlk.at (b : RowBlk) (qp : Nat) : List Bool := blkAt b.blk (quantiser (if b.av1 then 2 else 0) qp)

/-- The blocks of one row, `left` of them in the picture from here on: at their QP or at QP_MAX until the budget forces fill. -/
def codeRow (budget : Int) (atMax : Bool) : List RowBlk → Nat → Coding → Coding
  | [], _, c => c
  | b :: r, left, c =>
    let fill := decide (0 < c.fill) || decide (budget ≤ Int.ofNat (c.used + 2 * left + 256))
    let qp := if atMax then b.max else b.base
    let bits := if fill then b.blk.fill else b.at qp
    codeRow budget atMax r (left - 1)
      { c with used := c.used + bits.length, fill := c.fill + bit fill, bits := c.bits ++ bits, codes := c.codes ++ [if fill then .fill else .coded qp] }

/-- The rows of a picture from number `i` on. -/
def codeRows (budget : Int) : List (List RowBlk) → Nat → Coding → Coding
  | [], _, c => c
  | row :: r, i, c =>
    let est := c.rowEst.getD (16 * row.length)
    let atMax := c.qpRow.isSome || decide (budget ≤ Int.ofNat (c.used + (r.length + 1) * est))
    let left := (row :: r).foldl (fun a x => a + x.length) 0
    let d := codeRow budget atMax row left { c with qpRow := if atMax then some (c.qpRow.getD i) else c.qpRow }
    -- a row coded whole at QP_MAX gives the next estimate
    let d := if atMax && d.fill = 0 then { d with rowEst := some (d.used - c.used) } else d
    codeRows budget r (i + 1) d

/-- The picture's 16 × 16 grid, row by row (R137, R138): each block of the output with its QP. -/
def blockRows (p : ClipProfile) (j : EncJob) (c : Coded) : List (List RowBlk) :=
  let w := outSide p j.pic.width.toNat
  let cols := blockCols w
  (List.range (cdiv (outSide p j.pic.height.toNat) 16)).map fun y => (List.range cols).map fun x =>
    { base := blockQp p (j.key || j.sweepCol == some (sweepColOf p w x)) false, max := p.qpMax.toNat, av1 := p.codec == 2
      blk := c.blocks.getD (y * cols + x) default }

/-- Fill was used in the intra column of a sweep (R140). -/
def fillInColumn (p : ClipProfile) (j : EncJob) (codes : List BlkCode) : Bool :=
  let w := outSide p j.pic.width.toNat
  (codes.zipIdx).any fun x => x.1 == .fill && j.sweepCol == some (sweepColOf p w (x.2 % max 1 (blockCols w)))

/-- The budget of a session's next picture. -/
def Sess.budget (t : Sess) (p : ClipProfile) : Int :=
  let left : Int := Int.ofNat (8 * p.winCap.toNat) - Int.ofNat ((t.win.take (p.winPics.toNat - 1)).foldl (· + ·) 0)
  min (Int.ofNat (8 * p.picCap.toNat)) left - Int.ofNat t.debt

/-! ### ENCODE_START and ENCODE_DONE (R146) -/

/-- The session whose picture an engine takes next: the source ARRIVAL decides; one with a held picture waits, and one whose picture is not scaled yet. -/
def State.nextSession (s : State) (e : Nat) : Option Nat :=
  let ready := (s.enc.sess.filter fun x => x.2.state == 2 && x.2.engine == e && (x.2.queue.head?.any (·.ready)) && (s.prog x.1).hold.isNone).map (·.1)
  let arr (n : Nat) : Nat := ((s.sess n).queue.head?.map (·.arrival)).getD 0
  leastBy (fun a b => decide (arr a < arr b)) ready

/-- The session's next picture is its last: MAX_PICS, or the end of a closed slot (R132). -/
def State.lastPicture (s : State) (n : Nat) : Bool :=
  let t := s.sess n
  decide (t.maxPics ≤ t.encoded.toNat + t.dropped.toNat + 1) || (decide ((s.slot t.slot).state = 0) && decide (t.queue.length ≤ 1))

/-- The picture of a session goes into encode; with the final picture the session is ENDING (R128). The engine has a share of the picture and of its vectors (R119). -/
def State.beginEncode (e n : Nat) (s : State) : State :=
  let t := s.sess n
  let g := s.prog n
  match t.queue, s.profile t.profile.toNat with
  | q :: rest, some p =>
    let periodic := p.refreshPics = 0 && p.keyInterval != 0 && decide (p.keyInterval.toNat ≤ g.sinceKey + 1)
    let key := g.first || t.wantKey || q.discont || periodic
    let sweep := if key || p.refreshPics = 0 then none
      else match g.sweep with
        | some j => some j
        | none => if p.keyInterval.toNat ≤ g.sinceKey + 1 then some 0 else none
    let job : EncJob := { sess := n, pic := q, key := key, gap := t.wantGap || q.discont, sweepCol := sweep, budget := t.budget p }
    let final := s.lastPicture n
    let s := s.updSess n fun t => { t with state := if final then 3 else t.state, queue := rest, wantKey := false, wantGap := false }
    let s := (s.shareBuf q.buf (reqEnc n) (reqDec t.slot)).shareBuf q.mv (reqEnc n) (reqDec t.slot)
    let s := s.updProg n fun g =>
      { g with sweep := sweep, sinceKey := if key || (sweep == some 0 && g.sweep.isNone) then 0 else g.sinceKey + 1 }
    s.updEeng e fun g => { g with job := some job }
  | _, _ => s

/-- The sessions in use on an engine. -/
def State.engineSessions (s : State) (e : Nat) : List Nat := (s.enc.sess.filter fun x => x.2.state != 0 && x.2.engine == e).map (·.1)

/-- The next pictures of an engine's sessions are sent to be scaled, where they have to be and can be (R134). -/
def State.scaleReady (e : Nat) (s : State) : State := (s.engineSessions e).foldl (fun s n => s.scaleNext n) s

/-- ENCODE_START. -/
def execEncodeStart (e : Fin 5) (s : State) : Host.Outcome State Fault Refusal :=
  let g := s.eeng e.val
  .next <|
    if !g.inService || g.fenced || g.job.isSome || s.headWaits (mkUnit 3 e.val) || s.encPaused || s.isFrozen || !s.mclkOn || s.underReset (.unit (mkUnit 3 e.val)) then s
    else
      let s := s.scaleReady e.val
      match s.nextSession e.val with
      | some n => s.beginEncode e.val n
      | none => s

/-- FLAGS of a coded picture (R144). -/
def clipFlags (j : EncJob) (fill : Nat) (done short : Bool) : U16 :=
  BitVec.ofNat 16 (bit j.key + 2 * bit j.pic.concealed + 4 * bit (decide (0 < fill)) + 8 * bit j.gap + 16 * bit done + 128 * bit short)

/-- A coded picture that finds no room in its ring is held in a buffer of the CLIPHOLD pool for PIC_CAP + 16 KiB (R145, R343); without one, or larger than it, the
picture is dropped (log entry 116). -/
def State.holdClip (n : Nat) (p : ClipProfile) (h : HeldOut) (s : State) : State :=
  let pool := match s.crt.recipe with | some r => poolFor r.pools 5 (p.picCap.toNat + 16384) | none => none
  match pool.bind fun q => s.take (reqEnc n) q.pool.toNat with
  | some (b, s) =>
    if h.out.data.length ≤ 2 ^ (s.pool (hPool b)).log2 then
      (s.dramPut (s.bufAddr b) h.out.data false).updProg n fun g =>
        { g with hold := some { h with buf := some b, len := h.out.data.length, out := { h.out with data := [] } } }
    else s.dropClip n
  | none => s.dropClip n

/-- The rate control of a coded picture, block by block (R138). -/
def State.codingOf (s : State) (j : EncJob) (c : Coded) (p : ClipProfile) : Coding :=
  codeRows j.budget (blockRows p j c) 0 { rowEst := (s.sess j.sess).rowEst }

/-- The bytes of a coded picture: an access unit of its head and blocks, with the parameter sets for the first (R143). -/
def State.codedBytes (s : State) (j : EncJob) (c : Coded) (p : ClipProfile) : List Byte :=
  let rate := match s.entry (s.sess j.sess).slot with | some e => e.rate.toNat | none => 0
  let level := clipLevel p.codec.toNat (outSide p j.pic.width.toNat) (outSide p j.pic.height.toNat) rate p.rateDiv.toNat
  accessUnit p.codec.toNat level (s.prog j.sess).first j.key c.params (c.head ++ (s.codingOf j c p).bits)

/-- A coded picture leaves its engine: motion search, rate control, the sweep, and the write or the hold. The bits of R137 are those of the blocks; the picture's head and
its parameter sets count in none (DESIGN CHOICE, log entry 132). -/
def State.finishEncode (j : EncJob) (c : Coded) (p : ClipProfile) (s : State) : State :=
  let n := j.sess
  let g := s.prog n
  let w := outSide p j.pic.width.toNat
  let k := s.codingOf j c p
  let fillIntra := fillInColumn p j k.codes
  let done := match j.sweepCol with | some i => !fillIntra && decide (sweepCols p w ≤ i + 1) | none => false
  let src := s.encLuma p j.pic
  let vectors := s.searchPicture p j src { src with px := g.recon.map (·.toNat) } g.vectors k.codes
  let data := s.codedBytes j c p
  let out : ClipOut :=
    { flags := clipFlags j k.fill done g.short, picNum := j.pic.picNum, qpRow := BitVec.ofNat 16 (k.qpRow.getD 0xFFFF), fill := BitVec.ofNat 16 k.fill
      arrival := j.pic.arrival, tag := j.pic.tag, data := data }
  let h : HeldOut := { out := out, at_ := s.now, bits := k.used, budget := j.budget }
  let s := s.updProg n fun g =>
    { g with
      sweep := (match j.sweepCol with | some i => if done then none else some (if fillIntra then i else i + 1) | none => g.sweep)
      recon := reference j.key w g.recon c.recon k.codes, vectors := vectors
      lastPic := j.pic.picNum, lastArr := j.pic.arrival, lastTag := j.pic.tag }
  let s := s.updSess n fun t => { t with rowEst := k.rowEst, overflows := if 0 < k.fill then satAdd t.overflows 1 else t.overflows }
  let s := s.dropSource n j.pic
  if s.canClip n data.length then if c.hostFail then (s.endSession n 6).tryEnd n else s.wrote n h
  else s.holdClip n p h

/-- ENCODE_DONE. A source picture whose reads fail a check of R346 is not coded: it counts as dropped, and the next picture is a key picture with GAP (R142;
DESIGN CHOICE, log entry 126). -/
def execEncodeDone (e : Fin 5) (coded : Coded) (s : State) : Host.Outcome State Fault Refusal :=
  .next <| State.rest <|
    match if s.mclkOn then (s.eeng e.val).job else none with
    | none => s
    | some j =>
      match s.profile (s.sess j.sess).profile.toNat with
      | some p =>
        let s := s.updEeng e.val fun g => { g with job := none }
        match s.encCode p j.pic with
        | (h, some code) => (((s.poolFault (reqEnc j.sess) h code).dropSource j.sess j.pic).dropClip j.sess).scaleNext j.sess
        | (_, none) => (s.finishEncode j coded p).scaleNext j.sess
      | none => s

/-- CLIP_HOLD_EXPIRY: 100 ms have passed, and the picture is dropped (R145). -/
def execClipHoldExpiry (n : Fin 64) (s : State) : Host.Outcome State Fault Refusal :=
  .next <| State.rest <|
    match (s.prog n.val).hold with
    | none => s
    | some h =>
      (s.waitUntil (h.at_ + 100000000)).dropClip n.val

/-- A GET of a session, while it is in use; one beyond PUT is ignored (R149, R366). -/
def State.getSess (n : Nat) (v : U32) (s : State) : State :=
  let t := s.sess n
  if t.state = 0 then s
  else if 2 ^ t.ringLog2 < (t.put - v).toNat then s.badRing
  else (s.updSess n fun t => { t with get := v }).clipRoom n

/-- ENC_SESS_GET. -/
def execEncSessGet (n : Fin 64) (v : U32) (s : State) : Host.Outcome State Fault Refusal :=
  .next <| State.rest (s.onMmio (State.getSess n.val v))

end Sys2Proof.Machine
end

