-- ==== Sys2Proof/Machine/Ingest.lean ====
section
/-! DEFINITION. Stream ingest: PUT, the judging of access units, pull reads, mirrors, and DEC_NO_KEY (R90 to R100, R116). -/

namespace Sys2Proof.Machine

/-- `len` bytes of a slot's ring from a position, wrapping at its end. -/
def State.ringRead (s : State) (n : Nat) (pos : U32) (len : Nat) : List Byte :=
  let size := max 1 (s.ringBytes n)
  (List.range len).map fun i => s.dram.mem.read (s.ringBase n + (pos.toNat + i) % size)

/-- Some byte of a range of a slot's ring is poisoned. -/
def State.ringPoisoned (s : State) (n : Nat) (pos : U32) (len : Nat) : Bool :=
  let size := max 1 (s.ringBytes n)
  (List.range (cdiv len 32)).any fun i => s.poisonedAt (s.ringBase n + (pos.toNat + 32 * i) % size) 1

/-- The marks that such a read meets are counted (R335). -/
def State.noteRing (n : Nat) (pos : U32) (len : Nat) (s : State) : State :=
  let size := max 1 (s.ringBytes n)
  (List.range (cdiv len 32)).foldl (fun s i => s.notePoison (s.ringBase n + (pos.toNat + 32 * i) % size) 1) s

/-- A pull read lost bytes of a range (R96). -/
def Slot.lostIn (t : Slot) (pos : U32) (len : Nat) : Bool :=
  t.lost.any fun l => decide ((l.1 - pos).toNat < len) || decide ((pos - l.1).toNat < l.2)

/-- The reference time of a unit that ends at a position: that of the PUT write that covers it (R98). -/
def Slot.refTime (t : Slot) (stop : U32) (now : Nat) : Nat :=
  match t.marks.find? fun m => decide ((m.1 - stop).toNat < 2 ^ 31) with
  | some m => m.2
  | none => now

/-- ARRIVAL after R98, and whether it was clamped. -/
def arrivalOf (given ref : Nat) : Nat × Bool :=
  if given = 0 then (ref, false)
  else if given < ref - 1000000 then (ref - 1000000, true)
  else if ref < given then (ref, true)
  else (given, false)

/-- One token, in the bucket's unit of 10⁻¹¹ token. -/
def rateToken : Nat := 100000000000

/-- The bucket and its clock once a unit's ARRIVAL is known (R99). -/
def Slot.refill (t : Slot) (rate arrival : Nat) : Slot :=
  match t.clock with
  | none => { t with clock := some arrival }
  | some c => { t with bucket := min (2 * rateToken) (t.bucket + rate * (arrival - c)), clock := some (max c arrival) }

/-- A unit of a slot is judged: it waits for an engine, or is dropped with a code. -/
def State.police (n : Nat) (e : SlotEntry) (pos : U32) (h : AuHdr) (s : State) : State :=
  let bytes := auBytes h.length.toNat
  let s := s.updSlot n fun t => t.refill e.rate.toNat h.arrival
  let high := decide (3 * e.maxBitrate.toNat * 100000 < h.length.toNat * 8 * e.rate.toNat)
  let code : U16 := if high then 0x040F else if (s.slot n).bucket < rateToken then 0x040E else 0
  let s := s.updSlot n fun t =>
    { t with
      aus := t.aus ++ [{ pos := pos, bytes := bytes, hdr := h, stage := if code = 0 then .waiting else .done, gap := t.gap, key := code = 0 && t.keyNext }]
      bucket := if code = 0 then t.bucket - rateToken else t.bucket, gap := code != 0, keyNext := t.keyNext && code != 0 }
  if code = 0 then s else (s.countDrop n 1).decAuEvent n code h

/-- SEQ of a unit against that of the unit before it (R100). -/
def State.checkSeq (n : Nat) (h : AuHdr) (s : State) : State :=
  let last := (s.slot n).lastSeq
  let gap := match last with | some q => h.seq != q + 1 && !h.flags.getLsbD 2 | none => false
  let s := s.updSlot n fun t => { t with lastSeq := some h.seq, gap := t.gap || gap }
  if gap then s.decAuEvent n 0x0404 h else s

/-- A bad header: every byte from it up to PUT is dropped, and the slot waits for a key picture from there on (R94). However many units the bytes hold, DROPPED counts
one (DESIGN CHOICE, log entry 132). -/
def State.badHeader (n : Nat) (pos : U32) (h : AuHdr) (s : State) : State :=
  let s := s.updSlot n fun t =>
    { t with
      aus := t.aus ++ [{ pos := pos, bytes := (t.put - pos).toNat, hdr := h, stage := .done }]
      judged := t.put, fetch := t.put, asked := t.put, marks := [], lost := t.lost.filter fun l => decide (2 ^ 31 ≤ (l.1 - pos).toNat) }
  (((s.countDrop n 1).keyFromNext n).advanceGet n).decAuEvent n 0x0401 h

/-- The header fields of R92 at a position, with the ARRIVAL field as given. -/
def State.auHeader (s : State) (n : Nat) (pos : U32) : AuHdr × List Byte :=
  let b := s.ringRead n pos 32
  ({ flags := BitVec.ofNat 8 (field b 3 1), length := BitVec.ofNat 32 (field b 4 4), arrival := field b 8 8, tag := BitVec.ofNat 64 (field b 16 8)
     seq := BitVec.ofNat 32 (field b 24 4) }, b)

/-- A header is bad (R94). -/
def headerBad (n : Nat) (e : SlotEntry) (h : AuHdr) (b : List Byte) : Bool :=
  field b 0 2 != n || field b 2 1 != e.codec.toNat || h.length = 0 || decide (min (e.ringBytes.toNat / 4) 16777216 < h.length.toNat)
    || decide (16 ≤ h.flags.toNat) || field b 28 4 != 0

/-- The units between the position judged last and the bytes the ring holds are judged in order, at most `k` of them (R91 to R100). A unit that runs
past PUT is held. -/
def State.judgeUnits (n : Nat) (e : SlotEntry) : Nat → State → State
  | 0, s => s
  | k + 1, s =>
    let t := s.slot n
    let stop := if t.pull then t.fetch else t.put
    let left := (stop - t.judged).toNat
    if left < 32 then s
    else
      let (h, b) := s.auHeader n t.judged
      let lost := t.lostIn t.judged 32
      if s.ringPoisoned n t.judged 32 || lost then (s.noteRing n t.judged 32).badHeader n t.judged { h with arrival := s.now }
      else
        let bytes := auBytes h.length.toNat
        let move (s : State) : State := s.updSlot n fun t => { t with judged := t.judged + BitVec.ofNat 32 bytes }
        if h.flags.getLsbD 3 then
          if left < bytes then s
          else State.judgeUnits n e k (move (s.updSlot n fun t => { t with aus := t.aus ++ [{ pos := t.judged, bytes := bytes, hdr := h, stage := .done }] }))
        else if headerBad n e h b then s.badHeader n t.judged { h with arrival := s.now }
        else if left < bytes then s
        else
          let (arr, clamped) := arrivalOf h.arrival (t.refTime (t.judged + BitVec.ofNat 32 bytes) s.now)
          let h := { h with arrival := arr }
          let s := if clamped then s.decAuEvent n 0x040D h else s
          State.judgeUnits n e k (move ((s.checkSeq n h).police n e t.judged h))

/-- The units of a slot are judged, and GET passes what is finished. In push ingest FETCH shows the position judged (log entry 36). -/
def State.judgeSlot (n : Nat) (s : State) : State :=
  match s.entry n with
  | none => s
  | some e =>
    let s := (s.judgeUnits n e (e.ringBytes.toNat / 32)).advanceGet n
    s.updSlot n fun t =>
      { t with fetch := if t.pull then t.fetch else t.judged, marks := t.marks.filter fun m => decide (0 < (m.1 - t.judged).toNat ∧ (m.1 - t.judged).toNat < 2 ^ 31) }

/-! ### DEC_SLOT_PUT (R95) -/

/-- The ring holds an access unit that runs past the bytes that have come: its header has been read, and it is no PAD (R95). -/
def State.heldUnit (n : Nat) (s : State) : Bool :=
  let t := s.slot n
  decide (32 ≤ ((if t.pull then t.fetch else t.put) - t.judged).toNat) && !(s.auHeader n t.judged).1.flags.getLsbD 3

/-- DEC_RING_OVERFLOW: every unit that no engine has started to parse is dropped and counted, a held one among them. -/
def State.ringOverflow (n : Nat) (v : U32) (s : State) : State :=
  let k := ((s.slot n).aus.filter fun a => a.stage == .waiting).length + bit (s.heldUnit n)
  let s := s.updSlot n fun t =>
    let kept := t.aus.filter fun a => a.stage != .waiting
    let stop := match kept.getLast? with | some a => a.pos + BitVec.ofNat 32 a.bytes | none => t.get
    -- the bytes dropped stand behind the units in flight, for GET to pass them in their turn
    { t with
      aus := kept ++ [{ pos := stop, bytes := (v - stop).toNat, hdr := default, stage := .done }]
      put := v, fetch := v, asked := v, judged := v, marks := [], lost := [] }
  (((s.countDrop n k).keyFromNext n).advanceGet n).decSlotEvent n 0x0403

/-- A PUT of a slot: ignored while the slot is closed or draining, and in FROZEN (R86, R88, R390). -/
def State.putSlot (n : Nat) (v : U32) (s : State) : State :=
  let t := s.slot n
  if t.state = 0 || t.state = 4 || s.isFrozen then s
  else if v.toNat % 32 ≠ 0 then s.decSlotEvent n 0x0402
  else if s.ringBytes n < (v - t.get).toNat then s.ringOverflow n v
  else if v = t.put then s
  else if (v - t.get).toNat < (t.put - t.get).toNat then s.decSlotEvent n 0x0402
  else
    let now := s.now
    ((s.updSlot n fun t => { t with put := v, marks := t.marks ++ [(v, now)] }).judgeSlot n)

/-- DEC_SLOT_PUT. -/
def execDecSlotPut (slot : Fin 512) (v : U32) (s : State) : Host.Outcome State Fault Refusal :=
  .next <| s.onMmio (State.putSlot slot.val v)

/-! ### Pull ingest (R96, R382) -/

/-- The length of the next pull read: within PUT, the ring's room and end, the request size, and a 4 KiB page of the host. -/
def State.pullLength (s : State) (n : Nat) : Nat :=
  let t := s.slot n
  let size := s.ringBytes n
  let off := t.asked.toNat % max 1 size
  min (min (t.put - t.asked).toNat (size - (t.asked - t.get).toNat)) (min (min (2 ^ s.link.mrrsLog2) (size - off))
    (4096 - (t.hostRing.toNat + off) % 4096))

/-- PULL_FETCH: eight tags stay free for command reads. -/
def execPullFetch (slot : Fin 512) (s : State) : Host.Outcome State Fault Refusal :=
  let n := slot.val
  let t := s.slot n
  let len := s.pullLength n
  .next <|
    match s.freeTag 8 with
    | some tag =>
      if !s.funcReady || s.isFrozen || !t.pull || t.state = 0 || t.state = 4 || len = 0 then s
      else
        let addr := t.hostRing + BitVec.ofNat 64 (t.asked.toNat % max 1 (s.ringBytes n))
        (s.issueRead tag (.pull n t.asked len) addr len).updSlot n fun t => { t with asked := t.asked + BitVec.ofNat 32 len }
    | none => s

/-- FETCH stands before the first byte that has not come, and the units are judged. -/
def State.fetched (n : Nat) (s : State) : State :=
  let t := s.slot n
  let waiting := s.link.reads.filterMap fun r => match r.use with | .pull m p _ => if m = n && decide ((p - t.fetch).toNat < 2 ^ 31) then some p else none | _ => none
  let f := match leastBy (fun a b => decide ((a - t.fetch).toNat < (b - t.fetch).toNat)) waiting with
    | some p => p
    | none => t.asked
  (s.updSlot n fun t => { t with fetch := f }).judgeSlot n

/-- The bytes of a pull read still belong to the slot: no overflow or re-opening has passed them. -/
def Slot.wants (t : Slot) (pos : U32) : Bool :=
  t.pull && t.state != 0 && t.state != 4 && decide ((pos - t.fetch).toNat < (t.asked - t.fetch).toNat)

/-- The oldest outstanding pull read of a slot. -/
def State.pullRead (s : State) (n : Nat) : Option (Nat × U32 × Nat) :=
  s.link.reads.findSome? fun r => match r.use with | .pull m p l => if m = n then some (r.tag, p, l) else none | _ => none

/-- PULL_COMPLETION: the bytes land in the ring, poisoned ones marked (R96, R385). -/
def execPullCompletion (slot : Fin 512) (data : List Byte) (poisoned : Bool) (s : State) : Host.Outcome State Fault Refusal :=
  let n := slot.val
  .next <|
    match s.pullRead n with
    | none => s
    | some (tag, pos, len) =>
      let s := s.awake.updLink fun l => { l with reads := l.reads.filter fun r => !(r.tag == tag) }
      let s := if poisoned then (s.countPoison (some (.completion tag))).freeze else s
      if (s.slot n).wants pos then
        let size := max 1 (s.ringBytes n)
        (s.dramPut (s.ringBase n + pos.toNat % size) (padTo len data) poisoned).fetched n
      else s

/-- GET_MIRROR: 100 µs after the last mirror write at the earliest, a changed value is written (R97). In FROZEN none is (R390). -/
def execGetMirror (slot : Fin 512) (s : State) : Host.Outcome State Fault Refusal :=
  let n := slot.val
  let t := s.slot n
  let d := s.sdec n
  let v := if t.pull then t.fetch else t.get
  .next <|
    if !s.funcReady || s.isFrozen || t.state = 0 || t.mirror = 0 || v = d.mirrorVal then s
    else
      let s := match d.mirrorAt with | some a => s.waitUntil (a + 100000) | none => s
      let now := s.now
      (s.send (.hostWrite t.mirror (le 8 v.toNat) false false)).updSdec n fun d => { d with mirrorVal := v, mirrorAt := some now }

/-- DEC_NO_KEY: 10 s after the slot entered WAIT_KEY, and every 60 s after (R116). -/
def execDecNoKey (slot : Fin 512) (s : State) : Host.Outcome State Fault Refusal :=
  let n := slot.val
  .next <|
    if (s.slot n).state ≠ 1 then s
    else
      let s := s.waitUntil (s.sdec n).noKeyDue
      (s.decSlotEvent n 0x0410).updSdec n fun d => { d with noKeyDue := d.noKeyDue + 60000000000 }

end Sys2Proof.Machine
end

