-- ==== Sys2Proof/Machine/Cse.lean ====
section
/-! DEFINITION. The crop-and-scale engines: sampling, colour conversion, the three jobs, their queues and their completion (R278 to R284). -/

namespace Sys2Proof.Machine

/-! ### Sampling (R241, R279) -/

/-- One interpolated value, and the halves it read that carry the poison mark. -/
def State.interp (s : State) (p : CsePic) (sx sy : U32) (w h : Nat) (addr : Nat → Nat → Nat) : U32 × List Nat :=
  let (xa, xb, ax) := sampleAt sx w
  let (ya, yb, ay) := sampleAt sy h
  let v (y x : Nat) : U32 := intF32 (s.sample8 p (addr y x))
  (bilinear ax ay (v ya xa) (v ya xb) (v yb xa) (v yb xb),
    [addr ya xa, addr ya xb, addr yb xa, addr yb xb].flatMap fun a => (halves a p.bps).filter fun h => decide (h ∈ s.dram.poison))

/-- Luma at output (u, v) of a box. -/
def State.lumaOut (s : State) (p : CsePic) (j : CseJob) (box : List U32) (u v : Nat) : U32 × List Nat :=
  s.interp p (samplePos (box.getD 0 0) (box.getD 2 0) j.spatialX j.ow.toNat u) (samplePos (box.getD 1 0) (box.getD 3 0) j.spatialY j.oh.toNat v)
    p.width p.height p.lumaAt

/-- Chroma plane `c` at the output centre whose doubled coordinates are `u2`, `v2`. -/
def State.chromaOut (s : State) (p : CsePic) (j : CseJob) (box : List U32) (c u2 v2 : Nat) : U32 × List Nat :=
  s.interp p (chromaPos (box.getD 0 0) (box.getD 2 0) j.spatialX j.ow.toNat u2) (chromaPos (box.getD 1 0) (box.getD 3 0) j.spatialY j.oh.toNat v2)
    (cdiv p.width 2) (cdiv p.height 2) (p.chromaAt c)

/-! ### Colour (R280) -/

/-- The factors ky, kr, kgb, kgr and kb as FP32. -/
def colourFactors (bt601 full : Bool) : List U32 :=
  match bt601, full with
  | false, false => [0x3F950A81, 0x3FE57889, 0x3E5A5DF2, 0x3F086CB9, 0x40073198]
  | false, true => [0, 0x3FC9930C, 0x3E3FD1DD, 0x3EEFADF3, 0x3FED844D]
  | true, false => [0x3F950A81, 0x3FCC4A9D, 0x3EC89507, 0x3F501EAC, 0x40011A54]
  | true, true => [0, 0x3FB374BC, 0x3EB03298, 0x3F36D19E, 0x3FE2D0E5]

/-- Colour `k` of Y, Cb and Cr: 0 red, 1 green, 2 blue. -/
def colour (bt601 full : Bool) (k : Nat) (y cb cr : U32) : U32 :=
  let f (i : Nat) : U32 := (colourFactors bt601 full).getD i 0
  let yf := if full then y else fmul (fsub y 0x41800000) (f 0)
  let b := fsub cb 0x43000000
  let r := fsub cr 0x43000000
  match k with
  | 0 => fadd yf (fmul (f 1) r)
  | 1 => fsub (fsub yf (fmul (f 2) b)) (fmul (f 3) r)
  | _ => fadd yf (fmul (f 4) b)

/-- MATRIX and RANGE of a job, from the stream where it says so (R278). -/
def State.colourOf (s : State) (j : CseJob) (slot : Nat) : Bool × Bool :=
  (if j.mat = 2 then (s.sdec slot).bt601 else j.mat == 1, if j.range = 2 then (s.sdec slot).fullRange else j.range == 1)

/-- The code of a colour (R192, R280). -/
def colourCode (v : U32) : Byte := BitVec.ofInt 8 ((f32 v).toInt 0 255 - 128)

/-- A sample written without conversion. -/
def plainCode (v : U32) : Byte := BitVec.ofInt 8 ((f32 v).toInt 0 255)

/-! ### Outputs (R281) -/

/-- Bytes of one box output, with whether a read for it is poisoned and the marked halves that it read. -/
structure BoxOut where
  writes : List (Nat × List Byte)
  poison : Bool
  bad    : Bool
  marks  : List Nat := []
deriving DecidableEq, Repr

/-- The S2D2 tensor of one box: 32 channels for each 2 × 2 patch. -/
def State.s2d2 (s : State) (p : CsePic) (j : CseJob) (box : List U32) : List Byte × List Nat :=
  let (m, r) := s.colourOf j p.slot
  let px := (List.range (j.oh.toNat / 2)).flatMap fun y => (List.range (j.ow.toNat / 2)).map fun x =>
    let one (a b : Nat) : List Byte × List Nat :=
      let u := 2 * x + b
      let v := 2 * y + a
      let (l, pl) := s.lumaOut p j box u v
      let (cb, pb) := s.chromaOut p j box 0 (2 * u + 1) (2 * v + 1)
      let (cr, pr) := s.chromaOut p j box 1 (2 * u + 1) (2 * v + 1)
      ((List.range 3).map (fun k => colourCode (colour m r k l cb cr)), pl ++ pb ++ pr)
    let q := [one 0 0, one 0 1, one 1 0, one 1 1]
    (q.flatMap (·.1) ++ zeros 20, q.flatMap (·.2))
  (px.flatMap (·.1), px.flatMap (·.2))

/-- The NV12 picture of a box: the luma rows and the chroma rows, at their offsets. Each chroma sample is centred on its 2 × 2 luma samples. -/
def State.nv12 (s : State) (p : CsePic) (j : CseJob) (box : List U32) : List (Nat × List Byte) × List Nat :=
  let (pitch, chroma, _) := pictureLayout j.ow.toNat j.oh.toNat 8
  let luma := (List.range j.oh.toNat).map fun v =>
    let row := (List.range j.ow.toNat).map fun u => s.lumaOut p j box u v
    ((v * pitch, row.map fun q => plainCode q.1), row.flatMap (·.2))
  let chr := (List.range (j.oh.toNat / 2)).map fun v =>
    let row := (List.range (j.ow.toNat / 2)).flatMap fun u => [s.chromaOut p j box 0 (4 * u + 2) (4 * v + 2), s.chromaOut p j box 1 (4 * u + 2) (4 * v + 2)]
    ((chroma + v * pitch, row.map fun q => plainCode q.1), row.flatMap (·.2))
  ((luma ++ chr).map (·.1), (luma ++ chr).flatMap (·.2))

/-- Box `k` of a job, and the marked halves of its bytes; the whole display window where no list is named. -/
def State.boxOf (s : State) (p : CsePic) (j : CseJob) (k : Nat) : List U32 × List Nat :=
  if j.boxList = 0 then ([0, 0, intF32 p.width, intF32 p.height], [])
  else
    let a := j.boxList.toNat + 16 * k
    (words (s.dramBytes a 16) 4, (halves a 16).filter fun h => decide (h ∈ s.dram.poison))

/-- What a job writes for one box, by offset from its output. -/
def State.boxOut (s : State) (p : CsePic) (j : CseJob) (k : Nat) : BoxOut :=
  let (box, pb) := s.boxOf p j k
  let (pitch, chroma, _) := pictureLayout j.ow.toNat j.oh.toNat 8
  let blank : List (Nat × List Byte) :=
    if j.job = 2 then
      ((List.range j.oh.toNat).map fun v => (v * pitch, zeros j.ow.toNat)) ++ (List.range (j.oh.toNat / 2)).map fun v => (chroma + v * pitch, zeros j.ow.toNat)
    else [(0, zeros (8 * j.ow.toNat * j.oh.toNat))]
  if (s.picCode p).isSome then { writes := blank, poison := true, bad := false }
  else if !pb.isEmpty then { writes := blank, poison := true, bad := false, marks := pb }
  else if boxBad box j.spatialX j.spatialY then { writes := blank, poison := false, bad := true }
  else
    let (w, ps) : List (Nat × List Byte) × List Nat := if j.job = 2 then s.nv12 p j box else (let t := s.s2d2 p j box; ([(0, t.1)], t.2))
    if !ps.isEmpty then { writes := blank, poison := true, bad := false, marks := ps } else { writes := w, poison := false, bad := false }

/-- Bytes from the start of a job's output buffer that it writes. -/
def jobSpan (j : CseJob) : Nat :=
  let own := if j.job = 2 then (pictureLayout j.ow.toNat j.oh.toNat 8).2.2 else 8 * j.ow.toNat * j.oh.toNat
  (j.boxes.toNat - 1) * j.outStride.toNat + own

/-- The check of R346 that the output buffer fails. -/
def State.outCode (s : State) (j : CseJob) : Option U16 :=
  match s.handleCode j.out with
  | some c => some c
  | none => if 2 ^ (s.pool (hPool j.out)).log2 < jobSpan j then some poolRange else none

/-! ### Queues (R278, R282) -/

/-- CSE_JOB_SUBMIT: an engine in service takes the job into its queue of 16; where the queue is full the dispatcher keeps it. -/
def execCseJobSubmit (e : Fin 4) (job : CseJob) (s : State) : Host.Outcome State Fault Refusal :=
  .next <| if !s.dis.inService || !(s.cseEng e.val).inService || (s.cseEng e.val).fenced then s else s.submitJob e.val job

/-! ### Batches (R286) -/

/-- The context of a slot whose plan the slot's PIPELINE names. -/
def State.detectCtx (s : State) (slot : Nat) : Option Nat :=
  match s.entry slot with
  | some e => s.ctxNums.find? fun c => let x := s.ctx c; x.plan == e.pipeline.toNat && !x.tick && x.slots.contains slot
  | none => none

/-- A picture joins the batch of a context. -/
def State.joinBatch (c slot arrival : Nat) (s : State) : State :=
  let now := s.now
  s.updCtx c fun x => { x with batchAt := if x.batch.isEmpty then now else x.batchAt, batch := x.batch ++ [(slot, arrival)] }

/-! ### CSE_JOB_DONE (R283) -/

/-- The share of the picture that a DETECT or SCALE job holds is released: the engine's own, or that of the engine it was submitted to before a fence. -/
def State.releaseJob (h : U32) (e : Nat) (s : State) : State :=
  match s.buf h with
  | none => s
  | some b =>
    match (e :: [0, 1, 2, 3]).find? fun k => decide (reqCse k ∈ b.shares) with
    | some k => s.releaseBuf h (reqCse k)
    | none => s

/-- The output of a job is written and counted. -/
def State.writeJob (e : Nat) (j : CseJob) (outs : List BoxOut) (s : State) : State :=
  match s.outCode j with
  | some code => s.poolFault (reqCse e) j.out code
  | none =>
    let base := s.bufAddr j.out
    let s := (outs.zipIdx).foldl (fun (s : State) o =>
      o.1.writes.foldl (fun s w => s.dramPut (base + o.2 * j.outStride.toNat + w.1) w.2 false) s) s
    s.updCseEng e fun g =>
      { g with
        badBoxes := satAdd g.badBoxes (outs.filter (·.bad)).length
        poisoned := satAdd g.poisoned (outs.filter (·.poison)).length
        pixels := g.pixels + j.ow.toNat * j.oh.toNat * j.boxes.toNat }

/-- What a DETECT job brings: its picture joins its detection context's batch, and its share goes. -/
def State.detected (e : Nat) (p : CsePic) (s : State) : State :=
  let s := match s.detectCtx p.slot with
    | some c => s.joinBatch c p.slot p.arrival
    | none => s
  s.releaseJob p.buf e

/-- CSE_JOB_DONE. -/
def execCseJobDone (e : Fin 4) (s : State) : Host.Outcome State Fault Refusal :=
  .next <|
    match if s.mclkOn then (s.cseEng e.val).running else none with
    | none => s
    | some j =>
      let p := s.picAt j.pic.toNat
      let outs := (List.range j.boxes.toNat).map fun k => s.boxOut p j k
      let own := bit (outs.any (·.poison)) + 2 * bit (outs.any (·.bad))
      let s := match s.picCode p with
        | some code => s.poolFault (reqCse e.val) p.buf code
        | none => (outs.foldl (fun (l : List Nat) (o : BoxOut) => o.marks.foldl (fun l h => insertN h l) l) []).foldl (fun s h => s.notePoison (32 * h) 1) s
      let s := s.writeJob e.val j outs
      let s := s.updCseEng e.val fun g => { g with running := none, jobs := g.jobs + 1 }
      let s := s.send (.cseCompletion j.tag p.flags (BitVec.ofNat 8 own))
      let s := if j.job = 0 then s.detected e.val p else if j.job = 2 then (s.releaseJob p.buf e.val).scaleDone j.out else s
      let s := if j.sync.toNat < 65536 then s.signalAll (j.sync.setWidth 16) 1 else s
      let s := s.startCseEng e.val
      (s.drainJobs s.dis.jobs.length).resumeAll

end Sys2Proof.Machine
end

