-- ==== Sys2Proof/Machine/Media.lean ====
section
/-! DEFINITION. The decode engines: ENTROPY_PARSE, PARSE_DONE, PIXEL_ERROR and PICTURE_COMMIT (R101 to R120). -/

namespace Sys2Proof.Machine

/-! ### ENTROPY_PARSE (R107, R110, R112) -/

/-- The first access unit of a slot that no engine has started to parse. -/
def State.nextAu (s : State) (n : Nat) : Option Au := (s.slot n).aus.find? fun a => a.stage == .waiting

/-- Slots with a waiting access unit, in ascending number. -/
def State.parseable (s : State) : List Nat :=
  (tkeys s.dec.slots).filter fun n => (s.slot n).state != 0 && (s.slot n).state != 4 && (s.nextAu n).isSome && !(s.sdec n).awaitFreq

/-- The slot is in the queue of engine `e`: held by it, or not held and at home there. -/
def State.inQueue (s : State) (e n : Nat) : Bool :=
  match (s.sdec n).holder with
  | some h => h == e
  | none => (s.slot n).engine == e

/-- The oldest of a list of slots by the ARRIVAL of its next access unit; a slot that is parsed again goes first. -/
def State.oldestAu (s : State) (ns : List Nat) : Option Nat :=
  let key (n : Nat) : Nat := ((s.nextAu n).map (·.hdr.arrival)).getD 0
  leastBy (fun a b =>
    let ra := decide (0 < (s.sdec a).reparse)
    let rb := decide (0 < (s.sdec b).reparse)
    (ra && !rb) || (ra == rb && decide (key a < key b))) ns

/-- The slot that engine `e` takes next, and whether it takes it from another engine's queue. -/
def State.pickSlot (s : State) (e : Nat) : Option (Nat × Bool) :=
  match s.oldestAu (s.parseable.filter (s.inQueue e)) with
  | some n => some (n, false)
  | none => (s.oldestAu (s.parseable.filter fun n => (s.sdec n).holder.isNone)).map fun n => (n, true)

/-- A loss ends a recovery interval (R109, R115). -/
def State.noteLoss (n : Nat) (s : State) : State :=
  s.updSdec n fun d => { d with parse := { d.parse with run := 0, planned := false } }

/-- An access unit is dropped, counted, and its ring bytes are done with. -/
def State.dropAu (n : Nat) (pos : U32) (s : State) : State := ((s.noteLoss n).countDrop n 1).auDone n pos

/-- The parse state in which an access unit is taken: key pictures are waited for from it on, and a loss before it ends a recovery interval (R94, R115). -/
def Au.enter (a : Au) (p : Parse) : Parse :=
  let p := if a.key && !a.rest then { p with waitKey := true } else p
  if a.gap && !a.rest then { p with run := 0, planned := false } else p

/-- The engine starts to parse an access unit, or drops it for lost or poisoned bytes (R96, R116). A loss that was found before the unit ends a
recovery interval first (R115). -/
def State.takeAu (e n : Nat) (a : Au) (s : State) : State :=
  let len := a.hdr.length.toNat
  let s := s.updSdec n fun d => { d with reparse := d.reparse - 1, parse := a.enter d.parse }
  if (s.slot n).lostIn a.pos a.bytes then (s.dropAu n a.pos).decAuEvent n 0x0406 a.hdr
  else if s.ringPoisoned n (a.pos + 32) len then ((s.noteRing n (a.pos + 32) len).dropAu n a.pos).decAuEvent n 0x0405 a.hdr
  else
    let run : ParseRun := { slot := n, pos := a.pos, before := (s.sdec n).parse, first := !a.rest }
    let s := s.updSlot n fun t => { t with aus := t.aus.map fun b => if b.pos = a.pos then { b with stage := .parsing } else b }
    let s := s.updSdec n fun d => { d with holder := some e }
    s.updDeng e fun g => { g with parsing := some run }

/-- Bytes of the syntax buffer of an engine: on the die, and in its spill area (R110). -/
def synDie : Nat := 524288
def synSpill : Nat := 8388608

/-- Bytes that the entries of an engine hold, with the picture in its pixel half. -/
def DecEng.synUsed (g : DecEng) : Nat :=
  g.entries.foldl (fun a x => a + x.bytes) (match g.pix with | some x => x.bytes | none => 0)

/-- The entropy half may start a picture: fewer than 4 entries wait, buffer space remains, and no picture is streamed (R110). -/
def DecEng.mayStart (g : DecEng) : Bool :=
  decide (g.entries.length < 4) && decide (g.synUsed < synDie + synSpill) && !(match g.pix with | some x => x.stream | none => false)

/-- ENTROPY_PARSE: while the entropy half may start a picture (R110), and the engine serves. -/
def execEntropyParse (e : Fin 9) (s : State) : Host.Outcome State Fault Refusal :=
  let g := s.deng e.val
  .next <|
    if !g.inService || g.fenced || g.parsing.isSome || !g.mayStart || s.isFrozen || !s.mclkOn
        || s.underReset (.unit (mkUnit 2 e.val)) then s
    else
      match s.pickSlot e.val with
      | none => s
      | some (n, stolen) =>
        match s.nextAu n with
        | none => s
        | some a =>
          let s := if stolen then s.updDeng e.val fun g => { g with steals := satAdd g.steals 1 } else s
          s.takeAu e.val n a

/-! ### PARSE_DONE (R101 to R105, R109, R110, R115) -/

/-- Levels that a codec's standard defines and the table of R102 does not accept, all of which rank above it (log entry 24). -/
def levelAbove (codec level : Nat) : Bool :=
  match codec with
  | 0 => level ∈ [60, 61, 62]
  | 1 => level ∈ [52, 60, 61, 62]
  | _ => level ∈ [14, 15, 16, 17, 18, 19, 31]

/-- The level that a stream signals, in the numbers of LEVEL (R102): H.264 signals 1b in two ways, and HEVC numbers levels by thirds. 0xFFFF is no level. -/
def streamLevel (i : StreamInfo) : Nat :=
  match i.codec.toNat with
  | 0 => if i.levelIdc = 11 && i.cs3 && (i.profile == 66 || i.profile == 77) then 9 else i.levelIdc
  | 1 => if i.levelIdc % 3 = 0 then i.levelIdc / 3 else 0xFFFF
  | _ => i.levelIdc

/-- Codec and bit depth are the slot's, and the stream uses no tool outside R102. -/
def streamFits (i : StreamInfo) (e : SlotEntry) : Bool :=
  let d := i.bitDepth.toNat
  i.codec == e.codec && i.bitDepth == e.bitDepth && i.chroma == 1 && (match i.codec.toNat with
    | 0 => ((i.profile == 66 && i.cs1) || i.profile == 77 || i.profile == 100) && d == 8 && !i.fields
    | 1 => (i.profile == 1 && d == 8) || (i.profile == 2 && (d == 8 || d == 10))
    | 2 => i.profile == 0 && (d == 8 || d == 10) && !i.avTool
    | _ => false)

/-- The code of the checks of R105; none where the picture passes. DEDUCED: a coded size that does not fit the buffer of the slot's size (R117) exceeds the slot's
size (log entry 24). -/
def streamCheck (e : SlotEntry) (p : PicInfo) : Option U16 :=
  let c := e.codec.toNat
  let level := streamLevel p.stream
  match p.show_ with
  | .existing _ => none
  | _ =>
    if !streamFits p.stream e then some 0x0407
    else
      match levelRank c level, levelRank c e.level.toNat with
      | some a, some b =>
        if b < a then some 0x0409
        else if decide (e.width.toNat < p.width.toNat) || decide (e.height.toNat < p.height.toNat) || decide (p.width.toNat < 128) || decide (p.height.toNat < 96)
            || decide (alignUp e.width.toNat 16 < alignUp p.codedW.toNat 16) || decide (alignUp e.height.toNat 16 < alignUp p.codedH.toNat 16) then
          some 0x0408
        else if !sizeWithin c level p.width.toNat p.height.toNat then some 0x0409
        else none
      | _, _ => if levelAbove c level then some 0x0409 else some 0x0407

/-- What becomes of a parsed picture. -/
inductive Verdict where
  /-- It is dropped, with a code, and the slot may move to WAIT_KEY. -/
  | drop (code : Option U16) (wait : Bool)
  | keep
deriving DecidableEq, Repr

/-- The picture order count is not above that of the previous picture since the last IDR, IRAP or memory_management_control_operation 5 (R103). AV1 has
none. -/
def pocNotAbove (e : SlotEntry) (b : Parse) (p : PicInfo) : Bool :=
  e.codec != 2 && !p.pocStart && (match b.poc with | some q => decide (p.poc ≤ q) | none => false)

/-- The checks of a picture in order: DISCONT without a start (R101), WAIT_KEY without a start (R86), the stream's limits (R105), reordering (R103). -/
def verdict (e : SlotEntry) (p : PicInfo) (run : ParseRun) (discont : Bool) : Verdict :=
  if run.first && discont && p.start == .none then .drop none true
  else if run.first && run.before.waitKey && p.start == .none then .drop none false
  else
    match streamCheck e p with
    | some code => .drop (some code) true
    | none => if p.leading || pocNotAbove e run.before p then .drop (some 0x040C) false else .keep

/-- The picture is a recovery point that completes a starting point: the picture that announced it was parsed after the last loss, and nothing has been lost since
(R115). -/
def completesAt (p : PicInfo) (b : Parse) : Bool :=
  match p.recoveryPoint with
  | some k => !(p.syntaxError || p.poisonRead) && decide (k ≤ if p.gap then 0 else b.run)
  | none => false

/-- The parse state after a picture: a start out of WAIT_KEY, a recovery point, a loss (R109, R115). -/
def nextParse (b : Parse) (p : PicInfo) (copy clean first : Bool) : Parse :=
  let planned := if p.start == .full || clean || copy then false
    else if first && b.waitKey && p.start == .recovery then true
    else b.planned && !p.gap
  let run := if copy then 0 else (if p.gap then 0 else b.run) + 1
  { waitKey := false, run := run, planned := planned, flush := false, poc := some (if p.mmco5 then 0 else p.poc), params := p.params, cdfs := p.cdfs }

/-- The slot's state as its start shows it (R109). -/
def State.showStart (n : Nat) (planned : Bool) (s : State) : State :=
  (s.updSdec n fun d => { d with keySince := none }).updSlot n fun t => { t with state := if t.state = 1 then (if planned then 3 else 2) else t.state }

/-- The entry is of the access unit at `pos` of slot `n`. -/
def SynEntry.ofAu (n : Nat) (pos : U32) (x : SynEntry) : Bool := x.slot == n && x.pos == pos

/-- The last entry of an access unit stands for the end of the unit. -/
def closeEntries (n : Nat) (pos : U32) : List SynEntry → List SynEntry
  | [] => []
  | x :: r => if x.ofAu n pos && !(r.any (·.ofAu n pos)) then { x with last := true } :: r else x :: closeEntries n pos r

/-- The picture that is the last one left of an access unit whose rest is dropped stands for its end: its last entry, or the picture in the pixel half where no
entry of it waits. -/
def DecEng.closeAu (g : DecEng) (n : Nat) (pos : U32) : DecEng :=
  if g.entries.any (·.ofAu n pos) then { g with entries := closeEntries n pos g.entries }
  else { g with pix := g.pix.map fun x => if x.ofAu n pos then { x with last := true } else x }

/-- The engine holds an earlier picture of an access unit. -/
def DecEng.holdsAu (g : DecEng) (n : Nat) (pos : U32) : Bool :=
  g.entries.any (·.ofAu n pos) || g.pix.any (·.ofAu n pos)

/-- The slot is released by engine `e` when nothing of it is left there; a draining slot closes (R88, R107). -/
def State.letGo (n : Nat) (s : State) : State :=
  if s.slotBusy n then s
  else
    let s := s.updSdec n fun d => { d with holder := none }
    if (s.sdec n).draining then s.finishClose n else s

/-- The picture in parsing is dropped with its access unit. -/
def State.dropParsed (e : Nat) (run : ParseRun) (h : AuHdr) (code : Option U16) (wait : Bool) (flush : Bool) (s : State) : State :=
  let n := run.slot
  let s := (s.noteLoss n).countDrop n 1
  let s := if flush then s.updSdec n fun d => { d with parse := { d.parse with flush := true } } else s
  let s := if (s.deng e).holdsAu n run.pos then s.updDeng e fun g => g.closeAu n run.pos else s.auDone n run.pos
  let s := match code with
    | some c => s.decAuEvent n c h
    | none => s
  if wait then s.toWaitKey n else s

/-- Entries of the engine wait, and the syntax of a picture exceeds the free space: the picture can go on only once the pixel half streams it, behind
them (R110). One that fits the empty buffer is held until then, and is not streamed (DESIGN CHOICE, log entry 132). -/
def DecEng.mustWait (g : DecEng) (p : PicInfo) : Bool :=
  !g.mayStart || (decide (synDie + synSpill < g.synUsed + p.syntaxBytes) && (g.pix.isSome || !g.entries.isEmpty))

/-- A picture becomes a syntax entry, with the spill that the buffer reaches. A recovery point may be the SEI picture itself (R109, R115); a gap before any other
picture is a loss inside the recovery interval. -/
def State.addEntry (e : Nat) (run : ParseRun) (h : AuHdr) (p : PicInfo) (s : State) : State :=
  let n := run.slot
  let b := (s.sdec n).parse
  let copy := p.syntaxError || p.poisonRead
  let clean := completesAt p b
  let discont := run.first && h.flags.getLsbD 2
  let eos := p.last && h.flags.getLsbD 1
  let left := run.first && run.before.waitKey
  -- a change to WAIT_KEY while the unit was parsed stands
  let lostKey := b.waitKey && !run.before.waitKey
  let g := s.deng e
  let free := synDie + synSpill - g.synUsed
  let after := nextParse b p copy clean run.first
  let after := { after with waitKey := eos || lostKey, run := if eos then 0 else after.run, planned := after.planned && !eos }
  let x : SynEntry := { slot := n, pos := run.pos, hdr := h, info := p, copy := copy, recovery := after.planned, clean := clean
                        flush := b.flush || discont, checkpoint := after, before := run.before, first := run.first, last := p.last
                        bytes := min p.syntaxBytes free, stream := decide (free < p.syntaxBytes) }
  let s := s.updSdec n fun d => { d with parse := after }
  let s := if left && !lostKey && !(s.slot n).keyAhead then s.showStart n (p.start == .recovery) else s
  let s := if p.syntaxError then s.decAuEvent n 0x040A h else s
  let s := if eos then s.toWaitKey n else s
  let spill := cdiv (g.synUsed + x.bytes - synDie) 1024
  s.updDeng e fun g => { g with entries := g.entries ++ [x], spillPeak := BitVec.ofNat 16 (max g.spillPeak.toNat spill) }

/-- The entropy half goes on with its access unit, or is free. -/
def State.endParse (e : Nat) (run : ParseRun) (more : Bool) (s : State) : State :=
  if more then s.updDeng e fun g => { g with parsing := some { run with before := (s.sdec run.slot).parse, first := false } }
  else
    let s := s.updSlot run.slot fun t =>
      { t with aus := t.aus.map fun a => if a.pos = run.pos && a.stage == .parsing then { a with stage := .parsed } else a }
    s.updDeng e fun g => { g with parsing := none }

/-- PARSE_DONE. A further picture of a unit starts only when the entropy half may start one (R110). After a unit with EOS the slot waits for a key picture, also where
the unit's picture is dropped (R101). -/
def execParseDone (e : Fin 9) (info : PicInfo) (s : State) : Host.Outcome State Fault Refusal :=
  .next <|
    match if s.mclkOn then (s.deng e.val).parsing else none with
    | none => s
    | some run =>
      let n := run.slot
      match (s.slot n).aus.find? (fun a => a.pos == run.pos), s.entry n with
      | some a, some ent =>
        let free (s : State) : State := s.endParse e.val run false
        let eos := a.hdr.flags.getLsbD 1
        if (s.sdec n).draining then ((free s).letGo n).afterClose
        else
          match verdict ent info run (a.hdr.flags.getLsbD 2) with
          | .drop code wait => ((free s).dropParsed e.val run a.hdr code (wait || eos) (eos || (run.first && a.hdr.flags.getLsbD 2))).letGo n
          | .keep => if (s.deng e.val).mustWait info then s else ((s.addEntry e.val run a.hdr info).endParse e.val run (!info.last)).startPix e.val
      | _, _ => ((s.updDeng e.val fun g => { g with parsing := none }).letGo n).afterClose

/-! ### PIXEL_ERROR (R112, R114) -/

/-- Every picture of a slot that the engine parsed after the one in its pixel half is discarded, and its access units wait again. -/
def State.undoAfter (e : Nat) (x : SynEntry) (s : State) : State :=
  let n := x.slot
  let g := s.deng e
  let gone := (g.entries.filter fun y => y.slot == n).map (·.pos)
  let gone := match g.parsing with
    | some r => if r.slot = n then gone ++ [r.pos] else gone
    | none => gone
  -- of the unit of the picture itself, only what follows it is parsed again
  let gone := if x.last then gone else gone ++ [x.pos]
  let s := s.updDeng e fun g =>
    { g.discard n with parsing := match g.parsing with | some r => if r.slot = n then none else some r | none => none }
  let s := s.updSlot n fun t => { t with aus := t.aus.map fun a => if gone.contains a.pos then { a with stage := .waiting, rest := a.pos == x.pos } else a }
  let s := s.updSdec n fun d =>
    { d with parse := { x.checkpoint with run := 0, planned := false }, reparse := if gone.isEmpty then d.reparse else gone.eraseDups.length }
  s.showParse n

/-- PIXEL_ERROR: the picture becomes a copy of the substitute. A bitstream error is reported; poisoned data is not one (R113, R114). -/
def execPixelError (e : Fin 9) (poisonRead : Bool) (s : State) : Host.Outcome State Fault Refusal :=
  .next <|
    match if s.mclkOn then (s.deng e.val).pix else none with
    | none => s
    | some x =>
      if x.copy then s
      else
        let s := s.updDeng e.val fun g => { g with pix := some { x with copy := true } }
        let s := s.undoAfter e.val x
        if poisonRead then s else s.decAuEvent x.slot 0x040A x.hdr

/-! ### PICTURE_COMMIT (R103, R111, R114 to R120) -/

/-- `n` bytes of device DRAM are copied, with their poison marks. -/
def State.dramCopy (src dst n : Nat) (s : State) : State :=
  let bad := (halves src n).filter fun h => decide (h ∈ s.dram.poison)
  let s := (s.notePoison src n).dramPut dst (s.dramBytes src n) false
  s.updDram fun d => { d with poison := bad.foldl (fun m h => insertN (dst / 32 + (h - src / 32)) m) d.poison }

/-- Every motion-vector entry of a substitute copy: INTRA and CONCEALED (R114, R120). -/
def copyMv (w h : Nat) : List Byte := (List.replicate (mvBytes w h / 8) (le 8 0x050000000000)).flatten

/-- A mid-grey picture (R114). -/
def greyPixels (w h depth : Nat) : List Byte :=
  let n := (pictureLayout w h depth).2.2
  if depth = 10 then (List.replicate (n / 2) (le 2 0x8000)).flatten else List.replicate n 0x80

/-- The geometry of a parsed picture, for the DPB. -/
def dpbOf (p : PicInfo) (buf mv : U32) (concealed : Bool) : DpbPic :=
  { frame := p.frame, buf := buf, mv := mv, concealed := concealed, grain := p.grain, width := p.width, height := p.height, cropX := p.cropX
    cropY := p.cropY, codedW := p.codedW, codedH := p.codedH }

/-- The picture descriptor (R118). -/
def descriptor (n : Nat) (h : AuHdr) (p : DpbPic) (key recovery ten : Bool) (num : U32) (now : Nat) : List Byte :=
  let (pitch, chroma, _) := pictureLayout p.codedW.toNat p.codedH.toNat (if ten then 10 else 8)
  le 2 n ++ le 2 (bit key + 2 * bit p.concealed + 4 * bit recovery + 8 * bit p.grain + 16 * bit ten + 32 * bit (h.flags.getLsbD 2)) ++ le 4 num.toNat
    ++ le 8 h.arrival ++ le 8 h.tag.toNat ++ le 2 p.width.toNat ++ le 2 p.height.toNat ++ le 2 p.cropX.toNat ++ le 2 p.cropY.toNat
    ++ le 4 p.buf.toNat ++ le 4 pitch ++ le 4 chroma ++ le 4 p.mv.toNat ++ le 2 (stored p.codedW.toNat / 16) ++ le 2 (stored p.codedH.toNat / 16)
    ++ le 4 h.seq.toNat ++ le 8 now

/-- Buffers for a picture and its motion vectors from the slot's pools (R343); none where a pool has none. -/
def State.picBuffers (n : Nat) (e : SlotEntry) (s : State) : Option (U32 × U32 × State) :=
  match s.crt.recipe with
  | none => none
  | some r =>
    let w := e.width.toNat
    let h := e.height.toNat
    match poolFor r.pools 1 (pictureLayout w h e.bitDepth.toNat).2.2, poolFor r.pools 2 (mvBytes w h) with
    | some p, some m =>
      match s.take (reqDec n) p.pool.toNat with
      | some (b, s) =>
        match s.take (reqDec n) m.pool.toNat with
        | some (v, s) => some (b, v, s)
        | none => none
      | none => none
    | _, _ => none

/-- A plane in device DRAM: rows of `per` samples of `size` bytes, `pitch` bytes apart, at most `rows` of them. A 10-bit sample stands in bits [15:6] (R117). -/
def State.putPlane (at_ pitch per size : Nat) : Nat → List U16 → State → State
  | 0, _, s => s
  | rows + 1, xs, s =>
    let row := (xs.take per).flatMap fun x => if size = 2 then le 2 (x.toNat % 1024 * 64) else le 1 x.toNat
    if row.isEmpty then s else (s.dramPut at_ row false).putPlane (at_ + pitch) pitch per size rows (xs.drop per)

/-- A decoded picture in its buffer: the luma plane, and CbCr from CHROMA_OFFSET on (R117). -/
def State.putPicture (a w h depth : Nat) (d : PicData) (s : State) : State :=
  let (pitch, chroma, _) := pictureLayout w h depth
  let size := if depth = 10 then 2 else 1
  (s.putPlane a pitch (stored w) size (stored h) d.luma).putPlane (a + chroma) pitch (stored w) size (stored h / 2) d.chroma

/-- Half of an integer, halves rounded away from zero. -/
def halfAway (i : Int) : Int := if i < 0 then -((i.natAbs + 1) / 2 : Nat) else ((i.natAbs + 1) / 2 : Nat)

/-- Half of an integer, rounded toward zero. -/
def halfToZero (i : Int) : Int := if i < 0 then -(i.natAbs / 2 : Nat) else (i.natAbs / 2 : Nat)

/-- The 8-byte entry of a block (R120): the first list's vector, else the second's with FROM_L1. AV1 vectors are in eighths of a sample; the distance of H.264 is half
its count's difference. -/
def mvEntry (codec : Nat) (b : MvBlock) : List Byte :=
  let flags (l1 : Bool) : Nat := bit b.intra + 2 * bit b.skip + 8 * bit (b.list0.isSome && b.list1.isSome) + 16 * bit l1
  let use (v : Int × Int × Int) (l1 : Bool) : List Byte :=
    let q (i : Int) : Int := clampInt (if codec = 2 then halfAway i else i) (-32767) 32767
    let dist := clampInt (if codec = 0 then halfToZero v.2.2 else v.2.2) (-127) 127
    le 2 (BitVec.ofInt 16 (q v.1)).toNat ++ le 2 (BitVec.ofInt 16 (q v.2.1)).toNat ++ le 1 (BitVec.ofInt 8 dist).toNat ++ le 1 (flags l1) ++ zeros 2
  match b.intra, b.list0, b.list1 with
  | true, _, _ => zeros 4 ++ zeros 1 ++ le 1 (1 + 2 * bit b.skip) ++ zeros 2
  | false, some v, _ => use v false
  | false, none, some v => use v true
  | false, none, none => zeros 4 ++ zeros 1 ++ le 1 (flags false) ++ zeros 2

/-- The motion-vector side data of a decoded picture (R120). -/
def mvData (codec w h : Nat) (bs : List MvBlock) : List Byte := (bs.take (mvBytes w h / 8)).flatMap (mvEntry codec)

/-- The pixels and motion vectors of a committed picture are written: its own, or those of the substitute. The picture as the DPB keeps it. -/
def State.writePicture (x : SynEntry) (codec depth : Nat) (sub : Option DpbPic) (concealed : Bool) (d : PicData) (buf mv : U32) (s : State) : DpbPic × State :=
  if x.copy then
    match sub with
    | some q =>
      let n := (pictureLayout q.codedW.toNat q.codedH.toNat depth).2.2
      let p := { q with frame := x.info.frame, buf := buf, mv := mv, concealed := true }
      (p, (s.dramCopy (s.bufAddr q.buf) (s.bufAddr buf) n).dramPut (s.bufAddr mv) (copyMv q.codedW.toNat q.codedH.toNat) false)
    | none =>
      let w := x.info.codedW.toNat
      let h := x.info.codedH.toNat
      (dpbOf x.info buf mv true, (s.dramPut (s.bufAddr buf) (greyPixels w h depth) false).dramPut (s.bufAddr mv) (copyMv w h) false)
  else
    let w := x.info.codedW.toNat
    let h := x.info.codedH.toNat
    (dpbOf x.info buf mv concealed, (s.putPicture (s.bufAddr buf) w h depth d).dramPut (s.bufAddr mv) (mvData codec w h d.blocks) false)

/-- The slot's episode and state after a picture (R109, R115): a start that completes ends the concealment; a loss begins it, with attention once. -/
def State.conceal (x : SynEntry) (concealed : Bool) (s : State) : State :=
  let n := x.slot
  let start := x.info.start != .none && x.before.waitKey
  let s := if start then s.updSdec n fun d => { d with episode := false } else s
  if (x.info.start == .full && !concealed) || (x.clean && !x.copy) then
    (s.updSdec n fun d => { d with episode := false }).updSlot n fun t => { t with state := if t.state = 3 then 2 else t.state }
  else if concealed && (!x.recovery || x.copy) then
    let s := s.updSlot n fun t => { t with state := if t.state = 2 then 3 else t.state }
    if (s.sdec n).episode then s else (s.updSdec n fun d => { d with episode := true }).decAuEvent n 0x040B x.hdr
  else s

/-- The DETECT jobs of a published picture: each takes a share for its engine and is submitted (R119, R278, R282, R352). -/
def State.detectJobs (n : Nat) (descAt : U64) (buf : U32) (s : State) : State :=
  match (s.detectCtx n).bind fun c => s.plan (s.ctx c).plan with
  | none => s
  | some p =>
    (p.cseJobs.filter fun j => j.job == 0).foldl (fun (s : State) j =>
      match s.leastCse with
      | some e => (s.shareBuf buf (reqCse e) (reqDec n)).submitJob e { j with pic := descAt }
      | none => s) s

/-- The contexts that a slot's pictures go through. -/
def State.slotCtxs (s : State) (n : Nat) : List Nat := s.ctxNums.filter fun c => let x := s.ctx c; !x.tick && x.slots.contains n

/-- A context has a job template of a kind. -/
def State.hasJob (s : State) (c : Nat) (kind : Byte) : Bool := (s.plan (s.ctx c).plan).any fun p => p.cseJobs.any fun j => j.job == kind

/-- The releases that waited for a picture of slot `n`: those of the objects that its contexts' plans wait on (R286). -/
def State.releaseSlot (n : Nat) (s : State) : State :=
  (((s.slotCtxs n).filterMap fun c => (s.plan (s.ctx c).plan).bind (·.waitObj)).foldl (fun s o => s.releaseOn o) s).judgeAll

/-- The shares of a published picture (R119, R131, R352): its DETECT job, the context that crops from it, and the hold for clips; and the batches it
joins, where no DETECT job comes before (R286). -/
def State.shareOut (n : Nat) (descAt : U64) (p : DpbPic) (h : AuHdr) (num : U32) (s : State) : State :=
  let s := s.detectJobs n descAt p.buf
  let s := (s.slotCtxs n).foldl (fun (s : State) c => if s.hasJob c 1 then s.shareBuf p.buf (reqCtx c) (reqDec n) else s) s
  let s := (s.slotCtxs n).foldl (fun (s : State) c => if s.detectCtx n == some c && s.hasJob c 0 then s else s.joinBatch c n h.arrival) s
  let s := s.releaseSlot n
  s.offer n { buf := p.buf, mv := p.mv, descAt := descAt, picNum := num, arrival := h.arrival, tag := h.tag, width := p.width, height := p.height
              concealed := p.concealed, discont := h.flags.getLsbD 2 }

/-- A picture is published: its descriptor, its number and its consumers. -/
def State.publish (x : SynEntry) (e : SlotEntry) (p : DpbPic) (descAt : U64) (s : State) : State :=
  let n := x.slot
  let num := (s.sdec n).published
  let s := s.dramPut descAt.toNat (descriptor n x.hdr p (x.info.start == .full) x.recovery (e.bitDepth == 10) num s.now) false
  let s := s.updSdec n fun d => { d with published := d.published + 1, tags := d.tags ++ [(num, x.hdr.tag)] }
  let s := if p.concealed then s.updSlot n fun t => { t with concealed := satAdd t.concealed 1 } else s
  s.shareOut n descAt p x.hdr num

/-- The DPB after a picture: the pictures that it drops are freed, and it joins, or is freed at once (R111, R119). -/
def State.updateDpb (x : SynEntry) (p : DpbPic) (s : State) : State :=
  let n := x.slot
  let gone := (s.sdec n).dpb.filter fun q => x.info.evict.contains q.frame || q.frame == p.frame
  let s := s.updSdec n fun d =>
    { d with dpb := (d.dpb.filter fun q => !gone.contains q) ++ (if x.info.keep then [p] else []) }
  let s := gone.foldl (fun s q => (s.freeBuf q.buf).freeBuf q.mv) s
  if x.info.keep then s else (s.freeBuf p.buf).freeBuf p.mv

/-- What follows the commit of a picture: EOS empties the DPB, GET advances, the pixel half takes the next entry, and a draining slot closes. -/
def State.afterCommit (e : Nat) (x : SynEntry) (s : State) : State :=
  let n := x.slot
  let s := s.updDeng e fun g => { g with pix := none, committed := g.committed + 1 }
  let s := if x.last && x.hdr.flags.getLsbD 1 then s.emptyDpb n else s
  let s := if x.last then s.auDone n x.pos else s
  ((s.letGo n).startPix e).afterClose.resumeAll

/-- A picture that the engine reconstructed, or a copy, commits. -/
def State.commitNew (e : Nat) (x : SynEntry) (ent : SlotEntry) (d : PicData) (s : State) : State :=
  let n := x.slot
  let dpb := (s.sdec n).dpb
  let missing := x.info.gap || x.info.refs.any fun f => !(dpb.any fun q => q.frame == f)
  let tainted := x.info.refs.any fun f => dpb.any fun q => q.frame == f && q.concealed
  let concealed := x.copy || (!x.clean && (missing || tainted || x.recovery))
  match s.picBuffers n ent with
  | none => s
  | some (b, m, s) =>
    let (p, s) := s.writePicture x ent.codec.toNat ent.bitDepth.toNat dpb.getLast? concealed d b m
    let s := s.conceal x p.concealed
    let s := s.updSdec n fun t => { t with bt601 := x.info.matrix == 5 || x.info.matrix == 6, fullRange := x.info.fullRange }
    let s := if x.info.show_ == .hidden then s else s.publish x ent p d.descAt
    (s.updateDpb x p).afterCommit e x

/-- A frame of the DPB is published under a new descriptor (R103). -/
def State.commitExisting (e : Nat) (x : SynEntry) (ent : SlotEntry) (q : DpbPic) (d : PicData) (s : State) : State :=
  let n := x.slot
  let s := s.conceal x q.concealed
  let s := s.publish x ent q d.descAt
  let gone := (s.sdec n).dpb.filter fun p => x.info.evict.contains p.frame
  let s := s.updSdec n fun t => { t with dpb := t.dpb.filter fun p => !gone.contains p }
  (gone.foldl (fun s p => (s.freeBuf p.buf).freeBuf p.mv) s).afterCommit e x

/-- PICTURE_COMMIT. A show_existing_frame of a frame that the DPB does not hold publishes a concealed copy (R103). -/
def execPictureCommit (e : Fin 9) (d : PicData) (s : State) : Host.Outcome State Fault Refusal :=
  .next <|
    match if s.mclkOn then (s.deng e.val).pix else none with
    | none => s
    | some x =>
      match s.entry x.slot with
      | none => s
      | some ent =>
        match x.info.show_ with
        | .existing f =>
          match (s.sdec x.slot).dpb.find? (fun q => q.frame == f), x.copy with
          | some q, false => s.commitExisting e.val x ent q d
          | _, _ => s.commitNew e.val { x with copy := true, clean := false } ent d
        | _ => s.commitNew e.val x ent d

end Sys2Proof.Machine
end

