-- ==== Sys2Proof/Machine/Tracks.lean ====
section
/-! DEFINITION. The track engine: ASSOCIATION, TRACKER_STEP_COMMIT, HANDOFF_ENTRY, DORMANCY_EXPIRY and TICK_START (R310 to R318, R380). -/

namespace Sys2Proof.Machine

/-! ### Costs (R311): each line is computed exactly and rounded once -/

/-- The exact difference. -/
def exSub (a b : Fl) : Fl := a.add false b.negate

/-- The larger of 0 and a value. -/
def posPart (a : Fl) : Fl := if a.lt (.fin false 0 0) then .fin false 0 0 else a

/-- The four corners of a box of words. -/
structure Corners where
  x0 : Fl
  y0 : Fl
  x1 : Fl
  y1 : Fl
deriving DecidableEq, Repr

/-- A box as the list of an entry gives it. -/
def boxCorners (b : List U32) : Corners := { x0 := f32 (b.getD 0 0), y0 := f32 (b.getD 1 0), x1 := f32 (b.getD 2 0), y1 := f32 (b.getD 3 0) }

/-- A value and half of another, added or taken away, rounded once. -/
def halfStep (c w : U32) (up : Bool) : Fl :=
  let h := (f32 w).mul false (.fin false 1 (-1))
  f32 (toF32 ((f32 c).add false (if up then h else h.negate)))

/-- The predicted box of a state X. -/
def predictedBox (x : List U32) : Corners :=
  let h := x.getD 3 0
  let w := fmul (x.getD 2 0) h
  { x0 := halfStep (x.getD 0 0) w false, y0 := halfStep (x.getD 1 0) h false, x1 := halfStep (x.getD 0 0) w true, y1 := halfStep (x.getD 1 0) h true }

/-- Every corner is finite. -/
def Corners.finite (c : Corners) : Bool := c.x0.isFin && c.y0.isFin && c.x1.isFin && c.y1.isFin

/-- The exact area of a box. -/
def Corners.area (c : Corners) : Fl := (exSub c.x1 c.x0).mul false (exSub c.y1 c.y0)

/-- The smaller and the larger of two finite values. -/
def flMin (a b : Fl) : Fl := if b.lt a then b else a
def flMax (a b : Fl) : Fl := if a.lt b then b else a

/-- Some corner is a NaN. -/
def Corners.hasNan (c : Corners) : Bool := c.x0.isNan || c.y0.isNan || c.x1.isNan || c.y1.isNan

/-- Intersection over union of a predicted box and an entry's; a NaN where a corner of the predicted box is not finite (R313), or one of the entry's is a NaN. An
infinite corner of an entry goes through the lines of R311. -/
def iou (b d : Corners) : U32 :=
  if !b.finite || d.hasNan then 0x7FC00000
  else
    let inter := toF32 ((posPart (exSub (flMin b.x1 d.x1) (flMax b.x0 d.x0))).mul false (posPart (exSub (flMin b.y1 d.y1) (flMax b.y0 d.y0))))
    let union := toF32 ((b.area.add false d.area).add false (f32 inter).negate)
    if (f32 union).le (.fin false 0 0) then 0 else fdiv inter union

/-- The dot product of two embeddings, accumulated in FP32 in element order. -/
def dotEmb : List U16 → List U16 → U32 → U32
  | a :: as, b :: bs, acc => dotEmb as bs (fma32 (asF32 bf16 a.toNat) (asF32 bf16 b.toNat) acc)
  | _, _, acc => acc

/-- The norm of an embedding. -/
def normEmb (e : List U16) : U32 := fsqrt (dotEmb e e 0)

/-- The cosine distance. -/
def cosd (a b : List U16) : U32 :=
  let na := f32 (normEmb a)
  let nb := f32 (normEmb b)
  if na.isZero || nb.isZero then 0x3F800000
  else
    let d := f32 (dotEmb a b 0)
    let m := na.mul false nb
    if d.isFin && m.isFin then (let q := (exSub m d).div false m; toF32 q.1 q.2)
    else if d.isFin && m.isInf then 0x3F800000
    else 0x7FC00000

/-- The cost of a pair. -/
def pairCost (wIou wEmb i c : U32) : U32 :=
  toF32 (((f32 wIou).mul false (exSub (f32 0x3F800000) (f32 i))).add false ((f32 wEmb).mul false (f32 c)))

/-- A word is at most another, false with a NaN. -/
def leF (a b : U32) : Bool := (f32 a).le (f32 b)

/-! ### Greedy matching (R312) -/

/-- A gated pair. -/
structure Pair where
  cost  : U32
  ent   : Nat
  track : Nat
deriving DecidableEq, Repr

/-- The order of the pairs: cost, then entry, then track. -/
def Pair.before (a b : Pair) : Bool :=
  let x := f32 a.cost
  let y := f32 b.cost
  x.lt y || (!y.lt x && (decide (a.ent < b.ent) || (a.ent == b.ent && decide (a.track < b.track))))

/-- The least pair is matched, and those with its entry or its track go, at most `k` times. -/
def greedy : Nat → List Pair → List Pair
  | 0, _ => []
  | k + 1, ps =>
    match leastBy Pair.before ps with
    | none => []
    | some p => p :: greedy k (ps.filter fun q => q.ent != p.ent && q.track != p.track)

/-! ### The detection list (R310) -/

/-- A detection list as read. -/
structure DetList where
  slot    : Nat
  count   : Nat
  picNum  : U32
  arrival : Nat
  emb     : U32
  flags   : Nat
  ents    : List DetEnt
deriving DecidableEq, Repr

/-- The list at an address, with at most `maxDet` entries. -/
def State.detList (s : State) (a maxDet : Nat) : DetList :=
  let h := s.dramBytes a 32
  let n := field h 2 2
  let e := BitVec.ofNat 32 (field h 0x10 4)
  let ents := (List.range (min n maxDet)).map fun i =>
    let b := s.dramBytes (a + 32 + 32 * i) 32
    let v := s.dramBytes (s.bufAddr e + 128 * i) 128
    { box := words b 4, score := BitVec.ofNat 32 (field b 0x10 4), cls := BitVec.ofNat 16 (field b 0x14 2)
      emb := (List.range 64).map fun k => BitVec.ofNat 16 (field v (2 * k) 2) : DetEnt }
  { slot := field h 0 2, count := n, picNum := BitVec.ofNat 32 (field h 4 4), arrival := field h 8 8, emb := e, flags := field h 0x14 2, ents := ents }

/-! ### Prediction (R246, R247, R316) -/

/-- Seconds between two device times, as FP32. -/
def seconds (frm upto : Nat) : U32 :=
  let q := (Fl.ofInt (Int.ofNat upto - Int.ofNat frm)).div false (Fl.ofInt 1000000000)
  toF32 q.1 q.2

/-- The Kalman record of a track at a picture: DT, VALID, and what R247 makes of it. -/
def Track.predict (t : Track) (q : List U32) (arrival : Nat) : List U32 :=
  (kalmanRecord q (setAt (setAt t.krec 0 (seconds t.predAt arrival)) 1 1)).1

/-- A fresh Kalman record from an entry's box (R312). -/
def freshKrec (pInit box : List U32) : List U32 :=
  let g (i : Nat) : U32 := box.getD i 0
  let w := fsub (g 2) (g 0)
  let h := fsub (g 3) (g 1)
  let r := fdiv w h
  let aspect := if (f32 h).le (.fin false 0 0) || !finite32 r then 0 else r
  let p := (List.range 8).flatMap fun i => (range i (8 - i)).map fun j => if i = j then pInit.getD i 0 else 0
  [0, 1, fma32 0x3F000000 w (g 0), fma32 0x3F000000 h (g 1), aspect, h, 0, 0, 0, 0] ++ p ++ [0, 0]

/-! ### ASSOCIATION (R311 to R314) -/

/-- The embedding distance of a track and an entry: 1 without EMB_VALID. -/
def State.embDist (s : State) (i : Nat) (d : DetEnt) : U32 := if (s.track i).embValid then cosd (s.tvec i).emb d.emb else 0x3F800000

/-- Stage 1: the gated pairs of the entries and the slot's LIVE tracks. -/
def State.stage1 (s : State) (tb : TrackerBlock) (pred : List (Nat × List U32)) (ents : List DetEnt) : List Pair :=
  pred.flatMap fun p =>
    let b := predictedBox ((p.2.drop 2).take 8)
    ents.zipIdx.filterMap fun e =>
      let i := iou b (boxCorners e.1.box)
      let c := s.embDist p.1 e.1
      let cost := pairCost tb.wIou tb.wEmb i c
      if leF cost tb.gate && (leF tb.iouMin i || leF c tb.embMax) then some { cost := cost, ent := e.2, track := p.1 } else none

/-- The dormant tracks of a zone that no association still to commit has matched. -/
def State.dormantOf (s : State) (z : Nat) : List Nat :=
  (tget [] s.tke.zones z).filter fun i => !(s.tke.results.any fun r => r.matched.any fun m => m.track == i)

/-- Stage 2: the gated pairs of the entries left and the zone's dormant tracks. -/
def State.stage2 (s : State) (tb : TrackerBlock) (z : Nat) (ents : List (DetEnt × Nat)) : List Pair :=
  (s.dormantOf z).flatMap fun i => ents.filterMap fun e =>
    let c := s.embDist i e.1
    if leF c tb.reidMax then some { cost := fmul tb.wEmb c, ent := e.2, track := i } else none

/-- Half of the gate. -/
def halfGate (tb : TrackerBlock) : U32 := fmul tb.gate 0x3F000000

/-- A CALIBRATE run that collects takes the embeddings of close matches (R217); with enough tracks of 4 entries its training starts. -/
def State.gather (close : List (Nat × List U16)) (s : State) : State :=
  if !s.cal.running || s.cal.training || s.cal.writing then s
  else
    let taken := close.take (65536 - s.cal.entries.length)
    let g := taken.foldl (fun (g : Tbl Nat) p => tput p.1 (tget 0 g p.1 + 1) g) s.cal.gathered
    let es := s.cal.entries ++ taken.map fun p => (p.1, Config.preAdapter p.2)
    let s := s.updCal fun c => { c with gathered := g, entries := es }
    if s.cal.minTracks ≤ (g.filter fun e => decide (4 ≤ e.2)).length then s.startTraining else s

/-- The TRACK_UPDATE record of a match (R378). -/
def State.postUpdate (tb : TrackerBlock) (r : AssocResult) (m : Match) (s : State) : State :=
  let t := s.track m.track
  let z := if m.dormant then (tb.zoneOfSlot.getD r.slot 0).toNat else t.zone
  s.record (some r.slot) 0x01 (if r.concealed then 4 else 0)
    (le 4 (trackHandle m.track t.gen).toNat ++ le 2 m.det.cls.toNat ++ le 1 1 ++ le 1 z ++ (m.det.box.take 4).flatMap (fun w => le 4 w.toNat)
      ++ le 4 m.det.score.toNat ++ le 4 r.picNum.toNat ++ le 8 r.arrival ++ le 8 r.tag.toNat)

/-- Counts of an association (R310, R314): entries beyond MAX_DET, and entries that concealment alone refused. -/
def State.countAssoc (many : Bool) (refused : Nat) (s : State) : State :=
  s.updTke fun k => { k with assocs := k.assocs + 1, overDet := if many then satAdd k.overDet 1 else k.overDet, concealed := satAdd k.concealed refused }

/-- The association of a picture: what its scatter will commit. -/
def State.associate (tb : TrackerBlock) (l : DetList) (s : State) : State :=
  let concealed := l.flags % 2 == 1
  let z := (tb.zoneOfSlot.getD l.slot 0).toNat
  let live := s.liveOf l.slot
  let pred := live.map fun i => (i, (s.track i).predict tb.qNoise l.arrival)
  let m1 := greedy l.ents.length (s.stage1 tb pred l.ents)
  let left := l.ents.zipIdx.filter fun e => !(m1.any fun p => p.ent == e.2)
  let m2 := if concealed then [] else greedy left.length (s.stage2 tb z left)
  let det (p : Pair) : DetEnt := l.ents.getD p.ent default
  let matched := (m1.map fun p => { track := p.track, det := det p, dormant := false : Match })
    ++ m2.map fun p => { track := p.track, det := det p, dormant := true : Match }
  let missed := live.filter fun i => !(m1.any fun p => p.track == i)
  let room := tb.maxTracks.toNat - (live.length + m2.length - (missed.filter fun i => decide (tb.maxMisses.toNat < (s.track i).misses + 1)).length)
  let fresh := (left.filter fun e => !(m2.any fun p => p.ent == e.2) && leF tb.newScore e.1.score).map (·.1)
  let tag := match (s.sdec l.slot).tags.find? fun t => t.1 == l.picNum with | some t => t.2 | none => 0
  let r : AssocResult := { slot := l.slot, arrival := l.arrival, picNum := l.picNum, concealed := concealed, matched := matched
                           created := if concealed then [] else fresh.take room, missed := missed, predicted := pred, tag := tag
                           close := if concealed then [] else (m1 ++ m2).filterMap fun p =>
                             if leF p.cost (halfGate tb) then some (p.track, (det p).emb) else none }
  let s := s.countAssoc (decide (tb.maxDet.toNat < l.count)) (if concealed && decide (0 < room) then fresh.length else 0)
  let s := s.updSdec l.slot fun d => { d with tags := d.tags.filter fun t => decide (2 ^ 31 ≤ (l.picNum - t.1).toNat) }
  s.updTke fun k => { k with results := k.results ++ [r] }

/-- The association engine takes work: in service, outside FROZEN. -/
def State.tkeServes (s : State) : Bool := s.tke.inService && !s.isFrozen && s.serving

/-- ASSOCIATION: one picture of a slot at a time (R316). A FAILED picture is skipped (R300). -/
def execAssociation (pipe : Fin 4) (list : U64) (s : State) : Host.Outcome State Fault Refusal :=
  .next <|
    match s.tracker with
    | none => s
    | some tb =>
      let l := s.detList list.toNat tb.maxDet.toNat
      if !s.tkeServes || s.waits (.tke pipe) || 512 ≤ l.slot || (s.slot l.slot).state = 0 || (s.tke.results.any fun r => r.slot == l.slot) then s
      else if l.flags / 2 % 2 = 1 || s.dis.failed.contains (l.slot, l.arrival) then
        s.updDis fun d => { d with failed := d.failed.filter fun f => !(f == (l.slot, l.arrival)) }
      else
        -- the embeddings are read as one block transfer of an engine (R346)
        let s := s.notePoison list.toNat (32 + 32 * l.ents.length)
        match if l.ents.isEmpty then none else s.accessCode l.emb 0 (128 * l.ents.length) 64 with
        | some code => s.poolFault reqTke l.emb code
        | none => ((s.notePoison (s.bufAddr l.emb) (128 * l.ents.length)).associate tb l).updTke fun k => { k with byPipe := tupd 0 k.byPipe pipe.val (· + 1) }

/-! ### TRACKER_STEP_COMMIT (R309, R313, R314) -/

/-- The embedding of a matched track: copied on the first match, else blended; unchanged for a concealed picture. -/
def blend (alpha : U32) (valid : Bool) (e d : List U16) : List U16 :=
  if !valid then d
  else (e.zip d).map fun p =>
    let a := asF32 bf16 p.1.toNat
    BitVec.ofNat 16 (fromF32 bf16 (fma32 alpha (fsub (asF32 bf16 p.2.toNat) a) a))

/-- A track takes its match. -/
def State.applyMatch (tb : TrackerBlock) (r : AssocResult) (m : Match) (s : State) : State :=
  let i := m.track
  let valid := (s.track i).embValid
  let s := s.updTrack i fun t =>
    { t with cls := m.det.cls, lastSeen := r.arrival, misses := 0, hits := satAdd t.hits 1 }
  if r.concealed then s
  else
    let s := s.updTrack i fun t => { t with embValid := true, obs := true, obsArr := r.arrival, obsPic := r.picNum }
    (s.updTvec i fun v => { v with emb := blend tb.embAlpha valid v.emb m.det.emb, obsTag := r.tag }).putSide i

/-- A DORMANT track turns LIVE in the picture's slot with a fresh Kalman record (R312). -/
def State.revive (tb : TrackerBlock) (r : AssocResult) (m : Match) (s : State) : State :=
  let i := m.track
  let t := s.track i
  if t.tstate ≠ 2 then s
  else
    let z := (tb.zoneOfSlot.getD r.slot 0).toNat
    let prio := match s.entry r.slot with | some e => e.prio.toNat | none => 0
    let s := s.leaveZone t.zone i
    let s := s.updTrack i fun t =>
      { t with tstate := 1, slot := BitVec.ofNat 16 r.slot, zone := z, prio := prio, krec := freshKrec tb.pInit m.det.box, predAt := r.arrival }
    let s := s.applyMatch tb r m
    s.trackState i (s.track i) 2 1 1

/-- An unmatched LIVE track counts a miss, and turns DORMANT beyond MAX_MISSES. -/
def State.miss (tb : TrackerBlock) (i : Nat) (s : State) : State :=
  let s := s.updTrack i fun t => { t with misses := t.misses + 1 }
  if decide (tb.maxMisses.toNat < (s.track i).misses) then s.turnDormant i 2 else s

/-- An entry creates a track; with no context free it is dropped and counted (R314). -/
def State.create (tb : TrackerBlock) (r : AssocResult) (d : DetEnt) (s : State) : State :=
  match s.newTrack with
  | none => s.updTke fun k => { k with noContext := satAdd k.noContext 1 }
  | some (i, h, s) =>
    let prio := match s.entry r.slot with | some e => e.prio.toNat | none => 0
    let t : Track := { gen := s.gen i, tstate := 1, obs := true, embValid := true, slot := BitVec.ofNat 16 r.slot, zone := (tb.zoneOfSlot.getD r.slot 0).toNat
                       hits := 1, side := h, firstSeen := r.arrival, lastSeen := r.arrival, obsArr := r.arrival, obsPic := r.picNum, cls := d.cls
                       prio := prio, krec := freshKrec tb.pInit d.box, predAt := r.arrival }
    let s := (s.updTrack i fun _ => t).updTvec i fun _ => { emb := d.emb, obsTag := r.tag }
    (s.putSide i).trackState i t 0 1 0

/-- A LIVE track of the slot stands at its predicted record; one that the step could not predict keeps its time (R247). -/
def State.setPredicted (r : AssocResult) (p : Nat × List U32) (s : State) : State :=
  s.updTrack p.1 fun t =>
    if t.tstate = 1 && t.slot.toNat == r.slot then
      { t with krec := p.2, predAt := if (p.2.getD 1 0).getLsbD 1 then t.predAt else r.arrival }
    else t

/-- The update layer's state and covariance of a matched track are taken as written (R313). -/
def State.setUpdate (r : AssocResult) (u : KUpdate) (s : State) : State :=
  if r.matched.any fun m => m.track == u.track.val then
    s.updTrack u.track.val fun t =>
      if t.tstate = 1 then
        { t with krec := t.krec.take 2 ++ (u.x ++ List.replicate 8 0).take 8 ++ (u.p ++ List.replicate 36 0).take 36 ++ t.krec.drop 46 }
      else t
  else s

/-- The scatter of a picture's tracks. -/
def State.scatter (tb : TrackerBlock) (r : AssocResult) (updates : List KUpdate) (s : State) : State :=
  let s := r.predicted.foldl (fun s p => s.setPredicted r p) s
  let s := r.matched.foldl (fun (s : State) m =>
    if m.dormant then s.revive tb r m else if (s.track m.track).tstate = 1 then s.applyMatch tb r m else s) s
  let s := updates.foldl (fun s u => s.setUpdate r u) s
  let s := r.missed.foldl (fun (s : State) i => if (s.track i).tstate = 1 then s.miss tb i else s) s
  r.created.foldl (fun s d => s.create tb r d) s

/-- TRACKER_STEP_COMMIT: the slot's picture commits, and its TRACK_UPDATE records are posted (R376, R378); where the slot has closed meanwhile nothing is made from it. -/
def execTrackerStepCommit (slot : Fin 512) (updates : List KUpdate) (s : State) : Host.Outcome State Fault Refusal :=
  .next <|
    match s.tracker, s.tke.results.find? (fun r => r.slot == slot.val) with
    | some tb, some r =>
      if !s.tkeServes then s
      else
        let s := s.updTke fun k => { k with results := k.results.filter fun q => !(q.slot == slot.val) }
        if (s.slot slot.val).state = 0 then s else (r.matched.foldl (fun s m => s.postUpdate tb r m) (s.gather r.close)).scatter tb r updates
    | _, _ => s

/-! ### HANDOFF_ENTRY (R315, R380) -/

/-- An entry keeps the form of R380 and R215. -/
def handoffOk (tb : TrackerBlock) (b : List Byte) : Bool :=
  decide (field b 0 1 < tb.zones.toNat) && field b 1 7 == 0 && field b 12 4 == 0 && (b.drop 88).all (fun x => x == 0) && emb8Ok ((b.drop 16).take 72)

/-- A DORMANT track from an entry. -/
def State.acceptHandoff (b : List Byte) (s : State) : State :=
  match s.newTrack with
  | none => s.updTke fun k => { k with noContext := satAdd k.noContext 1 }
  | some (i, h, s) =>
    let now := s.now
    let t : Track := { gen := s.gen i, tstate := 2, handoff := true, embValid := true, zone := field b 0 1, side := h, firstSeen := now, lastSeen := now }
    let s := (s.updTrack i fun _ => t).updTvec i fun _ => { emb := emb8Values ((b.drop 16).take 72) }
    let s := s.updTke fun k => { k with accepted := satAdd k.accepted 1 }
    ((s.putSide i).trackState i t 0 2 7).joinZone i

/-- HANDOFF_ENTRY: in Run and DEGRADED, on a ring that the Recipe declares. -/
def execHandoffEntry (ring : Fin 4) (s : State) : Host.Outcome State Fault Refusal :=
  let n := ring.val
  let get := tget 0 s.hif.hoGet n
  .next <|
    match s.tracker with
    | none => s
    | some tb =>
      if !s.tkeServes || s.dev.state == .parked || decide (s.setting 12 0 ≤ n) || get = tget 0 s.hif.hoPut n then s
      else
        let a := handoffBase n + 128 * (get.toNat % handoffEntries)
        let b := s.dramBytes a 128
        let bad := s.poisonedAt a 128
        let s := s.notePoison a 128
        let s := s.updHif fun h => { h with hoGet := tset 0 h.hoGet n (get + 1) }
        if bad || !handoffOk tb b then s.updTke fun k => { k with rejected := satAdd k.rejected 1 }
        else s.acceptHandoff b

/-! ### DORMANCY_EXPIRY (R309) -/

/-- DORMANCY_EXPIRY: the dormancy time has passed since LAST_SEEN. A track that an association still to commit has matched stays. -/
def execDormancyExpiry (track : Fin 1048576) (s : State) : Host.Outcome State Fault Refusal :=
  let i := track.val
  let t := s.track i
  .next <|
    if !s.tke.inService || s.isFrozen || t.tstate ≠ 2 || (s.tke.results.any fun r => r.matched.any fun m => m.track == i) then s
    else (s.waitUntil (t.lastSeen + s.setting 5 300 * 1000000000)).retire i 4

/-! ### TICK_START (R317, R318) -/

/-- A sequence leaves: its pages return, and a RETIRED track becomes FREE. -/
def State.leaveBatch (i : Nat) (s : State) : State :=
  let pages := (s.tvec i).pages
  let s := s.updTvec i fun v => { v with pages := [] }
  let s := pages.foldl (fun s h => s.freeBuf h) s
  let s := s.updTrack i fun t => { t with inBatch := false, lateJoin := false }
  if (s.track i).tstate = 3 then s.freeTrack i else s.putSide i

/-- The sequences that leave at tick `k`. -/
def State.leavers (s : State) (k : U32) : List Nat :=
  (s.tke.tracks.filter fun e => e.2.inBatch
    && (e.2.tstate != 1 || (s.slot e.2.slot.toNat).state == 0 || decide (64 ≤ (k - BitVec.ofNat 32 e.2.joinTick).toNat))).map (·.1)

/-- The join candidates, in order of PRIO, OBS_ARRIVAL and index. -/
def State.candidates (s : State) : List Nat :=
  let c := (s.tke.tracks.filter fun e => e.2.tstate == 1 && (e.2.obs || e.2.deferred) && !e.2.inBatch).map (·.1)
  sortBy (fun a b =>
    let x := s.track a
    let y := s.track b
    decide (x.prio < y.prio) || (x.prio == y.prio && (decide (x.obsArr < y.obsArr) || (x.obsArr == y.obsArr && decide (a < b))))) c

/-- `n` pages of the KV pool. -/
def State.takePages (pool : Nat) : Nat → State → Option (List U32 × State)
  | 0, s => some ([], s)
  | n + 1, s =>
    match s.take reqTke pool with
    | none => none
    | some (h, s) =>
      match State.takePages pool n s with
      | some (r, s) => some (h :: r, s)
      | none => none

/-- The candidates join in order until one does not fit; it and every later one are deferred. -/
def State.joins (tb : TrackerBlock) (k : U32) : List Nat → State → State
  | [], s => s.updTke fun t => { t with deferLast := 0 }
  | i :: rest, s =>
    let fits := decide (s.batchSize < tb.seqMax.toNat)
    match if fits then s.takePages tb.kvPool.toNat (kvNeed tb) else none with
    | some (pages, s) =>
      let s := s.updTrack i fun t => { t with joinTick := k.toNat, steps := 0, inBatch := true, lateJoin := t.deferred, deferred := false }
      State.joins tb k rest ((s.updTvec i fun v => { v with pages := pages }).putSide i)
    | none =>
      let n := rest.length + 1
      let s := (i :: rest).foldl (fun s j => s.updTrack j fun t => { t with deferred := true }) s
      s.updTke fun t => { t with deferLast := BitVec.ofNat 16 (min n 65535), deferTotal := satAdd t.deferTotal n }

/-- The tick contexts, in order of region. -/
def State.tickContexts (s : State) : List Nat :=
  sortBy (fun a b => decide ((s.ctx a).region < (s.ctx b).region)) (s.ctxNums.filter fun c => (s.ctx c).tick)

/-- Each tick context takes a contiguous part of the batch, in index order (log entry 40); the sequences with OBS advance in it. -/
def State.runTick (s : State) : State :=
  let seqs := (s.tke.tracks.filter fun e => e.2.inBatch).map (·.1)
  let cs := s.tickContexts
  if seqs.isEmpty || cs.isEmpty then s
  else
    let size := cdiv seqs.length cs.length
    let parts := (cs.zipIdx.map fun c => (c.1, (seqs.drop (c.2 * size)).take size)).filter fun p => !p.2.isEmpty
    let stepping := parts.map fun p => (p.1, p.2.filter fun i => (s.track i).obs)
    let s := s.updTke fun k => { k with stepping := stepping }
    let s := stepping.foldl (fun (s : State) p => p.2.foldl (fun s i => s.updTrack i fun t => { t with obs := false }) s) s
    let now := s.now
    stepping.foldl (fun (s : State) p =>
      let full := decide (8 ≤ (s.ctx p.1).queue.length)
      let s := s.release p.1 [] (now + (s.ctx p.1).dctx)
      if full then s.tickRan p.1 false else s) s

/-- The number of the next tick: the one after the last, or the first due since T₀. -/
def State.nextTick (s : State) : Nat :=
  let period := s.setting 6 20 * 1000000
  if s.tke.ticked then s.tke.tick.toNat + 1 else cdiv (s.now - s.tke.t0) period

/-- A tick would run an invocation: the batch or its candidates are not empty (R440). -/
def State.tickBusy (s : State) : Bool := s.tke.tracks.any fun e => e.2.inBatch || (e.2.tstate == 1 && (e.2.obs || e.2.deferred))

/-- The tick runs: leaves, joins, and the release of the tick invocations. -/
def State.beginTick (tb : TrackerBlock) (k : Nat) (events : List EventOut) (s : State) : State :=
  let due := s.tke.t0 + k * s.setting 6 20 * 1000000
  let late := decide (due < s.now)
  let s := s.waitUntil due
  let kk := BitVec.ofNat 32 k
  let s := s.updTke fun t => { t with tick := kk, ticked := true, running := true, evts := events, late := if late then satAdd t.late 1 else t.late }
  let s := (s.leavers kk).foldl (fun s i => s.leaveBatch i) s
  let s := s.joins tb kk s.candidates
  (s.runTick).endTick.resumeAll

/-- TICK_START: at its due time, or later when the tick before it ended later. Outside Run a tick with work waits for the wake (R440). -/
def execTickStart (events : List EventOut) (s : State) : Host.Outcome State Fault Refusal :=
  .next <|
    match s.tracker with
    | none => s
    | some tb =>
      if !s.tkeServes || s.tke.running || s.pwr.pstate == .off || (s.pwr.pstate != .run && s.tickBusy) then s
      else s.beginTick tb s.nextTick events

end Sys2Proof.Machine
end

