-- ==== Sys2Proof/Machine/HifRegs.lean ====
section
/-! DEFINITION. Writes of the host interface's registers, the windows, and every other register write (R11, R28, R178, R339, R361 to R366, R371,
R388, R389, R394 to R397, R413, R433). -/

namespace Sys2Proof.Machine

/-! ### Ring indices (R366) -/

/-- A GET of the reply ring. -/
def State.getRpl (v : U32) (s : State) : State :=
  if 2 ^ s.hif.rplLog2.toNat < ringUsed s.hif.rplPut v then s.badRing
  else s.updHif fun h => { h with rplGet := v }

/-- A GET of metadata ring `n`: records that wait go out (R376). -/
def State.getMd (n : Nat) (v : U32) (s : State) : State :=
  let g := s.mdRing n
  if 2 ^ g.log2.toNat < ringUsed g.put v then s.badRing
  else (s.updMd n fun g => { g with get := v }).drainRing n 4096

/-- A PUT of handoff ring `n`: ignored before service entry and where the Recipe declares no such ring (R380). -/
def State.putHo (n : Nat) (v : U32) (s : State) : State :=
  if !s.serving || decide (s.setting 12 0 ≤ n) then s
  else if handoffEntries < ringUsed v (tget 0 s.hif.hoGet n) then s.badRing
  else s.updHif fun h => { h with hoPut := tset 0 h.hoPut n v }

/-- HIF_RPL_GET. -/
def execHifRplGet (v : U32) (s : State) : Host.Outcome State Fault Refusal := .next <| s.onMmio (State.getRpl v)

/-- HIF_MD_GET. -/
def execHifMdGet (ring : Fin 16) (v : U32) (s : State) : Host.Outcome State Fault Refusal := .next <| s.onMmio (State.getMd ring.val v)

/-- HIF_HO_PUT. -/
def execHifHoPut (ring : Fin 4) (v : U32) (s : State) : Host.Outcome State Fault Refusal := .next <| s.onMmio (State.putHo ring.val v)

/-! ### HIF_RING_CTL (R365) -/

/-- Every ring's base and size is in range. -/
def Hif.ringsOk (h : Hif) : Bool :=
  let size (v lo hi : Nat) : Bool := decide (lo ≤ v ∧ v ≤ hi)
  h.cmdBase.toNat % 4096 == 0 && h.rplBase.toNat % 4096 == 0 && size h.cmdLog2.toNat 4 12 && size h.rplLog2.toNat 4 12
    && (List.range 16).all fun n => let g := tget {} h.md n; g.base.toNat % 4096 == 0 && size g.log2.toNat 6 20

/-- A write of HIF_RING_CTL: CFG_ERR is cleared by a 1 first; ENABLE = 1 is checked. -/
def State.ringCtl (v : U32) (s : State) : State :=
  let s := s.updHif fun h => { h with cfgErr := h.cfgErr && !v.getLsbD 30 }
  if !v.getLsbD 31 then s.updHif fun h => { h with ringEn := false }
  else if s.hif.ringsOk then (s.updHif fun h => { h with ringEn := true }).drainRings
  else s.updHif fun h => { h with ringEn := false, cfgErr := true }

/-- HIF_RING_CTL. -/
def execHifRingCtl (v : U32) (s : State) : Host.Outcome State Fault Refusal := .next <| s.onMmio (State.ringCtl v)

/-! ### Attention (R371) -/

/-- A write of 1 to PENDING bits clears them. -/
def State.clearAttn (v : U32) (s : State) : State :=
  s.updHif fun h => { h with attn := h.attn &&& ~~~ v.setWidth 8, attnWait := h.attnWait.filter fun e => !v.getLsbD e.1 }

/-- HIF_ATTN. -/
def execHifAttn (v : U32) (s : State) : Host.Outcome State Fault Refusal := .next <| s.onMmio (State.clearAttn v)

/-- UNSOLICITED_REPLY: in every power state with the link up, 1 ms after a class was raised, still pending and with no reply since, where the reply ring has room. It carries TAG 0, OPCODE 0
and UNSOLICITED (R369). -/
def execUnsolicitedReply (cls : Fin 8) (s : State) : Host.Outcome State Fault Refusal :=
  .next <|
    match tfind s.hif.attnWait cls.val with
    | none => s
    | some t =>
      if !s.funcReady || !s.hif.ringEn || !s.hif.attn.getLsbD cls.val || decide (2 ^ s.hif.rplLog2.toNat ≤ ringUsed s.hif.rplPut s.hif.rplGet) then s
      else (s.waitUntil (t + 1000000)).reply 0 0 1 (tget 0 s.hif.attnCode cls.val) []

/-! ### Windows (R362 to R364) -/

/-- A BAR2 TLP that comes after the commit point waits (R363). -/
def State.takeTlp (t : Bar2Tlp) (s : State) : State :=
  if s.wins.busy then s.updWins fun w => { w with held := w.held ++ [t] } else s.runTlp t

/-- BAR2_WRITE. -/
def execBar2Write (addr : U64) (data : List Byte) (poisoned : Bool) (s : State) : Host.Outcome State Fault Refusal :=
  .next <| s.onMmioNow (State.takeTlp (.write addr data poisoned))

/-- BAR2_READ. -/
def execBar2Read (addr : U64) (size : Nat) (s : State) : Host.Outcome State Fault Refusal := .next <| s.onMmioNow (State.takeTlp (.read addr size))

/-- GO written. -/
def State.winGo (s : State) : State :=
  let now := s.now
  if s.wins.busy then s.updWins fun w => { w with overrun := true } else s.updWins fun w => { w with busy := true, commitAt := now }

/-- GO. -/
def execGo (s : State) : Host.Outcome State Fault Refusal := .next <| s.onMmioNow State.winGo

/-- WINDOW_COMMIT_DRAINED: the TLPs from before the commit point are done; the shadow descriptors become active, and what waited proceeds. -/
def execWindowCommitDrained (s : State) : Host.Outcome State Fault Refusal :=
  .next s.commitDone

/-- BAR2_RESIZE: 256 MiB to 64 GiB, while Memory Space Enable is 0 (R357, R361). -/
def execBar2Resize (log2 : Fin 37) (s : State) : Host.Outcome State Fault Refusal :=
  .next <|
    if !s.funcReady || s.link.memSpace || decide (log2.val < 28) then s
    else
      let off (t : Tbl Win) : Tbl Win := (tkeys t).foldl (fun t n => tupd {} t n fun w => { w with enable := false }) t
      (s.updLink fun l => { l with bar2Log2 := log2.val }).updWins fun w => { w with shadow := off w.shadow, active := off w.active }

/-! ### Other BARs (R361, R433) -/

/-- An aligned 32-bit read of BAR0: HIF_TIME_LO latches the high half of the time that it returns the low half of (R397). -/
def State.bar0Read (offset : Nat) (s : State) : State :=
  let s := if offset = 0x838 then s.updDev fun d => { d with timeHi := hi32 s.aon.time } else s
  s.send (.completion (le 4 (s.bar0 offset).toNat) false)

/-- An access whose shape BAR0 does not take completes with Unsupported Request; an aligned 32-bit one is no such access: a read completes with the register,
and a write of no named register is ignored. -/
def State.bar0Any (write : Bool) (offset size : Nat) (s : State) : State :=
  if offset % 4 ≠ 0 ∨ size ≠ 4 then s.send .unsupported else if write then s else s.bar0Read offset

/-- BAR0_BAD_ACCESS. -/
def execBar0BadAccess (write : Bool) (offset : U32) (size : Nat) (s : State) : Host.Outcome State Fault Refusal :=
  .next <| s.onMmio (State.bar0Any write offset.toNat size)

/-- BAR4_READ: the dump that DBG_BAR4 names, from where it was placed, 0 beyond its end and where none is. -/
def execBar4Read (offset : U32) (size : Nat) (s : State) : Host.Outcome State Fault Refusal :=
  .next <| s.onMmio fun s =>
    match (if s.dbg.bar4 = 0 then none else s.findDump s.dbg.bar4) with
    | some d =>
      let at_ := s.dbg.bar4Off.toNat + offset.toNat
      (s.noteDump d at_ size).answer offset.toNat (d.slice at_ size) (s.dumpBad d at_)
    | none => s.answer offset.toNat (zeros size) fun _ _ => false

/-- BAR4_WRITE. -/
def execBar4Write (_ : U32) (s : State) : Host.Outcome State Fault Refusal := .next <| s.onMmio (State.send .unsupported)

/-- HIF_TIME_LO: a read returns the low half and latches the high one. -/
def execHifTimeLo (s : State) : Host.Outcome State Fault Refusal :=
  .next <| s.onMmio (State.bar0Read 0x838)

/-! ### HIF_SLOT_CTL.POWER_OFF (R389) -/

/-- POWER_OFF is written as 1: the open slots drain, and the device parks once it may. REFUSED is left only by a CHR (R81). -/
def State.powerOff (s : State) : State :=
  let s := s.updDev fun d => { d with powerOff := true }
  if s.parking then ((List.range 512).foldl (fun s n => if (s.slot n).state = 0 then s else s.drainSlot n) s).tryPark else s

/-- POWER_OFF is written as 0: in PARKED a CHR starts. -/
def State.unpark (s : State) : State :=
  let s := s.updDev fun d => { d with powerOff := false }
  if s.dev.state == .parked then s.chr 0x0514 else s

/-- POWER_OFF. -/
def execPowerOff (s : State) : Host.Outcome State Fault Refusal := .next <| s.onMmio State.powerOff

/-- UNPARK. -/
def execUnpark (s : State) : Host.Outcome State Fault Refusal := .next <| s.onMmio State.unpark

/-! ### MGC writes of maps and training registers (R28, R178, R339) -/

/-- The tiles that a slot runs and has not claimed are issued again, while the replaced core may still complete them first (R30). -/
def Wc.reissueSlot (n : Nat) (w : Wc) : Wc :=
  let mine := (w.runners.filter fun x => x.slot == n && tget 0 w.board x.tile == 1).map (·.tile)
  { w with requeue := mine.foldl (fun q t => insertN t q) w.requeue }

/-- A map write replaces core `i` of slot `n`: a fused group on it goes on with the new core at once, and tiles in flight are issued again (R30). -/
def State.startReplace (r n i : Nat) (e : MapEntry) (s : State) : State :=
  if (s.core r i).fusedLayer.isSome then
    let s := s.replaceCore r n i (if e.valid then some e.phys else none)
    (if e.valid then s.feed r e.phys else s).resumeRegion r
  else (List.range 64).foldl (fun (s : State) k => if (s.wc r k).active then s.updWc r k (Wc.reissueSlot n) else s) s

/-- RGN_SLOT_MAP_n is written: an index above 17, one that another VALID slot maps, and a fenced one are ignored. It takes effect at the slot's next
tile fetch. -/
def State.writeSlotMap (r n : Nat) (v : U32) (s : State) : State :=
  let g := s.region r
  let p := bits v.toNat 4 0
  let valid := v.getLsbD 31
  let taken := (List.range 16).any fun m => m != n && (g.written m).valid && (g.written m).phys == p
  if 17 < p || (valid && (taken || g.fenced.getLsbD p)) then s
  else
    let e : MapEntry := { valid := valid, phys := p }
    let old := mapGet g.slotMap n
    let s := s.updRegion r fun g => { g with slotNext := tput n e g.slotNext }
    if old.valid && old != e then s.startReplace r n old.phys e else s

/-- GAU_TILE_MAP_n is written, which takes effect at the next pass; a pass in progress on the replaced tile aborts and restarts (R178). -/
def State.writeTileMap (r n : Nat) (v : U32) (s : State) : State :=
  let g := (s.region r).gau
  let p := bits v.toNat 4 0
  let valid := v.getLsbD 31
  let old := mapGet g.tileMap n
  let taken := (List.range 16).any fun m => m != n && (mapGet g.tileMap m).valid && (mapGet g.tileMap m).phys == p
  if 16 < p || (valid && (taken || g.fenced.getLsbD p)) || (old.valid == valid && old.phys == p) then s
  else (s.updGau r fun g => { g with tileMap := mapSet g.tileMap n { valid := valid, phys := p } }).tilesChanged r old.phys old.valid

/-- DMC_TRN_CTL is written: STEP and CODE are set, and START begins a run where none is in progress. -/
def State.writeTrnCtl (k : Nat) (v : U32) (s : State) : State :=
  s.updTrn k fun t => { t with step := BitVec.ofNat 3 (bits v.toNat 29 27), code := BitVec.ofNat 8 (bits v.toNat 23 16), busy := t.busy || v.getLsbD 31 }

/-- RGN_SLOT_MAP. -/
def execRgnSlotMap (r : Fin 8) (slot : Fin 16) (v : U32) (s : State) : Host.Outcome State Fault Refusal := .next <| s.writeSlotMap r.val slot.val v

/-- GAU_TILE_MAP. -/
def execGauTileMap (r : Fin 8) (tile : Fin 16) (v : U32) (s : State) : Host.Outcome State Fault Refusal := .next <| s.writeTileMap r.val tile.val v

/-- TRAINING_RUN. -/
def execTrainingRun (ch : Fin 24) (v : U32) (s : State) : Host.Outcome State Fault Refusal := .next <| s.writeTrnCtl ch.val v

/-- TRAINING_RUN_DONE: the result stands, ERRORS saturating (R354), and its mask joins what the MGC knows of the step and code (R339). -/
def execTrainingRunDone (ch : Fin 24) (failMask : U16) (errors : Nat) (s : State) : Host.Outcome State Fault Refusal :=
  .next <|
    if !(tget {} s.dmc.trn ch.val).busy then s
    else
      s.updTrn ch.val fun t =>
        { t with busy := false, failMask := failMask, errors := BitVec.ofNat 16 (satN 16 errors), runs := (t.step.toNat, t.code.toNat, failMask) :: t.runs }

/-! ### REGISTER_WRITE (R11, R361, R394 to R397, R413) -/

/-- The low half or the high half of a 64-bit register is written. -/
def setLo (w : U64) (v : U32) : U64 := BitVec.ofNat 64 (w.toNat / 2 ^ 32 * 2 ^ 32 + v.toNat)
def setHi (w : U64) (v : U32) : U64 := BitVec.ofNat 64 (v.toNat * 2 ^ 32 + w.toNat % 2 ^ 32)

/-- A one-bit RW1C field. -/
def clr (b : Bool) (v : U32) (i : Nat) : Bool := b && !v.getLsbD i

/-- HIF_SLOT_CTL: ATTN_IND, and POWER_OFF. -/
def State.writeSlotCtl (v : U32) (s : State) : State :=
  let s := s.updDev fun d => { d with attnInd := BitVec.ofNat 2 (bits v.toNat 30 29) }
  if v.getLsbD 31 then (if s.dev.powerOff then s else s.powerOff) else (if s.dev.powerOff then s.unpark else s)

/-- The control and command registers, and the remaining ones. -/
def State.writeHif (o : Nat) (v : U32) (s : State) : State :=
  match o with
  | 0x004 => s.ringCtl v
  | 0x008 => s.clearAttn v
  | 0x010 => s.updHif fun h => { h with cmdBase := setLo h.cmdBase v }
  | 0x014 => s.updHif fun h => { h with cmdBase := setHi h.cmdBase v }
  | 0x018 => s.updHif fun h => { h with cmdLog2 := v.setWidth 4 }
  | 0x01C => s.putCmd v
  | 0x030 => s.updHif fun h => { h with rplBase := setLo h.rplBase v }
  | 0x034 => s.updHif fun h => { h with rplBase := setHi h.rplBase v }
  | 0x038 => s.updHif fun h => { h with rplLog2 := v.setWidth 4 }
  | 0x040 => s.getRpl v
  | 0x044 => s.updHif fun h => { h with rplMirror := setLo h.rplMirror v }
  | 0x048 => s.updHif fun h => { h with rplMirror := setHi h.rplMirror v }
  | 0x800 => if v.getLsbD 0 then s.winGo else s
  | 0x804 => s.updWins fun w => { w with overrun := clr w.overrun v 30 }
  | 0x820 => s.updDev fun d => { d with button := clr d.button v 31, cancelled := clr d.cancelled v 30 }
  | 0x824 => s.writeSlotCtl v
  | _ => s

/-- A metadata ring's registers. -/
def State.writeMd (n o : Nat) (v : U32) (s : State) : State :=
  match o with
  | 0x00 => s.updMd n fun g => { g with base := setLo g.base v }
  | 0x04 => s.updMd n fun g => { g with base := setHi g.base v }
  | 0x08 => s.updMd n fun g =>
      { g with delay := BitVec.ofNat 6 (bits v.toNat 15 10), count := BitVec.ofNat 5 (bits v.toNat 9 5), log2 := BitVec.ofNat 5 (bits v.toNat 4 0) }
  | 0x10 => s.getMd n v
  | 0x14 => s.updMd n fun g => { g with mirror := setLo g.mirror v }
  | 0x18 => s.updMd n fun g => { g with mirror := setHi g.mirror v }
  | _ => s

/-- A window's shadow descriptor. -/
def State.writeWin (n o : Nat) (v : U32) (s : State) : State :=
  let put (f : Win → Win) : State := s.updWins fun w => { w with shadow := tupd {} w.shadow n f }
  match o with
  | 0x0 => put fun w => { w with offset := setLo w.offset (v &&& 0xFFFFF000) }
  | 0x4 => put fun w => { w with offset := setHi w.offset v }
  | 0x8 => put fun w => { w with enable := v.getLsbD 31, area := v.getLsbD 30 }
  | _ => s

/-- The HIF block. -/
def State.writeHifAll (o : Nat) (v : U32) (s : State) : State :=
  if 0x100 ≤ o ∧ o < 0x300 then s.writeMd ((o - 0x100) / 0x20) ((o - 0x100) % 0x20) v
  else if 0x300 ≤ o ∧ o < 0x340 then (if (o - 0x300) % 0x10 = 0 then s.putHo ((o - 0x300) / 0x10) v else s)
  else if 0x400 ≤ o ∧ o < 0x600 then s.writeWin ((o - 0x400) / 0x10) ((o - 0x400) % 0x10) v
  else s.writeHif o v

/-- A channel's registers: LASTING for any writer, the training registers for the MGC. -/
def State.writeDmc (o : Nat) (v : U32) (mgc : Bool) (s : State) : State :=
  let k := o / 0x10000
  let x := o % 0x10000
  if 0xF00000 ≤ o then
    (if mgc && o == 0xF00008 then s.updDmc fun d => { d with wmIngest := BitVec.ofNat 16 (bits v.toNat 31 16), wmDecode := v.setWidth 16 } else s)
  else if 24 ≤ k then s
  else if x = 0 then s.updChan k fun c => { c with lasting := clr c.lasting v 25 }
  else if !mgc then s
  else if x = 0x20 then s.writeTrnCtl k v
  else if 0x40 ≤ x ∧ x < 0x80 ∧ x % 4 = 0 then
    let i := (x - 0x40) / 4
    s.updTrn k fun t => { t with wr := tset 0 t.wr i (BitVec.ofNat 8 (bits v.toNat 31 24)), rd := tset 0 t.rd i (BitVec.ofNat 8 (bits v.toNat 23 16)) }
  else
    match x with
    | 0x24 => s.updTrn k fun t => { t with pat := v.setWidth 2 }
    | 0x28 => s.updTrn k fun t => { t with user := setLo t.user v }
    | 0x2C => s.updTrn k fun t => { t with user := setHi t.user v }
    | _ => s

/-- A region's registers: the error bits of its units for any writer, its maps for the MGC. -/
def State.writeRgn (o : Nat) (v : U32) (mgc : Bool) (s : State) : State :=
  let r := o / 0x200000
  let x := o % 0x200000
  if 0x40 ≤ x ∧ x < 0x80 ∧ x % 4 = 0 then (if mgc then s.writeSlotMap r ((x - 0x40) / 4) v else s)
  else if 0x40000 ≤ x ∧ x < 0x160000 then
    let i := (x - 0x40000) / 0x10000
    if x % 0x10000 = 0 then s.updCore r i fun c => { c with sat := clr c.sat v 27 }
    else if x % 0x10000 = 0x100 then s.updVec r i fun c =>
        { c with
          laneFault := clr c.laneFault v 5, badInput := clr c.badInput v 4, sat := clr c.sat v 3, nan := clr c.nan v 2
          inf := clr c.inf v 1 }
    else s
  else if x = 0x180000 then s.updGau r fun g => { g with sat := clr g.sat v 24, nan := clr g.nan v 23, inf := clr g.inf v 22 }
  else if 0x180040 ≤ x ∧ x < 0x180080 ∧ x % 4 = 0 then (if mgc then s.writeTileMap r ((x - 0x180040) / 4) v else s)
  else s

/-- The RAS block: the unit shown and the last code; class thresholds for the MGC. -/
def State.writeRas (o : Nat) (v : U32) (mgc : Bool) (s : State) : State :=
  if 0x10 ≤ o ∧ o < 0x24 ∧ o % 4 = 0 then
    let k := (o - 0x10) / 4
    if mgc then s.updRas fun r => { r with thr := tput k (bits v.toNat 28 24) r.thr, win := tput k (bits v.toNat 23 0) r.win } else s
  else
    match o with
    | 0x00 => s.updRas fun r => { r with lastCode := r.lastCode &&& ~~~ v.setWidth 16 }
    | 0x40 => s.updRas fun r => { r with sel := v.setWidth 16 }
    | _ => s

/-- The DBG block: the triggers. -/
def State.writeDbg (o : Nat) (v : U32) (s : State) : State :=
  if o = 0x08 then
    s.updDbg fun d =>
      { d with
        errClasses := BitVec.ofNat 5 (bits v.toNat 12 8), resetEn := v.getLsbD 3, treacleEn := v.getLsbD 2, errorEn := v.getLsbD 1
        pinEn := v.getLsbD 0 }
  else s

/-- The CRT block: its events. -/
def State.writeCrt (o : Nat) (v : U32) (s : State) : State :=
  if o = 0x08 then
    s.updCrt fun c =>
      { c with
        untrained := clr c.untrained v 5, foreign := clr c.foreign v 4, lifeLow := clr c.lifeLow v 3, writeFail := clr c.writeFail v 2
        inserted := clr c.inserted v 1, removed := clr c.removed v 0 }
  else s

/-- A slot's or session's registers. -/
def State.writeMedia (o : Nat) (v : U32) (s : State) : State :=
  if 0x900000 ≤ o ∧ o < 0x908000 then
    let n := (o - 0x900000) / 0x40
    match (o - 0x900000) % 0x40 with
    | 0x00 => s.putSlot n v
    | 0x0C => s.updSlot n fun t => { t with events := t.events &&& ~~~ v.setWidth 16 }
    | _ => s
  else if 0xA80000 ≤ o ∧ o < 0xA81000 then (if (o - 0xA80000) % 0x40 = 8 then s.getSess ((o - 0xA80000) / 0x40) v else s)
  else s

/-- A write of the register at a BAR0 offset: by its fields' types, and by who writes. -/
def State.writeReg (o : Nat) (v : U32) (mgc : Bool) (s : State) : State :=
  if o < 0x100000 then s.writeHifAll o v
  else if o = 0x100004 then s.updDis fun d => { d with sel := v.setWidth 12 }
  else if o < 0x200000 then s
  else if o = 0x200004 then s.updBpm fun b => { b with sel := v.setWidth 6 }
  else if o = 0x200080 then s.updBpm fun b => { b with lastCode := b.lastCode &&& ~~~ v.setWidth 16 }
  else if o < 0x800000 then s
  else if o < 0x1000000 then s.writeMedia o v
  else if o < 0x2000000 then s.writeDmc (o - 0x1000000) v mgc
  else if o < 0x3000000 then s.writeRgn (o - 0x2000000) v mgc
  else if o < 0x3100000 then s
  else if o < 0x3200000 then s.writeRas (o - 0x3100000) v mgc
  else if o < 0x3300000 then s.writeDbg (o - 0x3200000) v
  else if o < 0x3400000 then s.writeCrt (o - 0x3300000) v
  else s

/-- HIF_WIN_COMMIT, whose GO is taken during a commit as well. -/
def goOffset : U32 := 0x800

/-- REGISTER_WRITE: the host's through BAR0, where a poisoned one is discarded and counted (R385), or the MGC's. -/
def execRegisterWrite (offset v : U32) (byMgc poisoned : Bool) (s : State) : Host.Outcome State Fault Refusal :=
  .next <|
    if byMgc then s.writeReg offset.toNat v true
    else
      let put (s : State) : State := if poisoned then (s.countPoison (some (.write 0 (offset.setWidth 64)))).freeze else s.writeReg offset.toNat v false
      if offset = goOffset then s.onMmioNow put else s.onMmio put

end Sys2Proof.Machine
end

