-- ==== Sys2Proof/Machine/Link.lean ====
section
/-! DEFINITION. The PCIe link (R357 to R359, R381 to R387): resets from it, read timeouts, PTM, MSI-X delays, configuration requests, the PLLs of the hub (R451,
R455), and the way into and out of Off (R442). -/

namespace Sys2Proof.Machine

/-! ### Off (R442, R426) -/

/-- PM_STATE_CHANGE: D0 or D3hot, with no reset. -/
def execPmStateChange (d3hot : Bool) (s : State) : Host.Outcome State Fault Refusal :=
  .next <| if !s.funcReady then s else s.awake.updLink fun l => { l with d3hot := d3hot }

/-- PME_TURN_OFF: the link reaches L2/L3 Ready. -/
def execPmeTurnOff (s : State) : Host.Outcome State Fault Refusal :=
  .next <| if !s.funcReady then s else (s.awake.updWires fun w => { w with l23 := true }).tryOff

/-! ### Resets from the link (R359, R424) -/

/-- 12 V stands above 11.0 V with no dip in progress, and the package is ready to boot (R448, R463). -/
def State.supplyOk (s : State) : Bool := s.wires.ready && s.wires.vaux3 && decide (11000 < s.wires.vin12.toNat) && !s.aon.dip

/-! ### PLLs (R451, R455) -/

/-- A PLL is locked at a frequency in MHz. -/
def State.lockPll (n freq spread : Nat) (s : State) : State :=
  s.updClk fun t => tupd {} t n fun p => { p with locked := true, freq := freq, spread := spread }

/-- The hub's PLLs lock before the boot ROM starts; DCLK's follows with the training of its PHYs. -/
def State.lockHub (s : State) : State :=
  let s := (s.lockPll 8 1600 50).lockPll 9 1100 50
  let s := s.lockPll 11 500 (if s.wires.commonClock then 0 else 50)
  let s := (s.lockPll 12 800 50).lockPll 13 200 25
  (s.lockPll 14 4000 25).lockPll 15 4000 25

/-! ### The start of the boot ROM -/

/-- The CHR in progress is a hardware one, which waits for Crumb; one that the host requested does not (R431). -/
def State.hardChr (s : State) : Bool := s.rst.runs.any fun r => r.active && r.scope == .chip && r.cause != 0x050A

/-- The CHR completes and the boot ROM starts, once PERST# is deasserted and the supply is there; after a power-up the boot ROM starts the same way
(R420, R448, R463): the hub's PLLs are locked, and a collection of registers in progress is finished first (R427). The link trains at the highest width
and rate (R358; log entry 41). -/
def State.bootRom (s : State) : State :=
  if s.wires.perst || !s.supplyOk || (s.dbg.current.isSome && s.hardChr) then s
  else
    let s := (s.endRun .chip).lockHub
    let s := (s.updWires fun w => { w with linkUp := true, l23 := false }).updLink fun l => { l with width := 16, rate := 3 }
    s.startBoot

/-- The boot ROM has not started since the last reset of the chip. -/
def State.atRest (s : State) : Bool := s.crt.stage == 0 && s.pwr.pstate != .off

/-- PERST_ASSERT: a CHR, which is the wake from Off when the device is there: the time in Off will be added to the age (R62). -/
def execPerstAssert (s : State) : Host.Outcome State Fault Refusal :=
  .next <|
    if s.wires.perst then s
    else
      let s := s.updWires fun w => { w with perst := true }
      if !s.wires.ready then s
      else if s.pwr.pstate == .off then
        let off := (s.now - s.aon.offAt.toNat) / 15000000000
        (s.chr 0x0516).updCrt fun c => { c with offAge := off }
      else s.chr 0x050B

/-- PERST_DEASSERT: the clock strap is sampled, and the boot ROM starts once both supplies are in range. -/
def execPerstDeassert (commonClock : Bool) (s : State) : Host.Outcome State Fault Refusal :=
  .next <|
    if !s.wires.perst then s
    else
      let s := s.updWires fun w => { w with perst := false, commonClock := commonClock }
      if s.atRest then s.bootRom else s

/-- HOT_RESET. -/
def execHotReset (s : State) : Host.Outcome State Fault Refusal := .next <| if s.wires.linkUp && s.pwr.pstate != .off then s.chr 0x050B else s

/-- LINK_DOWN. -/
def execLinkDown (s : State) : Host.Outcome State Fault Refusal := .next <| if s.wires.linkUp && s.pwr.pstate != .off then s.chr 0x050B else s

/-- LINK_RETRAIN: to a lower width or rate in service, the device re-admits and raises class degraded: with the failing code, or with a code that the spec
does not state (R38, R358; log entry 42). -/
def execLinkRetrain (width : Fin 32) (rate : Fin 4) (s : State) : Host.Outcome State Fault Refusal :=
  .next <|
    if !s.wires.linkUp then s
    else
      let lower := decide (width.val < s.link.width.toNat) || decide (rate.val < s.link.rate.toNat)
      let s := s.updLink fun l => { l with width := BitVec.ofNat 5 width.val, rate := BitVec.ofNat 3 rate.val }
      if lower && (s.dev.state == .run || s.dev.state == .degraded || s.isFrozen) then
        let code := freeCode s.tag
        ((s.burn).readmitFor code 0 0).judgeAll
      else s

/-! ### Reads that time out (R384) -/

/-- The completion timeout in ns. -/
def State.ctoNs (s : State) : Nat := match s.link.ctoRange with | 0 => 10000000 | 1 => 50000000 | 2 => 200000000

/-- What a lost read leads to: a lost command is replied to (R373), lost bytes of a pull ring are marked (R96). -/
def State.loseRead (u : ReadUse) (s : State) : State :=
  match u with
  | .command i => ((s.updHif fun h => { h with cmdGet := h.cmdGet + 1 }).reply 0 0xFF 0 stCmdLost (le 4 i.toNat)).reportLtr
  | .pull n pos len => if (s.slot n).wants pos then (s.updSlot n fun t => { t with lost := t.lost ++ [(pos, len)] }).fetched n else s

/-- COMPLETION_TIMEOUT: the data is lost, AER logs it, the tag is quarantined, and the device may freeze (R390). -/
def execCompletionTimeout (tag : U16) (s : State) : Host.Outcome State Fault Refusal :=
  .next <|
    match s.link.reads.find? fun r => r.tag == tag.toNat with
    | none => s
    | some r =>
      let s := s.waitUntil (r.at_ + s.ctoNs)
      let q : ReadReq := { r with at_ := s.now }
      let s := s.updLink fun l =>
        { l with
          reads := l.reads.filter fun x => !(x.tag == r.tag)
          quarantine := l.quarantine ++ [q]
          timeouts := satAdd l.timeouts 1
          aerCto := true }
      (s.freeze).loseRead r.use

/-- LATE_COMPLETION: dropped and counted, and the tag may be used again; the remaining completions of a read split into several are dropped and counted too. -/
def execLateCompletion (tag : U16) (s : State) : Host.Outcome State Fault Refusal :=
  .next <|
    if s.link.quarantine.any fun r => r.tag == tag.toNat then
      s.updLink fun l => { l with late := satAdd l.late 1, quarantine := l.quarantine.filter fun r => !(r.tag == tag.toNat), split := insertN tag.toNat l.split }
    else if s.link.split.contains tag.toNat then s.updLink fun l => { l with late := satAdd l.late 1 }
    else s

/-- TAG_QUARANTINE_EXPIRY: twice the timeout has passed. -/
def execTagQuarantineExpiry (tag : U16) (s : State) : Host.Outcome State Fault Refusal :=
  .next <|
    match s.link.quarantine.find? fun r => r.tag == tag.toNat with
    | none => s
    | some r =>
      (s.waitUntil (r.at_ + 2 * s.ctoNs)).updLink fun l => { l with quarantine := l.quarantine.filter fun x => !(x.tag == tag.toNat) }

/-! ### PTM (R387, R441) -/

/-- Dialogues run: PTM is enabled, and the device is not in Slumber. -/
def State.ptmRuns (s : State) : Bool := s.link.ptmOn && s.funcReady && s.pwr.pstate != .slumber

/-- PTM_DIALOGUE: a request, unless the freeze keeps the device from sending it (R390). -/
def execPtmDialogue (s : State) : Host.Outcome State Fault Refusal := .next <| if s.ptmRuns && !s.isFrozen then s.send .ptmRequest else s

/-- What the device does about an offset in ns, device time less the root's (log entry 43): a lag of more than 1 ms is stepped away, everything else slewed. -/
def Aon.steer (off : Int) (root : U64) (a : Aon) : Aon :=
  if off < -1000000 then { a with time := root, fracPs := 0, offsetPs := 0 } else { a with offsetPs := off * 1000 }

/-- PTM_RESPONSE: the offset is recorded and removed, and SYNCED follows. The spec states no OFFSET for one beyond 32 bits, which is a free value then. -/
def execPtmResponse (root : U64) (s : State) : Host.Outcome State Fault Refusal :=
  .next <|
    if !s.ptmRuns then s
    else
      let now := s.now
      let off : Int := Int.ofNat now - Int.ofNat root.toNat
      let fits := decide (-(2 ^ 31 : Int) ≤ off ∧ off < 2 ^ 31)
      let v : U32 := if fits then BitVec.ofInt 32 off else Config.freeWord s.tag
      let close := decide (-100 ≤ off ∧ off ≤ 100)
      let s := if fits then s else s.burn
      let good := if close then some (s.dev.ptmGood.getD now) else none
      let synced := match good with | some g => decide (1000000000 ≤ now - g) | none => false
      let s := s.updDev fun d => { d with ptmOffset := v, ptmGood := good, ptmLast := some now, synced := synced }
      s.updAon (Aon.steer off root)

/-- PTM_SYNC_LOSS: 1 s without a dialogue that succeeds; device time runs free. -/
def execPtmSyncLoss (s : State) : Host.Outcome State Fault Refusal :=
  .next <|
    match s.dev.ptmLast with
    | none => s
    | some t =>
      let s := s.waitUntil (t + 1000000000)
      (s.updDev fun d => { d with synced := false, ptmGood := none, ptmLast := none }).updAon fun a => { a with offsetPs := 0 }

/-! ### MSI-X (R381) -/

/-- MSIX_DELAY: the oldest unsignalled entry of a metadata ring has waited for DELAY, in units of 16 µs. Vectors 0 and 17 have none. -/
def execMsixDelay (vector : Fin 18) (s : State) : Host.Outcome State Fault Refusal :=
  .next <|
    let n := vector.val - 1
    let g := s.mdRing n
    if vector.val = 0 || vector.val = 17 || g.unsig = 0 || g.delay = 0 || !s.funcReady then s
    else ((s.waitUntil (g.oldest + 16000 * g.delay.toNat)).updMd n fun g => { g with unsig := 0, oldest := 0 }).fire vector.val

/-! ### Configuration requests (R73, R357) -/

/-- The pending vectors that nothing masks any more send their messages (R381). -/
def State.msixDue (s : State) : State :=
  let due := s.link.msixPend.filter s.link.sends
  let s := s.updLink fun l => { l with msixPend := l.msixPend.filter fun v => !l.sends v }
  due.foldl (fun s v => s.send (.msix v)) s

/-- The attributes of a BAR's lower dword: 64-bit, and prefetchable for BAR2 and BAR4; an upper dword has none (R360). -/
def barFlags (bar : Nat) : Nat := if bar = 0 then 0x4 else if bar = 2 ∨ bar = 4 then 0xC else 0

/-- The size of a BAR, as a power of two. -/
def State.barLog2 (s : State) (bar : Nat) : Nat := if bar = 0 then 26 else if bar = 2 then s.link.bar2Log2 else 24

/-- The header that AER logs: BAR and address of a write, or the tag of a completion; 0 where none is logged (log entry 44). -/
def headWord (h : Option TlpHead) : Nat :=
  match h with
  | some (.write bar a) => 2 ^ 68 + bar * 2 ^ 64 + a.toNat
  | some (.completion tag) => 2 ^ 69 + tag
  | none => 0

/-- The value of a configuration field (R357, R360, R381 to R387, R442). -/
def State.cfgField (f : CfgField) (s : State) : Nat :=
  let l := s.link
  match f with
  | .classCode => 0x120000
  | .linkWidth => l.width.toNat
  | .linkRate => l.rate.toNat
  | .barFlags b => barFlags b.val
  | .bar2Log2 => l.bar2Log2
  | .memSpace => bit l.memSpace
  | .maxPayloadLog2 => l.mpsLog2
  | .maxPayloadMost => 9
  | .maxReadLog2 => l.mrrsLog2
  | .tag10Requester => 1
  | .tag10Completer => 1
  | .tag10Enable => bit l.tag10
  | .relaxedEnable => bit l.relaxed
  | .msixVectors => 18
  | .msixEnable => bit l.msixEn
  | .msixFunctionMask => bit l.msixMaskAll
  | .msixMasked v => bit (l.msixMask.contains v.val)
  | .msixPending v => bit (l.msixPend.contains v.val)
  | .aerTimeout => bit l.aerCto
  | .aerPoison => bit l.aerPoison
  | .aerHeader => headWord l.aerHead
  | .ecrcGenerate => bit l.ecrcGen
  | .ecrcCheck => bit l.ecrcChk
  | .ltrEnable => bit l.ltrOn
  | .ptmEnable => bit l.ptmOn
  | .aspmSupport => 2
  | .aspmL1Enable => bit l.aspmL1
  | .flrCapable => 0
  | .ctoRanges => 7
  | .ctoRange => l.ctoRange.val
  | .ctoDisableCapable => 0
  | .noSoftReset => 1
  | .d3hot => bit l.d3hot

/-- Bytes of a field's value: the header log holds 16 (PRESUMED; log entry 44). -/
def fieldBytes (f : CfgField) : Nat := match f with | .aerHeader => 16 | _ => 4

/-- What a configuration write sets. A payload or request size out of the range of R357 is not taken. -/
def State.configure (c : CfgReq) (s : State) : State :=
  match c with
  | .read _ => s
  | .readField _ => s
  | .setCtoRange r => s.updLink fun l => { l with ctoRange := r }
  | .setLtr on => (s.updLink fun l => { l with ltrOn := on, ltrSent := none }).reportLtr
  | .setPtm on => s.updLink fun l => { l with ptmOn := on }
  | .setTag10 on => s.updLink fun l => { l with tag10 := on }
  | .setRelaxed on => s.updLink fun l => { l with relaxed := on }
  | .setMemSpace on => s.updLink fun l => { l with memSpace := on }
  | .setMaxReadReq n => if n.val < 7 then s else s.updLink fun l => { l with mrrsLog2 := n.val }
  | .setMaxPayload n => if n.val < 7 then s else s.updLink fun l => { l with mpsLog2 := n.val }
  | .setMsix en all => (s.updLink fun l => { l with msixEn := en, msixMaskAll := all }).msixDue
  | .setMsixMask v m =>
    (s.updLink fun l => { l with msixMask := if m then insertN v.val l.msixMask else l.msixMask.filter (· ≠ v.val) }).msixDue
  | .setEcrc g c => s.updLink fun l => { l with ecrcGen := g, ecrcChk := c }
  | .setAspmL1 on => s.updLink fun l => { l with aspmL1 := on }
  | .clearAer => s.updLink fun l => { l with aerCto := false, aerPoison := false, aerHead := none }

/-- A word of configuration space. Of the words that the common header places, the class code and the BARs have bits that the spec states: a BAR's attributes and
the address bits below its size, which read 0 (R357, R360); every other bit is free (log entry 44). -/
def State.cfgWord (off : Nat) (v : U32) (s : State) : U32 :=
  let k := (off - 16) / 4
  if off = 8 then 0x12000000 ||| (v &&& 0xFF)
  else if 16 ≤ off ∧ off < 40 ∧ off % 4 = 0 then
    let low := s.barLog2 (k / 2 * 2) - (if k % 2 = 0 then 0 else 32)
    BitVec.ofNat 32 (v.toNat / 2 ^ min 32 low * 2 ^ min 32 low + barFlags k)
  else v

/-- CONFIGURATION_REQUEST: retry status until step 6. The spec does not lay configuration space out: a request names a field, or reads a word whose bits are
free but for those that the spec states (log entry 44). -/
def execConfigurationRequest (c : CfgReq) (s : State) : Host.Outcome State Fault Refusal :=
  .next <|
    if !s.wires.linkUp || s.wires.l23 then s
    else if !s.funcReady then s.send .retryStatus
    else
      let s := s.awake
      match c with
      | .read off => (s.burn).send (.completion (le 4 (s.cfgWord off (Config.freeWord s.tag)).toNat) false)
      | .readField f => s.send (.completion (le (fieldBytes f) (s.cfgField f)) false)
      | _ => (s.configure c).send .completionOk

end Sys2Proof.Machine
end

