-- ==== Sys2Proof/Machine/Loader.lean ====
section
/-! DEFINITION. The loader (R258 to R261): the checks of every plan, in the order of R258, and within one table entry in the order of the codes of
R259 (log entry 45). -/

namespace Sys2Proof.Machine

/-- A check: it fails, and the code it fails with. -/
abbrev Check := Bool × U16

/-- The code of the first check that fails. -/
def firstCheck (cs : List Check) : Option U16 := (cs.find? (·.1)).map (·.2)

/-- The first entry of a table that fails, with its index. -/
def firstEntry {α : Type} (f : Nat → α → Option U16) : Nat → List α → Option (U16 × Nat)
  | _, [] => none
  | i, x :: r =>
    match f i x with
    | some c => some (c, i)
    | none => firstEntry f (i + 1) r

/-! ### Ranges -/

/-- The ranges lie inside `n` bytes, and no two of them meet. -/
def apart (n : Nat) : List Range → Bool
  | [] => true
  | r :: rest => decide (r.1 + r.2 ≤ n) && rest.all (fun x => !meets r x) && apart n rest

/-! ### Header, clips, buffers, multicast groups (R252, R253, R255, R256, R270) -/

/-- The ranges of the plan section's tables. -/
def planTables (p : Plan) : List Range :=
  let o (i : Nat) : Nat := (p.tableOffs.getD i 0).toNat
  [(0, 64), (o 0, 64 * p.layers.length), (o 1, 32 * p.buffers.length), (o 2, 8 * p.mcasts.length), (o 3, 4096), (o 4, p.codeBytes.toNat)
   , (p.clipTable.toNat, 32 * p.clipsCount.toNat)]

/-- The plan's header. -/
def headerFail (p : Plan) : Option U16 :=
  let o (i : Nat) : Nat := (p.tableOffs.getD i 0).toNat
  let n (l lo hi : Nat) : Bool := decide (lo ≤ l ∧ l ≤ hi)
  firstCheck
    [ (p.pmagic != 0x4E4C5047 || p.pversion != 1 || p.plan.toNat != p.inst.toNat || decide (2 < p.kind.toNat)
        || (decide (2 < p.gang.toNat) && p.gang != 0xFF) || !n p.layers.length 1 1024 || !n p.buffers.length 1 4096 || !n p.mcasts.length 0 64, 0x0201)
    , (p.zero2D != 0 || p.zero38 != 0 || !apart p.length.toNat (planTables p), 0x0202)
    , (o 0 % 8 != 0 || o 1 % 8 != 0 || o 2 % 8 != 0 || o 3 % 256 != 0 || o 4 % 256 != 0 || p.clipTable.toNat % 8 != 0, 0x0203)
    , (decide (0x200000 < p.spBytes.toNat) || decide (0x1000000 < p.rbBytes.toNat), 0x0204) ]

/-- The clip profile table's structure (R259): the count, and each PROFILE number once. -/
def clipsFail (p : Plan) : Option (U16 × Nat) :=
  if 16 < p.clipsCount.toNat || (p.kind != 1 && p.clipsCount != 0) then some (0x0218, 0)
  else firstEntry (fun i (c : ClipProfile) => if (p.clips.take i).any fun q => q.profile == c.profile then some 0x0218 else none) 0 p.clips

/-- The types are those of R226. -/
def tyOk (t : Byte) : Bool := decide (t.toNat ≤ 8)

/-- A buffer's layout fits its type, with the pitches of R256. -/
def bufLaidOut (b : BufferEntry) : Bool :=
  let pitched := decide (32 * b.w.toNat ≤ b.rowPitch.toNat) && b.rowPitch.toNat % 32 == 0 && decide (b.rowPitch.toNat * b.h.toNat ≤ b.cbPitch.toNat)
    && b.cbPitch.toNat % 256 == 0
  tyOk b.type && (match b.layout.toNat with
    | 0 => true
    | 1 => tySize b.type.toNat == 1 && pitched
    | 3 => tySize b.type.toNat == 1
    | 2 => tySize b.type.toNat == 2 && pitched
    | _ => false)

/-- A buffer table entry. -/
def bufferFail (p : Plan) (b : BufferEntry) : Option U16 :=
  let fits := match b.space.toNat with
    | 0 => decide (b.offset.toNat + b.bytes.toNat ≤ p.spBytes.toNat)
    | 1 => decide (b.offset.toNat + b.bytes.toNat ≤ p.rbBytes.toNat)
    | 2 => decide (b.offset.toNat < 64)
    | _ => false
  firstCheck
    [ (b.zero != 0 || decide (1 < b.bflags.toNat) || (b.scales != 0xFFFF && decide (p.buffers.length ≤ b.scales.toNat)), 0x0202)
    , (!fits, 0x0204)
    , (decide (2 < b.smode.toNat) && b.smode != 0xFF, 0x020D)
    , (!bufLaidOut b, 0x0214)
    , (b.bflags.getLsbD 0 && p.kind != 2, 0x0217) ]

/-- Layer `l` is FUSED. -/
def isFused (l : LayerEntry) : Bool := l.lflags.getLsbD 0

/-- Logical slot `n` takes tiles of a layer: its group one unit at least, or a stripe of a fused layer; a Millefeuille layer gives tiles to no slot. -/
def takesTiles (l : LayerEntry) (n : Nat) : Bool :=
  let q := max 1 l.q.toNat
  if l.lkind = 2 then false
  else if isFused l then decide (n < l.s.toNat)
  else decide (n / q < l.s.toNat * l.b.toNat / q)

/-- A multicast table entry, number `i`: every member takes tiles of each layer that names the group (R270). -/
def mcastFail (p : Plan) (i : Nat) (m : McastEntry) : Option U16 :=
  let sp := match p.buffers[m.buffer.toNat]? with | some b => b.space == 0 | none => false
  let idle := p.layers.any fun l => l.wmcast.toNat == i && (List.range 16).any fun n => m.mask.getLsbD n && !takesTiles l n
  firstCheck [(m.zero != 0, 0x0202), (m.mask == 0 || !sp || idle, 0x0212)]

/-! ### Layers (R254, R260, R261, R271, R275) -/

/-- The bytes that one window of a layer's largest stripe takes (R271). -/
def windowBytes (l : LayerEntry) (ib ob : BufferEntry) : Nat :=
  let (blocks, row) := rowShape ib
  (List.range l.s.toNat).foldl (fun a st =>
    match windowRows l ib.h.toNat (st * l.rows.toNat) (stripeRows l ob.h.toNat st) with
    | some w => max a ((w.2 + 1 - w.1) * row * blocks)
    | none => a) 0

/-- Grid channel blocks that a layer's output has (R260): those of its kind; one for a Millefeuille layer, all of whose tiles would write the blocks of its one list
(R261; log entry 129). -/
def gridBlocks (l : LayerEntry) (ob : BufferEntry) : Option Nat :=
  match l.lkind.toNat with
  | 0 => some (cdiv ob.c.toNat 128)
  | 1 => some (cdiv ob.c.toNat (blockChans ob))
  | _ => some 1

/-- The grid's fields, and every output row in exactly one stripe. -/
def gridOk (l : LayerEntry) (ob : BufferEntry) : Bool :=
  let n (v lo hi : Nat) : Bool := decide (lo ≤ v ∧ v ≤ hi)
  let q := l.q.toNat
  n l.s.toNat 1 4096 && n l.b.toNat 1 256 && n l.rows.toNat 1 256 && decide (l.s.toNat * l.b.toNat ≤ 4096) && [1, 2, 4, 8, 16].contains q
    && l.b.toNat % max 1 q == 0 && n l.kh.toNat 1 16 && n l.kw.toNat 1 16 && n l.sh.toNat 1 8 && n l.sw.toNat 1 8 && n l.dh.toNat 1 1024
    && n l.dw.toNat 1 1024 && decide (l.padT.toNat ≤ 1024 ∧ l.padL.toNat ≤ 1024) && n l.passes.toNat 1 4096 && decide (l.lkind.toNat ≤ 2)
    && decide (l.wc.toNat ≤ 7) && decide (l.crust.toNat ≤ 16) && (decide (l.fgroup.toNat ≤ 63) || l.fgroup == 0xFF)
    && (if l.lkind = 2 then l.s == 1 else (decide (ob.h.toNat ≤ l.s.toNat * l.rows.toNat) && decide ((l.s.toNat - 1) * l.rows.toNat < ob.h.toNat)))
    && (match gridBlocks l ob with | some k => l.b.toNat == k | none => true)

/-- The rules of R275 at layer `i`: its group is consecutive, of 2 to 8 layers with one S, starts with GROUP_HEAD, reads the region buffer only in
its head and writes it only in its last layer; the other outputs lie in scratchpads. -/
def fusedOk (p : Plan) (i : Nat) (l : LayerEntry) : Bool :=
  if !isFused l then l.fgroup == 0xFF && !l.lflags.getLsbD 1
  else
    let mine := (p.layers.zipIdx).filter fun x => isFused x.1 && x.1.fgroup == l.fgroup
    let first := match mine.head? with | some x => x.2 | none => i
    let last := first + mine.length - 1
    let space (b : U16) : Option Byte := (p.buffers[b.toNat]?).map (·.space)
    l.fgroup != 0xFF && decide (2 ≤ mine.length ∧ mine.length ≤ 8) && (mine.map (·.2)) == range first mine.length && mine.all (fun x => x.1.s == l.s)
      && l.lflags.getLsbD 1 == (i == first) && (space l.inBuf == some 1) == (i == first) && space l.outBuf == some (if i = last then 1 else 0)

/-- The buffers live in a layer: its input, output, staging and weight buffers, and the scales of these (R197, R253). -/
def liveBuffers (p : Plan) (ids : List U16) : List BufferEntry :=
  let get (b : U16) : Option BufferEntry := p.buffers[b.toNat]?
  let scales := (ids.filterMap fun b => (get b).map (·.scales)).foldl (fun (l : List U16) b => if b == 0xFFFF || l.contains b || ids.contains b then l else l ++ [b]) []
  (ids ++ scales).filterMap get

/-- The ranges of the gangs' blocks or panels. -/
def gangRanges (d : GauDesc) (base stride : U32) (bytes : Nat) : List Range :=
  (List.range (gangCount d.gang.toNat)).map fun g => (base.toNat + g * stride.toNat, bytes)

/-- The output ranges of a Millefeuille descriptor, and those it reads (R179). -/
def gauOuts (d : GauDesc) : List Range :=
  let n := gangBlock d.gang.toNat
  let f := gauOut d.fmtC
  gangRanges d d.cOut d.cStride (n * n * ((f.exp + f.man + 1) / 8))
def gauIns (d : GauDesc) : List Range :=
  let n := gangBlock d.gang.toNat
  gangRanges d d.a d.aStride (d.k.toNat * n * gauSize d.fmtA) ++ gangRanges d d.b d.bStride (d.k.toNat * n * gauSize d.fmtB)
    ++ (if d.accIn then gangRanges d d.cIn d.cStride (4 * n * n) else [])

/-- A range lies inside another. -/
def rangeIn (a b : Range) : Bool := decide (b.1 ≤ a.1) && decide (a.1 + a.2 ≤ b.1 + b.2)

/-- A Millefeuille descriptor reads what a later one of its list writes, and none before it has written: a second run of the tile would not read the same inputs (R261;
log entry 129). -/
def gauReadsLater : List Range → List Desc → Bool
  | _, [] => false
  | written, .gau d :: r =>
    let later := r.flatMap fun x => match x with | .gau e => gauOuts e | _ => []
    (gauIns d).any (fun a => later.any (meets a) && !written.any (rangeIn a)) || gauReadsLater (written ++ gauOuts d) r
  | written, _ :: r => gauReadsLater written r

/-- Two scratchpad or region buffers live in one layer overlap. -/
def liveOverlap (bs : List BufferEntry) : Bool :=
  match bs with
  | [] => false
  | b :: r => (r.any fun c => b.space == c.space && b.space != 2 && meets (bufRange b) (bufRange c)) || liveOverlap r

/-- A layer table entry. -/
def layerFail (p : Plan) (i : Nat) (l : LayerEntry) : Option U16 :=
  let buf (b : U16) : Option BufferEntry := p.buffers[b.toNat]?
  match buf l.inBuf, buf l.outBuf with
  | some ib, some ob =>
    let sb := if l.stage = 0xFFFF then none else buf l.stage
    let wm := if l.wmcast = 0xFFFF then none else p.mcasts[l.wmcast.toNat]?
    let ids := [l.inBuf, l.outBuf] ++ (if l.stage = 0xFFFF then [] else [l.stage]) ++ (wm.map (·.buffer)).toList
    let descs := p.descs.getD i []
    let size := descs.foldl (fun a d => a + descLen d) 0
    let cell := l.lkind == 0
    let dep (d : U16) : Bool := d != 0xFFFF && decide (i ≤ d.toNat)
    firstCheck
      [ (l.zero != 0 || decide (3 < l.lflags.toNat) || (l.stage != 0xFFFF && sb.isNone) || (l.wmcast != 0xFFFF && wm.isNone)
          || decide (p.codeBytes.toNat < l.first.toNat + size), 0x0202)
      , (liveOverlap (liveBuffers p ids)
          || (l.lkind != 2 && (match sb with | some b => decide (b.bytes.toNat < 2 * windowBytes l ib ob) | none => false)), 0x0204)
      , (cell && ib.type != 0 && ib.type != 4, 0x0208)
      , (cell && ib.smode == 2, 0x020D)
      , (dep l.dep0 || dep l.dep1, 0x0211)
      , (isFused l && (match wm with | some m => decide (16 ≤ m.mask.toNat) | none => false), 0x0212)
      , (!gridOk l ob || descs.length != l.passes.toNat || gauReadsLater [] descs, 0x0213)
      , (cell && ib.layout == 0, 0x0214)
      , (!fusedOk p i l, 0x0215) ]
  | _, _ => some 0x0202

/-! ### The tracker block (R308) -/

/-- The word is a number of FP32 that is finite and at least 0, or above 0. -/
def nonNeg32 (w : U32) : Bool := finite32 w && !(f32 w).lt (.fin false 0 0)
def pos32 (w : U32) : Bool := finite32 w && (Fl.fin false 0 0).lt (f32 w)
/-- The word lies from 0 to `hi`. -/
def upTo32 (w hi : U32) : Bool := nonNeg32 w && !(f32 hi).lt (f32 w)

/-- Every field of the tracker block is in its range. -/
def trackerOk (t : TrackerBlock) : Bool :=
  let n (v lo hi : Nat) : Bool := decide (lo ≤ v ∧ v ≤ hi)
  t.tmagic == 0x4B525454 && n t.maxDet.toNat 1 1024 && n t.maxTracks.toNat 1 1024 && nonNeg32 t.wIou && nonNeg32 t.wEmb
    && (pos32 t.wIou || pos32 t.wEmb) && pos32 t.gate && upTo32 t.iouMin 0x3F800000 && upTo32 t.embMax 0x40000000
    && upTo32 t.reidMax 0x40000000 && upTo32 t.newScore 0x3F800000 && upTo32 t.embAlpha 0x3F800000 && n t.maxMisses.toNat 1 255
    && n t.zones.toNat 1 64 && n t.seqMax.toNat 1 8192 && t.window == 64 && n t.seqReserve.toNat 1 t.seqMax.toNat
    && n t.kvStepBytes.toNat 256 16384 && t.kvStepBytes.toNat % 256 == 0 && decide (t.kvPool.toNat < 64) && decide (t.sidePool.toNat < 64)
    && t.tickRegions != 0 && t.zero == 0 && t.pInit.length == 8 && t.pInit.all pos32 && t.qNoise.length == 8 && t.qNoise.all nonNeg32
    && t.zoneOfSlot.all fun z => decide (z.toNat < t.zones.toNat)

/-! ### Requantiser sets (R201) -/

/-- A scale of the set breaks R201. -/
def RqSet.scaleBad (q : RqSet) : Bool := (q.outFmt != 2 && !fp32.posNormal q.invOs.toNat) || !fp16.posNormal q.asStat

/-- Another rule of R201 is broken. -/
def RqSet.otherBad (q : RqSet) (b : List Byte) : Bool :=
  let in8 (v : Int) : Bool := decide (-128 ≤ v ∧ v ≤ 127)
  decide (2 < q.outFmt) || decide (1 < q.asMode) || decide (q.hi < q.lo) || field b 14 2 != 0
    || (q.outFmt == 0 && !(in8 q.lo && in8 q.hi && in8 q.zpOut))
    || (q.outFmt == 2 && !(q.invOs == 0 && q.zpOut == 0 && q.lo == 0 && q.hi == 0))

/-- The checks of a set in 16 bytes. -/
def rqChecks (b : List Byte) : List Check :=
  let q := RqSet.parse b
  [(q.scaleBad, 0x020C), (q.otherBad b, 0x020E)]

/-! ### Cell-array passes (R158, R161, R272) -/

/-- The zero bytes of a feed program are 0 (R272). -/
def feedZero (b : List Byte) : Bool := ([3, 18, 19] ++ (List.range 4).flatMap fun g => [0x23 + 8 * g, 0x26 + 8 * g, 0x27 + 8 * g]).all fun k => b.getD k 0 == 0

/-- VALID of every group is 0 or 1. -/
def feedValid (b : List Byte) : Bool := (List.range 4).all fun g => decide ((b.getD (0x20 + 8 * g) 0).toNat ≤ 1)

/-- The input positions along one axis that lie inside the input: lowest and highest. -/
def reach (n : Nat) (ps : List Int) : Option (Int × Int) :=
  match ps.filter fun x => inside x n with
  | [] => none
  | x :: r => some (r.foldl min x, r.foldl max x)

/-- Every address that the program forms for a valid group, over the stripes of the layer and both halves, lies inside the staging buffer. -/
def feedInside (l : LayerEntry) (ib ob sb : BufferEntry) (f : Feed) (act16 : Bool) (g : Bool × Nat × Nat × Nat) : Bool :=
  let (_, i, j, cb) := g
  let unit := if act16 then 2 else 1
  (List.range l.s.toNat).all fun st =>
    let row0 := st * l.rows.toNat
    let r0 := match windowRows l ib.h.toNat row0 (stripeRows l ob.h.toNat st) with | some w => w.1 | none => 0
    match reach f.inH ((List.range f.oh).map fun y => tapPos (row0 + y) f.sh f.padT i f.dh),
        reach f.inW ((List.range f.ow).map fun x => tapPos x f.sw f.padL j f.dw) with
    | some (y0, y1), some (x0, x1) =>
      let at_ (y x : Int) (b : Nat) : Int := Int.ofNat f.stage + (y - Int.ofNat r0) * Int.ofNat f.stageRow + x * 32 + Int.ofNat (b * f.stageCb)
      decide (Int.ofNat sb.offset.toNat ≤ at_ y0 x0 (unit * cb))
        && decide (at_ y1 x1 (unit * cb + unit - 1) + Int.ofNat (sb.bytes.toNat / 2) + 32 ≤ Int.ofNat (sb.offset.toNat + sb.bytes.toNat))
    | _, _ => true

/-- A feed program is one that R272 allows for a pass of a layer. -/
def feedOk (p : Plan) (l : LayerEntry) (d : PassDesc) (b : List Byte) : Bool :=
  let f := Feed.parse b
  match p.buffers[l.inBuf.toNat]?, p.buffers[l.outBuf.toNat]?, p.buffers[l.stage.toNat]? with
  | some ib, some ob, some sb =>
    f.ow * f.oh == d.n.toNat && f.ow == ob.w.toNat && feedValid b
      && (f.groups.filter (·.1)).all fun g =>
        decide (g.2.1 < l.kh.toNat) && decide (g.2.2.1 < l.kw.toNat) && decide (g.2.2.2 < cdiv ib.c.toNat 32) && feedInside l ib ob sb f d.act16 g
  | _, _, _ => false

/-- The program makes its pass pointwise: step k of a stripe's rows presents input pixel P + k of the tensor, with P a multiple of 16 in every stripe (R199). -/
def feedPointwise (l : LayerEntry) (ib ob : BufferEntry) (f : Feed) : Bool :=
  let w := ib.w.toNat
  f.sh == 1 && f.sw == 1 && f.padT == 0 && f.padL == 0 && (f.groups.filter (·.1)).all (fun g => g.2.1 * f.dh == 0 && g.2.2.1 * f.dw == 0)
    && decide (f.ow ≤ f.inW ∧ f.ow ≤ w) && (f.ow == w || f.oh == 1)
    && (List.range l.s.toNat).all fun st =>
      let row0 := st * l.rows.toNat
      row0 * w % 16 == 0 && decide (row0 + min f.oh (stripeRows l ob.h.toNat st) ≤ min f.inH ib.h.toNat)

/-- A feed program, for the passes that use it. -/
def feedFail (p : Plan) (addr : Nat) (b : List Byte) : Option U16 :=
  let users := feedUsers p addr
  let strays (l : LayerEntry) : Bool := match p.buffers[l.inBuf.toNat]?, p.buffers[l.outBuf.toNat]? with
    | some ib, some ob => ib.smode == 1 && !feedPointwise l ib ob (Feed.parse b)
    | _, _ => false
  firstCheck
    [ (!feedZero b, 0x0202)
    , (b.length != 64 || users.any fun u => !feedOk p u.1 u.2 b, 0x0207)
    , (users.any fun u => strays u.1, 0x020D) ]

/-- The pass as it runs where it takes LAST in some stripe for the last pass of its chain, all of whose later passes are skipped there (R274). -/
def takesLast (l : LayerEntry) (outH : Nat) (m : Mem) (after : List Desc) (d : PassDesc) : Option PassDesc :=
  let later := ((after.filterMap fun x => match x with | .pass q _ => some q | _ => none).span fun q => !q.last)
  match d.last, later.2 with
  | false, final :: _ =>
    let skipped (st : Nat) (q : PassDesc) : Bool := passSkipped m (st * l.rows.toNat) (stripeRows l outH st) q
    if (List.range l.s.toNat).any fun st => !skipped st d && (later.1 ++ [final]).all (skipped st) then some (remode d d.first true final) else none
  | _, _ => none

/-- A pass descriptor, with the weight block it uses. Of the parameter sets, those are checked that a LAST pass, a REQUANT or a WINDOW names (R201; DESIGN CHOICE, log entry
132). -/
def passFail (p : Plan) (l : LayerEntry) (m : Mem) (after : List Desc) (d : PassDesc) (block : Nat) : Option U16 :=
  let outH := match p.buffers[l.outBuf.toNat]? with | some b => b.h.toNat | none => 0
  let ended := (takesLast l outH m after d).toList
  let q := RqSet.parse (rqOf p d)
  let width := match p.weights.blocks[block]? with | some b => b.wfmt == d.wbits | none => false
  firstCheck ([ (d.zero != 0, 0x0202), (d.wblock.toNat % 256 != 0 || (d.last && d.scale.toNat % 256 != 0), 0x0203)
    , ((d :: ended).any fun e => meetAny (passWrites p e) (passReads p l e), 0x0205)
    , (!d.ok || !passFits d q || !width || (d.last && q.outFmt == 2 && d.wbits == 1), 0x0206)
    , (!(p.image.any fun e => e.1 == d.feed.toNat), 0x0207) ] ++ (if d.last then rqChecks (rqOf p d) else []))

/-! ### Millefeuille passes (R179) -/

/-- A Millefeuille descriptor. -/
def gauFail (p : Plan) (d : GauDesc) : Option U16 :=
  let outs := gauOuts d
  let ins := gauIns d
  let aligned := [d.a, d.b, d.cIn, d.cOut].all fun x => x.toNat % 256 == 0
  firstCheck
    [ (d.zero != 0 || (outs ++ ins).any fun r => decide (p.rbBytes.toNat < r.1 + r.2), 0x0202)
    , (!aligned, 0x0203)
    , (meetAny outs ins, 0x0205)
    , ((aligned && !d.ok) || d.gang != p.gang || (!d.accIn && d.cIn != 0), 0x020F) ]

/-! ### Vector-engine descriptors (R225 to R228, R237, R240, R243 to R246) -/

/-- The types fit the operation (R228, R231 to R233, R237, R243 to R246). -/
def typesFit (d : VecDesc) : Bool :=
  let fl (t : Byte) : Bool := (tyFmt t.toNat).isSome
  let a := d.ta.toNat
  let t := d.td.toNat
  match d.op.toNat with
  | 0x02 | 0x03 | 0x04 | 0x05 | 0x06 | 0x07 => tyOk d.ta && tyOk d.tb && tyOk d.td
  | 0x08 => tyOk d.ta && tyOk d.td && (d.imm == 0 || fl d.ta)
  | 0x09 => fl d.ta && [0, 1, 2, 3, 4].contains t
  | 0x0A => [0, 1, 2, 3, 4].contains a && fl d.td
  | 0x0B => a == 8 && [0, 4, 8].contains t
  | 0x14 => tyOk d.ta && t == 7
  | 0x20 => [5, 6, 8].contains a && t == 8 && [32, 64, 128].contains d.imm.toNat && d.count 0 == d.imm.toNat
  | 0x21 => a == 8 && t == 8
  | 0x22 => [0, 5, 6].contains a && tyOk d.td
  | 0x23 => [0, 5, 6, 8].contains a && (a == 0) == (t == 0) && (t == 0 || fl d.td)
  | 0x24 => a == 8 && t == 8 && d.count 0 == 48 && strideOf d.strideA 1 == 192 && strideOf d.strideD 1 == 192
  | _ => tyOk d.ta && tyOk d.td

/-- The operation has a parameter block, of that many bytes. -/
def paramBytes (op : Nat) : Nat :=
  match op with
  | 0x09 | 0x0A | 0x0B => 16
  | 0x21 | 0x23 => 32
  | 0x22 => 64
  | 0x24 => 32
  | _ => 0

/-- The bytes that a descriptor reads as A: those of R227, or what the special operations address themselves. -/
def readsA (m : Mem) (d : VecDesc) : List (Int × Nat) :=
  let sz := elemSize d.ta
  match d.op.toNat with
  | 0x21 => [(Int.ofNat d.a.toNat, 512 * unle (m.readN (d.p.toNat + 4) 2))]
  | 0x22 =>
    let w := WinParam.parse (m.readN d.p.toNat 64)
    let pix := (List.range (d.count 3)).flatMap fun cb => (List.range (d.count 2)).flatMap fun y => (List.range (d.count 1)).flatMap fun x =>
      w.live d (w.row0 + y) (w.col0 + x) cb
    (pix.map (·.2)).map fun a => (Int.ofNat a, 32)
  | 0x23 =>
    let b := m.readN d.p.toNat 32
    (List.range (d.count 4)).flatMap fun cb => (List.range (field b 8 2)).map fun y =>
      (Int.ofNat (d.a.toNat + y * field b 16 4 + cb * field b 20 4), (field b 10 2 - 1) * field b 12 4 + 32)
  | 0x24 => (List.range (d.count 1)).map fun i => (opAddr d.a d.strideA [0, i], 192)
  | _ => elemRanges d.a d.strideA sz (allIdx d)

/-- The other bytes that a descriptor reads: B, the mask's bits and the parameter block. -/
def readsRest (d : VecDesc) : List (Int × Nat) :=
  let b := if usesB d.op.toNat then elemRanges d.b d.strideB (elemSize d.tb) (allIdx d) else []
  let bitAt (ix : Idx) : Int := Int.ofNat d.m.toNat * 8 + (List.range 5).foldl (fun a k => a + Int.ofNat (ix.getD k 0) * strideOf d.strideM k) 0
  let mk := if d.masked then (allIdx d).map fun ix => (bitAt ix / 8, 1) else []
  let n := paramBytes d.op.toNat
  b ++ mk ++ (if n = 0 then [] else [(Int.ofNat d.p.toNat, n)])

/-- What a descriptor reads besides: the scales and records of DEQUANT, the feed program, the staged input, the GROUP scales and the side list of ESCFIX, the weights,
scales and parameter set of WINDOW, and the boxes of CROPRESIZE. -/
def readsMore (p : Plan) (l : LayerEntry) (m : Mem) (d : VecDesc) : List (Int × Nat) :=
  let b := m.readN d.p.toNat (paramBytes d.op.toNat)
  let at_ (lo n : Nat) : Int × Nat := (Int.ofNat (field b lo 4), n)
  match d.op.toNat with
  | 0x0A => scaleAreas m d
  | 0x21 =>
    let stage := match p.buffers[l.stage.toNat]? with | some x => [(Int.ofNat x.offset.toNat, x.bytes.toNat)] | none => []
    [at_ 0 64, at_ 0x10 (4 * field b 0x14 2)] ++ (if field b 8 1 = 1 then [at_ 0x0C (2 * cdiv (field b 4 2) 16)] else []) ++ stage
  | 0x22 =>
    let w := WinParam.parse b
    if w.mode < 2 then
      [(Int.ofNat w.wts, d.count 3 * w.kh * w.kw * 32 * w.group), (Int.ofNat w.scale, 256 * d.count 3), (Int.ofNat w.rq, 16)]
    else []
  | 0x23 => [at_ 0 (16 * d.count 3)]
  | _ => []

/-- Every range lies in the scratchpad. -/
def allInSp (l : List (Int × Nat)) : Bool := l.all fun r => inSp r.1 r.2

/-- Two sorted lists of ranges as one; `n` bounds their length together. -/
def mergeRanges : Nat → List Range → List Range → List Range
  | 0, a, b => a ++ b
  | _, [], b => b
  | _, a, [] => a
  | n + 1, x :: a, y :: b => if x.1 ≤ y.1 then x :: mergeRanges n a (y :: b) else y :: mergeRanges n (x :: a) b

/-- Neighbouring sorted lists merged in pairs. -/
def mergePairs : List (List Range) → List (List Range)
  | a :: b :: r => mergeRanges (a.length + b.length) a b :: mergePairs r
  | l => l

/-- Ranges sorted by address. -/
def sortRanges (l : List Range) : List Range :=
  ((List.range (l.length.log2 + 1)).foldl (fun ls _ => mergePairs ls) (l.map fun r => [r])).flatten

/-- Two elements of a sorted list share an address. -/
def sharesAddr : List Range → Bool
  | a :: b :: r => a.1 == b.1 || sharesAddr (b :: r)
  | _ => false

/-- Counts and strides at or above NDIM encode 1 and 0; dims 0 and 1 are at most 256; the element strides of R227. -/
def shapeOk (d : VecDesc) : Bool :=
  let n := d.ndim.toNat
  let free := range n (5 - n)
  let st (l : List U32) : Bool := free.all fun k => l.getD k 0 == 0
  let s0 (l : List U32) (sz : Nat) : Bool := strideOf l 0 == 0 || strideOf l 0 == Int.ofNat sz
  decide (1 ≤ n ∧ n ≤ 5) && (free.all fun k => d.counts.getD k 0 == 0) && d.counts.length == 5 && st d.strideA && st d.strideB && st d.strideD
    && st d.strideM && decide (d.count 0 ≤ 256 ∧ d.count 1 ≤ 256) && s0 d.strideA (elemSize d.ta)
    && (!usesB d.op.toNat || s0 d.strideB (elemSize d.tb)) && strideOf d.strideD 0 == Int.ofNat (elemSize d.td)

/-- The parameter block of WINDOW breaks R237. -/
def windowBad (m : Mem) (d : VecDesc) : Bool :=
  let b := m.readN d.p.toNat 64
  let w := WinParam.parse b
  let n (v lo hi : Nat) : Bool := decide (lo ≤ v ∧ v ≤ hi)
  let conv := decide (w.mode < 2)
  !(n w.mode 0 3 && n w.kh 1 16 && n w.kw 1 16 && [1, 2, 4, 8, 16, 32].contains w.group && (w.mode == 1 || w.group == 1) && n w.sh 1 8
    && n w.sw 1 8 && n w.dh 1 1024 && n w.dw 1 1024 && decide (w.padT ≤ 1024 ∧ w.padL ≤ 1024) && (b.drop 48).all (· == 0)
    && (if conv then d.ta == 0 && d.td.toNat == [0, 4, 8].getD (RqSet.parse (m.readN w.rq 16)).outFmt 16 else d.ta == d.td && w.wts == 0 && w.scale == 0 && w.rq == 0))

/-- The parameter block of another operation is out of range: QUANT's, CROPRESIZE's, ESCFIX's. -/
def paramBad (m : Mem) (d : VecDesc) : Bool :=
  let n := paramBytes d.op.toNat
  let b := m.readN d.p.toNat n
  match d.op.toNat with
  | 0x09 | 0x0A => decide (3 < field b 0 1) || decide (1 < field b 1 1) || field b 6 2 != 0 || field b 12 4 % 4 != 0
  | 0x21 => field b 9 1 != 0 || decide (1 < field b 8 1) || decide (256 < field b 0x14 2) || (b.drop 0x16).any (· != 0)
  | 0x23 => (b.drop 0x1A).any (· != 0) || (d.ta != 0 && field b 0x18 2 != 0)
  | _ => false

/-- A QUANT in GROUP mode without SYM makes the input of a cell-array layer (R245). -/
def groupUnsym (p : Plan) (l : LayerEntry) (m : Mem) (d : VecDesc) : Bool :=
  let b := m.readN d.p.toNat 16
  d.op == 0x09 && field b 0 1 == 1 && field b 1 1 == 0 && p.layers.any fun k => k.lkind == 0 && k.inBuf == l.outBuf

/-- An array pass and a descriptor could touch the same bytes while both are in flight (R228, R229): a pass before the descriptor that it does not wait for, one
of them writing what the other reads or writes; or a later pass that writes what the descriptor uses. WAIT covers the passes of the list numbered
below AFTER (log entry 113). A later pass that reads the descriptor's result is held. -/
def orderBad (p : Plan) (l : LayerEntry) (m : Mem) (before after : List Desc) (d : VecDesc) : Bool :=
  let ws := asRanges (writesAll m d)
  let uses := asRanges (readsA m d ++ readsRest d ++ readsMore p l m d) ++ ws
  let passes (ds : List Desc) : List PassDesc := ds.filterMap fun x => match x with | .pass q _ => some q | _ => none
  let free := (passes before).drop (if d.wait then d.after.toNat else 0)
  free.any (fun q => meetAny (passWrites p q) uses || meetAny (passReads p l q) ws) || (passes after).any fun q => meetAny (passWrites p q) uses

/-- A vector-engine descriptor, with the parameter set it names (log entry 132). -/
def vecFail (p : Plan) (l : LayerEntry) (m : Mem) (before after : List Desc) (d : VecDesc) : Option U16 :=
  let ws := writesD m d
  let rs := readsA m d ++ readsRest d
  let base (a : U32) (t : Byte) : Bool := a.toNat % elemSize t == 0
  let fields := VecDesc.defined d && decide (d.flags.toNat < 16) && d.zero == 0 && shapeOk d && typesFit d && base d.a d.ta && base d.d d.td
    && (!usesB d.op.toNat || base d.b d.tb) && (usesB d.op.toNat || (d.tb == 0xF && d.b == 0))
  let vecBad := !fields || !allInSp (writesAll m d) || !allInSp (rs ++ readsMore p l m d) || sharesAddr (sortRanges (asRanges ws)) || paramBad m d
  let rq := match d.op.toNat with
    | 0x0B => rqChecks (m.readN d.p.toNat 16)
    | 0x22 => let w := WinParam.parse (m.readN d.p.toNat 64); if w.mode < 2 then rqChecks (m.readN w.rq 16) else []
    | _ => []
  if d.zero != 0 then some 0x0202
  else if !fields then some 0x0210
  else
    firstCheck ([(meetAny (asRanges ws) (asRanges rs), 0x0205)] ++ rq.take 1 ++ [(groupUnsym p l m d, 0x020D)] ++ rq.drop 1
      ++ [(vecBad, 0x0210), (orderBad p l m before after d, 0x0211), (d.op == 0x22 && windowBad m d, 0x021A)])

/-- A descriptor of a layer's list, with those before it and after it. -/
def descFail (p : Plan) (l : LayerEntry) (m : Mem) (before after : List Desc) : Desc → Option U16
  | .pass d b => if l.lkind = 0 then passFail p l m after d b else some 0x0206
  | .gau d => if l.lkind = 2 then gauFail p d else some 0x020F
  | .vec d => vecFail p l m before after d

/-- A range of the descriptor area runs past its end, or meets one that begins before it (R259). -/
def areaBad (p : Plan) (earlier : List (Range × AreaItem)) (r : Range) : Bool :=
  decide (p.codeBytes.toNat < r.1 + r.2) || earlier.any fun x => meets x.1 r

/-- An item of the descriptor area, after those before it. A parameter block is checked with its descriptor. -/
def itemFail (p : Plan) (m : Mem) (all earlier : List (Range × AreaItem)) (x : Range × AreaItem) : Option U16 :=
  let block : Option Nat := match x.2 with
    | .desc _ _ (.vec v) => if paramBytes v.op.toNat = 0 then none
        else all.findIdx? fun y => match y.2 with | .image a _ => a == v.p.toNat | _ => false
    | _ => none
  let blockBad := match block with | some k => (match all[k]? with | some y => areaBad p (all.take k) y.1 | none => false) | none => false
  if areaBad p earlier x.1 || blockBad then some 0x0202
  else match x.2 with
    | .tracker => if (match p.tracker with | some t => trackerOk t | none => false) then none else some 0x0216
    | .desc i k d =>
      match p.layers[i]? with
      | some l => let ds := p.descs.getD i []; descFail p l m (ds.take k) (ds.drop (k + 1)) d
      | none => none
    | .image a b => feedFail p a b

/-- The first entry of the descriptor area that fails. -/
def itemsFail (p : Plan) (m : Mem) (all : List (Range × AreaItem)) : Nat → List (Range × AreaItem) → List (Range × AreaItem) → Option (U16 × Nat)
  | _, _, [] => none
  | i, earlier, x :: rest =>
    if x.2.entry p then
      match itemFail p m all earlier x with
      | some c => some (c, i)
      | none => itemsFail p m all (i + 1) (earlier ++ [x]) rest
    else itemsFail p m all i (earlier ++ [x]) rest

/-- The descriptor area in address order; its entries count from 0. -/
def codeFail (p : Plan) : Option (U16 × Nat) :=
  let all := areaItems p
  itemsFail p (planImage p) all 0 [] all

/-! ### CSE job templates (R278) -/

/-- A template. -/
def cseFail (j : CseJob) : Option U16 :=
  let n (v lo hi : Nat) : Bool := decide (lo ≤ v ∧ v ≤ hi)
  let ok := n j.job.toNat 0 2 && j.ofmt == (if j.job = 2 then 1 else 0) && decide (j.mat.toNat ≤ 2 ∧ j.range.toNat ≤ 2) && n j.ow.toNat 8 4096
    && n j.oh.toNat 8 2304 && j.ow.toNat % 2 == 0 && j.oh.toNat % 2 == 0 && n j.boxes.toNat 1 1024 && (j.job == 1 || j.boxes == 1)
    && decide (j.sync.toNat < 65536)
  firstCheck [(j.zeroA != 0 || j.zero38 != 0, 0x0202), (j.outStride.toNat % 256 != 0, 0x0203), (!ok, 0x0219)]

/-! ### The weights section (R207, R210 to R212) -/

/-- The code of the weight at a row and column, from the planes of a block. -/
def planeCode (data : Array Byte) (p r c : Nat) : Nat :=
  (List.range p).foldl (fun a j => let n := r * 128 + c; a + bit ((data.getD (2048 * j + n / 8) 0).getLsbD (n % 8)) * 2 ^ j) 0

/-- The cells of a block that hold the escape code, and whether a cell outside the used rows and columns is not 0. -/
def scanBlock (b : WBlock) : Nat × Bool :=
  let data := b.data.toArray
  let p := b.wfmt.toNat
  (List.range 16384).foldl (fun (a : Nat × Bool) n =>
    let c := planeCode data p (n / 128) (n % 128)
    let esc := decide (2 ≤ p) && c == 2 ^ (p - 1)
    let outside := decide (b.rowsUsed.toNat < n / 128) || decide (b.colsUsed.toNat < n % 128)
    (a.1 + bit esc, a.2 || (outside && c != 0))) (0, false)

/-- The side list in order, each entry on a cell with the escape code, with a finite VALUE and no other bit (R206, R207). -/
def escList (b : WBlock) : Bool :=
  let data := b.data.toArray
  let p := b.wfmt.toNat
  let cell (e : U32) : Nat := bits e.toNat 29 23 * 128 + bits e.toNat 22 16
  rising (b.esc.map cell) && b.esc.all fun e =>
    planeCode data p (bits e.toNat 29 23) (bits e.toNat 22 16) == 2 ^ (p - 1) && (bf16.dec (bits e.toNat 15 0)).isFin && bits e.toNat 31 30 == 0

/-- The ranges of a block's data and side list, and of its scales. -/
def blockRanges (b : WBlock) : List Range :=
  [(b.dataOff.toNat, 2048 * b.wfmt.toNat), (b.escOff.toNat, 4 * b.escCount.toNat)]
def blockScale (b : WBlock) : Range := (b.scaleOff.toNat, 768)

/-- Bytes of an element of a tensor, whether it has scales, and the ranges of its data and scales. -/
def tensorSize (f : Byte) : Nat := match f.toNat with | 0 | 1 | 3 => 1 | 2 | 4 => 2 | _ => 4
def tensorScaled (t : WTensor) : Bool := t.fmt == 0 || t.fmt == 1 || t.fmt == 3
def tensorRanges (t : WTensor) : List Range :=
  [(t.dataOff.toNat, t.rows.toNat * t.cols.toNat * tensorSize t.fmt), (t.colScale.toNat, if tensorScaled t then 2 * t.cols.toNat else 0)]

/-- The ranges of the header and the tables. -/
def weightTables (w : WSection) : List Range :=
  [(0, 32), (w.blockTable.toNat, 24 * w.blocks.length), (w.tensorTable.toNat, 24 * w.tensors.length)]

/-- The ranges `l` lie inside the section, apart from each other and from those before. -/
def newRanges (n : Nat) (seen l : List Range) : Bool := apart n l && l.all fun r => seen.all fun x => !meets r x

/-- A block, after the ranges of the entries before it; a scale range that another block uses too is not an overlap (R211). -/
def blockFail (w : WSection) (i : Nat) (b : WBlock) : Option U16 :=
  let n := w.length.toNat
  let earlier := w.blocks.take i
  let seen := (weightTables w) ++ earlier.flatMap blockRanges
  let scalesSeen := earlier.map blockScale
  let data := newRanges n (seen ++ scalesSeen) (blockRanges b)
  let scale := decide (b.scaleOff.toNat + 768 ≤ n) && (seen ++ blockRanges b).all (fun x => !meets (blockScale b) x)
    && scalesSeen.all fun x => x == (blockScale b) || !meets x (blockScale b)
  if b.wfmt = 0 || 8 < b.wfmt.toNat then some 0x0208
  else
    let (codes, dirty) := scanBlock b
    firstCheck
      [ (b.zero != 0 || b.zero14 != 0 || decide (1 < b.flags.toNat) || decide (127 < b.rowsUsed.toNat) || decide (127 < b.colsUsed.toNat) || !data
          || !scale || (b.escCount == 0 && b.escOff != 0), 0x0202)
      , (b.dataOff.toNat % 256 != 0 || b.escOff.toNat % 4 != 0 || b.scaleOff.toNat % 256 != 0, 0x0203)
      , (decide (256 < codes) || decide (256 < b.escCount.toNat), 0x0209)
      , ((b.wfmt == 1 && b.escCount != 0) || codes != b.escCount.toNat || b.esc.length != b.escCount.toNat || !escList b, 0x020A)
      , (dirty, 0x020B)
      , (!(b.ws.length == 128 && b.ws.all fun x => fp16.posNormal x.toNat), 0x020C) ]

/-- A tensor. -/
def tensorFail (w : WSection) (i : Nat) (t : WTensor) : Option U16 :=
  let seen := (weightTables w) ++ w.blocks.flatMap (fun b => (blockScale b) :: blockRanges b) ++ (w.tensors.take i).flatMap tensorRanges
  firstCheck
    [ (t.zero1 != 0 || t.zero14 != 0 || !newRanges w.length.toNat seen (tensorRanges t) || (!tensorScaled t && t.colScale != 0), 0x0202)
    , (t.dataOff.toNat % 256 != 0, 0x0203)
    , (decide (5 < t.fmt.toNat), 0x0208)
    , (tensorScaled t && !(t.scales.all fun x => fp16.posNormal x.toNat), 0x020C) ]

/-- The weights section; entries count over the blocks and then the tensors. -/
def weightsFail (p : Plan) : Option (U16 × Nat) :=
  let w := p.weights
  let head := firstCheck
    [ (w.wmagic != 0x53544757 || w.plan != p.plan, 0x0201)
    , (w.zero6 != 0 || w.zero18 != 0 || !apart w.length.toNat (weightTables w), 0x0202)
    , (w.blockTable.toNat % 8 != 0 || w.tensorTable.toNat % 8 != 0, 0x0203) ]
  match head with
  | some c => some (c, 0)
  | none =>
    match firstEntry (blockFail w) 0 w.blocks with
    | some e => some e
    | none => (firstEntry (tensorFail w) 0 w.tensors).map fun e => (e.1, w.blocks.length + e.2)

/-! ### All plans (R258) -/

/-- The first of some results that is a failure. -/
def firstOf : List (Unit → Option (U16 × Nat)) → Option (U16 × Nat)
  | [] => none
  | f :: r =>
    match f () with
    | some e => some e
    | none => firstOf r

/-- The first failure of a plan: its code and the index of the failing entry. -/
def planFail (p : Plan) : Option (U16 × Nat) :=
  firstOf
    [ fun _ => (headerFail p).map fun c => (c, 0)
    , fun _ => clipsFail p
    , fun _ => firstEntry (fun _ b => bufferFail p b) 0 p.buffers
    , fun _ => firstEntry (mcastFail p) 0 p.mcasts
    , fun _ => firstEntry (layerFail p) 0 p.layers
    , fun _ => codeFail p
    , fun _ => firstEntry (fun _ j => cseFail j) 0 p.cseJobs
    , fun _ => weightsFail p ]

/-- The loader's first failure: code, plan and entry, plans in ascending number. -/
def loaderFail (r : Cartridge) : Option (U16 × Nat × Nat) :=
  (sortBy (fun (a b : Plan) => decide (a.plan.toNat < b.plan.toNat)) r.plans).findSome? fun p =>
    (planFail p).map fun e => (e.1, p.plan.toNat, e.2)

end Sys2Proof.Machine
end

