-- ==== Sys2Proof/Machine/Boot.lean ====
section
/-! DEFINITION. The boot (R51 to R53, R72 to R75, R410 to R412, R420), the ends and overruns of resets (R419, R423), and the regions' PLLs (R451). -/

namespace Sys2Proof.Machine

/-! ### ACLK (R451) -/

/-- The ACLK PLLs lock at the regions' frequency when the device enters service (log entry 47). -/
def State.lockRegions (s : State) : State := (List.range 8).foldl (fun s r => s.lockPll r (10 * (s.regPwr r).freq) 50) s

/-! ### Refusal (R75) -/

/-- The boot stops in REFUSED with a code and what the QUERY reply names. -/
def State.refuse (code : U16) (kind index plan : Nat) (s : State) : State :=
  (s.updDev fun d =>
    { d with state := .refused, refCode := code, refKind := BitVec.ofNat 8 kind, refIndex := BitVec.ofNat 32 index, refPlan := BitVec.ofNat 16 plan }).updAon
    fun a => { a with wdogArmed := false }

/-- The boot stands at a stage. -/
def State.bootAt (s : State) (stage : Byte) : Bool := s.dev.state == .booting && s.crt.stage == stage && s.pwr.pstate != .off

/-- BOOT_STAGE moves on. -/
def State.toStage (stage : Byte) (s : State) : State := s.updCrt fun c => { c with stage := stage }

/-! ### Header and manifest (R51 to R53) -/

/-- The bytes of the signed area (R48). -/
def signedBytes : Nat := 31744 * 65536

/-- A manifest entry keeps R52, and its section lies in the signed area. -/
def entryOk (e : ManifestEntry) : Bool :=
  e.flags == 0 && e.offset.toNat % 4096 == 0 && e.length != 0 && decide (e.offset.toNat + e.length.toNat ≤ signedBytes)

/-- The counts and instances of R53. -/
def countsOk (m : List ManifestEntry) : Bool :=
  let of (t : U16) : List ManifestEntry := m.filter fun e => e.type == t
  let one (t : U16) : Bool := (of t).map (·.inst) == [0]
  let plans := (of 4).map (·.inst)
  let weights := (of 5).map (·.inst)
  m.all (fun e => decide (1 ≤ e.type.toNat ∧ e.type.toNat ≤ 7)) && one 1 && one 2 && one 3 && one 6 && one 7
    && (of 1).all (fun e => decide (e.length.toNat ≤ 0x800000)) && !plans.isEmpty && plans.all (fun i => (plans.filter (· == i)).length == 1)
    && plans.all (fun i => (weights.filter (· == i)).length == 1) && weights.all fun i => plans.contains i

/-- The manifest keeps R52 and R53. -/
def manifestFits (c : Cartridge) : Bool :=
  decide (c.manifest.length ≤ 896) && c.manifest.length == c.header.manifestLen.toNat / 72 && c.manifest.all entryOk && countsOk c.manifest
    && apart signedBytes ((0, 0x180) :: (c.header.manifestOff.toNat, c.header.manifestLen.toNat)
        :: c.manifest.map fun e => (e.offset.toNat, e.length.toNat))

/-- The bytes of the manifest (R52), and of the header up to its signature (R50). -/
def manifestBytes (m : List ManifestEntry) : List Byte :=
  m.flatMap fun e => le 2 e.type.toNat ++ le 2 e.flags.toNat ++ le 4 e.inst.toNat ++ le 8 e.offset.toNat ++ le 8 e.length.toNat ++ le 48 e.hash.toNat

def headerBytes (h : CartHeader) : List Byte :=
  le 4 h.magic.toNat ++ le 2 h.hdrVersion.toNat ++ le 2 h.cartType.toNat ++ le 16 h.cartId.toNat ++ le 4 h.weondRelease.toNat ++ le 4 h.issueDate.toNat
    ++ le 4 h.secVersion.toNat ++ le 1 h.rootIndex.toNat ++ le 3 h.zero25.toNat ++ le 4 h.manifestOff.toNat ++ le 4 h.manifestLen.toNat
    ++ le 48 h.manifestHash.toNat ++ le 96 h.signerKey.toNat ++ le 96 h.signerCert.toNat

/-- SIGNER_CERT verifies under the root named, over SIGNER_KEY and CART_TYPE, and HEADER_SIG under SIGNER_KEY, over bytes 0x0000 to 0x011F. -/
def certOk (f : Fuses) (h : CartHeader) : Bool :=
  ecdsaOk (f.rootKeys.getD h.rootIndex.toNat 0) h.signerCert (le 96 h.signerKey.toNat ++ le 2 h.cartType.toNat)
def headerSigOk (h : CartHeader) : Bool := ecdsaOk h.signerKey h.headerSig (headerBytes h)

/-- The first check of R51 that a header fails. -/
def headerCode (f : Fuses) (c : Cartridge) : Option U16 :=
  let h := c.header
  let n := h.manifestLen.toNat
  firstCheck
    [ (!(h.magic == 0x4352514B && h.hdrVersion == 1 && n != 0 && n % 72 == 0 && decide (n ≤ 65536)), 0x0102)
    , (f.rootRevoked.getLsbD h.rootIndex.toNat || decide (3 < h.rootIndex.toNat) || !certOk f h || !headerSigOk h, 0x0103)
    , (unle (sha384 (manifestBytes c.manifest)) != h.manifestHash.toNat, 0x0104)
    , (decide (h.secVersion.toNat < f.minSecVer.toNat), 0x0105)
    , (h.cartType != 1 && h.cartType != 2, 0x0106)
    , (!manifestFits c, 0x0107) ]

/-- The life figures of the cartridge's newest usable life record, with the time spent in Off and the age added since the boot began (R58, R62). -/
def State.readLife (s : State) : State :=
  match s.crt.recipe, s.crt.cart with
  | some r, some c =>
    let (age, counts) : Nat × Tbl Nat := match newestRecord { r with records := c.records } s.fuses.deviceId 3 with
      | some x => (match x.payload with | .life a e => (a.toNat * 15, e.foldl (fun t k => tset 0 t k.1 k.2.toNat) []) | _ => (0, []))
      | none => (0, [])
    (s.updCrt fun d => { d with age := age + d.age + d.offAge, offAge := 0, counts := counts, lifeRead := true }).showLife
  | _, _ => s

/-- HEADER_CHECK: with no cartridge the boot stops; else the CRT has read header and manifest and the checks run in order. The Recipe's sections take effect only
when they have been read (R54). The life record of the Recipe is read with the header (log entry 117). -/
def execHeaderCheck (_ : Unit) (s : State) : Host.Outcome State Fault Refusal :=
  .next <|
    if !s.bootAt 1 then s
    else
      match s.crt.cart with
      | none => s.refuse 0x0101 0 0 0
      | some c =>
        let s := s.toStage 2
        match headerCode s.fuses c with
        | some code => s.refuse code 0 0 0
        | none =>
          (s.updCrt fun d =>
            { d with
              verified := true, sameCart := true
              recipe := some { c with fwVersion := 0, fw := default, settings := [], slots := [], plans := [], pools := [], adapter := default, verifyLoss := 0 } }).readLife

/-- The hashes of the manifest's sections of some types, in its order. -/
def sectionHashes (m : List ManifestEntry) (want : U16 → Bool) : List (BitVec 384) := (m.filter fun e => want e.type).map (·.hash)

/-- FIRMWARE_START: `hash` is what the CRT computed over the firmware section as it read it (R54). -/
def execFirmwareStart (hash : BitVec 384) (s : State) : Host.Outcome State Fault Refusal :=
  .next <|
    if !(s.bootAt 2 && s.crt.verified) then s
    else if s.crt.recipe.any fun r => sectionHashes r.manifest (· == 1) == [hash] then
      (s.updCrt fun c => { c with recipe := match c.recipe, c.cart with
        | some r, some d => some { r with fwVersion := d.fwVersion, fw := d.fw }
        | r, _ => r }).toStage 3
    else (s.updCrt fun c => { c with verified := false }).refuse 0x0104 0 0 0

/-- FUNCTION_READY. -/
def execFunctionReady (s : State) : Host.Outcome State Fault Refusal := .next <| if s.bootAt 3 then s.toStage 4 else s

/-! ### DRAM training and the repair list (R74, R337, R339, R410) -/

/-- A channel is retired: held in self-refresh (R328). -/
def Chan.retire (c : Chan) : Chan := { c with retired := true, inService := false, selfRefresh := true }

/-- The group of a lane, and the lane that is its spare. R398 numbers 1,056 lanes per direction, and the model takes lanes 33g to 33g + 32 as group g
with its last lane the spare (DESIGN CHOICE; log entry 108). -/
def laneGroup (lane : Nat) : Nat := lane / 33
def spareLane (group : Nat) : Nat := 33 * group + 32

/-- A lane that failed is out of use; the group's spare lane takes its place, unless it has been used or is itself the lane (R37, R406). -/
def State.replaceLane (l : Nat) (dir : Bool) (lane : Nat) (s : State) : State :=
  let g := laneGroup lane
  let used := s.ras.lanes.any fun x => x.1 == l && x.2.1 == dir && laneGroup x.2.2 == g
  let s := s.updRas fun r => { r with lanes := r.lanes ++ [(l, dir, lane)] }
  if used || lane = spareLane g then s
  else s.updUnit (mkUnit (6 + l) (2048 * bit dir + spareLane g)).toNat fun x => { x with spareIn := true }

/-- A row that is known to fail takes a spare row at once, where its bank has one left (R403, R410, R411). -/
def takeSpare (rows : List RowRas) (u : U16) (d : U32) : List RowRas :=
  let q : RowRas := { unit := u, detail := d, times := [], bad := true, spared := false }
  let rest := rows.filter fun x => !(x.unit == u && x.detail == d)
  rest ++ [{ q with spared := spareLeft rest q }]

/-- An entry of the repair list takes effect at boot (R410). `pprLeft` names the rows, by channel and DETAIL, that find no repair row left. -/
def State.applyEntry (pprLeft : List (Nat × Nat)) (e : RepairEntry) (s : State) : State :=
  let k := unitIdx e.unit
  let bank := bits e.detail.toNat 20 17
  let row := bits e.detail.toNat 16 0
  match e.ekind.toNat with
  | 0 =>
    let s := s.updUnit e.unit.toNat fun u => { u with fenced := true, cls := e.cls.setWidth 3 }
    if unitKind e.unit = 6 || unitKind e.unit = 7 then s.replaceLane (unitKind e.unit - 6) (e.unit.getLsbD 11) (e.unit.toNat % 2048) else s
  | 1 => s.updRas fun r => { r with rows := takeSpare r.rows e.unit e.detail }
  | 2 =>
    if pprLeft.contains (k, e.detail.toNat) then s.standIn k bank row e.cls.toNat
    else s.updChan k fun c => { c with pprDone := satAdd c.pprDone 1 }
  | 3 =>
    let g := (unitKind e.unit - 6, e.unit.getLsbD 11, e.detail.toNat)
    s.updRas fun r => { r with groups := if r.groups.contains g then r.groups else r.groups ++ [g] }
  | _ => s.updChan k Chan.retire

/-- The repair list in the cartridge is read at step 8 (R58, R410). -/
def State.readRecords (s : State) : State :=
  match s.crt.recipe, s.crt.cart with
  | some r, some c =>
    let list := match newestRecord c s.fuses.deviceId 1 with
      | some x => (match x.payload with | .repair l => l | _ => [])
      | none => []
    let foreign := c.records.any fun x => recordOk x && rtypeOf x.payload == 1 && x.deviceId != s.fuses.deviceId
    let s := s.updCrt fun d => { d with foreign := d.foreign || foreign, recipe := some { r with records := c.records } }
    s.updRas fun x => { x with repair := list }
  | _, _ => s

/-- Step `st` of the training of a channel has had runs: 3 sets the read delays, 4 the write delays (R339, R354). -/
def Trn.measured (t : Trn) (st : Nat) : Bool := t.runs.any fun r => r.1 == st

/-- In the newest run of a step at a delay code, DQ bit `i` saw no error. -/
def Trn.passes (t : Trn) (st code i : Nat) : Bool :=
  match t.runs.find? fun r => r.1 == st && r.2.1 == code with
  | some r => !r.2.2.getLsbD i
  | none => false

/-- The windows of a rising list of delay codes: the first code of each run of neighbours, and how many they are. -/
def codeWindows : List Nat → List (Nat × Nat)
  | [] => []
  | c :: cs =>
    match codeWindows cs with
    | (d, n) :: ws => if d = c + 1 then (c, n + 1) :: ws else (c, 1) :: (d, n) :: ws
    | [] => [(c, 1)]

/-- The widest passing window of a DQ bit in a step; of two equally wide the one at the lower codes. -/
def Trn.window (t : Trn) (st i : Nat) : Nat × Nat :=
  (leastBy (fun a b => decide (b.2 < a.2)) (codeWindows ((List.range 256).filter fun c => t.passes st c i))).getD (0, 0)

/-- A measured step leaves some bit of the channel a window narrower than 8 codes (R339). -/
def Trn.narrow (t : Trn) : Bool := [3, 4].any fun st => t.measured st && (List.range 16).any fun i => decide ((t.window st i).2 < 8)

/-- Each delay of a measured step is centred in its window. -/
def Trn.centre (t : Trn) : Trn :=
  let mid (st i : Nat) : Byte := let w := t.window st i; BitVec.ofNat 8 (w.1 + (w.2 - 1) / 2)
  let set (st : Nat) (old : Tbl Byte) : Tbl Byte := if t.measured st then (List.range 16).foldl (fun d i => tset 0 d i (mid st i)) old else old
  { t with rd := set 3 t.rd, wr := set 4 t.wr }

/-- DRAM_TRAINING_DONE: the trained delays stand: those that the runs of R339 centre, else those of the command (log entry 125). One failed channel is retired, two
stop the boot; then the repair list is read and applied, spares mapped (R74). With two or more failures QUERY REFUSAL names the second lowest, the channel
that made the count two (DESIGN CHOICE; R75 names none; log entry 125). -/
def execDramTrainingDone (fail : BitVec 24) (delays : List (Nat × Nat × Byte × Byte)) (pprLeft : List (Nat × Nat)) (s : State) :
    Host.Outcome State Fault Refusal :=
  .next <|
    if !s.bootAt 4 then s
    else
      let bad := (List.range 24).filter fun k => fail.getLsbD k || (tget {} s.dmc.trn k).narrow
      let s := s.lockPll 10 1200 25
      let s := delays.foldl (fun s d => s.updTrn d.1 fun t => { t with wr := tset 0 t.wr d.2.1 d.2.2.1, rd := tset 0 t.rd d.2.1 d.2.2.2 }) s
      let s := (List.range 24).foldl (fun s k => s.updTrn k Trn.centre) s
      match bad with
      | _ :: k :: _ => s.refuse 0x0108 7 k 0
      | _ =>
        let s := (List.range 24).foldl (fun s k => s.updChan k fun c =>
          if bad.contains k then c.retire else { c with trained := true, inService := true }) s
        let s := (s.toStage 5).readRecords
        let s := s.ras.repair.foldl (fun s e => s.applyEntry pprLeft e) s
        let s := bad.foldl (fun s k => s.addRepair (mkUnit 5 k) 4 6 0) s
        let s := (List.range 8).foldl (fun s r => s.serveRegion r) s
        s.serveMedia.toStage 6

/-! ### Die-link lanes (R37, R405, R406) -/

/-- A lane of link `l` in direction `dir` fails: the group's spare takes over; where it is in use the group is retired and the device re-admits; where the lane's
group is already retired and no group is left, the package takes a CHR (R418). -/
def State.failLane (l : Nat) (dir : Bool) (lane cls : Nat) (s : State) : State :=
  let g := laneGroup lane
  let u := mkUnit (6 + l) (2048 * bit dir + lane)
  if s.ras.lanes.contains (l, dir, lane) || s.ras.groups.contains (l, dir, g) then s
  else
    let used := s.ras.lanes.any fun x => x.1 == l && x.2.1 == dir && laneGroup x.2.2 == g
    let s := (s.replaceLane l dir lane).countLasting.updUnit u.toNat fun x => { x with fenced := true, cls := BitVec.ofNat 3 cls }
    if !used then
      (s.addRepair u 0 (BitVec.ofNat 8 cls) 0).attention 0 (classCode cls) 3 u.toNat
    else
      let left := 32 - (s.ras.groups.filter fun x => x.1 == l && x.2.1 == dir).length
      if left ≤ 1 then s.chr 0x0511
      else
        let s := s.updRas fun r => { r with groups := r.groups ++ [(l, dir, g)] }
        let s := s.addRepair (mkUnit (6 + l) (2048 * bit dir)) 3 (BitVec.ofNat 8 cls) (BitVec.ofNat 32 g)
        (s.attention 1 0x050F 3 u.toNat).readmit.1.judgeAll

/-! ### Self-test and the sections (R72, R220, R411, R412) -/

/-- A unit that self-test failed is fenced with CLASS 5. -/
def State.failTest (extended : Bool) (u : U16) (s : State) : State :=
  let s := if unitKind u = 6 || unitKind u = 7 then s.failLane (unitKind u - 6) (u.getLsbD 11) (u.toNat % 2048) 5 else s.fence u 5
  if extended then s.record none 0x12 0 (deviceEvent 1 0x0517 3 u.toNat) else s

/-- A failing SRAM row takes a spare row at once; with none left in its bank the outcome is that of R404. -/
def State.failRow (u : U16) (d : U32) (s : State) : State :=
  (s.updRas fun r => { r with rows := takeSpare r.rows u d }).rowFault u d 5

/-- The cartridge is a diagnostic one, whose self-test has the extended form (R412). -/
def State.diagnostic (s : State) : Bool := match s.crt.recipe with | some r => r.header.cartType == 2 | none => false

/-- SELF_TEST_DONE. RESULT and FAILED count the units that failed and those that a failing row without a spare has fenced (R404, R411). The extended form uses
the Recipe's sections, and so ends after they have been read (R54, R223). With a diagnostic cartridge it ran in its extended form: `trained` are the losses that the Millefeuilles' VERIFY training gave, each with
the region and the tile that ran it, and one that differs from the Recipe's in any bit fails its tile (R223, R412). -/
def execSelfTestDone (failed : List U16) (rows : List (U16 × U32)) (ms : U16) (trained : List (Fin 8 × Fin 17 × U32)) (s : State) : Host.Outcome State Fault Refusal :=
  .next <|
    let extended := s.diagnostic
    if !(s.bootAt 6 || s.bootAt 7) || s.ras.stResult != 0 || (extended && !s.crt.loaded) then s
    else
      let want := match s.crt.recipe with | some r => r.verifyLoss | none => 0
      let wrong := if extended then (trained.filter fun t => t.2.2 != want).map fun t => mkUnit 1 (32 * t.1.val + t.2.1.val) else []
      let failed := failed ++ wrong.filter fun u => !failed.contains u
      let whole (s : State) (u : U16) : Bool := !(s.unitRas u.toNat).fenced
      let sound := (rows.map (·.1)).filter fun u => whole s u && !failed.contains u
      let s := rows.foldl (fun s x => s.failRow x.1 x.2) s
      let failed := failed ++ (sound.filter fun u => !whole s u).foldl (fun l u => if l.contains u then l else l ++ [u]) []
      let s := failed.foldl (fun s u => s.failTest extended u) s
      -- the loss of a link's last group has started a CHR (R418)
      if s.underReset .chip then s
      else
        let s := s.updRas fun r =>
          { r with stResult := if failed.isEmpty then 1 else if extended then 3 else 2, stFailed := BitVec.ofNat 8 (satN 8 failed.length), stMs := ms }
        s.toStage (if s.crt.loaded then 8 else 7)

/-- An adapter image is usable: each tensor has its bytes, inside the image (R220). -/
def imageOk (a : AdapterImage) : Bool :=
  a.tensors.all fun t => t.2.2.2.2.toNat == t.1.toNat * t.2.1.toNat * 2 && decide (t.2.2.2.1.toNat + t.2.2.2.2.toNat ≤ a.length.toNat)

/-- A trained image is usable beside the initial one. -/
def trainedOk (a b : AdapterImage) : Bool :=
  imageOk a && a.weondRelease == b.weondRelease && (a.tensors.map fun t => (t.1, t.2.1)) == b.tensors.map fun t => (t.1, t.2.1)

/-- The adapter in service at boot: the newest usable trained one, else the initial one with ADAPTER_UNTRAINED; an unusable image counts as absent (R58, R220). -/
def State.pickAdapter (c : Cartridge) (s : State) : State :=
  let usable := { c with records := c.records.filter fun x => match x.payload with | .adapter (some a) => trainedOk a c.adapter | _ => true }
  let trained := match newestRecord usable s.fuses.deviceId 2 with
    | some x => (match x.payload with | .adapter a => a | _ => none)
    | none => none
  match trained with
  | some a => s.updCrt fun d => { d with adapter := some a }
  | none => s.updCrt fun d => { d with adapter := some c.adapter, untrained := true }

/-- SECTIONS_LOADED: the other signed sections are read and hashed beside self-test; `hashes` are what the CRT computed, in the manifest's order (R54). -/
def execSectionsLoaded (hashes : List (BitVec 384)) (s : State) : Host.Outcome State Fault Refusal :=
  .next <|
    if !(s.bootAt 6 || s.bootAt 7) || s.crt.loaded then s
    else if !(s.crt.recipe.any fun r => sectionHashes r.manifest (· != 1) == hashes) then s.refuse 0x0104 0 0 0
    else
      match s.crt.cart with
      | none => s
      | some c =>
        let s := (s.updCrt fun d => { d with recipe := some c, loaded := true }).pickAdapter c
        if s.ras.stResult != 0 then s.toStage 8 else if s.diagnostic then s else s.toStage 7

/-! ### Service entry (R72 step 13) -/

/-- The device enters service: what the admission fixed is placed, the blocks serve, OPEN_AT_START slots open, and the records that waited go out. The 60 s periods
of age accrual count from here, and the part period of the boot is not added (R62; DESIGN CHOICE, log entry 132). -/
def State.enterService (r : Cartridge) (nums : List Nat) (a : AdmRes) (s : State) : State :=
  let now := s.now
  let s := ((s.toStage 0xA).applyLayout r a).applyAdm nums a
  let s := (s.restoreHost.placeSlots).lockRegions
  let s := s.updDev fun d => { d with state := .run }
  let s := s.updPwr fun p => { p with limit := s.setting 1 150, idleAt := now }
  let s := (s.updDis fun d => { d with inService := true }).updRas fun x => { x with inService := true, lasting := 0 }
  let s := s.updTke fun k => { k with t0 := now }
  let s := s.updCrt fun c => { c with lastLife := now, lastAge := now }
  let s := s.updAon fun d => { d with wdogArmed := false }
  let s := (r.slots.filter fun e => slotFlag e 0).foldl (fun s e => s.openSlot e.slot.toNat 0 0) s
  ((s.setSlack.postResets).judgeLife false).kickWrite.reportLtr

/-- LOADER_CHECK: the loader checks every plan, then admission runs (R76). -/
def execLoaderCheck (s : State) : Host.Outcome State Fault Refusal :=
  .next <|
    if !s.bootAt 8 then s
    else
      match s.crt.recipe with
      | none => s
      | some r =>
        match loaderFail r with
        | some (code, plan, index) => s.refuse code 5 index plan
        | none =>
          let s := (s.toStage 9).updDmc fun d => { d with grain := s.setting 11 12 }
          let nums := reserveSlots r
          match s.admitAll r (entriesOf r nums) with
          | .error f => s.refuse f.code f.kind f.index f.plan
          | .ok a => s.enterService r nums a

/-! ### The watchdog (R419, R420) -/

/-- CHR_WATCHDOG_EXPIRY: 500 ms without the start of the boot ROM; cause 2 when the supply has not recovered above 11.0 V. -/
def execChrWatchdogExpiry (s : State) : Host.Outcome State Fault Refusal :=
  .next <|
    if !s.aon.wdogArmed || s.aon.wdogBoot then s
    else
      let low := decide (s.wires.vin12.toNat ≤ 11000) || s.aon.dip
      (s.waitUntil (s.aon.wdogStart + 500000000)).powerCycle (if low then 2 else 1) 0x0515

/-- The boot bound in ns: 10 s with the allowance for large images once the manifest has been read, 20 min with a diagnostic cartridge. -/
def State.bootBound (s : State) : Nat :=
  match s.crt.recipe with
  | none => 10000000000
  | some r =>
    if r.header.cartType = 2 then 1200 * 1000000000
    else
      let total := (r.manifest.filter fun e => e.type != 1).foldl (fun a e => a + e.length.toNat) 0
      10000000000 + cdiv ((total - 1024 * 1048576) * 5) 2

/-- BOOT_WATCHDOG_EXPIRY. -/
def execBootWatchdogExpiry (s : State) : Host.Outcome State Fault Refusal :=
  .next <|
    if !(s.aon.wdogArmed && s.aon.wdogBoot) then s
    else (s.waitUntil (s.aon.wdogStart + s.bootBound)).powerCycle 4 0x0515

/-! ### The end and the overrun of a reset (R299, R419, R423) -/

/-- The reset of a scope that is in progress. -/
def State.runOf (s : State) (scope : ResetScope) : Option ResetRun :=
  s.rst.runs.find? fun r => r.active && s.scopeHolds scope r.scope && s.scopeHolds r.scope scope

/-- The reset run of a context is over; it posts no RESET record. -/
def State.dropCxr (c : Fin 4096) (s : State) : State :=
  s.updRst fun t => { t with runs := t.runs.filter fun r => !(r.level == 5 && r.scope == .ctx c) }

/-- RESET_COMPLETE: the scope returns to service, waiting fences take effect, and RESET records go out. A CHR completes with the start of the boot ROM. -/
def execResetComplete (scope : ResetScope) (s : State) : Host.Outcome State Fault Refusal :=
  .next <|
    if (s.runOf scope).isNone then s
    else
      match scope with
      | .chip => s.bootRom
      | .ctx c => (((s.dropCxr c).judgeAll).resumeAll).afterClose
      | _ =>
        let s := ((s.endRun scope).restoreScope scope).lateFences.postResets
        ((s.drainJobs s.dis.jobs.length).resumeAll).afterClose

/-- The next level takes a unit over: its partition, or the package for a channel. -/
def State.overrunUnit (u : U16) (s : State) : State :=
  match unitPart u with
  | some p => s.startReset (.part (Fin.ofNat 10 p)) rasResetOverrun false
  | none => s.chr rasResetOverrun

/-- An overrun counts for the unit, and a lasting verdict fences it when the reset in progress ends (R408). -/
def State.countOverrun (u : U16) (s : State) : State :=
  let (s, lasting) := s.countError u 2
  if lasting then s.fence u 2 else s

/-- RESET_OVERRUN. -/
def execResetOverrun (scope : ResetScope) (s : State) : Host.Outcome State Fault Refusal :=
  .next <|
    match s.runOf scope with
    | none => s
    | some r =>
      match scope with
      | .ctx c =>
        let s := (s.waitUntil (r.since + 50000)).updRas fun x => { x with ovCxr := satAdd x.ovCxr 1 }
        let s := s.dropCxr c
        (r.units.foldl (fun s u => s.unitEvent u 2 true rasResetOverrun) s).afterClose
      | .unit u =>
        let s := (s.waitUntil (r.since + 2000000)).updRas fun x => { x with ovEnr := satAdd x.ovEnr 1 }
        ((s.countOverrun u).overrunUnit u).afterClose
      | .part _ => ((s.waitUntil (r.since + 20000000)).updRas fun x => { x with ovPtr := satAdd x.ovPtr 1 }).chr rasResetOverrun
      | .chip => s

end Sys2Proof.Machine
end

