-- ==== Sys2Proof/Machine/Cartridge.lean ====
section
/-! DEFINITION. The cartridge while the device runs (R60, R62, R65 to R67, R469), and the end of a CALIBRATE run (R217, R218, R221). -/

namespace Sys2Proof.Machine

/-! ### Removal and insertion (R65 to R67) -/

/-- The cartridge goes out under its writes: the write in progress fails, and every CART_WRITE that waits replies; the record of a CALIBRATE run is discarded when its
own write failed, and stays pending otherwise (R61, R65, R221; log entry 48). -/
def State.breakWrites (s : State) : State :=
  let busy := s.crt.pend.find? (·.writing)
  let waiting := s.crt.pend.filterMap fun p => if p.origin = .calibrate then none else p.cmd.map fun t => (t, p.writing)
  let broken : Bool := match busy with | some p => p.origin == .calibrate && p.cmd.isSome | none => false
  let s := s.updCrt fun c =>
    { c with
      writeBusy := false, writeFail := c.writeFail || busy.isSome
      pend := (c.pend.filter fun p => !(p.writing && p.origin == .calibrate)).map fun p =>
        { p with writing := false, failed := p.failed || p.writing, cmd := none, holds := false } }
  let s := waiting.foldl (fun s w => s.replyTag 0x0D w.1 (if w.2 then 0x0033 else 0x0030) []) s
  if !s.cal.writing then s else s.calReply (if broken then 0x0033 else 0x0030)

/-- CART_REMOVAL: during the boot it stops the boot; later it is an event with attention. -/
def execCartRemoval (s : State) : Host.Outcome State Fault Refusal :=
  .next <|
    if s.crt.cart.isNone then s
    else
      let s := s.updCrt fun c => { c with cart := none, present := false, sameCart := false }
      let s := s.updWires fun w => { w with cartVcc := false }
      if s.pwr.pstate == .off || s.crt.stage = 0 then s
      else if s.dev.state == .booting then s.refuse 0x0101 0 0 0
      else ((s.updCrt fun c => { c with removed := true }).breakWrites).attention 4 0x0518 0 0

/-- The cartridge is the one whose Recipe is in force (R66). -/
def sameCartridge (a b : Cartridge) : Bool := a.header.cartId == b.header.cartId && a.header.manifestHash == b.header.manifestHash

/-- The inserted cartridge is compared with the Recipe in force. Pending records stay until the CHR that brings another Recipe into force. -/
def State.compareCart (c r : Cartridge) (s : State) : State :=
  let s := s.updCrt fun d => { d with inserted := true }
  if sameCartridge c r then
    let s := s.updCrt fun d =>
      { d with sameCart := true, hold := false, pend := d.pend.map fun p => { p with failed := false, tried := false } }
    (s.attention 4 0x0519 0 0).kickWrite
  else (s.updCrt fun d => { d with sameCart := false }).attention 4 0x051A 0 0

/-- CART_INSERTION: after service entry the new header is compared; in REFUSED a CHR follows in 1 s. Before the boot only the socket and CART_VCC change, and in Off the
socket alone (R469). -/
def execCartInsertion (c : Cartridge) (s : State) : Host.Outcome State Fault Refusal :=
  .next <|
    if s.crt.cart.isSome then s
    else
      let s := s.updCrt fun d => { d with cart := some c }
      if !s.wires.ready || s.pwr.pstate == .off then s
      else
      let s := (s.updWires fun w => { w with cartVcc := true }).send .cartReset
      if s.crt.stage = 0 then s
      else
        let now := s.now
        let s := s.updCrt fun d => { d with present := true }
        if s.dev.state == .refused then s.updCrt fun d => { d with inserted := true, chrAt := some (now + 1000000000) }
        else
          match s.dev.state == .booting, s.crt.recipe with
          | false, some r => s.compareCart c r
          | _, _ => s

/-- CART_INSERT_CHR. -/
def execCartInsertChr (s : State) : Host.Outcome State Fault Refusal :=
  .next <|
    match s.crt.chrAt with
    | none => s
    | some t => (s.waitUntil t).chr 0x0512

/-! ### Writes and age (R60, R62) -/

/-- CARTRIDGE_WRITE_COMPLETE. -/
def execCartridgeWriteComplete (ok reclaim : Bool) (s : State) : Host.Outcome State Fault Refusal := .next <| (s.endWrite ok reclaim).reportLtr

/-- LIFE_RECORD_TIMER: every 6 h from service entry. -/
def execLifeRecordTimer (s : State) : Host.Outcome State Fault Refusal :=
  .next <| 
    if !s.serving then s
    else
      let due := s.crt.lastLife + 6 * 3600 * 1000000000
      ((s.waitUntil due).updCrt fun c => { c with lastLife := due }).pendLife none false

/-- Units of 15 s that 60 s at a temperature count for (R62). -/
def ageUnits (t : Nat) : Nat := if t ≤ 40 then 1 else if t ≤ 55 then 4 else if t ≤ 70 then 16 else 64

/-- AGE_ACCRUAL: 60 s at the cartridge's temperature, in every state with a cartridge present; the figures of a Recipe in force wait while another cartridge is (R62, R66). -/
def execAgeAccrual (t : Byte) (s : State) : Host.Outcome State Fault Refusal :=
  .next <|
    if s.pwr.pstate == .off || !s.crt.present || (s.crt.recipe.isSome && !s.crt.sameCart) then s
    else
      let s := s.waitUntil (s.crt.lastAge + 60 * 1000000000)
      let now := s.now
      let s := s.updCrt fun c => { c with age := c.age + ageUnits t.toNat, lastAge := now }
      if s.serving then s.judgeLife true else if s.crt.lifeRead then s.showLife else s

/-! ### CALIBRATE (R217, R218, R221) -/

/-- The trained loss is at most 0.98 × the starting loss, exactly. -/
def gained (before after : U32) : Bool := ((f32 after).mul false (Fl.ofInt 100)).le ((f32 before).mul false (Fl.ofInt 98))

/-- The code that a training ends with: `done` of its steps completed, all finite or not. -/
def calCode (steps done : Nat) (finite : Bool) (before after : U32) : U16 :=
  if !finite || !finite32 before || !finite32 after then 0x0052
  else if done < steps then 0x0054
  else if gained before after then 0
  else 0x0053

/-- A result that is ST_OK: VERIFY replies; COMMISSION writes the adapter first, or replies that the cartridge is absent and keeps the record pending. -/
def State.calOk (s : State) : State :=
  if s.cal.mode = 2 then s.calReply 0
  else
    let here := s.crt.present && s.crt.sameCart
    let s := s.updCal fun c => { c with writing := here }
    let image := match s.crt.recipe with
      | some c => trainedImage c.adapter s.cal.tensors s.cal.done s.cal.before s.cal.after s.now
      | none => default
    let tag := s.cal.tag
    let s := if here then s else s.calReply 0x0030
    s.pendRecord (.adapter (some image)) .calibrate (if here then some tag else none) false

/-- Training has a Millefeuille: it runs in the background class, in the time that no invocation of that engine set needs (R217, R222, R287). -/
def State.trainsNow (s : State) : Bool :=
  (s.trainRegions fun p => s.underReset p).any fun r => (s.region r).gauCtx.isNone && (s.region r).swapGau.isNone && (s.region r).gau.running.isNone

/-- CAL_TRAIN_DONE: the steps of the run, each with its update (R219), and its judgement. Training goes on in Run only, while some region's Millefeuille has a share
(R217, R222); a step that a reset cut short was repeated from the masters, so each counts once. -/
def execCalTrainDone (r : CalResult) (s : State) : Host.Outcome State Fault Refusal :=
  .next <|
    if !s.cal.running || !s.cal.training || s.cal.writing || s.dev.state != .run || !s.trainsNow then s
    else
      let (xs, done, finite) := trainSteps (s.runSteps r) 0 s.cal.tensors
      let (before, after) := s.losses r
      let code := calCode s.cal.steps done finite before after
      let s := s.burn.burn.updCal fun c => { c with tensors := xs, done := done, before := before, after := after }
      (if code = 0 then s.calOk else s.calReply code).reportLtr

/-- CAL_TIME_LIMIT: the spec states no losses for a run that was not judged, nor how far training came within its STEPS: free values. -/
def execCalTimeLimit (s : State) : Host.Outcome State Fault Refusal :=
  .next <|
    if !s.cal.running || s.cal.writing then s
    else
      let s := s.waitUntil s.cal.deadline
      let t := s.tag
      let done := if s.cal.training then (Config.freeWord (t + 2)).toNat % max 1 s.cal.steps else 0
      let code : U16 := if s.cal.training then 0x0054 else 0x0051
      ((s.burn.burn.burn.updCal fun c => { c with before := Config.freeWord t, after := Config.freeWord (t + 1), done := done }).calReply code).reportLtr

end Sys2Proof.Machine
end

