-- ==== Sys2Proof/Machine/Dram.lean ====
section
/-! DEFINITION. The DRAM controllers (R323 to R341): where an address lies, the checks of a read, row faults, writes, refresh, scrub and tracking. -/

namespace Sys2Proof.Machine

/-- The bytes lie inside one block (R323). -/
def inBlock (a n : Nat) : Bool := decide (0 < n) && decide (a % 64 + n ≤ 64)

/-- The access runs to the top of the device address space or beyond it, and fails the BPM's range check (R325). -/
def State.beyondTop (s : State) (a n : Nat) : Bool := decide (s.dramTop < a + n)

/-- What an access beyond the top does: it is not performed, and POOL_RANGE returns to the requester; the BPM in service counts and records it, under a requester and a
handle that the command does not name and that are free values (R325, R346, R350; log entry 120). -/
def State.refuseRange (s : State) : State :=
  if s.bpm.inService then (s.burn.burn).poolError ((Config.freeWord s.tag).setWidth 16) (Config.freeWord (s.tag + 1)) poolRange else s.send (.dramError poolRange)

/-- DRAM_READ. -/
def execDramRead (addr : U64) (size : Nat) (lo hi : HalfErr) (s : State) : Host.Outcome State Fault Refusal :=
  let a := addr.toNat
  .next <|
    if s.beyondTop a size then s.refuseRange
    else if inBlock a size then s.request a (.read a size lo hi)
    else s

/-- DRAM_WRITE. -/
def execDramWrite (addr : U64) (data : List Byte) (poisoned : Bool) (lo hi : HalfErr) (s : State) : Host.Outcome State Fault Refusal :=
  let a := addr.toNat
  .next <|
    if s.beyondTop a data.length then s.refuseRange
    else if inBlock a data.length then s.request a (.write a data poisoned lo hi)
    else s

/-! ### Refresh, temperature, scrub, tracking (R331, R333, R334, R340) -/

/-- REFRESH: the bank is refreshed, or, for requests in panic, its refresh is postponed, at most 8 times. -/
def execRefresh (ch : Fin 24) (bank : Fin 16) (s : State) : Host.Outcome State Fault Refusal :=
  .next <|
    let now := s.now
    s.updChan ch.val fun c =>
      if !c.inService || c.selfRefresh then c
      else if c.panic && decide (tget 0 c.postponed bank.val < 8) then { c with postponed := tupd 0 c.postponed bank.val (· + 1) }
      else { c with postponed := tset 0 c.postponed bank.val 0, refreshed := tset 0 c.refreshed bank.val now }

/-- A channel after its package's report: above 85 °C it is HOT; two reports in a row at or below that end it. -/
def Chan.report (t : Nat) (c : Chan) : Chan :=
  let c := { c with mr4 := BitVec.ofNat 8 t }
  if 85 < t then { c with hot := true, cool := 0 }
  else if c.hot then (if 1 ≤ c.cool then { c with hot := false, cool := 0 } else { c with cool := c.cool + 1 })
  else c

/-- MR4_POLL: packages hold four channels each. Above 105 °C attention of class thermal is raised, with a code that the spec does not state (log entry 50). -/
def execMr4Poll (pkg : Fin 6) (temp : Byte) (s : State) : Host.Outcome State Fault Refusal :=
  .next <|
    let k := 4 * pkg.val
    if !(range k 4).any fun i => (s.chan i).inService && !(s.chan i).selfRefresh then s
    else
      let s := (range k 4).foldl (fun s i => s.updChan i fun c => if c.inService && !c.selfRefresh then c.report temp.toNat else c) s
      if 105 < temp.toNat then
        let code := freeCode s.tag
        (s.burn).attention 2 code 7 k
      else s

/-- The data blocks of a channel. -/
def chanBlocks : Nat := chanBytes / 64

/-- PATROL_SCRUB: the next block is read and written back corrected; an uncorrectable one is marked and counted. It never clears a mark. -/
def execPatrolScrub (ch : Fin 24) (lo hi : HalfErr) (s : State) : Host.Outcome State Fault Refusal :=
  .next <|
    let k := ch.val
    let c := s.chan k
    if !c.inService || c.selfRefresh then s
    else
      match s.channels.findIdx? (· == k) with
      | none => s
      | some i =>
        let a := deinterleave s.dmc.grain (max 1 s.nChan) i (64 * c.scrubPos)
        let old := s.dram.poison.length
        let (s, _, _) := s.checkBlock a lo hi
        let marked := decide (old < s.dram.poison.length)
        let done := decide (chanBlocks ≤ c.scrubPos + 1)
        s.updChan k fun c =>
          { c with
            scrubPos := if done then 0 else c.scrubPos + 1
            scrubPasses := if done then satAdd c.scrubPasses 1 else c.scrubPasses
            scrubMarked := if marked then satAdd c.scrubMarked 1 else c.scrubMarked }

/-- WCK2DQ_TRACK: every write delay of the channel moves by the drift that the oscillator shows, `delta` as a signed number. -/
def execWck2dqTrack (ch : Fin 24) (delta : Byte) (s : State) : Host.Outcome State Fault Refusal :=
  .next <|
    let c := s.chan ch.val
    if !c.inService || c.selfRefresh then s
    else s.updTrn ch.val fun t => { t with wr := (List.range 16).foldl (fun w i => tset 0 w i (tget 0 w i + delta)) t.wr }

end Sys2Proof.Machine
end

