-- ==== Sys2Proof/Machine/Power.lean ====
section
/-! DEFINITION. Power states (R438 to R443, R341), DVFS and the power limit (R444 to R447), the 12 V input (R448, R449, R402), temperature (R450),
power-up (R463, R464) and the indicators (R467). -/

namespace Sys2Proof.Machine

/-! ### Doze, Nap and Slumber (R438 to R440) -/

/-- A core, vector engine or Millefeuille of the region runs. -/
def State.regionRuns (s : State) (r : Nat) : Bool :=
  (s.region r).cores.any (fun c => c.2.running.isSome) || (s.regMem r).vecs.any (fun v => v.2.running.isSome) || (s.region r).gau.running.isSome

/-- No pass, descriptor, picture, CSE job or tick is running; an association runs within one command. -/
def State.quiet (s : State) : Bool :=
  !(List.range 8).any s.regionRuns && s.dec.engs.all (fun e => e.2.parsing.isNone && e.2.pix.isNone) && s.enc.engs.all (fun e => e.2.job.isNone)
    && s.cse.all (fun e => e.2.running.isNone) && !s.tke.running

/-- The device is in service and not frozen, so that it may leave Run. -/
def State.mayRest (s : State) : Bool := s.dev.state == .run || s.dev.state == .degraded

/-- The least of some times. -/
def earliest (ts : List Nat) : Option Nat := leastBy (fun a b => decide (a < b)) ts

/-- The wake timer (R440): the close of a pending batch, the start of the next tick with work, or the next life record. -/
def State.wakeDue (s : State) : Option Nat :=
  let batches := (s.dis.ctxs.filter fun c => !c.2.batch.isEmpty && s.batches c.1).map fun c => c.2.batchAt + s.batchTime
  let ticks := if s.tickBusy then [s.tke.t0 + s.nextTick * s.setting 6 20 * 1000000] else []
  earliest (batches ++ ticks ++ [s.crt.lastLife + 6 * 3600 * 1000000000])

/-- The device rests in a power state, with its wake timer set. -/
def State.restIn (p : PState) (s : State) : State :=
  let due := s.wakeDue
  s.updPwr fun w => { w with pstate := p, wakeAt := due }

/-- DOZE_ENTRY stands for the moment 20 µs after the last work (log entry 51); from then on the Doze conditions hold. -/
def execDozeEntry (s : State) : Host.Outcome State Fault Refusal :=
  .next <|
    if s.pwr.pstate == .run && s.mayRest && decide (4 ≤ s.tEff) && s.quiet then
      let now := s.now
      (s.updPwr fun p => { p with idleAt := now }).restIn .doze
    else s

/-- NAP_ENTRY: the Doze conditions have held for 200 µs. -/
def execNapEntry (s : State) : Host.Outcome State Fault Refusal :=
  .next <| if s.pwr.pstate == .doze && decide (150 ≤ s.tEff) then (s.waitUntil (s.pwr.idleAt + 200000)).restIn .nap else s

/-- The further conditions of Slumber: every context is IDLE, no pull slot is open, no CALIBRATE runs and no cartridge write is in progress. -/
def State.maySlumber (s : State) : Bool :=
  decide (3000 ≤ s.tEff) && s.dis.ctxs.all (fun c => c.2.state == 0) && s.dec.slots.all (fun t => !t.2.pull || t.2.state == 0) && !s.cal.running
    && !s.crt.writeBusy

/-- What Slumber loses of a region: cores, vector engines, Millefeuille, maps and every memory; counters and resident slots are saved (R28, R173, R188, R250, R268). -/
def State.regionOff (r : Nat) (s : State) : State :=
  let s := s.updRegMem r fun m => { m with vecs := [] }
  (s.forgetRegion r).updRegion r fun g => { rslots := g.rslots, reissues := g.reissues, copyWon := g.copyWon, wcs := g.wcs }

/-- SLUMBER_ENTRY: the resident set is recorded, DRAM refreshes itself, and DCLK stops. -/
def execSlumberEntry (s : State) : Host.Outcome State Fault Refusal :=
  .next <|
    if (s.pwr.pstate == .doze || s.pwr.pstate == .nap) && s.maySlumber then
      let s := s.waitUntil (s.pwr.idleAt + 10000000)
      let kept := (List.range 8).flatMap fun r => (s.region r).rslots.map fun e => (r, e.1, e.2)
      let s := s.updDis fun d => { d with recorded := kept }
      let s := (List.range 8).foldl (fun s r => s.regionOff r) s
      let s := (List.range 24).foldl (fun s k => s.updChan k fun c => if c.inService then { c with selfRefresh := true } else c) s
      let s := s.updClk fun t => tupd {} t 10 fun p => { p with locked := false }
      (s.restIn .slumber).reportLtr
    else s

/-- The device starts to wake: Doze and Nap end, Slumber ends with WAKE_COMPLETE. -/
def State.startWake (s : State) : State :=
  match s.pwr.pstate with
  | .doze | .nap => s.leaveNap
  | .slumber => s.updPwr fun p => { p with waking := true }
  | _ => s

/-- WAKE, by a TLP, SNAP# or the button. -/
def execWake (_ : WakeCause) (s : State) : Host.Outcome State Fault Refusal := .next s.startWake

/-- WAKE_TIMER, at its time. -/
def execWakeTimer (s : State) : Host.Outcome State Fault Refusal :=
  .next <|
    match s.pwr.wakeAt with
    | some t => (s.waitUntil t).startWake
    | none => s

/-- WAKE_COMPLETE. -/
def execWakeComplete (s : State) : Host.Outcome State Fault Refusal :=
  .next <| if s.pwr.pstate == .slumber && s.pwr.waking then s.leaveSlumber else s

/-! ### A region in Nap (R443) -/

/-- Admission has assigned a context to the region. -/
def State.hasContexts (s : State) (r : Nat) : Bool := !(s.ctxsIn r).isEmpty

/-- REGION_NAP: its two engine sets are idle. -/
def execRegionNap (r : Fin 8) (s : State) : Host.Outcome State Fault Refusal :=
  .next <|
    let g := s.region r.val
    let idle := g.coresCtx.isNone && g.gauCtx.isNone && g.swapCores.isNone && g.swapGau.isNone && !s.regionRuns r.val
    if s.pwr.pstate == .run && s.mayRest && idle && decide (150 ≤ s.tEff) then s.updRegPwr r.val fun p => { p with nap := true } else s

/-- REGION_NAP_WAKE: the engine sets take what waits. A region without contexts stays in Nap. -/
def execRegionNapWake (r : Fin 8) (s : State) : Host.Outcome State Fault Refusal :=
  .next <| if (s.regPwr r.val).nap && s.hasContexts r.val then ((s.updRegPwr r.val fun p => { p with nap := false }).judgeAll).resumeRegion r.val else s

/-! ### DVFS (R444 to R447) -/

/-- The power limit in mW. -/
def State.limitMw (s : State) : Nat := 1000 * s.pwr.limit

/-- Power at the declared inlet temperature. -/
def State.scaled (s : State) (mw : Nat) : Nat := match s.crt.recipe with | some r => atInlet r mw | none => mw

/-- The die of a region: 1 or 2. -/
def dieOf (r : Nat) : Nat := 1 + r / 4

/-- The temperature of a die. -/
def State.die (s : State) (d : Nat) : DiePwr := tget {} s.pwr.dies d

/-- The conditions of R445 to rise above f_adm; at the highest step nothing is added. -/
def State.mayRise (s : State) (r : Nat) : Bool :=
  let f := (s.regPwr r).freq
  let ready := (s.ctxsIn r).any fun c => (s.ctx c).state == 1 || (s.ctx c).state == 3
  ready && decide ((s.die (dieOf r)).tj.toNat ≤ 90) && decide (s.pwr.average + s.scaled (stepPower (stepUp f) - stepPower f) + 5000 ≤ s.limitMw)

/-- A region steps down for power: POWER_STEPS counts, and an episode below f_adm begins (R447). -/
def State.powerDown (r : Nat) (s : State) : State :=
  let f := (s.regPwr r).freq
  let g := stepDown f
  if g = f || (s.regPwr r).target.isSome then s
  else
    let now := s.now
    let s := (s.stepTo r g).updPwr fun p => { p with powerSteps := satAdd p.powerSteps 1 }
    if g < s.adm.fAdm then s.updRegPwr r fun p => { p with lowSince := some (p.lowSince.getD now) } else s

/-- The check of one region, where `above` says that some region runs above f_adm. -/
def State.checkRegion (high above : Bool) (r : Nat) (s : State) : State :=
  let p := s.regPwr r
  let f := p.freq
  let adm := s.adm.fAdm
  if p.nap || f = 0 || p.target.isSome then s
  else if high && (decide (adm < f) || !above) then s.powerDown r
  else if high then s
  else if f < adm then
    if p.thermal || (s.die (dieOf r)).throttle then s
    else if p.lowSince.isNone || decide (s.pwr.average + 5000 ≤ s.limitMw) then s.stepTo r (stepUp f) else s
  else if !(s.die (dieOf r)).throttle && s.mayRise r then s.stepTo r (stepUp f)
  else if adm < f then s.stepTo r (stepDown f)
  else s

/-- DVFS_CHECK, while ACLK is not gated at its root. -/
def execDvfsCheck (s : State) : Host.Outcome State Fault Refusal :=
  .next <|
    if !s.dis.inService || !s.adm.done || s.pwr.pstate != .run || s.dev.state == .parked then s
    else
      let high := decide (s.limitMw < s.pwr.average)
      let above := (List.range 8).any fun r => decide (s.adm.fAdm < (s.regPwr r).freq) && !(s.regPwr r).nap
      (List.range 8).foldl (fun s r => s.checkRegion high above r) s

/-- DVFS_STEP_DONE: the PLL has relocked and ACLK restarts, unless another cause holds it (R449). A region that has further steps to go then stops for the
next (R446). -/
def execDvfsStepDone (r : Fin 8) (s : State) : Host.Outcome State Fault Refusal :=
  .next <|
    match (s.regPwr r.val).target with
    | none => s
    | some f =>
      let adm := s.adm.fAdm
      let s := s.updRegPwr r.val fun p => RegPwr.atLeast adm { p with freq := f, volt := stepVolt f, target := none, stopDvfs := false }
      let s := s.updClk fun t => tupd {} t r.val fun p => { p with locked := true, freq := 10 * f, relocks := satAdd p.relocks 1 }
      ((s.restartAclk r.val).onward r.val).freqSettled

/-- The PWR block works: past the start of the boot ROM, with the hub on. -/
def State.pwrWorks (s : State) : Bool := s.wires.ready && s.crt.stage != 0 && s.pwr.pstate != .off && s.dev.state != .parked

/-- Every region's ACLK is stopped, or released, for one cause. -/
def State.eachRegion (f : RegPwr → RegPwr) (s : State) : State := (List.range 8).foldl (fun s r => s.updRegPwr r f) s

@[inherit_doc State.stopAclk]
def State.stopAll (dip : Bool) (f : RegPwr → RegPwr) (s : State) : State := (List.range 8).foldl (fun s r => s.stopAclk r dip f) s

/-- POWER_SAMPLE: the last 100 samples make the 1 ms average. A sample above 1.2 × the limit stops every ACLK until one at or below the limit. -/
def execPowerSample (mw : Nat) (mv : U16) (s : State) : Host.Outcome State Fault Refusal :=
  .next <|
    if !s.pwrWorks then s
    else
      let s := (s.updPwr fun p => { p with samples := (mw :: p.samples).take 100, volts := mv }).updAon fun a => { a with v12 := mv }
      let stopped := (s.regPwr 0).stopFast
      if decide (12 * s.limitMw < 10 * mw) && !stopped then
        (s.updPwr fun p => { p with fast := satAdd p.fast 1 }).stopAll false fun p => { p with stopFast := true }
      else if decide (mw ≤ s.limitMw) && stopped then (s.eachRegion fun p => { p with stopFast := false }).restartAll
      else s

/-- POWER_THROTTLE_ATTENTION: 100 ms below f_adm because of power, once for each episode. -/
def execPowerThrottleAttention (r : Fin 8) (s : State) : Host.Outcome State Fault Refusal :=
  .next <|
    match (s.regPwr r.val).lowSince with
    | some t =>
      if (s.regPwr r.val).lowRaised || decide (s.adm.fAdm ≤ (s.regPwr r.val).freq) then s
      else ((s.waitUntil (t + 100000000)).updRegPwr r.val fun p => { p with lowRaised := true }).attention 1 0x0121 2 r.val
    | none => s

/-! ### The 12 V input (R402, R448, R449, R464) -/

/-- The input stands at `mv`; the AON shows it while it is powered. -/
def State.vinTo (mv : U16) (s : State) : State :=
  let s := s.updWires fun w => { w with vin12 := mv }
  if s.wires.vaux3 then s.updAon fun a => { a with v12 := mv, mainOk := decide (9600 < mv.toNat) } else s

/-- A dip counts as one class 3 event of the package; a lasting one raises class supply, again only after the kept events have fallen below the threshold. -/
def State.countDip (s : State) : State :=
  if !s.ras.inService then s
  else
    let s := s.errorGlaze 3
    let now := s.now
    let n := s.ras.threshold 3
    let w := s.ras.window 3 * 1000000000
    let held := s.ras.dipHeld && decide (n ≤ (s.ras.dipTimes.filter fun t => decide (now - t ≤ w)).length)
    let times := (now :: s.ras.dipTimes).take n
    let lasting := decide (n ≤ times.length) && decide (now - times.getLastD now ≤ w)
    let s := s.updRas fun r => { r with dipTimes := times, dips := satAdd r.dips 1, dipHeld := held || lasting }
    if lasting && !held then s.attention 3 0x0506 0 0 else s

/-- The supply monitor acts: the package is powered and ready, and not in Off (R442). -/
def State.supplyWatched (s : State) : Bool := s.wires.vaux3 && s.wires.ready && s.pwr.pstate != .off

/-- A dip begins: every region's ACLK stops. -/
def State.dip (s : State) : State :=
  if s.aon.dip then s
  else ((s.updAon fun a => { a with dip := true, warn := true }).stopAll true fun p => { p with stopDip := true }).countDip

/-- SUPPLY_DIP: below 10.8 V. -/
def execSupplyDip (mv : U16) (s : State) : Host.Outcome State Fault Refusal :=
  .next <|
    if 10800 ≤ mv.toNat then s
    else
      let s := s.vinTo mv
      if s.supplyWatched then s.dip else s

/-- SUPPLY_RECOVER: above 11.0 V for 100 µs. Passes resume, and a CHR that waits for the supply completes. -/
def execSupplyRecover (mv : U16) (s : State) : Host.Outcome State Fault Refusal :=
  .next <|
    if mv.toNat ≤ 11000 then s
    else
      let s := s.vinTo mv
      let s := if s.wires.vaux3 then s.updAon fun a => { a with dip := false, warn := false } else s
      let s := s.eachRegion fun p => { p with stopDip := false }
      if s.atRest then s.bootRom else s.restartAll

/-- SUPPLY_LOW: below 9.6 V, with a CHR. -/
def execSupplyLow (mv : U16) (s : State) : Host.Outcome State Fault Refusal :=
  .next <|
    if 9600 ≤ mv.toNat then s
    else
      let s := s.vinTo mv
      if s.supplyWatched then (s.dip).chr 0x0507 else s

/-! ### Power-up and power-down (R459, R463, R464) -/

/-- The power-on reset: LEVEL 0, RAS_POWER_ON, RESET_EPOCH 0. Its record waits for service (R424). -/
def powerOnRun : ResetRun :=
  { scope := .chip, level := 0, cause := 0x0513, since := 0, epoch := 0, count := 0, taken := false, ended := false, units := [] }

/-- VAUX3_RISE: the AON leaves reset and device time starts from 0. -/
def execVaux3Rise (s : State) : Host.Outcome State Fault Refusal :=
  .next <|
    if s.wires.vaux3 then s
    else
      let mv := s.wires.vin12
      let s := s.updWires fun w => { w with vaux3 := true }
      let s := s.updAon fun _ => { v12 := mv, mainOk := decide (9600 < mv.toNat) }
      s.updRst fun _ => { runs := [powerOnRun] }

/-- VAUX3_FALL: as after a power cycle, everything is lost but the cartridge, the fuses and what the board drives. -/
def execVaux3Fall (s : State) : Host.Outcome State Fault Refusal :=
  .next <|
    if !s.wires.vaux3 then s
    else
      let s := s.clearChip
      let s := ((s.updDbg fun _ => {}).updRst fun _ => {}).updDev fun _ => {}
      let s := (s.updClk fun _ => []).updJtag fun _ => {}
      let s := (s.updEp fun _ => {}).updAon fun _ => {}
      s.updWires fun w => { vin12 := w.vin12, perst := w.perst }

/-- VIN12_RISE: the converter soft-starts, at any time after VAUX3 or before it. -/
def execVin12Rise (mv : U16) (s : State) : Host.Outcome State Fault Refusal := .next (s.vinTo mv)

/-- KCLK_LOCKED: the address straps are sampled, and the SMBus target responds. -/
def execKclkLocked (addr0 addr1 : Bool) (s : State) : Host.Outcome State Fault Refusal :=
  .next <|
    if !s.wires.vaux3 || s.wires.kclk then s
    else (s.updWires fun w => { w with kclk := true, addr0 := addr0, addr1 := addr1 }).lockPll 16 0 0

/-- PACKAGE_READY: step 4 of R463. The boot starts now when PERST# is deasserted. -/
def execPackageReady (s : State) : Host.Outcome State Fault Refusal :=
  .next <|
    if !(s.wires.vaux3 && s.wires.kclk && decide (11000 < s.wires.vin12.toNat)) || s.wires.ready then s
    else (s.updWires fun w => { w with ready := true }).bootRom

/-! ### Temperature (R22, R419, R450) -/

/-- The highest of some sensors. -/
def hottest (ts : List Byte) : Byte := ts.foldl (fun a b => if a.toNat < b.toNat then b else a) 0

/-- The attention of a throttle episode. -/
def State.raiseThermal (ik idx : Nat) (s : State) : State := s.attention 2 0x0120 ik idx

/-- A die's Tj is read: an episode starts at 100 °C and ends at 97 °C. The hub's first throttle step is the pause of the encode engines; a compute die's
comes with THERMAL_STEP. -/
def State.readDie (d : Nat) (tj : Byte) (s : State) : State :=
  let x := s.die d
  let service := s.serving
  let start := decide (100 ≤ tj.toNat) && !x.throttle
  let stop := decide (tj.toNat ≤ 97)
  let s := s.updPwr fun p =>
    { p with
      thermal := if start then satAdd p.thermal 1 else p.thermal
      dies := tset {} p.dies d
        { tj := tj, tjMax := if service then hottest [x.tjMax, tj] else x.tjMax, throttle := (x.throttle || start) && !stop
          raised := if start then d = 0 else x.raised && !stop } }
  if d = 0 && start then s.raiseThermal 0 0 else s

/-- Every ACLK, MCLK and DCLK stops, and a power cycle is asked for. -/
def State.trip (s : State) : State :=
  if s.aon.tripped then s else (s.updAon fun a => { a with tripped := true }).powerCycle 3 0x0508

/-- THERMAL_SAMPLE: 12 sensors of the hub, 16 of each compute die, four for each region. -/
def execThermalSample (hub cd0 cd1 : List Byte) (s : State) : Host.Outcome State Fault Refusal :=
  .next <|
    if !s.pwrWorks then s
    else
      let s := (List.range 8).foldl (fun s r => s.updRegPwr r fun p =>
        { p with tj := hottest ((((if r < 4 then cd0 else cd1)).drop (4 * (r % 4))).take 4) }) s
      let s := ((s.readDie 0 (hottest hub)).readDie 1 (hottest cd0)).readDie 2 (hottest cd1)
      if [hub, cd0, cd1].any fun l => decide (110 ≤ (hottest l).toNat) then s.trip else s

/-- One region of a die in THERMAL_STEP: down while the die is hot, up while it has cooled and power allows it (R447). -/
def State.thermalRegion (r : Nat) (s : State) : State :=
  let p := s.regPwr r
  let x := s.die (dieOf r)
  if p.nap || p.freq = 0 || p.target.isSome then s
  else if x.throttle && decide (100 ≤ x.tj.toNat) then
    let s := s.stepTo r (stepDown p.freq)
    s.updRegPwr r fun p => { p with thermal := true }
  else if p.thermal && decide (x.tj.toNat ≤ 97) then
    if s.adm.fAdm ≤ p.freq then s.updRegPwr r fun p => { p with thermal := false }
    else if p.lowSince.isNone || decide (s.pwr.average + 5000 ≤ s.limitMw) then s.stepTo r (stepUp p.freq)
    else s
  else s

/-- The first throttle step of a compute die's episode raises its attention, with the lowest region of the die. -/
def State.firstStep (d : Nat) (s : State) : State :=
  let x := s.die d
  if x.throttle && !x.raised && decide (100 ≤ x.tj.toNat) then
    (s.updPwr fun p => { p with dies := tupd {} p.dies d fun x => { x with raised := true } }).raiseThermal 2 (4 * (d - 1))
  else s

/-- THERMAL_STEP, in every power state in which the clocks exist (R441). -/
def execThermalStep (s : State) : Host.Outcome State Fault Refusal :=
  .next <|
    if !s.dis.inService || !s.adm.done || s.pwr.pstate == .off || s.dev.state == .parked then s
    else (List.range 8).foldl (fun s r => s.thermalRegion r) ((s.firstStep 1).firstStep 2)

/-! ### Indicators (R388, R467) -/

/-- What an indicator shows. -/
inductive Lamp where
  | off
  | on
  | blink1
  | blink2
deriving DecidableEq, Repr

/-- A removal has been requested and is pending. -/
def State.removalPending (s : State) : Bool := s.dev.pressAt.isSome

/-- PWR_IND#. -/
def State.powerLamp (s : State) : Lamp :=
  if s.pwr.pstate == .off || (s.dev.state == .booting && decide (s.crt.stage.toNat < 4)) || s.dev.state == .parked then .off
  else if s.removalPending then .blink2
  else .on

/-- ATTN_IND#: HIF_SLOT_CTL.ATTN_IND overrides what the device drives, but in PARKED and Off. -/
def State.attentionLamp (s : State) : Lamp :=
  if s.pwr.pstate == .off then .off
  else if s.dev.state == .parked then .blink1
  else
    match s.dev.attnInd.toNat with
    | 1 => .off
    | 2 => .on
    | 3 => .blink1
    | _ => if s.dev.state == .refused then .on else .off

end Sys2Proof.Machine
end

