-- ==== Sys2Proof/WellFormed.lean ====
section
/-! DEFINITION. The well-formed commands: operands that the spec's own encodings and events can carry. -/

namespace Sys2Proof

/-- The arguments of a ring entry: bytes 0x08 to 0x3F (R368). -/
def cmdOk (c : Cmd) : Bool := decide (c.args.length ≤ 56)

/-- The bytes lie inside one 64 B block of device DRAM (R323). -/
def blockOk (addr : U64) (n : Nat) : Bool := decide (1 ≤ n) && decide (addr.toNat % 64 + n ≤ 64)

/-- A TLP of 1 to 4,096 bytes that crosses no 4 KiB boundary (R362). -/
def tlpOk (addr : U64) (n : Nat) : Bool := decide (1 ≤ n) && decide (addr.toNat % 4096 + n ≤ 4096)

/-- An access to a buffer: some bytes, a natural size, and as many bytes of write data as the access is long (R346). -/
def accessOk (size natural : U32) (write : Option (List Byte)) : Bool :=
  size != 0 && natural != 0 && (match write with | some d => d.length == size.toNat | none => true)

/-- A context fault names a code of a kind that R16 gives, and none that R17 reserves. -/
def errOk : ErrEvent → Bool
  | .context _ _ code _ _ => decide (code.toNat < 0x600)
  | _ => true

/-- The command is well formed. -/
def Instr.wf (i : Instr) : Bool :=
  match i with
  | .hifCmdPut _ => true
  | .commandFetch => true
  | .queryDevice c => cmdOk c
  | .queryAttention c => cmdOk c
  | .queryRefusal c => cmdOk c
  | .querySlot c => cmdOk c
  | .queryTime c => cmdOk c
  | .queryAdmission c => cmdOk c
  | .unknownOpcode op c => (op == 0 || decide (0x0D < op.toNat)) && cmdOk c
  | .lostCommand _ => true
  | .streamOpen c => cmdOk c
  | .streamClose c => cmdOk c
  | .clipStart c => cmdOk c
  | .clipStop c => cmdOk c
  | .keyPicture c => cmdOk c
  | .snapshot c => cmdOk c
  | .dumpRead c => cmdOk c
  | .setLatTol c => cmdOk c
  | .resetReq c => cmdOk c
  | .releaseFreeze c => cmdOk c
  | .calibrate c => cmdOk c
  | .flush c => cmdOk c
  | .discardAdapter c => cmdOk c
  | .prepareRemoval c => cmdOk c
  | .decSlotPut _ _ => true
  | .pullFetch _ => true
  | .pullCompletion _ data _ => decide (1 ≤ data.length ∧ data.length ≤ 4096)
  | .getMirror _ => true
  | .entropyParse _ => true
  | .parseDone _ _ => true
  | .pixelError _ _ => true
  | .pictureCommit _ _ => true
  | .decNoKey _ => true
  | .encodeStart _ => true
  | .encodeDone _ _ => true
  | .clipHoldExpiry _ => true
  | .encSessGet _ _ => true
  | .cseJobSubmit _ _ => true
  | .cseJobDone _ => true
  | .passCommit _ _ => true
  | .passAbort _ _ _ => true
  | .gauPassCommit _ => true
  | .vecDescriptorCommit _ _ => true
  | .fetch _ _ _ => true
  | .claim _ _ _ _ => true
  | .done _ _ _ _ => true
  | .stragglerCheck _ => true
  | .crustRowTransfer _ _ => true
  | .batchClose _ => true
  | .swapComplete _ _ => true
  | .synSignal _ _ => true
  | .synWait _ _ _ => true
  | .synReset _ _ => true
  | .alloc _ _ => true
  | .try_ _ _ => true
  | .share _ _ _ _ => true
  | .release _ _ => true
  | .free _ _ => true
  | .bufferAccess _ _ _ size natural write => accessOk size natural write
  | .association _ _ => true
  | .trackerStepCommit _ _ => true
  | .handoffEntry _ => true
  | .dormancyExpiry _ => true
  | .tickStart _ => true
  | .hifRplGet _ => true
  | .hifMdGet _ _ => true
  | .hifHoPut _ _ => true
  | .hifRingCtl _ => true
  | .go => true
  | .windowCommitDrained => true
  | .hifAttn _ => true
  | .unsolicitedReply _ => true
  | .powerOff => true
  | .unpark => true
  | .rgnSlotMap _ _ _ => true
  | .gauTileMap _ _ _ => true
  | .trainingRun _ _ => true
  | .trainingRunDone _ _ _ => true
  | .hifTimeLo => true
  | .registerWrite offset _ _ _ => offset.toNat % 4 == 0 && decide (offset.toNat < 0x4000000)
  | .bar0BadAccess _ offset size => decide (1 ≤ size) && (size != 4 || offset.toNat % 4 != 0)
  | .bar2Write addr data _ => tlpOk addr data.length
  | .bar2Read addr size => tlpOk addr size
  | .bar2Resize log2 => decide (28 ≤ log2.val)
  | .bar4Read _ size => decide (1 ≤ size ∧ size ≤ 4096)
  | .bar4Write _ => true
  | .pmStateChange _ => true
  | .pmeTurnOff => true
  | .perstAssert => true
  | .perstDeassert _ => true
  | .hotReset => true
  | .linkDown => true
  | .linkRetrain width rate => [1, 2, 4, 8, 16].contains width.val && rate.val != 0
  | .completionTimeout _ => true
  | .lateCompletion _ => true
  | .tagQuarantineExpiry _ => true
  | .ptmDialogue => true
  | .ptmResponse _ => true
  | .ptmSyncLoss => true
  | .msixDelay _ => true
  | .headerCheck _ => true
  | .firmwareStart _ => true
  | .functionReady => true
  | .dramTrainingDone _ delays _ => delays.all fun d => decide (d.1 < 24 ∧ d.2.1 < 16)
  | .selfTestDone _ _ _ _ => true
  | .sectionsLoaded _ => true
  | .loaderCheck => true
  | .chrWatchdogExpiry => true
  | .bootWatchdogExpiry => true
  | .resetComplete _ => true
  | .resetOverrun _ => true
  | .cartRemoval => true
  | .cartInsertion _ => true
  | .cartInsertChr => true
  | .cartridgeWriteComplete _ _ => true
  | .lifeRecordTimer => true
  | .ageAccrual _ => true
  | .calTrainDone _ => true
  | .calTimeLimit => true
  | .dramRead addr size _ _ => blockOk addr size
  | .dramWrite addr data _ _ _ => blockOk addr data.length
  | .refresh _ _ => true
  | .mr4Poll _ _ => true
  | .patrolScrub _ _ _ => true
  | .wck2dqTrack _ _ => true
  | .dozeEntry => true
  | .napEntry => true
  | .slumberEntry => true
  | .regionNap _ => true
  | .wake _ => true
  | .wakeTimer => true
  | .wakeComplete => true
  | .dvfsCheck => true
  | .dvfsStepDone _ => true
  | .powerSample _ _ => true
  | .powerThrottleAttention _ => true
  | .supplyDip mv => decide (mv.toNat < 10800)
  | .supplyRecover mv => decide (11000 < mv.toNat)
  | .supplyLow mv => decide (mv.toNat < 9600)
  | .vaux3Rise => true
  | .vaux3Fall => true
  | .vin12Rise _ => true
  | .packageReady => true
  | .thermalSample hub cd0 cd1 => hub.length == 12 && cd0.length == 16 && cd1.length == 16
  | .thermalStep => true
  | .treacleCheck => true
  | .snapPin => true
  | .crumbTimeout base => base.toNat % 4 == 0
  | .dumpComplete => true
  | .errorEvent e => errOk e
  | .attentionButton => true
  | .smbusDevState => true
  | .smbusTj => true
  | .smbusInputPower => true
  | .smbusInputVolts => true
  | .smbusPwcCause => true
  | .smbusCartLife => true
  | .smbusAttnPending => true
  | .smbusPwcAck _ => true
  | .smbusTimeout => true
  | .bypass => true
  | .idcode => true
  | .samplePreload => true
  | .extest => true
  | .clamp => true
  | .highz => true
  | .configurationRequest _ => true
  | .kclkLocked _ _ => true
  | .regionNapWake _ => true
  | .trstAssert => true

/-- The command is well formed, as a proposition. -/
abbrev Instr.WellFormed (i : Instr) : Prop := i.wf = true

end Sys2Proof
end

