-- ==== Sys2Proof/Machine/Ras.lean ====
section
/-! DEFINITION. Treacle (R414 to R417), the triggers and the end of a dump (R427 to R431), detected errors (R399 to R406, R418), and the attention
button (R388). -/

namespace Sys2Proof.Machine

/-! ### The wait-for graph (R414) -/

/-- The node of a waiter. -/
def waiterNode : Waiter → Node
  | .ctx c => { kind := 0, id := c.val }
  | .queueHead u => { kind := 1, id := u.toNat }
  | .tke p => { kind := 2, id := p.val }

/-- The node of a requester that waits in ALLOC. -/
def allocNode (r : U16) : Node := { kind := 3, id := r.toNat }

/-- A list without repeats, each value at its first place. -/
def dedup (l : List Node) : List Node := l.foldl (fun a n => if a.contains n then a else a ++ [n]) []

/-- Every waiter, every TKE pipeline, every requester that waits for a pool. -/
def State.waitNodes (s : State) : List Node :=
  dedup ((s.syn.waits.map fun w => waiterNode w.waiter) ++ (List.range 4).map (fun p => { kind := 2, id := p })
    ++ s.bpm.pools.flatMap fun p => p.2.waiters.map allocNode)

/-- The engine that works for a requester: the decode engine that holds the slot or is its home, the encode engine of the session, the crop-and-scale engine. -/
def State.reqEngine (s : State) (r : U16) : Option U16 :=
  let n := r.toNat
  if n < 0x1000 then none
  else if n < 0x2000 then some (mkUnit 2 ((s.sdec (n % 0x1000)).holder.getD (s.slot (n % 0x1000)).engine))
  else if n < 0x3000 then some (mkUnit 3 (s.sess (n % 0x1000)).engine)
  else if n < 0x4000 then some (mkUnit 4 (n % 0x1000))
  else none

/-- The node of an engine: that of its queue head. -/
def engineNode (u : U16) : Node := { kind := 1, id := u.toNat }

/-- The nodes that a requester stands for as a holder. -/
def State.holderNodes (s : State) (r : U16) : List Node :=
  let n := r.toNat
  allocNode r :: (if n < 0x1000 then [{ kind := 0, id := n }]
    else match s.reqEngine r with
      | some u => [engineNode u]
      | none => (List.range 4).map fun p => { kind := 2, id := p })

/-- What an engine works for, as nodes: the contexts on a core or Millefeuille, the requester whose picture or job a media engine has. A queue head waits
for its engine, which has no node of its own, and so for what keeps that engine (R414; log entry 124). -/
def State.engineWork (s : State) (u : U16) : List Node :=
  let i := unitIdx u
  match unitKind u with
  | 0 =>
    ((s.core (i / 32) (i % 32)).running.toList.map fun p => { kind := 0, id := p.ctx })
      ++ (s.vec (i / 32) (i % 32)).running.toList.map fun v => { kind := 0, id := v.ctx }
  | 1 => (s.region (i / 32)).gau.running.toList.map fun g => { kind := 0, id := g.ctx }
  | 2 => ((s.deng i).pix.toList.map fun x => allocNode (reqDec x.slot)) ++ (s.deng i).parsing.toList.map fun x => allocNode (reqDec x.slot)
  | 3 => (s.eeng i).job.toList.map fun j => allocNode (reqEnc j.sess)
  | 4 => if (s.cseEng i).running.isSome then [allocNode (reqCse i)] else []
  | _ => []

/-- The nodes that may signal an object: contexts by what their plan signals, crop-and-scale engines by the job templates. -/
def State.signallers (s : State) (o : U16) : List Node :=
  ((s.ctxNums.filter fun c => match s.plan (s.ctx c).plan with | some p => p.signals.any (fun e => e.1 == o) | none => false).map
      fun c => { kind := 0, id := c })
    ++ (if s.plans.any fun p => p.cseJobs.any fun j => j.sync.setWidth 16 == o then (List.range 4).map (fun e => { kind := 1, id := 0x4000 + e }) else [])

/-- Where a node's edges lead. A context that waits in ALLOC is the node of its allocation wait as well. -/
def State.edgesOf (s : State) (n : Node) : List Node :=
  let waits := (s.syn.waits.filter fun w => waiterNode w.waiter == n).flatMap fun w => s.signallers w.obj
  let pools := s.bpm.pools.filter fun p => n.kind == 3 && p.2.waiters.any fun r => allocNode r == n
  let held := pools.flatMap fun p =>
    (s.bpm.bufs.filter fun b => hPool (BitVec.ofNat 32 b.1) == p.1).flatMap fun b => (b.2.owner :: b.2.shares).flatMap s.holderNodes
  let engine := if n.kind = 1 then s.engineWork (BitVec.ofNat 16 n.id) else []
  dedup ((waits ++ held ++ engine).flatMap fun m => if m.kind = 0 then [m, { kind := 3, id := m.id }] else [m])

/-- Pictures, jobs, passes and descriptors that a unit has completed. -/
def State.unitProgress (s : State) (u : U16) : Nat :=
  let i := unitIdx u
  match unitKind u with
  | 0 => (s.core (i / 32) (i % 32)).passes.toNat + (s.vec (i / 32) (i % 32)).done.toNat
  | 1 => (s.region (i / 32)).gau.passes.toNat
  | 2 => (s.deng i).committed.toNat
  | 3 => (s.eeng i).encoded.toNat
  | 4 => (s.cseEng i).jobs.toNat
  | 5 => (s.chan i).held.length
  | _ => 0

/-- The progress count of a requester. -/
def State.reqProgress (s : State) (r : Nat) : Nat :=
  if r < 0x1000 then (s.ctx r).progress
  else if r < 0x2000 then (s.sdec (r % 0x1000)).published.toNat
  else if r < 0x3000 then (s.sess (r % 0x1000)).encoded.toNat
  else if r < 0x4000 then (s.cseEng (r % 0x1000)).jobs.toNat
  else s.tke.assocs.toNat

/-- The progress count of a node. -/
def State.nodeProgress (s : State) (n : Node) : Nat :=
  match n.kind with
  | 0 => (s.ctx n.id).progress
  | 1 => s.unitProgress (BitVec.ofNat 16 n.id)
  | 2 => tget 0 s.tke.byPipe n.id
  | _ => s.reqProgress n.id

/-- The context that a node is. -/
def Node.ctx (n : Node) : Option Nat := if n.kind = 0 || (n.kind == 3 && decide (n.id < 0x1000)) then some n.id else none

/-- The unit that a node is: the engine of a queue head, and that which works for a requester in ALLOC. -/
def State.nodeUnit (s : State) (n : Node) : Option U16 :=
  if n.kind = 1 then some (BitVec.ofNat 16 n.id) else if n.kind = 3 then s.reqEngine (BitVec.ofNat 16 n.id) else none

/-- The region's ACLK is changing under DVFS. -/
def State.relocking (s : State) (r : Nat) : Bool := (s.regPwr r).target.isSome

/-- No verdict for a node whose scope is under reset, or whose region is changing ACLK (R417). -/
def State.exempt (s : State) (n : Node) : Bool :=
  match n.ctx, s.nodeUnit n with
  | some c, _ => s.underReset (.ctx (Fin.ofNat 4096 c)) || s.relocking (s.ctx c).region
  | none, some u => s.underReset (.unit u) || (decide (unitKind u < 2) && s.relocking (unitIdx u / 32))
  | none, none => s.underReset (.part 9)

/-! ### Wait hangs (R415) -/

/-- The shortest way back to `goal` along the edges, breadth first; each path holds its last node first. -/
def wayBack (edges : Node → List Node) (goal : Node) : Nat → List (List Node) → List Node → Option (List Node)
  | 0, _, _ => none
  | k + 1, paths, seen =>
    match paths.find? fun p => match p with | n :: _ => (edges n).contains goal | [] => false with
    | some p => some p.reverse
    | none =>
      let (next, seen) := paths.foldl (fun (a : List (List Node) × List Node) p =>
        match p with
        | n :: _ => (edges n).foldl (fun a m => if a.2.contains m then a else (a.1 ++ [m :: p], m :: a.2)) a
        | [] => a) (([] : List (List Node)), seen)
      if next.isEmpty then none else wayBack edges goal k next seen

/-- A cycle among `nodes`: the first node that lies on one, with its shortest way back (log entry 52). -/
def cycleOf (nodes : List Node) (edges : Node → List Node) : Option (List Node) :=
  nodes.findSome? fun n => wayBack (fun m => (edges m).filter nodes.contains) n nodes.length [[n]] [n]

/-- Glaze fires on a verdict (R427). -/
def State.verdictGlaze (code : U16) (s : State) : State := if s.dbg.treacleEn then s.glaze 2 (code.setWidth 32) else s

/-- The context of a cycle that is acted on next: the last in the order of R289 of those not acted on yet. -/
def State.victim (s : State) (cyc done : List Node) : Option Nat :=
  leastBy (fun a b => s.earlier b a) ((cyc.filterMap Node.ctx).filter fun c => !(done.any fun d => d.ctx == some c))

/-- A wait hang: Glaze fires and the registers name the cycle; a context takes a CXR, whose CAUSE the spec does not state (log entry 53); a cycle of
engines alone takes ENRs. -/
def State.actOnCycle (cyc done : List Node) (s : State) : State :=
  let s := s.verdictGlaze rasWaitCycle
  let s := s.noteCode rasWaitCycle
  let name (id : Nat) (s : State) : State := s.updTrc fun t =>
    { t with cycles := satAdd t.cycles 1, kind := 1, members := BitVec.ofNat 8 (satN 8 cyc.length), acted := BitVec.ofNat 16 id, list := cyc.take 16 }
  if (cyc.filterMap Node.ctx).isEmpty then
    let units := (cyc.filterMap s.nodeUnit).foldl (fun l u => if l.contains u then l else l ++ [u]) []
    let s := name ((units.headD 0).toNat) s
    let s := s.updTrc fun t => { t with lastCyc := cyc, actedOn := [], since := 0 }
    units.foldl (fun s u => s.unitEvent u 2 true rasWaitCycle) s
  else
    match s.victim cyc done with
    | some c =>
      let s := name c s
      let s := s.updTrc fun t => { t with lastCyc := cyc, actedOn := { kind := 0, id := c } :: done, since := 0 }
      let cause := (Config.freeWord s.tag).toNat % 16
      s.burn.cxr c cause rasWaitCycle 0 0
    | none => s.updTrc fun t => { t with lastCyc := cyc, since := 0 }

/-- The cycle of this check: a new one is acted on; one that is still there is acted on again two checks after the action. -/
def State.judgeCycle (found : Option (List Node)) (s : State) : State :=
  match found with
  | none => s.updTrc fun t => { t with lastCyc := [], actedOn := [], since := 0 }
  | some cyc =>
    if cyc ≠ s.trc.lastCyc then s.actOnCycle cyc []
    else if s.trc.since + 1 < 2 then s.updTrc fun t => { t with since := t.since + 1 }
    else s.actOnCycle cyc s.trc.actedOn

/-! ### Stalls (R416) -/

/-- The Millefeuille of a region stands under its lowest mapped tile (log entry 54). -/
def State.gauUnit (s : State) (r : Nat) : U16 := mkUnit 1 (r * 32 + (mapped (s.region r).gau.tileMap).headD 0)

/-- The units that hold work, each with its stall limit in µs. A channel's requests are queued while it is reset; an association runs within one command
(log entry 97). -/
def State.workers (s : State) : List (U16 × Nat) :=
  ((List.range 8).flatMap fun r =>
      ((List.range 18).filter fun i => (s.core r i).running.isSome || (s.vec r i).running.isSome).map (fun i => (mkUnit 0 (r * 32 + i), 1000))
        ++ (if (s.region r).gau.running.isSome then [(s.gauUnit r, 1000)] else []))
    ++ ((List.range 9).filter fun e => (s.deng e).pix.isSome || (s.deng e).parsing.isSome).map (fun e => (mkUnit 2 e, 20000))
    ++ ((List.range 5).filter fun e => (s.eeng e).job.isSome).map (fun e => (mkUnit 3 e, 50000))
    ++ ((List.range 24).filter fun k => !(s.chan k).held.isEmpty).map (fun k => (mkUnit 5 k, 100))
    ++ (List.range 4).filterMap fun e => (s.cseEng e).running.map fun j =>
        (mkUnit 4 e, cdiv (4 * (2000 + cdiv (j.ow.toNat * j.oh.toNat * j.boxes.toNat) 4)) 1000 + 1000)

/-- The clock of a unit is stopped under R168. -/
def State.clockStopped (s : State) (u : U16) : Bool := decide (unitKind u < 2) && s.aclkStopped (unitIdx u / 32)

/-- The history of a unit after this check: its progress, and the checks that have found it at work and unchanged with its clock running. -/
def State.history (s : State) (u : U16) : U16 × Nat × Nat :=
  let p := s.unitProgress u
  match s.trc.units.find? fun h => h.1 == u with
  | some h => (u, p, if h.2.1 = p then (if s.clockStopped u then h.2.2 else h.2.2 + 1) else 0)
  | none => (u, p, 0)

/-- A stalled unit: Glaze fires, and it counts class 2 and takes an ENR. -/
def State.stall (u : U16) (s : State) : State :=
  let s := (s.verdictGlaze rasStall).noteCode rasStall
  let s := s.updTrc fun t => { t with stalls := satAdd t.stalls 1, kind := 2, acted := u, units := t.units.filter fun h => !(h.1 == u) }
  s.unitEvent u 2 true rasStall

/-- TREACLE_CHECK, 1 ms after the one before. Where R417 allows no verdict, histories stay. -/
def execTreacleCheck (s : State) : Host.Outcome State Fault Refusal :=
  .next <|
    if !s.ras.inService then s
    else
      let s := s.updTrc fun t => { t with checks := t.checks + 1 }
      if s.isFrozen || s.dev.state == .parked || s.pwr.pstate == .nap || s.pwr.pstate == .slumber then s
      else
        let all := s.waitNodes
        let live := all.filter fun n => !s.exempt n
        let stuck := live.filter fun n => s.trc.nodes.contains (n, s.nodeProgress n)
        let found := cycleOf stuck s.edgesOf
        let kept := s.trc.nodes.filter fun h => s.exempt h.1
        let work := s.workers.filter fun w => !s.exempt { kind := 1, id := w.1.toNat }
        let hist := work.map fun w => s.history w.1
        let keptU := s.trc.units.filter fun h => s.exempt { kind := 1, id := h.1.toNat }
        let stalled := ((work.zip hist).filter fun x => decide (x.1.2 ≤ 1000 * x.2.2.2)).map fun x => x.1.1
        let s := s.updTrc fun t => { t with nodes := kept ++ live.map (fun n => (n, s.nodeProgress n)), units := keptU ++ hist }
        let s := s.judgeCycle found
        (stalled.foldl (fun s u => s.stall u) s).afterClose

/-! ### SNAP#, Crumb and dumps (R427 to R431, R466) -/

/-- SNAP_PIN: edges closer than 1 µs fire once. The edge wakes the device. In Off it is ignored. -/
def execSnapPin (s : State) : Host.Outcome State Fault Refusal :=
  .next <|
    let now := s.now
    let close := match s.wires.snapAt with | some t => decide (now - t < 1000) | none => false
    if !s.wires.ready || s.pwr.pstate == .off || close then s
    else
      let s := (s.updWires fun w => { w with snapAt := some now }).awake
      if s.dbg.pinEn then s.glaze 1 0 else s

/-- CRUMB_TIMEOUT: the block of that base is not captured. -/
def execCrumbTimeout (base : U32) (s : State) : Host.Outcome State Fault Refusal :=
  .next <|
    if !(blocks.any fun b => b.1 == base.toNat) || base.toNat = aonBase then s
    else
      s.updDbg fun g =>
        { g with current := g.current.map fun d => { d with missed := if d.missed.contains base.toNat then d.missed else d.missed ++ [base.toNat] } }

/-- The newest `n` of a list that grows at its end. -/
def newest (n : Nat) (l : List Dump) : List Dump := l.drop (l.length - n)

/-- A BAR0 offset of the AON block, whose registers are read live at collection (R427). -/
def inAon (o : Nat) : Bool := decide (aonBase ≤ o)

/-- DUMP_COMPLETE: the dump joins the dump SRAM, and the DRAM region where every DMC serves and no CHR is pending. A CHR that waited goes on. -/
def execDumpComplete (s : State) : Host.Outcome State Fault Refusal :=
  .next <|
    match s.dbg.current with
    | none => s
    | some d =>
      let dram := s.dumpsToDram
      let d := { d with image := d.image.filter (fun w => !(inAon w.1)) ++ s.image.filter fun w => inAon w.1 }
      let s := s.updDbg fun g =>
        let kept := if dram then newest 255 (g.dram ++ [d]) else g.dram
        { g with
          current := none, sram := newest 2 (g.sram ++ [d])
          dram := kept, dramDumps := if dram then kept.length else g.dramDumps
          lastId := d.id, lastMissed := BitVec.ofNat 16 d.missed.length, lastKib := BitVec.ofNat 16 (cdiv dumpLength 1024) }
      let s := s.attention 6 0 0 0
      if s.atRest && s.underReset .chip then s.bootRom else s

/-! ### Detected errors (R399 to R406, R418) -/

/-- A die-link lane: a lasting fault brings in its group's spare (R405). -/
def State.laneError (u : U16) (k : Nat) (s : State) : State :=
  let (s, lasting) := s.countError u k
  if lasting then s.failLane (unitKind u - 6) (u.getLsbD 11) (u.toNat % 2048) k else s

/-- An error in the state of a unit: an uncorrectable one and a hang take its ENR, correctable ones and stragglers only count. A supply dip belongs to no unit. -/
def State.unitError (u : U16) (k : Nat) (s : State) : State :=
  if unitKind u = 6 || unitKind u = 7 then s.laneError u k
  else if !unitPresent u || k = 3 then s
  else s.unitEvent u k (k = 1 || k = 2) (classCode k)

/-- The correction of a single-bit error on a read of a running pass: one on a feed read costs an invalid step, one on a partial-sum read a hold cycle (R166; log
entry 111). -/
def State.countHold (u : U16) (d : U32) (feed : Bool) (s : State) : State :=
  if unitKind u = 0 then
    s.updCore (unitIdx u / 32) (unitIdx u % 32) fun x =>
      if x.running.isNone then x
      else if rowStruct d = 0 && feed then { x with bubbles := satAdd x.bubbles 1 }
      else if rowStruct d = 1 then { x with holds := satAdd x.holds 1 }
      else x
  else s

/-- The error of an SRAM row counts against its unit, where it has one; scratchpads and region buffers hold data, so that their uncorrectable errors poison
it and reset nothing (R418). -/
def State.sramError (u : U16) (d : U32) (unc feed : Bool) (s : State) : State :=
  let s := if unc then s else s.countHold u d feed
  if !unc && s.rowBad u d then s
  else
    let k := bit unc
    let (s, bad) := s.rowError u d unc
    let s := if bad then s.rowFault u d k else s
    if unitPresent u then s.unitEvent u k (unc && rowStruct d != 0) (classCode k) else if unc then s.freeze else s

/-- A track context that came back poisoned is freed, and its KV pages return. -/
def State.loseTrack (i : Nat) (s : State) : State :=
  match tfind s.tke.tracks i with
  | none => s
  | some t =>
    let s := if t.tstate = 2 then s.leaveZone t.zone i else s
    let s := s.updTke fun k => { k with stepping := k.stepping.map fun x => (x.1, x.2.filter fun j => !(j == i)) }
    ((s.tvec i).pages.foldl (fun s h => s.freeBuf h) s).freeFrom i t.tstate

/-- ERROR_EVENT. -/
def execErrorEvent (e : ErrEvent) (s : State) : Host.Outcome State Fault Refusal :=
  .next <|
    if s.atRest || s.pwr.pstate == .off then s
    else
      let s := match e with
        | .unit u cls => s.unitError u cls.val
        | .sram u d unc feed => s.sramError u d unc feed
        | .data u => if unitPresent u then s.unitEvent u 1 false (classCode 1) else s
        | .context c cause code layer tile => if errOk e then s.cxr c.val cause.val code layer.toNat tile.toNat else s
        | .region r => s.startReset (.part (Fin.ofNat 10 r.val)) 0x0511 false
        | .media => s.startReset (.part 8) 0x0511 false
        | .hostBlock => s.startReset (.part 9) 0x0511 false
        | .hub => s.chr 0x0511
        | .lane l dir lane => s.failLane l.val dir lane.val 0
        | .track i => s.loseTrack i.val
        | .vecRead r i lane poison addr =>
          match (s.vec r.val i.val).running with
          | some v => if s.aclkStopped r.val then s else s.laneFault r.val i.val v (if poison then 2 else 3) lane.toNat addr.val
          | none => s
        | .clipWrite n => s.endSession n.val 6
        | .poisonedTlp => (s.countPoison none).freeze
      s.afterClose

/-! ### The attention button (R388, R466) -/

/-- ATTENTION_BUTTON: a press asks for removal; a second one within 5 s, before POWER_OFF is written, cancels it. Off and PARKED ignore it. -/
def execAttentionButton (s : State) : Host.Outcome State Fault Refusal :=
  .next <|
    if !s.wires.ready || s.pwr.pstate == .off || s.dev.state == .parked then s
    else
      let s := s.awake
      let now := s.now
      let second := match s.dev.pressAt with | some t => decide (now - t ≤ 5000000000) && !s.dev.powerOff | none => false
      if second then
        (s.updDev fun d => { d with cancelled := true, pressAt := none }).record none 0x12 0 (deviceEvent 5 0x051E 0 0)
      else (s.updDev fun d => { d with button := true, pressAt := some now }).attention 5 0x051D 0 0

end Sys2Proof.Machine
end

