-- ==== Sys2Proof/Machine/Smbus.lean ====
section
/-! DEFINITION. The SMBus target of the AON (R392, R393, R470). -/

namespace Sys2Proof.Machine

/-- The target responds: the auxiliary supply is there and the straps have been sampled (R463). -/
def State.smbusOn (s : State) : Bool := s.wires.vaux3 && s.wires.kclk

/-- CRC-8 with the polynomial x^8 + x^2 + x + 1 after one more byte: that of the packet error code of SMBus 3.0 (PRESUMED, log entry 131). -/
def crc8Byte (c b : Byte) : Byte := (List.range 8).foldl (fun (c : Byte) _ => if c.msb then (c <<< 1) ^^^ 0x07 else c <<< 1) (c ^^^ b)

/-- The packet error code of a transaction's bytes. -/
def pecOf (bs : List Byte) : Byte := bs.foldl crc8Byte 0

/-- The address byte of a write to the target; that of a read has bit 0 set. The straps give its low bits (R470). -/
def State.smbusAddr (s : State) : Byte := BitVec.ofNat 8 (2 * (0x58 + 2 * bit s.wires.addr1 + bit s.wires.addr0))

/-- A read of `n` bytes by a command: all ones in Off for a value that only the device proper can provide; with its packet error code. -/
def State.smbusRead (cmd : Byte) (n : Nat) (offToo : Bool) (v : Nat) (s : State) : State :=
  if !s.smbusOn then s
  else
    let v := if s.pwr.pstate == .off && !offToo then 2 ^ (8 * n) - 1 else v % 2 ^ (8 * n)
    s.send (.smbus n v (pecOf ([s.smbusAddr, cmd, s.smbusAddr ||| 1] ++ le n v)))

/-- SMBUS_DEV_STATE. In Off there is no DEV_STATE, so that the word reads all ones (log entry 55). -/
def execSmbusDevState (s : State) : Host.Outcome State Fault Refusal := .next (s.smbusRead 0x01 2 false (256 * s.dev.state.code + s.ep.epoch.toNat))

/-- SMBUS_TJ. -/
def execSmbusTj (s : State) : Host.Outcome State Fault Refusal :=
  .next (s.smbusRead 0x02 1 false (hottest [(s.die 0).tj, (s.die 1).tj, (s.die 2).tj]).toNat)

/-- SMBUS_INPUT_POWER. -/
def execSmbusInputPower (s : State) : Host.Outcome State Fault Refusal := .next (s.smbusRead 0x03 2 false (satN 16 (s.pwr.average / 100)))

/-- SMBUS_INPUT_VOLTS, which the AON itself compares. -/
def execSmbusInputVolts (s : State) : Host.Outcome State Fault Refusal := .next (s.smbusRead 0x04 2 true s.aon.v12.toNat)

/-- SMBUS_PWC_CAUSE. -/
def execSmbusPwcCause (s : State) : Host.Outcome State Fault Refusal := .next (s.smbusRead 0x05 1 true s.aon.pwcCause.toNat)

/-- SMBUS_CART_LIFE. -/
def execSmbusCartLife (s : State) : Host.Outcome State Fault Refusal := .next (s.smbusRead 0x06 2 false s.crt.life)

/-- SMBUS_ATTN_PENDING. -/
def execSmbusAttnPending (s : State) : Host.Outcome State Fault Refusal := .next (s.smbusRead 0x07 1 false s.hif.attn.toNat)

/-- The packet error code that a Write Byte appends is right, or there is none. -/
def State.pecOk (s : State) (cmd : Byte) (w : SmbusWrite) : Bool :=
  match w.pec with
  | some p => p == pecOf [s.smbusAddr, cmd, w.data]
  | none => true

/-- SMBUS_PWC_ACK: 0xA5 releases PWR_CYCLE_REQ#; any other value does nothing, and neither does a write with a wrong packet error code (log entry 131). -/
def execSmbusPwcAck (w : SmbusWrite) (s : State) : Host.Outcome State Fault Refusal :=
  .next <| if s.smbusOn && w.data == 0xA5 && s.pecOk 0x10 w then s.updAon fun a => { a with pwcReq := false } else s

/-- SMBUS_TIMEOUT: the transaction is abandoned. One that has not come to its end has had no effect (log entry 56). -/
def execSmbusTimeout (s : State) : Host.Outcome State Fault Refusal := .next s

end Sys2Proof.Machine
end

