-- ==== Sys2Proof/Machine/Jtag.lean ====
section
/-! DEFINITION. The test access port (R471, R465, R466). A command that loads an instruction stands for a scan with TRST# released (log entry 57). -/

namespace Sys2Proof.Machine

/-- EXTEST, CLAMP and HIGHZ act: PERST# is asserted and VIN12 lies in its operating range (R462). -/
def State.jtagActs (s : State) : Bool := s.wires.perst && decide (11200 ≤ s.wires.vin12.toNat ∧ s.wires.vin12.toNat ≤ 13200)

/-- The boundary register drives the balls. -/
def State.jtagDrives (s : State) : Bool := (s.jtag.ir == .extest || s.jtag.ir == .clamp) && s.jtagActs

/-- The balls float. -/
def State.jtagFloats (s : State) : Bool := s.jtag.ir == .highz && s.jtagActs

/-- IDCODE: version 1, part 0x5120, maker code 0x3A7. -/
def idcodeWord : U32 := 0x1512074F

/-- The bits of a word, least significant first. -/
def wordBits (w : U32) (n : Nat) : List Bool := (List.range n).map w.getLsbD

/-- The levels of the 25 balls that the boundary register covers, in the order of R459: 13 of the cartridge, 12 of the sideband (log entry 57). The model knows
CART_PRES#, the address straps, PWR_CYCLE_REQ#, PRSNT0# and PRSNT1#, which are tied to GND, and the cartridge lines, which are held low while CART_VCC is off
(R469); every other level is a free value. -/
def State.balls (s : State) : List Bool :=
  let w := Config.freeWord s.tag
  let known (i : Nat) : Option Bool :=
    match i with
    | 12 => some s.crt.cart.isNone
    | 15 => some s.wires.addr0
    | 16 => some s.wires.addr1
    | 17 => some (!s.aon.pwcReq)
    | 20 | 21 => some false
    | _ => if i < 12 && !s.wires.cartVcc then some false else none
  (List.range 25).map fun i => (known i).getD (w.getLsbD i)

/-- The TAP takes an instruction and shifts `bits` out. The sideband and JTAG balls live on the auxiliary supply. -/
def State.loadIr (ir : JtagIr) (bits : List Bool) (s : State) : State :=
  if !s.wires.vaux3 then s else (s.updJtag fun j => { j with held := false, ir := ir }).send (.tdo bits)

/-- BYPASS, and every other code: a register of one bit, which captures 0 (log entry 57). -/
def execBypass (s : State) : Host.Outcome State Fault Refusal := .next (s.loadIr .bypass [false])

/-- IDCODE. -/
def execIdcode (s : State) : Host.Outcome State Fault Refusal := .next (s.loadIr .idcode (wordBits idcodeWord 32))

/-- SAMPLE/PRELOAD. -/
def execSamplePreload (s : State) : Host.Outcome State Fault Refusal :=
  .next <|
    if !s.wires.vaux3 then s
    else
      let b := s.balls
      (s.burn.updJtag fun j => { j with boundary := b }).loadIr .sample b

/-- EXTEST: the boundary register drives the balls, CART_VCC apart. -/
def execExtest (s : State) : Host.Outcome State Fault Refusal := .next (s.loadIr .extest (if s.jtagActs then s.jtag.boundary else [false]))

/-- CLAMP: the balls are driven, and the bypass register is selected. -/
def execClamp (s : State) : Host.Outcome State Fault Refusal := .next (s.loadIr .clamp [false])

/-- HIGHZ. -/
def execHighz (s : State) : Host.Outcome State Fault Refusal := .next (s.loadIr .highz [false])

/-- TRST_ASSERT: the TAP is held in reset, with IDCODE in force (log entry 57). -/
def execTrstAssert (s : State) : Host.Outcome State Fault Refusal := .next (s.updJtag fun j => { j with held := true, ir := .idcode })

end Sys2Proof.Machine
end

