-- ==== Sys2Proof/Machine/Dispatch.lean ====
section
/-! DEFINITION. What each command does: one arm per row of spec/opcode_table.json, each a call of the meaning named for it. -/

namespace Sys2Proof.Machine

def exec (i : Instr) (s : State) : Host.Outcome State Fault Refusal :=
  match i with
  | .hifCmdPut v => Sys2Proof.Machine.execHifCmdPut v s
  | .commandFetch => Sys2Proof.Machine.execCommandFetch s
  | .queryDevice c => Sys2Proof.Machine.execQueryDevice c s
  | .queryAttention c => Sys2Proof.Machine.execQueryAttention c s
  | .queryRefusal c => Sys2Proof.Machine.execQueryRefusal c s
  | .querySlot c => Sys2Proof.Machine.execQuerySlot c s
  | .queryTime c => Sys2Proof.Machine.execQueryTime c s
  | .queryAdmission c => Sys2Proof.Machine.execQueryAdmission c s
  | .unknownOpcode op c => Sys2Proof.Machine.execUnknownOpcode op c s
  | .lostCommand poisoned => Sys2Proof.Machine.execLostCommand poisoned s
  | .streamOpen c => Sys2Proof.Machine.execStreamOpen c s
  | .streamClose c => Sys2Proof.Machine.execStreamClose c s
  | .clipStart c => Sys2Proof.Machine.execClipStart c s
  | .clipStop c => Sys2Proof.Machine.execClipStop c s
  | .keyPicture c => Sys2Proof.Machine.execKeyPicture c s
  | .snapshot c => Sys2Proof.Machine.execSnapshot c s
  | .dumpRead c => Sys2Proof.Machine.execDumpRead c s
  | .setLatTol c => Sys2Proof.Machine.execSetLatTol c s
  | .resetReq c => Sys2Proof.Machine.execResetReq c s
  | .releaseFreeze c => Sys2Proof.Machine.execReleaseFreeze c s
  | .calibrate c => Sys2Proof.Machine.execCalibrate c s
  | .flush c => Sys2Proof.Machine.execFlush c s
  | .discardAdapter c => Sys2Proof.Machine.execDiscardAdapter c s
  | .prepareRemoval c => Sys2Proof.Machine.execPrepareRemoval c s
  | .decSlotPut slot v => Sys2Proof.Machine.execDecSlotPut slot v s
  | .pullFetch slot => Sys2Proof.Machine.execPullFetch slot s
  | .pullCompletion slot data poisoned => Sys2Proof.Machine.execPullCompletion slot data poisoned s
  | .getMirror slot => Sys2Proof.Machine.execGetMirror slot s
  | .entropyParse e => Sys2Proof.Machine.execEntropyParse e s
  | .parseDone e info => Sys2Proof.Machine.execParseDone e info s
  | .pixelError e poisonRead => Sys2Proof.Machine.execPixelError e poisonRead s
  | .pictureCommit e d => Sys2Proof.Machine.execPictureCommit e d s
  | .decNoKey slot => Sys2Proof.Machine.execDecNoKey slot s
  | .encodeStart e => Sys2Proof.Machine.execEncodeStart e s
  | .encodeDone e coded => Sys2Proof.Machine.execEncodeDone e coded s
  | .clipHoldExpiry n => Sys2Proof.Machine.execClipHoldExpiry n s
  | .encSessGet n v => Sys2Proof.Machine.execEncSessGet n v s
  | .cseJobSubmit e job => Sys2Proof.Machine.execCseJobSubmit e job s
  | .cseJobDone e => Sys2Proof.Machine.execCseJobDone e s
  | .passCommit r core => Sys2Proof.Machine.execPassCommit r core s
  | .passAbort r u cause => Sys2Proof.Machine.execPassAbort r u cause s
  | .gauPassCommit r => Sys2Proof.Machine.execGauPassCommit r s
  | .vecDescriptorCommit r core => Sys2Proof.Machine.execVecDescriptorCommit r core s
  | .fetch r wc slot => Sys2Proof.Machine.execFetch r wc slot s
  | .claim r wc slot tile => Sys2Proof.Machine.execClaim r wc slot tile s
  | .done r wc slot tile => Sys2Proof.Machine.execDone r wc slot tile s
  | .stragglerCheck r => Sys2Proof.Machine.execStragglerCheck r s
  | .crustRowTransfer r slot => Sys2Proof.Machine.execCrustRowTransfer r slot s
  | .batchClose ctx => Sys2Proof.Machine.execBatchClose ctx s
  | .swapComplete r gau => Sys2Proof.Machine.execSwapComplete r gau s
  | .synSignal obj n => Sys2Proof.Machine.execSynSignal obj n s
  | .synWait w obj v => Sys2Proof.Machine.execSynWait w obj v s
  | .synReset obj v => Sys2Proof.Machine.execSynReset obj v s
  | .alloc req pool => Sys2Proof.Machine.execAlloc req pool s
  | .try_ req pool => Sys2Proof.Machine.execTry req pool s
  | .share req h holder owner => Sys2Proof.Machine.execShare req h holder owner s
  | .release req h => Sys2Proof.Machine.execRelease req h s
  | .free req h => Sys2Proof.Machine.execFree req h s
  | .bufferAccess req h offset size natural write => Sys2Proof.Machine.execBufferAccess req h offset size natural write s
  | .association pipe list => Sys2Proof.Machine.execAssociation pipe list s
  | .trackerStepCommit slot updates => Sys2Proof.Machine.execTrackerStepCommit slot updates s
  | .handoffEntry ring => Sys2Proof.Machine.execHandoffEntry ring s
  | .dormancyExpiry track => Sys2Proof.Machine.execDormancyExpiry track s
  | .tickStart events => Sys2Proof.Machine.execTickStart events s
  | .hifRplGet v => Sys2Proof.Machine.execHifRplGet v s
  | .hifMdGet ring v => Sys2Proof.Machine.execHifMdGet ring v s
  | .hifHoPut ring v => Sys2Proof.Machine.execHifHoPut ring v s
  | .hifRingCtl v => Sys2Proof.Machine.execHifRingCtl v s
  | .go => Sys2Proof.Machine.execGo s
  | .windowCommitDrained => Sys2Proof.Machine.execWindowCommitDrained s
  | .hifAttn v => Sys2Proof.Machine.execHifAttn v s
  | .unsolicitedReply cls => Sys2Proof.Machine.execUnsolicitedReply cls s
  | .powerOff => Sys2Proof.Machine.execPowerOff s
  | .unpark => Sys2Proof.Machine.execUnpark s
  | .rgnSlotMap r slot v => Sys2Proof.Machine.execRgnSlotMap r slot v s
  | .gauTileMap r tile v => Sys2Proof.Machine.execGauTileMap r tile v s
  | .trainingRun ch v => Sys2Proof.Machine.execTrainingRun ch v s
  | .trainingRunDone ch failMask errors => Sys2Proof.Machine.execTrainingRunDone ch failMask errors s
  | .hifTimeLo => Sys2Proof.Machine.execHifTimeLo s
  | .registerWrite offset v byMgc poisoned => Sys2Proof.Machine.execRegisterWrite offset v byMgc poisoned s
  | .bar0BadAccess write offset size => Sys2Proof.Machine.execBar0BadAccess write offset size s
  | .bar2Write addr data poisoned => Sys2Proof.Machine.execBar2Write addr data poisoned s
  | .bar2Read addr size => Sys2Proof.Machine.execBar2Read addr size s
  | .bar2Resize log2 => Sys2Proof.Machine.execBar2Resize log2 s
  | .bar4Read offset size => Sys2Proof.Machine.execBar4Read offset size s
  | .bar4Write offset => Sys2Proof.Machine.execBar4Write offset s
  | .pmStateChange d3hot => Sys2Proof.Machine.execPmStateChange d3hot s
  | .pmeTurnOff => Sys2Proof.Machine.execPmeTurnOff s
  | .perstAssert => Sys2Proof.Machine.execPerstAssert s
  | .perstDeassert commonClock => Sys2Proof.Machine.execPerstDeassert commonClock s
  | .hotReset => Sys2Proof.Machine.execHotReset s
  | .linkDown => Sys2Proof.Machine.execLinkDown s
  | .linkRetrain width rate => Sys2Proof.Machine.execLinkRetrain width rate s
  | .completionTimeout tag => Sys2Proof.Machine.execCompletionTimeout tag s
  | .lateCompletion tag => Sys2Proof.Machine.execLateCompletion tag s
  | .tagQuarantineExpiry tag => Sys2Proof.Machine.execTagQuarantineExpiry tag s
  | .ptmDialogue => Sys2Proof.Machine.execPtmDialogue s
  | .ptmResponse root => Sys2Proof.Machine.execPtmResponse root s
  | .ptmSyncLoss => Sys2Proof.Machine.execPtmSyncLoss s
  | .msixDelay vector => Sys2Proof.Machine.execMsixDelay vector s
  | .headerCheck u => Sys2Proof.Machine.execHeaderCheck u s
  | .firmwareStart hash => Sys2Proof.Machine.execFirmwareStart hash s
  | .functionReady => Sys2Proof.Machine.execFunctionReady s
  | .dramTrainingDone fail delays pprLeft => Sys2Proof.Machine.execDramTrainingDone fail delays pprLeft s
  | .selfTestDone failed rows ms trained => Sys2Proof.Machine.execSelfTestDone failed rows ms trained s
  | .sectionsLoaded hashes => Sys2Proof.Machine.execSectionsLoaded hashes s
  | .loaderCheck => Sys2Proof.Machine.execLoaderCheck s
  | .chrWatchdogExpiry => Sys2Proof.Machine.execChrWatchdogExpiry s
  | .bootWatchdogExpiry => Sys2Proof.Machine.execBootWatchdogExpiry s
  | .resetComplete scope => Sys2Proof.Machine.execResetComplete scope s
  | .resetOverrun scope => Sys2Proof.Machine.execResetOverrun scope s
  | .cartRemoval => Sys2Proof.Machine.execCartRemoval s
  | .cartInsertion c => Sys2Proof.Machine.execCartInsertion c s
  | .cartInsertChr => Sys2Proof.Machine.execCartInsertChr s
  | .cartridgeWriteComplete ok reclaim => Sys2Proof.Machine.execCartridgeWriteComplete ok reclaim s
  | .lifeRecordTimer => Sys2Proof.Machine.execLifeRecordTimer s
  | .ageAccrual t => Sys2Proof.Machine.execAgeAccrual t s
  | .calTrainDone res => Sys2Proof.Machine.execCalTrainDone res s
  | .calTimeLimit => Sys2Proof.Machine.execCalTimeLimit s
  | .dramRead addr size lo hi => Sys2Proof.Machine.execDramRead addr size lo hi s
  | .dramWrite addr data poisoned lo hi => Sys2Proof.Machine.execDramWrite addr data poisoned lo hi s
  | .refresh ch bank => Sys2Proof.Machine.execRefresh ch bank s
  | .mr4Poll pkg temp => Sys2Proof.Machine.execMr4Poll pkg temp s
  | .patrolScrub ch lo hi => Sys2Proof.Machine.execPatrolScrub ch lo hi s
  | .wck2dqTrack ch delta => Sys2Proof.Machine.execWck2dqTrack ch delta s
  | .dozeEntry => Sys2Proof.Machine.execDozeEntry s
  | .napEntry => Sys2Proof.Machine.execNapEntry s
  | .slumberEntry => Sys2Proof.Machine.execSlumberEntry s
  | .regionNap r => Sys2Proof.Machine.execRegionNap r s
  | .wake c => Sys2Proof.Machine.execWake c s
  | .wakeTimer => Sys2Proof.Machine.execWakeTimer s
  | .wakeComplete => Sys2Proof.Machine.execWakeComplete s
  | .dvfsCheck => Sys2Proof.Machine.execDvfsCheck s
  | .dvfsStepDone r => Sys2Proof.Machine.execDvfsStepDone r s
  | .powerSample mw mv => Sys2Proof.Machine.execPowerSample mw mv s
  | .powerThrottleAttention r => Sys2Proof.Machine.execPowerThrottleAttention r s
  | .supplyDip mv => Sys2Proof.Machine.execSupplyDip mv s
  | .supplyRecover mv => Sys2Proof.Machine.execSupplyRecover mv s
  | .supplyLow mv => Sys2Proof.Machine.execSupplyLow mv s
  | .vaux3Rise => Sys2Proof.Machine.execVaux3Rise s
  | .vaux3Fall => Sys2Proof.Machine.execVaux3Fall s
  | .vin12Rise mv => Sys2Proof.Machine.execVin12Rise mv s
  | .packageReady => Sys2Proof.Machine.execPackageReady s
  | .thermalSample hub cd0 cd1 => Sys2Proof.Machine.execThermalSample hub cd0 cd1 s
  | .thermalStep => Sys2Proof.Machine.execThermalStep s
  | .treacleCheck => Sys2Proof.Machine.execTreacleCheck s
  | .snapPin => Sys2Proof.Machine.execSnapPin s
  | .crumbTimeout base => Sys2Proof.Machine.execCrumbTimeout base s
  | .dumpComplete => Sys2Proof.Machine.execDumpComplete s
  | .errorEvent e => Sys2Proof.Machine.execErrorEvent e s
  | .attentionButton => Sys2Proof.Machine.execAttentionButton s
  | .smbusDevState => Sys2Proof.Machine.execSmbusDevState s
  | .smbusTj => Sys2Proof.Machine.execSmbusTj s
  | .smbusInputPower => Sys2Proof.Machine.execSmbusInputPower s
  | .smbusInputVolts => Sys2Proof.Machine.execSmbusInputVolts s
  | .smbusPwcCause => Sys2Proof.Machine.execSmbusPwcCause s
  | .smbusCartLife => Sys2Proof.Machine.execSmbusCartLife s
  | .smbusAttnPending => Sys2Proof.Machine.execSmbusAttnPending s
  | .smbusPwcAck v => Sys2Proof.Machine.execSmbusPwcAck v s
  | .smbusTimeout => Sys2Proof.Machine.execSmbusTimeout s
  | .bypass => Sys2Proof.Machine.execBypass s
  | .idcode => Sys2Proof.Machine.execIdcode s
  | .samplePreload => Sys2Proof.Machine.execSamplePreload s
  | .extest => Sys2Proof.Machine.execExtest s
  | .clamp => Sys2Proof.Machine.execClamp s
  | .highz => Sys2Proof.Machine.execHighz s
  | .configurationRequest q => Sys2Proof.Machine.execConfigurationRequest q s
  | .kclkLocked addr0 addr1 => Sys2Proof.Machine.execKclkLocked addr0 addr1 s
  | .regionNapWake r => Sys2Proof.Machine.execRegionNapWake r s
  | .trstAssert => Sys2Proof.Machine.execTrstAssert s

end Sys2Proof.Machine
end

