-- ==== Sys2Proof/Safety.lean ====
section
/-! DEFINITION. What a sound state is, the parts of the state, and the parts that each command may touch: the terms that claims use. -/

namespace Sys2Proof.Machine

/-! ### Sound states -/

/-- The four memories of a core have the canonical form. -/
def CoreMem.wf (m : CoreMem) : Bool := m.sp.wf && m.rq.wf && m.psb0.wf && m.psb1.wf

/-- The memories of a region have the canonical form. -/
def RegionMem.wf (m : RegionMem) : Bool := m.rb.wf && m.cores.all fun e => e.2.wf

/-- Device DRAM has the canonical form, and its poison marks rise. -/
def Dram.wf (d : Dram) : Bool := d.mem.wf && rising d.poison

/-- RESET_EPOCH is RESET_COUNT modulo 256 (R423, R456: both advance by one at every reset above CXR, and both are zero at VAUX3). -/
def Epoch.wf (e : Epoch) : Bool := e.epoch == e.count.setWidth 8

/-- A sound state: every memory has the canonical form, and the epoch follows the count. -/
def State.sound (s : State) : Bool := s.dram.wf && (s.rmem.all fun e => e.2.wf) && s.ep.wf

/-! ### The parts of the state -/

/-- The parts of the state. -/
inductive Part where
  /-- The queue of commands. -/
  | pending
  /-- RESET_EPOCH and RESET_COUNT. -/
  | ep
  /-- The rest of the always-on block. -/
  | aon
  /-- Supplies, straps and sideband wires. -/
  | wires
  /-- The test access port. -/
  | jtag
  /-- The fuses of the hub die. -/
  | fuses
  /-- The rings of the host interface. -/
  | hif
  /-- The windows. -/
  | wins
  /-- The link, its configuration space and its transfers. -/
  | link
  /-- Device state, removal, freeze and PTM. -/
  | dev
  /-- The cartridge controller. -/
  | crt
  /-- The CALIBRATE run. -/
  | cal
  /-- The admission in force. -/
  | adm
  /-- Decode engines and stream slots. -/
  | dec
  /-- Encode engines and clip sessions. -/
  | enc
  /-- Crop-and-scale engines. -/
  | cse
  /-- Regions: maps, cores, Millefeuille, work counters. -/
  | rgn
  /-- Vector engines and the memories of the regions. -/
  | rmem
  /-- The dispatcher and the contexts. -/
  | dis
  /-- Sync objects. -/
  | syn
  /-- Buffer pools. -/
  | bpm
  /-- The track engine. -/
  | tke
  /-- DRAM controllers. -/
  | dmc
  /-- Device DRAM and its poison marks. -/
  | dram
  /-- Power. -/
  | pwr
  /-- PLLs. -/
  | clk
  /-- RAS. -/
  | ras
  /-- Treacle. -/
  | trc
  /-- Resets in progress. -/
  | rst
  /-- Glaze and Crumb. -/
  | dbg
  /-- What the device has sent. -/
  | out
  /-- The counter of free values. -/
  | fresh
deriving DecidableEq, Repr

/-- Part `p` is the same in `s` and `t`. -/
def Part.same (p : Part) (s t : State) : Prop :=
  match p with
  | .pending => t.pending = s.pending
  | .ep => t.ep = s.ep
  | .aon => t.aon = s.aon
  | .wires => t.wires = s.wires
  | .jtag => t.jtag = s.jtag
  | .fuses => t.fuses = s.fuses
  | .hif => t.hif = s.hif
  | .wins => t.wins = s.wins
  | .link => t.link = s.link
  | .dev => t.dev = s.dev
  | .crt => t.crt = s.crt
  | .cal => t.cal = s.cal
  | .adm => t.adm = s.adm
  | .dec => t.dec = s.dec
  | .enc => t.enc = s.enc
  | .cse => t.cse = s.cse
  | .rgn => t.rgn = s.rgn
  | .rmem => t.rmem = s.rmem
  | .dis => t.dis = s.dis
  | .syn => t.syn = s.syn
  | .bpm => t.bpm = s.bpm
  | .tke => t.tke = s.tke
  | .dmc => t.dmc = s.dmc
  | .dram => t.dram = s.dram
  | .pwr => t.pwr = s.pwr
  | .clk => t.clk = s.clk
  | .ras => t.ras = s.ras
  | .trc => t.trc = s.trc
  | .rst => t.rst = s.rst
  | .dbg => t.dbg = s.dbg
  | .out => t.out = s.out
  | .fresh => t.fresh = s.fresh

/-- Every part. -/
def Part.all : List Part :=
  [.pending, .ep, .aon, .wires, .jtag, .fuses, .hif, .wins, .link, .dev, .crt, .cal, .adm, .dec, .enc, .cse,
   .rgn, .rmem, .dis, .syn, .bpm, .tke, .dmc, .dram, .pwr, .clk, .ras, .trc, .rst, .dbg, .out, .fresh]

/-- Every part but those of `ps`. -/
def Part.allBut (ps : List Part) : List Part := Part.all.filter fun p => !decide (p ∈ ps)

/-- The parts that the command may touch. Everything else a command leaves as it is. -/
def touches (i : Instr) : List Part :=
  match i with
  | .hifCmdPut _ => Part.allBut [.pending, .ep, .aon, .wires, .jtag, .fuses, .crt, .cal, .adm, .trc, .rst, .dbg]
  | .commandFetch => [.hif, .link, .out]
  | .queryDevice _ => [.hif, .link, .out]
  | .queryAttention _ => [.hif, .link, .out]
  | .queryRefusal _ => [.hif, .link, .out]
  | .querySlot _ => [.hif, .link, .out]
  | .queryTime _ => [.hif, .link, .out]
  | .queryAdmission _ => [.hif, .link, .out]
  | .unknownOpcode _ _ => [.hif, .link, .out]
  | .lostCommand _ => [.hif, .link, .dev, .out]
  | .streamOpen _ => Part.allBut [.pending, .ep, .jtag, .fuses]
  | .streamClose _ => Part.allBut [.pending, .ep, .jtag, .fuses]
  | .clipStart _ => [.hif, .link, .enc, .cse, .dis, .bpm, .out]
  | .clipStop _ => Part.allBut [.pending, .ep, .jtag, .fuses]
  | .keyPicture _ => [.hif, .link, .enc, .out]
  | .snapshot _ => [.aon, .hif, .link, .dbg, .out]
  | .dumpRead _ => [.hif, .link, .dmc, .dbg, .out]
  | .setLatTol _ => [.hif, .link, .pwr, .out]
  | .resetReq _ => Part.allBut [.pending, .jtag, .fuses]
  | .releaseFreeze _ => Part.allBut [.pending, .ep, .aon, .wires, .jtag, .fuses, .wins, .crt, .cal, .adm, .pwr, .clk, .trc, .rst,
     .dbg]
  | .calibrate _ => [.hif, .link, .cal, .out]
  | .flush _ => [.hif, .link, .crt, .out]
  | .discardAdapter _ => [.hif, .link, .crt, .out]
  | .prepareRemoval _ => [.hif, .link, .crt, .out]
  | .decSlotPut _ _ => Part.allBut [.pending, .ep, .aon, .wires, .jtag, .fuses, .crt, .cal, .adm, .trc, .rst, .dbg]
  | .pullFetch _ => [.link, .dec, .out]
  | .pullCompletion _ _ _ => Part.allBut [.pending, .ep, .aon, .wires, .jtag, .fuses, .wins, .crt, .cal, .adm, .trc, .rst, .dbg]
  | .getMirror _ => [.aon, .dec, .out]
  | .entropyParse _ => [.hif, .link, .dev, .dec, .dmc, .ras, .out]
  | .parseDone _ _ => Part.allBut [.pending, .ep, .jtag, .fuses]
  | .pixelError _ _ => [.hif, .link, .dev, .dec, .ras, .out]
  | .pictureCommit _ _ => Part.allBut [.pending, .ep, .jtag, .fuses]
  | .decNoKey _ => [.aon, .hif, .link, .dev, .dec, .ras, .out]
  | .encodeStart _ => [.hif, .link, .dev, .enc, .cse, .dis, .bpm, .ras, .out]
  | .encodeDone _ _ => Part.allBut [.pending, .ep, .jtag, .fuses]
  | .clipHoldExpiry _ => Part.allBut [.pending, .ep, .jtag, .fuses]
  | .encSessGet _ _ => Part.allBut [.pending, .ep, .jtag, .fuses]
  | .cseJobSubmit _ _ => [.cse, .dis]
  | .cseJobDone _ => Part.allBut [.pending, .ep, .aon, .wires, .jtag, .fuses, .wins, .crt, .cal, .adm, .pwr, .clk, .trc, .dbg]
  | .passCommit _ _ => [.hif, .link, .enc, .cse, .rgn, .rmem, .dis, .syn, .bpm, .tke, .dram, .ras, .rst, .out, .fresh]
  | .passAbort _ _ _ => Part.allBut [.pending, .jtag, .fuses]
  | .gauPassCommit _ => [.hif, .link, .enc, .cse, .rgn, .rmem, .dis, .syn, .bpm, .tke, .dram, .ras, .rst, .out, .fresh]
  | .vecDescriptorCommit _ _ => [.hif, .link, .enc, .cse, .rgn, .rmem, .dis, .syn, .bpm, .tke, .dram, .ras, .rst, .out, .fresh]
  | .fetch _ _ _ => [.hif, .link, .enc, .cse, .rgn, .rmem, .dis, .syn, .bpm, .tke, .dram, .out, .fresh]
  | .claim _ _ _ _ => Part.allBut [.pending, .jtag, .fuses]
  | .done _ _ _ _ => [.hif, .link, .enc, .cse, .rgn, .rmem, .dis, .syn, .bpm, .tke, .dram, .out, .fresh]
  | .stragglerCheck _ => [.hif, .link, .enc, .cse, .rgn, .rmem, .dis, .syn, .bpm, .tke, .dram, .out, .fresh]
  | .crustRowTransfer _ _ => [.hif, .link, .enc, .cse, .rgn, .rmem, .dis, .syn, .bpm, .tke, .dram, .out, .fresh]
  | .batchClose _ => [.aon, .rgn, .rmem, .dis, .syn, .out]
  | .swapComplete _ _ => [.hif, .link, .enc, .cse, .rgn, .rmem, .dis, .syn, .bpm, .tke, .dram, .out, .fresh]
  | .synSignal _ _ => [.hif, .link, .dec, .enc, .cse, .rgn, .rmem, .dis, .syn, .bpm, .tke, .dram, .out, .fresh]
  | .synWait _ _ _ => [.rgn, .rmem, .dis, .syn]
  | .synReset _ _ => [.hif, .link, .dec, .enc, .cse, .rgn, .rmem, .dis, .syn, .bpm, .tke, .dram, .out, .fresh]
  | .alloc _ _ => [.hif, .link, .dev, .enc, .cse, .rgn, .rmem, .dis, .syn, .bpm, .tke, .dram, .ras, .rst, .out, .fresh]
  | .try_ _ _ => [.hif, .link, .dev, .enc, .cse, .rgn, .rmem, .dis, .syn, .bpm, .tke, .dram, .ras, .rst, .out, .fresh]
  | .share _ _ _ _ => [.hif, .link, .dev, .enc, .cse, .rgn, .rmem, .dis, .syn, .bpm, .tke, .dram, .ras, .rst, .out, .fresh]
  | .release _ _ => [.hif, .link, .dev, .enc, .cse, .rgn, .rmem, .dis, .syn, .bpm, .tke, .dram, .ras, .rst, .out, .fresh]
  | .free _ _ => [.hif, .link, .dev, .enc, .cse, .rgn, .rmem, .dis, .syn, .bpm, .tke, .dram, .ras, .rst, .out, .fresh]
  | .bufferAccess _ _ _ _ _ _ => Part.allBut [.pending, .ep, .aon, .wires, .jtag, .fuses, .wins, .crt, .cal, .adm, .dec, .pwr,
     .clk, .trc, .dbg]
  | .association _ _ => Part.allBut [.pending, .ep, .aon, .wires, .jtag, .fuses, .wins, .crt, .cal, .adm, .pwr, .clk, .trc, .dbg]
  | .trackerStepCommit _ _ => [.hif, .link, .cal, .dis, .bpm, .tke, .dmc, .dram, .out]
  | .handoffEntry _ => [.hif, .link, .dis, .bpm, .tke, .dmc, .dram, .out]
  | .dormancyExpiry _ => [.aon, .hif, .link, .dis, .bpm, .tke, .out]
  | .tickStart _ => [.aon, .hif, .link, .dec, .enc, .cse, .rgn, .rmem, .dis, .syn, .bpm, .tke, .dram, .out, .fresh]
  | .hifRplGet _ => Part.allBut [.pending, .ep, .aon, .wires, .jtag, .fuses, .crt, .cal, .adm, .trc, .rst, .dbg]
  | .hifMdGet _ _ => Part.allBut [.pending, .ep, .aon, .wires, .jtag, .fuses, .crt, .cal, .adm, .trc, .rst, .dbg]
  | .hifHoPut _ _ => Part.allBut [.pending, .ep, .aon, .wires, .jtag, .fuses, .crt, .cal, .adm, .trc, .rst, .dbg]
  | .hifRingCtl _ => Part.allBut [.pending, .ep, .aon, .wires, .jtag, .fuses, .crt, .cal, .adm, .trc, .rst, .dbg]
  | .go => Part.allBut [.pending, .ep, .aon, .wires, .jtag, .fuses, .dev, .crt, .cal, .adm, .trc, .rst, .dbg]
  | .windowCommitDrained => [.wins, .link, .dev, .dmc, .dram, .out]
  | .hifAttn _ => Part.allBut [.pending, .ep, .aon, .wires, .jtag, .fuses, .crt, .cal, .adm, .trc, .rst, .dbg]
  | .unsolicitedReply _ => [.aon, .hif, .link, .out]
  | .powerOff => Part.allBut [.pending, .ep, .aon, .wires, .jtag, .fuses, .crt, .adm, .trc, .rst, .dbg]
  | .unpark => Part.allBut [.pending, .jtag, .fuses]
  | .rgnSlotMap _ _ _ => [.hif, .link, .enc, .cse, .rgn, .rmem, .dis, .syn, .bpm, .tke, .dram, .out, .fresh]
  | .gauTileMap _ _ _ => [.rgn]
  | .trainingRun _ _ => [.dmc]
  | .trainingRunDone _ _ _ => [.dmc]
  | .hifTimeLo => Part.allBut [.pending, .ep, .aon, .wires, .jtag, .fuses, .crt, .cal, .adm, .trc, .rst, .dbg]
  | .registerWrite _ _ _ _ => Part.allBut [.pending, .jtag, .fuses]
  | .bar0BadAccess _ _ _ => Part.allBut [.pending, .ep, .aon, .wires, .jtag, .fuses, .crt, .cal, .adm, .trc, .rst, .dbg]
  | .bar2Write _ _ _ => Part.allBut [.pending, .ep, .aon, .wires, .jtag, .fuses, .crt, .cal, .adm, .trc, .rst, .dbg]
  | .bar2Read _ _ => Part.allBut [.pending, .ep, .aon, .wires, .jtag, .fuses, .crt, .cal, .adm, .trc, .rst, .dbg]
  | .bar2Resize _ => [.wins, .link]
  | .bar4Read _ _ => Part.allBut [.pending, .ep, .aon, .wires, .jtag, .fuses, .crt, .cal, .adm, .trc, .rst, .dbg]
  | .bar4Write _ => Part.allBut [.pending, .ep, .aon, .wires, .jtag, .fuses, .crt, .cal, .adm, .trc, .rst, .dbg]
  | .pmStateChange _ => Part.allBut [.pending, .ep, .aon, .wires, .jtag, .fuses, .wins, .dev, .crt, .cal, .adm, .trc, .rst, .dbg]
  | .pmeTurnOff => Part.allBut [.pending, .ep, .jtag, .fuses]
  | .perstAssert => Part.allBut [.pending, .jtag, .fuses]
  | .perstDeassert _ => [.aon, .wires, .link, .crt, .clk, .rst, .out]
  | .hotReset => Part.allBut [.pending, .jtag, .fuses]
  | .linkDown => Part.allBut [.pending, .jtag, .fuses]
  | .linkRetrain _ _ => [.hif, .link, .dev, .adm, .dec, .enc, .rgn, .rmem, .dis, .pwr, .clk, .ras, .out, .fresh]
  | .completionTimeout _ => [.aon, .hif, .link, .dev, .dec, .dmc, .ras, .out]
  | .lateCompletion _ => [.link]
  | .tagQuarantineExpiry _ => [.aon, .link]
  | .ptmDialogue => [.out]
  | .ptmResponse _ => [.aon, .dev, .fresh]
  | .ptmSyncLoss => [.aon, .dev]
  | .msixDelay _ => [.aon, .hif, .link, .out]
  | .headerCheck _ => [.aon, .dev, .crt]
  | .firmwareStart _ => [.aon, .dev, .crt]
  | .functionReady => [.crt]
  | .dramTrainingDone _ _ _ => Part.allBut [.pending, .ep, .wires, .jtag, .fuses, .wins, .cal, .dram, .trc, .rst, .fresh]
  | .selfTestDone _ _ _ _ => Part.allBut [.pending, .jtag, .fuses]
  | .sectionsLoaded _ => [.aon, .dev, .crt]
  | .loaderCheck => Part.allBut [.pending, .ep, .wires, .jtag, .fuses, .wins, .cal, .cse, .rmem, .syn, .trc, .dbg]
  | .chrWatchdogExpiry => [.aon, .hif, .link, .dev, .ras, .out]
  | .bootWatchdogExpiry => [.aon, .hif, .link, .dev, .ras, .out]
  | .resetComplete _ => Part.allBut [.pending, .ep, .jtag, .fuses]
  | .resetOverrun _ => Part.allBut [.pending, .jtag, .fuses]
  | .cartRemoval => [.aon, .wires, .hif, .link, .dev, .crt, .cal, .ras, .out]
  | .cartInsertion _ => [.wires, .hif, .link, .dev, .crt, .ras, .out]
  | .cartInsertChr => Part.allBut [.pending, .jtag, .fuses]
  | .cartridgeWriteComplete _ _ => [.hif, .link, .dev, .crt, .cal, .ras, .out]
  | .lifeRecordTimer => [.aon, .crt]
  | .ageAccrual _ => [.aon, .hif, .link, .dev, .crt, .ras, .out]
  | .calTrainDone _ => [.hif, .link, .crt, .cal, .out, .fresh]
  | .calTimeLimit => [.aon, .hif, .link, .cal, .out, .fresh]
  | .dramRead _ _ _ _ => Part.allBut [.pending, .ep, .wires, .jtag, .fuses, .wins, .cal, .trc, .rst]
  | .dramWrite _ _ _ _ _ => Part.allBut [.pending, .ep, .wires, .jtag, .fuses, .wins, .cal, .trc, .rst]
  | .refresh _ _ => [.dmc]
  | .mr4Poll _ _ => [.hif, .link, .dev, .dmc, .ras, .out, .fresh]
  | .patrolScrub _ _ _ => Part.allBut [.pending, .ep, .wires, .jtag, .fuses, .wins, .cal, .trc, .rst, .fresh]
  | .wck2dqTrack _ _ => [.dmc]
  | .dozeEntry => [.pwr]
  | .napEntry => [.aon, .pwr]
  | .slumberEntry => [.aon, .link, .rgn, .rmem, .dis, .dmc, .pwr, .clk, .out, .fresh]
  | .regionNap _ => [.pwr]
  | .wake _ => [.hif, .link, .dec, .enc, .cse, .rgn, .rmem, .dis, .syn, .bpm, .tke, .dram, .pwr, .out, .fresh]
  | .wakeTimer => [.aon, .hif, .link, .dec, .enc, .cse, .rgn, .rmem, .dis, .syn, .bpm, .tke, .dram, .pwr, .out, .fresh]
  | .wakeComplete => Part.allBut [.pending, .ep, .aon, .wires, .jtag, .fuses, .wins, .dev, .crt, .cal, .adm, .trc, .rst, .dbg]
  | .dvfsCheck => [.rgn, .pwr, .clk]
  | .dvfsStepDone _ => Part.allBut [.pending, .jtag, .fuses]
  | .powerSample _ _ => Part.allBut [.pending, .jtag, .fuses]
  | .powerThrottleAttention _ => [.aon, .hif, .link, .dev, .pwr, .ras, .out]
  | .supplyDip _ => [.aon, .wires, .hif, .link, .dev, .rgn, .pwr, .ras, .dbg, .out]
  | .supplyRecover _ => Part.allBut [.pending, .jtag, .fuses]
  | .supplyLow _ => Part.allBut [.pending, .jtag, .fuses]
  | .vaux3Rise => [.aon, .wires, .rst]
  | .vaux3Fall => Part.allBut [.pending, .fuses, .out]
  | .vin12Rise _ => [.aon, .wires]
  | .packageReady => [.aon, .wires, .link, .crt, .clk, .rst, .out]
  | .thermalSample _ _ _ => [.aon, .hif, .link, .dev, .pwr, .ras, .out]
  | .thermalStep => [.hif, .link, .dev, .rgn, .pwr, .clk, .ras, .out]
  | .treacleCheck => Part.allBut [.pending, .jtag, .fuses]
  | .snapPin => Part.allBut [.pending, .ep, .jtag, .fuses, .wins, .dev, .crt, .cal, .adm, .trc, .rst]
  | .crumbTimeout _ => [.dbg]
  | .dumpComplete => [.aon, .wires, .hif, .link, .dev, .crt, .clk, .ras, .rst, .dbg, .out]
  | .errorEvent _ => Part.allBut [.pending, .jtag, .fuses]
  | .attentionButton => Part.allBut [.pending, .ep, .aon, .wires, .jtag, .fuses, .wins, .crt, .cal, .adm, .trc, .rst, .dbg]
  | .smbusDevState => [.out]
  | .smbusTj => [.out]
  | .smbusInputPower => [.out]
  | .smbusInputVolts => [.out]
  | .smbusPwcCause => [.out]
  | .smbusCartLife => [.out]
  | .smbusAttnPending => [.out]
  | .smbusPwcAck _ => [.aon]
  | .smbusTimeout => []
  | .bypass => [.jtag, .out]
  | .idcode => [.jtag, .out]
  | .samplePreload => [.jtag, .out, .fresh]
  | .extest => [.jtag, .out]
  | .clamp => [.jtag, .out]
  | .highz => [.jtag, .out]
  | .configurationRequest _ => Part.allBut [.pending, .ep, .aon, .wires, .jtag, .fuses, .wins, .dev, .crt, .cal, .adm, .trc,
     .rst, .dbg]
  | .kclkLocked _ _ => [.wires, .clk]
  | .regionNapWake _ => [.hif, .link, .enc, .cse, .rgn, .rmem, .dis, .syn, .bpm, .tke, .dram, .pwr, .out, .fresh]
  | .trstAssert => [.jtag]

/-- `t` differs from `s` at most in the parts of `ps`. -/
def State.within (ps : List Part) (s t : State) : Prop := ∀ p, p ∉ ps → p.same s t

end Sys2Proof.Machine
end

