-- ==== Sys2Proof/Certificates/Slice0/Obligations.lean ====
section
/-! DEFINITION. The statements about the machine, each a rule of spec/ or what follows from several; a docstring names the rules, and says where a
clause rests on a choice of the model's own (a log entry of notes/assumptions). -/

namespace Sys2Proof.Machine

/-! ### Words that the statements share -/

/-- The 32 bytes of a reply (R369), with STATUS as in `st` (R370); in REFUSED a reply that would say ST_OK carries the refusal code (R81; log entry 127). -/
def replyEntry (st : State) (tag : U16) (op rflags : Byte) (code : U16) (payload : List Byte) : List Byte :=
  le 4 (st.status (if st.dev.state = .refused ∧ code = 0 then st.dev.refCode else code)).toNat ++ le 2 tag.toNat ++ le 1 op.toNat ++ le 1 rflags.toNat ++ padTo 24 payload

/-- Between `s` and `t` exactly one reply goes into the reply ring: its entry at the ring's PUT, then the mirror, then vector 0 where MSI-X is enabled and
nothing masks it (R366, R369, R381). -/
def RepliedAs (st s t : State) (tag : U16) (op rflags : Byte) (code : U16) (payload : List Byte) : Prop :=
  t.hif.rplPut = s.hif.rplPut + 1 ∧ ∃ after before,
    t.out = after ++ [.hostWrite s.hif.rplMirror (le 8 (s.hif.rplPut + 1).toNat) false false,
      .hostWrite (s.hif.rplBase + BitVec.ofNat 64 (32 * (s.hif.rplPut.toNat % 2 ^ s.hif.rplLog2.toNat))) (replyEntry st tag op rflags code payload)
        s.link.relaxed false] ++ before ++ s.out
    ∧ (s.link.msixEn = true → s.link.msixMaskAll = false → 0 ∉ s.link.msixMask → .msix 0 ∈ after)

/-- The same, with the STATUS that holds afterwards. -/
abbrev Replied (s t : State) (tag : U16) (op rflags : Byte) (code : U16) (payload : List Byte) : Prop :=
  RepliedAs t s t tag op rflags code payload

/-- A served host command: the rings work, the state serves it, and the zero fields of the entry and the bytes of ARGS that the command
leaves unused are zero (R72, R365, R368, R372, R373; log entry 14). -/
def Serves (op : Byte) (served : DevState → Bool) (c : Cmd) (s : State) : Prop :=
  s.ringsWork = true ∧ served s.dev.state = true ∧ c.zeroFrom (argBytes op) = true

end Sys2Proof.Machine

section
open Sys2Proof Sys2Proof.Machine

/-! ### Host commands -/

/-- R374: each QUERY answers its payload, in every device state; R371: QUERY ATTENTION clears exactly the classes it returns. -/
def Obligations.QueriesAnswer : Prop :=
  ∀ (c : Cmd) (s : State), Serves 0x01 anyState c s → argZero c 1 3 = true →
    (arg c 0 1 = 0 → ∃ t, exec (.queryDevice c) s = .next t ∧
      Replied s t c.tag 0x01 0 0x0000
        (le 4 (match s.crt.recipe with | some r => r.header.weondRelease.toNat | none => 0)
          ++ le 4 (match s.crt.recipe with | some r => r.fwVersion.toNat | none => 0)
          ++ le 2 (10 * s.adm.fAdm) ++ le 2 s.pwr.limit ++ le 2 s.openSlots ++ zeros 2 ++ le 8 s.cartId.toNat)) ∧
    (arg c 0 1 = 1 → ∃ t, exec (.queryAttention c) s = .next t ∧ t.hif.attn = 0 ∧
      Replied s t c.tag 0x01 0 0x0000
        (le 1 s.hif.attn.toNat ++ zeros 1 ++ ((List.range 8).flatMap fun k => le 2 (tget 0 s.hif.attnCode k).toNat) ++ zeros 6)) ∧
    (arg c 0 1 = 2 → ∃ t, exec (.queryRefusal c) s = .next t ∧
      Replied s t c.tag 0x01 0 0x0000
        (le 2 s.dev.refCode.toNat ++ le 1 s.dev.refKind.toNat ++ zeros 1 ++ le 4 s.dev.refIndex.toNat ++ le 2 s.dev.refPlan.toNat)) ∧
    (arg c 0 1 = 3 → arg c 4 4 < 512 → ∃ t, exec (.querySlot c) s = .next t ∧
      Replied s t c.tag 0x01 0 0x0000
        (le 4 (s.readDec (0x100000 + 0x40 * arg c 4 4 + 8)).toNat ++ le 4 (s.readDec (0x100000 + 0x40 * arg c 4 4 + 0x10)).toNat
          ++ le 4 (s.slot (arg c 4 4)).get.toNat ++ le 4 (s.slot (arg c 4 4)).put.toNat ++ le 4 (s.lastPicNum (arg c 4 4)).toNat)) ∧
    (arg c 0 1 = 4 → ∃ t, exec (.queryTime c) s = .next t ∧
      Replied s t c.tag 0x01 0 0x0000 (le 8 s.now ++ le 4 s.dev.ptmOffset.toNat ++ le 1 (bit s.dev.synced))) ∧
    (arg c 0 1 = 5 → ∃ t, exec (.queryAdmission c) s = .next t ∧
      Replied s t c.tag 0x01 0 0x0000
        (le 4 s.adm.traffic ++ le 4 s.adm.trafficMax ++ le 4 s.adm.linkUse ++ le 4 s.adm.cseMpix ++ le 4 s.adm.decLoad ++ le 4 s.adm.b11us))

/-- R375 (ST_BAD_OPCODE) and R369 (ST_CMD_LOST with TAG 0 and OPCODE 0xFF): the two commands that are never executed reply at once; a poisoned entry is counted
in RX_POISONED (R385). -/
def Sys2Proof.Machine.LostAndUnknownCommandsReply : Prop :=
  (∀ (op : Byte) (c : Cmd) (s : State), s.ringsWork = true →
    ∃ t, exec (.unknownOpcode op c) s = .next t ∧ Replied s t c.tag op 0 0x0001 []) ∧
  ∀ (poisoned : Bool) (s : State), s.ringsWork = true →
    ∃ t, exec (.lostCommand poisoned) s = .next t ∧ Replied s t 0 0xFF 0 0x0005 (le 4 s.readIndex.toNat) ∧
      t.link.rxPoisoned = if poisoned then satAdd s.link.rxPoisoned 1 else s.link.rxPoisoned

/-- The commands of the table of R372, each with its OPCODE and the states that serve it. -/
def Sys2Proof.Machine.hostCommands (c : Cmd) : List (Instr × Byte × (DevState → Bool)) :=
  [(.queryDevice c, 0x01, anyState), (.queryAttention c, 0x01, anyState), (.queryRefusal c, 0x01, anyState), (.querySlot c, 0x01, anyState),
    (.queryTime c, 0x01, anyState), (.queryAdmission c, 0x01, anyState), (.streamOpen c, 0x02, inService), (.streamClose c, 0x03, inService),
    (.clipStart c, 0x04, inService), (.clipStop c, 0x05, inService), (.keyPicture c, 0x06, inService), (.snapshot c, 0x07, inServiceF),
    (.dumpRead c, 0x08, notParked), (.setLatTol c, 0x09, inService), (.resetReq c, 0x0A, inServiceF), (.releaseFreeze c, 0x0B, fun d => d == .frozen),
    (.calibrate c, 0x0C, inRun), (.flush c, 0x0D, inServiceX), (.discardAdapter c, 0x0D, inServiceX), (.prepareRemoval c, 0x0D, inServiceX)]

/-- R372 and R373: a command in a state that does not serve it replies ST_STATE, and ST_FROZEN in FROZEN, before any argument is looked at; one that its state serves,
with a zero field of the entry, or a byte of ARGS that the command leaves unused (R368; log entry 14), that is not zero, replies ST_BAD_ARG. Nothing but the rings and the link changes. While the rings do not work a command has no effect (log entry 13). -/
def Sys2Proof.Machine.CommandsRefusedByState : Prop :=
  ∀ (c : Cmd) (s : State) (i : Instr) (op : Byte) (served : DevState → Bool), (i, op, served) ∈ hostCommands c →
    (s.ringsWork = false → exec i s = .next s) ∧
    (s.ringsWork = true → served s.dev.state = false →
      ∃ t, exec i s = .next t ∧ s.within [.hif, .link, .out] t ∧
        Replied s t c.tag op 0 (if s.dev.state = .frozen then 0x0006 else 0x0004) []) ∧
    (s.ringsWork = true → served s.dev.state = true → c.zeroFrom (argBytes op) = false →
      ∃ t, exec i s = .next t ∧ s.within [.hif, .link, .out] t ∧ Replied s t c.tag op 0 0x0002 [])

/-- R368, R372, R374 and R61: the 64 bytes of a command ring entry spell the command of their OPCODE, of a QUERY's SUBOP and of a CART_WRITE's operation code, with its
TAG, zero fields and ARGS; an OPCODE outside the table spells the unknown command. -/
def Sys2Proof.Machine.EntriesSpellCommands : Prop :=
  ∀ (c : Cmd), c.args.length = 56 →
    (∀ (i : Instr) (op : Byte) (served : DevState → Bool), (i, op, served) ∈ hostCommands c → op ≠ 0x01 → op ≠ 0x0D → commandOf (entryOf op c) = i) ∧
    (∀ (k : Nat) (i : Instr),
      (k, i) ∈ [(0, Instr.queryDevice c), (1, .queryAttention c), (2, .queryRefusal c), (3, .querySlot c), (4, .queryTime c), (5, .queryAdmission c)] →
      arg c 0 1 = k → commandOf (entryOf 0x01 c) = i) ∧
    (∀ (k : Nat) (i : Instr), (k, i) ∈ [(1, Instr.flush c), (2, .discardAdapter c), (3, .prepareRemoval c)] →
      arg c 0 1 = k → commandOf (entryOf 0x0D c) = i) ∧
    ∀ op : Byte, op = 0 ∨ 0x0D < op.toNat → commandOf (entryOf op c) = .unknownOpcode op c

/-- Commands that are not carried out (R369, R372, R373, R375, R385), and how an entry spells the one it holds (R368). -/
def Obligations.CommandsRefusedOrLost : Prop := LostAndUnknownCommandsReply ∧ CommandsRefusedByState ∧ EntriesSpellCommands

/-- R372 (SET_LAT_TOL), R438: the tolerance is stored, and the reply names the deepest state that it and the contexts allow. -/
def Sys2Proof.Machine.SetLatTolStores : Prop :=
  ∀ (c : Cmd) (s : State), Serves 0x09 inService c s →
    ∃ t, exec (.setLatTol c) s = .next t ∧ t.pwr = { s.pwr with tol := BitVec.ofNat 32 (arg c 0 4) } ∧
      Replied s t c.tag 0x09 0 0x0000 (le 1 (deepestFor t.tEff))

/-- R427, R429, R372 (SNAPSHOT): outside a collection Glaze fires with the command's REASON and the reply names the new dump; during one the strobe is merged and
counted, and the reply names the dump being collected. -/
def Sys2Proof.Machine.SnapshotFires : Prop :=
  ∀ (c : Cmd) (s : State), Serves 0x07 inServiceF c s →
    (s.dbg.current = none → ∃ t d, exec (.snapshot c) s = .next t ∧ t.dbg.current = some d ∧ d.id = s.aon.dumpNext ∧ d.at_ = s.aon.time ∧
      d.trigger = 0 ∧ d.reason = BitVec.ofNat 32 (arg c 0 4) ∧ t.aon = { s.aon with dumpNext := s.aon.dumpNext + 1 } ∧
      Replied s t c.tag 0x07 0 0x0000 (le 4 d.id.toNat)) ∧
    ∀ d, s.dbg.current = some d → ∃ t, exec (.snapshot c) s = .next t ∧ t.dbg = { s.dbg with merged := satAdd s.dbg.merged 1 } ∧ t.aon = s.aon ∧
      Replied s t c.tag 0x07 0 0x0000 (le 4 d.id.toNat)

/-- R372 (DUMP_READ), R433, R385: a dump that is held goes to host memory from the offset, in TLPs that together carry its bytes, with EP where they lie in a poisoned
block of the DRAM region, or, for address 0, is selected for BAR4; the reply gives its length and the number
of blocks not captured. A number that no dump has, or an offset beyond its end, replies ST_NO_DUMP. -/
def Sys2Proof.Machine.DumpReadServes : Prop :=
  ∀ (c : Cmd) (s : State), Serves 0x08 notParked c s → argZero c 4 4 = true → argZero c 20 4 = true → arg c 8 8 % 4096 = 0 →
    (arg c 24 8 ≠ 0 → arg c 16 4 ≤ 16777216) →
    (∀ d, s.findDump (BitVec.ofNat 32 (arg c 0 4)) = some d → arg c 8 8 < dumpLength →
      ∃ t, exec (.dumpRead c) s = .next t ∧ Replied s t c.tag 0x08 0 0x0000 (le 8 dumpLength ++ le 4 d.missed.length) ∧
        (arg c 24 8 = 0 → t.dbg = { s.dbg with bar4 := d.id, bar4Off := BitVec.ofNat 32 (arg c 8 8) }) ∧
        (arg c 24 8 ≠ 0 → t.dbg = s.dbg ∧
          ((s.tlps (arg c 24 8) (d.slice (arg c 8 8) (arg c 16 4))).map (·.2)).flatten = d.slice (arg c 8 8) (arg c 16 4) ∧
          ∀ p ∈ s.tlps (arg c 24 8) (d.slice (arg c 8 8) (arg c 16 4)), p.2.length ≤ 2 ^ s.link.mpsLog2 ∧
            .hostWrite (BitVec.ofNat 64 p.1) p.2 false (s.dumpBad d (arg c 8 8) (p.1 - arg c 24 8) p.2.length) ∈ t.out)) ∧
    (s.findDump (BitVec.ofNat 32 (arg c 0 4)) = none ∨ dumpLength ≤ arg c 8 8 →
      ∃ t, exec (.dumpRead c) s = .next t ∧ t.dbg = s.dbg ∧ Replied s t c.tag 0x08 0 0x0010 [])

/-- SET_LAT_TOL, SNAPSHOT and DUMP_READ (R372, R427, R433, R438). -/
def Obligations.ServiceCommandsAnswer : Prop := SetLatTolStores ∧ SnapshotFires ∧ DumpReadServes

/-- R372 (RESET_REQ), R422, R423: the reply goes out first; then a reset of a scope that no reset in progress holds starts, and RESET_EPOCH and RESET_COUNT advance by
one; a scope that does not exist replies ST_BAD_SCOPE or ST_BAD_ARG and resets nothing. -/
def Sys2Proof.Machine.ResetReqReplies : Prop :=
  ∀ (c : Cmd) (s : State), Serves 0x0A inServiceF c s →
    (∀ scope, resetScope (arg c 0 1) (arg c 1 1) (arg c 2 2) = .ok scope →
      ∃ t, exec (.resetReq c) s = .next t ∧
        (.hostWrite (s.hif.rplBase + BitVec.ofNat 64 (32 * (s.hif.rplPut.toNat % 2 ^ s.hif.rplLog2.toNat))) (replyEntry s c.tag 0x0A 0 0x0000 [])
          s.link.relaxed false ∈ t.out) ∧
        (s.underReset scope = false → t.ep.epoch = s.ep.epoch + 1 ∧ t.ep.count = s.ep.count + 1)) ∧
    ∀ code, resetScope (arg c 0 1) (arg c 1 1) (arg c 2 2) = .error code →
      ∃ t, exec (.resetReq c) s = .next t ∧ t.ep = s.ep ∧ Replied s t c.tag 0x0A 0 code []

/-- R391, R372 (RELEASE_FREEZE): the device returns to the state that the freeze interrupted, and the attention it held back has been raised. -/
def Sys2Proof.Machine.ReleaseFreezeThaws : Prop :=
  ∀ (c : Cmd) (s : State), Serves 0x0B (fun d => d == .frozen) c s → s.dev.thawTo ≠ .frozen →
    ∃ t, exec (.releaseFreeze c) s = .next t ∧ t.dev.state = s.dev.thawTo ∧ t.dev.heldAttn = []

/-- RESET_REQ and RELEASE_FREEZE (R372, R391, R422, R423). -/
def Obligations.ResetAndReleaseReply : Prop := ResetReqReplies ∧ ReleaseFreezeThaws

/-- R216: CALIBRATE with arguments in range starts a run, and replies only when it ends. -/
def Sys2Proof.Machine.CalibrateStarts : Prop :=
  ∀ (c : Cmd) (s : State) (steps tracks limit : Nat), Serves 0x0C inRun c s →
    calArg (arg c 2 2) 100 20000 2000 = some steps → calArg (arg c 4 2) 64 8192 512 = some tracks → calArg (arg c 6 2) 10 1800 900 = some limit →
    argZero c 1 1 = true → (arg c 0 1 = 1 ∧ s.crt.present = true ∧ s.crt.worn = false ∨ arg c 0 1 = 2) → s.cal.running = false →
    ∃ t, exec (.calibrate c) s = .next t ∧
      t.cal = { running := true, tag := c.tag, mode := BitVec.ofNat 8 (arg c 0 1), steps := steps, minTracks := tracks
                deadline := s.now + limit * 1000000000 } ∧
      t.hif.started = s.hif.started ++ [{ opcode := 0x0C, tag := c.tag, key := 0 }] ∧ t.hif.rplPut = s.hif.rplPut

/-- A CART_WRITE command that is carried out: the cartridge of the Recipe in force is present, and the operation byte is the command's. -/
def Sys2Proof.Machine.WritesCart (op : Nat) (c : Cmd) (s : State) : Prop :=
  Serves 0x0D inServiceX c s ∧ arg c 0 1 = op ∧ s.crt.present = true ∧ s.crt.verified = true ∧ s.crt.sameCart = true

/-- R61, R60: FLUSH and PREPARE_REMOVAL end the hold and add a life record that carries the command; DISCARD_ADAPTER adds an empty adapter record. The command stays
started, and the records that were pending stay pending. -/
def Sys2Proof.Machine.CartWritesPend : Prop :=
  ∀ (c : Cmd) (s : State),
    (WritesCart 1 c s → ∃ t p, exec (.flush c) s = .next t ∧ p ∈ t.crt.pend ∧ p.payload = s.lifeRecord ∧ p.cmd = some c.tag ∧ p.holds = false ∧
      t.crt.hold = false ∧ t.crt.pend.length = s.crt.pend.length + 1 ∧ { opcode := 0x0D, tag := c.tag, key := 0 } ∈ t.hif.started) ∧
    (WritesCart 3 c s → ∃ t p, exec (.prepareRemoval c) s = .next t ∧ p ∈ t.crt.pend ∧ p.payload = s.lifeRecord ∧ p.cmd = some c.tag ∧ p.holds = true ∧
      t.crt.hold = false ∧ t.crt.pend.length = s.crt.pend.length + 1 ∧ { opcode := 0x0D, tag := c.tag, key := 0 } ∈ t.hif.started) ∧
    (WritesCart 2 c s → s.crt.worn = false → ∃ t p, exec (.discardAdapter c) s = .next t ∧ p ∈ t.crt.pend ∧ p.payload = .adapter none ∧
      p.cmd = some c.tag ∧ t.crt.hold = false ∧ t.crt.pend.length = s.crt.pend.length + 1 ∧
      { opcode := 0x0D, tag := c.tag, key := 0 } ∈ t.hif.started) ∧
    (WritesCart 2 c s → s.crt.worn = true → ∃ t, exec (.discardAdapter c) s = .next t ∧ Replied s t c.tag 0x0D 0 0x0031 [] ∧
      t.crt.pend.length = s.crt.pend.length)

/-- CALIBRATE and CART_WRITE (R60, R61, R216). -/
def Obligations.CartridgeCommandsStart : Prop := CalibrateStarts ∧ CartWritesPend

/-! ### Stream slots and clip sessions -/

/-- STREAM_OPEN and STREAM_CLOSE are not held up: no earlier one waits, no close is in progress or started, no reservation is left to release, and POWER_OFF is 0
(R84, R85; log entry 127). -/
def Sys2Proof.Machine.StreamTurn (s : State) : Prop := s.dev.powerOff = false ∧ s.hif.streams = [] ∧ s.closing = false ∧ (∀ d ∈ s.hif.started, d.opcode ≠ 0x03) ∧ s.dropReservations = s

/-- R83, R84, R87, R97: in Run, STREAM_OPEN opens a closed slot of the stream-slot table that is admitted (RESERVE, or by re-admission) and whose ring argument fits
its ingest kind: the slot waits for a key picture, its positions, its DPB and its picture count restart, and ST_OK is replied. -/
def Sys2Proof.Machine.StreamOpenOpens : Prop :=
  ∀ (c : Cmd) (s : State) (n : Nat) (e : SlotEntry) (r : Cartridge), Serves 0x02 inService c s → s.dev.state = .run → argZero c 2 6 = true →
    arg c 0 2 = n → n < 512 → StreamTurn s → s.entry n = some e → s.crt.recipe = some r → (s.slot n).state = 0 →
    (e.ingest = 0 → arg c 8 8 = 0) → (e.ingest = 1 → arg c 8 8 % 4096 = 0) →
    (isReserve e = true ∧ n ∈ s.adm.slots ∨ isReserve e = false ∧ ∃ a, s.readmitWith r (insertN n s.adm.slots) = .ok a) →
    ∃ t, exec (.streamOpen c) s = .next t ∧ (t.slot n).state = 1 ∧ (t.slot n).put = 0 ∧ (t.slot n).get = 0 ∧ (t.slot n).fetch = 0 ∧
      (t.slot n).hostRing = BitVec.ofNat 64 (arg c 8 8) ∧ (t.slot n).mirror = BitVec.ofNat 64 (arg c 16 8) ∧ (t.sdec n).dpb = [] ∧
      (t.sdec n).published = 0 ∧ ∃ st, RepliedAs st s t c.tag 0x02 0 0x0000 []

/-- R84, R87: STREAM_OPEN of a slot that is not in the table replies ST_NO_SLOT, and of one that is open ST_SLOT_OPEN; no slot changes. -/
def Sys2Proof.Machine.StreamOpenRefusals : Prop :=
  ∀ (c : Cmd) (s : State) (r : Cartridge), Serves 0x02 inService c s → argZero c 2 6 = true → StreamTurn s → s.crt.recipe = some r →
    (s.entry (arg c 0 2) = none → ∃ t, exec (.streamOpen c) s = .next t ∧ t.dec = s.dec ∧ Replied s t c.tag 0x02 0 0x0035 []) ∧
    ((s.entry (arg c 0 2)).isSome = true → (s.slot (arg c 0 2)).state ≠ 0 →
      ∃ t, exec (.streamOpen c) s = .next t ∧ t.dec = s.dec ∧ Replied s t c.tag 0x02 0 0x0036 [])

/-- STREAM_OPEN (R83, R84, R87, R97). -/
def Obligations.StreamOpens : Prop := StreamOpenOpens ∧ StreamOpenRefusals

/-- R88: STREAM_CLOSE of an open slot discards what no engine has started. With nothing of the slot left in an engine it is CLOSED and ST_OK is replied; else it is in
DRAIN, and the command stays started until it drains. -/
def Obligations.StreamCloseDrains : Prop :=
  ∀ (c : Cmd) (s : State) (n : Nat), Serves 0x03 inService c s → arg c 0 2 = n → n < 512 → StreamTurn s → (s.entry n).isSome = true →
    (s.slot n).state ≠ 0 →
    ((s.discardEntries n).slotBusy n = false → ∃ t, exec (.streamClose c) s = .next t ∧ (t.slot n).state = 0 ∧ (t.sdec n).dpb = [] ∧
      ∃ st, RepliedAs st s t c.tag 0x03 0 0x0000 []) ∧
    ((s.discardEntries n).slotBusy n = true → ∃ t, exec (.streamClose c) s = .next t ∧ (t.slot n).state = 4 ∧
      t.hif.rplPut = s.hif.rplPut ∧ { opcode := 0x03, tag := c.tag, key := n } ∈ t.hif.started)

/-- R129 to R131, R139, R141, R132: CLIP_START within the profile's limits takes a FREE session that a reservation or the admission tests give, fills it from the
arguments and the held pictures, where their size did not change, and replies its number; where it did, the session ends with cause 4; KEY_PICTURE marks the session named; CLIP_STOP moves it to ENDING, or frees it once nothing is left to
write. -/
def Obligations.ClipCommandsRun : Prop :=
  ∀ (c : Cmd) (s : State),
    (∀ n e p k u, Serves 0x04 inService c s → n = arg c 0 2 → s.entry n = some e → (s.slot n).state ≠ 0 → slotFlag e 2 = true → s.profile (arg c 2 1) = some p →
      clipArgsOk c p = true → prerollResized (s.sdec n).held (arg c 3 1) p.rateDiv.toNat = false →
      s.takeSession n e p (arg c 3 1) (if arg c 4 2 = 0 then p.maxPics.toNat else arg c 4 2)
        { addr := BitVec.ofNat 64 (arg c 8 8), log2 := arg c 6 1, mirror := BitVec.ofNat 64 (arg c 16 8) } false = .ok (k, u) →
      ∃ t, exec (.clipStart c) s = .next t ∧ (s.sess k).state = 0 ∧ ((t.sess k).state = 1 ∨ (t.sess k).state = 2) ∧ (t.sess k).slot = n ∧
        (t.sess k).profile = p.profile ∧ (t.sess k).ringAddr = BitVec.ofNat 64 (arg c 8 8) ∧ (t.sess k).ringLog2 = arg c 6 1 ∧
        (t.sess k).put = 0 ∧ (t.sess k).get = 0 ∧
        (t.sess k).queue = (prerollOf (s.sdec n).held (arg c 3 1) p.rateDiv.toNat).map (·.src (decide (1 < p.outDiv.toNat))) ∧
        (∀ i, (p.profile.toNat, i) ∈ s.enc.idle → (t.sess k).reserved = true) ∧ Replied s t c.tag 0x04 0 0x0000 (le 1 k)) ∧
    (∀ n e p k u, Serves 0x04 inService c s → n = arg c 0 2 → s.entry n = some e → (s.slot n).state ≠ 0 → slotFlag e 2 = true → s.profile (arg c 2 1) = some p →
      clipArgsOk c p = true → prerollResized (s.sdec n).held (arg c 3 1) p.rateDiv.toNat = true →
      s.takeSession n e p (arg c 3 1) (if arg c 4 2 = 0 then p.maxPics.toNat else arg c 4 2)
        { addr := BitVec.ofNat 64 (arg c 8 8), log2 := arg c 6 1, mirror := BitVec.ofNat 64 (arg c 16 8) } false = .ok (k, u) →
      ∃ t, exec (.clipStart c) s = .next t ∧ (t.sess k).queue = [] ∧ ((t.sess k).state = 3 ∧ (t.prog k).ending = 4 ∨ (t.sess k).state = 0) ∧
        Replied s t c.tag 0x04 0 0x0000 (le 1 k)) ∧
    (∀ n, Serves 0x06 inService c s → s.sessArg c = some n → ∃ t, exec (.keyPicture c) s = .next t ∧ t.sess n = { s.sess n with wantKey := true } ∧
      (∀ k, k ≠ n → t.sess k = s.sess k) ∧ Replied s t c.tag 0x06 0 0x0000 []) ∧
    (∀ n, Serves 0x05 inService c s → s.dev.powerOff = false → s.sessArg c = some n → ∃ t, exec (.clipStop c) s = .next t ∧ ((t.sess n).state = 3 ∨ (t.sess n).state = 0) ∧
      ∃ st, RepliedAs st s t c.tag 0x05 0 0x0000 [])

/-- R361, R363, R440, R125: a TLP that BAR0 serves finds the device woken and no window commit in progress: in a state in which the BARs answer, a register write or read
has the effect that it has in the state that `taken` gives, in which the device is in Run unless it is switched off (log entry 18). -/
def Sys2Proof.Machine.AccessesWake : Prop :=
  ∀ (s : State) (slot : Fin 512) (n : Fin 64) (ring : Fin 16) (ho : Fin 4) (v : U32), s.mmio = true →
    (s.pwr.pstate ≠ .off → s.taken.pwr.pstate = .run) ∧ s.taken.wins.busy = false ∧ (s.wins.busy = false → s.taken = s.awake) ∧
    ∀ i ∈ [Instr.hifCmdPut v, .decSlotPut slot v, .encSessGet n v, .hifRplGet v, .hifMdGet ring v, .hifHoPut ho v, .hifRingCtl v, .hifAttn v, .hifTimeLo],
      exec i s = exec i s.taken

/-- R86, R90, R95, R98: a PUT of an open slot: one that moves PUT forward within the ring is taken, with the device time of the write; a misaligned one or one that
moves it back leaves PUT and reports DEC_BAD_PUT; a slot that is closed or draining ignores it. -/
def Sys2Proof.Machine.SlotPutMoves : Prop :=
  ∀ (s : State) (n : Fin 512) (v : U32), s.mmio = true → s.pwr.pstate = .run → s.wins.busy = false → s.isFrozen = false →
    ((s.slot n.val).state = 0 ∨ (s.slot n.val).state = 4 → exec (.decSlotPut n v) s = .next s) ∧
    ((s.slot n.val).state ≠ 0 → (s.slot n.val).state ≠ 4 →
      (v.toNat % 32 = 0 → (s.slot n.val).put ≠ v → (v - (s.slot n.val).get).toNat ≤ s.ringBytes n.val →
        ((s.slot n.val).put - (s.slot n.val).get).toNat ≤ (v - (s.slot n.val).get).toNat →
        ∃ t, exec (.decSlotPut n v) s = .next t ∧ (t.slot n.val).put = v ∧ s.within [.hif, .link, .dev, .dec, .ras, .out] t) ∧
      (v.toNat % 32 ≠ 0 ∨ (v - (s.slot n.val).get).toNat ≤ s.ringBytes n.val ∧ (s.slot n.val).put ≠ v ∧
          (v - (s.slot n.val).get).toNat < ((s.slot n.val).put - (s.slot n.val).get).toNat →
        ∃ t, exec (.decSlotPut n v) s = .next t ∧ (t.slot n.val).put = (s.slot n.val).put ∧ (t.slot n.val).lastCode = 0x0402))

/-- Accesses to BAR0 in a power state, and the PUT of a slot (R86, R90, R95, R98, R125, R361, R440). -/
def Obligations.SlotPutsWakeAndMove : Prop := AccessesWake ∧ SlotPutMoves

/-- R96, R382: PULL_FETCH issues one read, within PUT, the ring, the request size and a page of the host, with a free tag while 8 more stay free, and the slot's
requested position moves on; PULL_COMPLETION lands the bytes in the ring, with the poison mark of a poisoned completion. -/
def Sys2Proof.Machine.PullReadsAndLands : Prop :=
  ∀ (s : State) (n : Fin 512),
    (∀ tag, s.freeTag 8 = some tag → s.funcReady = true → s.isFrozen = false → (s.slot n.val).pull = true → (s.slot n.val).state ≠ 0 →
      (s.slot n.val).state ≠ 4 → s.pullLength n.val ≠ 0 →
      ∃ t, exec (.pullFetch n) s = .next t ∧
        t.link = { s.link with reads := s.link.reads ++ [{ tag := tag, use := .pull n.val (s.slot n.val).asked (s.pullLength n.val), at_ := s.now }] } ∧
        t.out = .hostRead tag ((s.slot n.val).hostRing + BitVec.ofNat 64 ((s.slot n.val).asked.toNat % max 1 (s.ringBytes n.val)))
          (s.pullLength n.val) :: s.out ∧
        t.slot n.val = { s.slot n.val with asked := (s.slot n.val).asked + BitVec.ofNat 32 (s.pullLength n.val) }) ∧
    ∀ tag pos len data poisoned, s.pwr.pstate = .run → s.pullRead n.val = some (tag, pos, len) → (s.slot n.val).wants pos = true →
      ∃ t, exec (.pullCompletion n data poisoned) s = .next t ∧
        t.dram.mem = s.dram.mem.writeN (s.ringBase n.val + pos.toNat % max 1 (s.ringBytes n.val)) (padTo len data) ∧
        t.dram.poison = poisonAfter (s.ringBase n.val + pos.toNat % max 1 (s.ringBytes n.val)) (padTo len data).length poisoned s.dram.poison

/-- R97: the GET mirror of an open slot is written with GET (push) or FETCH (pull) when that changed, and R116: DEC_NO_KEY is reported at the time it is due, and is
due again 60 s later. -/
def Sys2Proof.Machine.MirrorAndNoKey : Prop :=
  ∀ (s : State) (n : Fin 512),
    (∀ v, v = (if (s.slot n.val).pull then (s.slot n.val).fetch else (s.slot n.val).get) → s.funcReady = true → s.isFrozen = false →
      (s.slot n.val).state ≠ 0 → (s.slot n.val).mirror ≠ 0 → v ≠ (s.sdec n.val).mirrorVal →
      ∃ t, exec (.getMirror n) s = .next t ∧ t.out = .hostWrite (s.slot n.val).mirror (le 8 v.toNat) false false :: s.out ∧
        (t.sdec n.val).mirrorVal = v ∧ (t.sdec n.val).mirrorAt = some t.now ∧ ∀ a, (s.sdec n.val).mirrorAt = some a → a + 100000 < 2 ^ 64 → a + 100000 ≤ t.now) ∧
    ((s.slot n.val).state = 1 → ∃ t, exec (.decNoKey n) s = .next t ∧ (t.slot n.val).lastCode = 0x0410 ∧
      (t.sdec n.val).noKeyDue = (s.sdec n.val).noKeyDue + 60000000000 ∧ ((s.sdec n.val).noKeyDue < 2 ^ 64 → (s.sdec n.val).noKeyDue ≤ t.now))

/-- The pull rings, the GET mirrors and DEC_NO_KEY (R96, R97, R116, R382). -/
def Obligations.PullsAndMirrors : Prop := PullReadsAndLands ∧ MirrorAndNoKey

/-! ### Decode, encode, crop and scale -/

/-- The engine may start to parse: it serves, its entropy half is free, fewer than 4 entries wait, buffer space remains and no picture is
streamed (R110, R390, R421). -/
def Sys2Proof.Machine.MayParse (s : State) (e : Nat) : Prop :=
  (s.deng e).inService = true ∧ (s.deng e).fenced = false ∧ (s.deng e).parsing = none ∧ (s.deng e).mayStart = true ∧ s.isFrozen = false ∧
    s.mclkOn = true ∧ s.underReset (.unit (mkUnit 2 e)) = false

/-- R107, R110, R116: the engine takes the next access unit of the slot that its queue, or a steal, gives; one whose bytes a pull read lost or whose payload is
poisoned is dropped and reported instead. -/
def Sys2Proof.Machine.EntropyParseTakes : Prop :=
  ∀ (e : Fin 9) (s : State) (n : Nat) (stolen : Bool) (a : Au), MayParse s e.val → s.pickSlot e.val = some (n, stolen) → s.nextAu n = some a →
    ((s.slot n).lostIn a.pos a.bytes = false → s.ringPoisoned n (a.pos + 32) a.hdr.length.toNat = false →
      ∃ t, exec (.entropyParse e) s = .next t ∧ (t.deng e.val).parsing = some { slot := n, pos := a.pos, before := a.enter (s.sdec n).parse, first := !a.rest } ∧
        (t.sdec n).holder = some e.val ∧ (t.deng e.val).steals = (if stolen then satAdd (s.deng e.val).steals 1 else (s.deng e.val).steals) ∧
        t.hif = s.hif) ∧
    ((s.slot n).lostIn a.pos a.bytes = true ∨ s.ringPoisoned n (a.pos + 32) a.hdr.length.toNat = true →
      ∃ t, exec (.entropyParse e) s = .next t ∧ (t.deng e.val).parsing = none ∧ (t.slot n).dropped = satAdd (s.slot n).dropped 1 ∧
        (t.slot n).lastCode = (if (s.slot n).lostIn a.pos a.bytes then 0x0406 else 0x0405))

/-- R101 to R105, R110: a parsed picture that the checks keep becomes the engine's newest syntax entry, or goes straight into a free pixel half; one that they drop is counted
against its slot with the code. A kept one that finds no buffer space, with entries before it, waits. The entropy half goes on with the access unit only where it kept a picture that is not its last. -/
def Sys2Proof.Machine.ParseDoneJudges : Prop :=
  ∀ (e : Fin 9) (info : PicInfo) (s : State) (run : ParseRun) (a : Au) (ent : SlotEntry), s.mclkOn = true → (s.deng e.val).parsing = some run →
    (s.slot run.slot).aus.find? (fun a => a.pos == run.pos) = some a → s.entry run.slot = some ent → (s.sdec run.slot).draining = false →
    (verdict ent info run (a.hdr.flags.getLsbD 2) = .keep → (s.deng e.val).mustWait info = true → exec (.parseDone e info) s = .next s) ∧
    (verdict ent info run (a.hdr.flags.getLsbD 2) = .keep → (s.deng e.val).mustWait info = false →
      ∃ t x, exec (.parseDone e info) s = .next t ∧ x.slot = run.slot ∧ x.pos = run.pos ∧ x.info = info ∧ x.hdr = a.hdr ∧
        x.copy = (info.syntaxError || info.poisonRead) ∧ (x ∈ (t.deng e.val).entries ∨ (t.deng e.val).pix = some x) ∧
        ((t.deng e.val).parsing.isNone = info.last)) ∧
    ∀ code wait, verdict ent info run (a.hdr.flags.getLsbD 2) = .drop code wait →
      ∃ t, exec (.parseDone e info) s = .next t ∧ (t.deng e.val).parsing = none ∧ (t.slot run.slot).dropped = satAdd (s.slot run.slot).dropped 1 ∧
        ∀ c, code = some c → (t.slot run.slot).lastCode = c

/-- The entropy half of a decode engine (R101 to R105, R107, R110, R116). -/
def Obligations.EntropyHalfParses : Prop := EntropyParseTakes ∧ ParseDoneJudges

/-- R112, R114: an error in the pixel half makes its picture a copy of the substitute, and every later picture of the slot leaves the engine, to be parsed again. -/
def Sys2Proof.Machine.PixelErrorUndoes : Prop :=
  ∀ (e : Fin 9) (poison : Bool) (s : State) (x : SynEntry), s.mclkOn = true → (s.deng e.val).pix = some x → x.copy = false →
    ∃ t, exec (.pixelError e poison) s = .next t ∧ (t.deng e.val).pix = some { x with copy := true } ∧
      (∀ y ∈ (t.deng e.val).entries, y.slot ≠ x.slot) ∧ (∀ r, (t.deng e.val).parsing = some r → r.slot ≠ x.slot) ∧
      (t.deng e.val).undo = satAdd (s.deng e.val).undo ((s.deng e.val).entries.filter fun y => y.slot == x.slot).length ∧
      (poison = false → (t.slot x.slot).lastCode = 0x040A)

/-- R103, R111, R118: the picture in the pixel half commits where its slot's pools have buffers for it (a shown frame of the DPB needs none): the engine counts it. -/
def Sys2Proof.Machine.PictureCommitCounts : Prop :=
  ∀ (e : Fin 9) (d : PicData) (s : State) (x : SynEntry) (ent : SlotEntry), s.mclkOn = true → (s.deng e.val).pix = some x →
    s.entry x.slot = some ent →
    ((s.picBuffers x.slot ent).isSome = true ∨
      ∃ f, x.info.show_ = .existing f ∧ x.copy = false ∧ ((s.sdec x.slot).dpb.any fun q => q.frame == f) = true) →
    ∃ t, exec (.pictureCommit e d) s = .next t ∧ (t.deng e.val).committed = (s.deng e.val).committed + 1

/-- The pixel half of a decode engine (R103, R111, R112, R114, R118). -/
def Obligations.PixelHalfCommits : Prop := PixelErrorUndoes ∧ PictureCommitCounts

/-- Nothing waits that a rest point would take: no parking after POWER_OFF, and not D3hot with L2/L3 Ready (R389, R442; log entry 127). -/
abbrev Sys2Proof.Machine.Stays (s : State) : Prop := s.parking = false ∧ (s.link.d3hot && s.wires.l23) = false

/-- R146, R128, R134: pictures that have to be scaled are sent to be scaled first; then a free engine in service whose queue head no WAIT blocks (R302) takes, of its sessions with a picture to encode, the one
whose source ARRIVAL is least. The picture leaves the session's queue, the session's requests for a key picture and a gap are used up, and with its final picture the
session is ENDING. -/
def Sys2Proof.Machine.EncodeStartTakes : Prop :=
  ∀ (e : Fin 5) (s u : State) (n : Nat) (q : SrcPic) (rest : List SrcPic) (p : ClipProfile), (s.eeng e.val).inService = true →
    (s.eeng e.val).fenced = false → (s.eeng e.val).job = none → s.headWaits (mkUnit 3 e.val) = false → s.encPaused = false → s.isFrozen = false → s.mclkOn = true →
    s.underReset (.unit (mkUnit 3 e.val)) = false → u = s.scaleReady e.val →
    u.nextSession e.val = some n → (u.sess n).queue = q :: rest → u.profile (u.sess n).profile.toNat = some p →
    ∃ t j, exec (.encodeStart e) s = .next t ∧ (t.eeng e.val).job = some j ∧ j.sess = n ∧ j.pic = q ∧
      ((u.sess n).wantKey = true → j.key = true) ∧ ((u.sess n).wantGap = true → j.gap = true) ∧ j.budget = (u.sess n).budget p ∧
      t.sess n = { u.sess n with state := if u.lastPicture n then 3 else (u.sess n).state, queue := rest, wantKey := false, wantGap := false }

/-- R145, R146, R149, R132: the engine is free again; a coded picture that its ring takes is written and counted for the engine of its session, unless the write to the host
fails, which ends the session; one that the ring does not take is held in a buffer of the CLIPHOLD pool, or, where none takes it (log entry 116), is dropped and counted. A source whose reads fail a check of R346
codes nothing: its picture is dropped and counted, and the next is a key picture with GAP, unless the session has ended (R142, log entry 126). -/
def Sys2Proof.Machine.EncodeDoneWritesOrHolds : Prop :=
  ∀ (e : Fin 5) (c : Coded) (s : State) (j : EncJob) (p : ClipProfile), s.mclkOn = true → (s.eeng e.val).job = some j →
    s.profile (s.sess j.sess).profile.toNat = some p → Stays s →
    ((s.encCode p j.pic).2.isSome = true → ∃ t, exec (.encodeDone e c) s = .next t ∧ (t.eeng e.val).job = none ∧
      (t.sess j.sess).dropped = satAdd (s.sess j.sess).dropped 1 ∧
      ((t.sess j.sess).state ≠ 0 → (t.sess j.sess).wantKey = true ∧ (t.sess j.sess).wantGap = true)) ∧
    ((s.encCode p j.pic).2 = none → s.canClip j.sess (s.codedBytes j c p).length = true → c.hostFail = false → ∃ t, exec (.encodeDone e c) s = .next t ∧ (t.eeng e.val).job = none ∧
      (t.eeng (s.sess j.sess).engine).encoded = (s.eeng (s.sess j.sess).engine).encoded + 1) ∧
    ((s.encCode p j.pic).2 = none → s.canClip j.sess (s.codedBytes j c p).length = true → c.hostFail = true → ∃ t, exec (.encodeDone e c) s = .next t ∧ (t.eeng e.val).job = none ∧
      ((t.sess j.sess).state = 3 ∨ (t.sess j.sess).state = 0)) ∧
    ((s.encCode p j.pic).2 = none → s.canClip j.sess (s.codedBytes j c p).length = false → ∃ t, exec (.encodeDone e c) s = .next t ∧ (t.eeng e.val).job = none ∧
      ((t.sess j.sess).dropped = satAdd (s.sess j.sess).dropped 1 ∨ ∃ h b, (t.prog j.sess).hold = some h ∧ h.buf = some b ∧
        h.len = (s.codedBytes j c p).length ∧ h.at_ = s.now ∧ h.bits = (s.codingOf j c p).used ∧ h.out.picNum = j.pic.picNum ∧ h.budget = j.budget ∧
        (t.sess j.sess).put = (s.sess j.sess).put ∧ t.dram.mem = s.dram.mem.writeN (s.bufAddr b) (s.codedBytes j c p)))

/-- The encode engines (R145, R146, R149). -/
def Obligations.EncodeEnginesRun : Prop := EncodeStartTakes ∧ EncodeDoneWritesOrHolds

/-- R145: 100 ms after a picture was held it is dropped and counted, and the session's next picture is a key picture with GAP, unless the session has ended. -/
def Sys2Proof.Machine.ClipHoldExpires : Prop :=
  ∀ (n : Fin 64) (s : State) (h : HeldOut), (s.prog n.val).hold = some h → Stays s →
    ∃ t, exec (.clipHoldExpiry n) s = .next t ∧ (t.sess n.val).dropped = satAdd (s.sess n.val).dropped 1 ∧
      ((t.sess n.val).state ≠ 0 → (t.sess n.val).wantKey = true ∧ (t.sess n.val).wantGap = true) ∧
      (h.at_ + 100000000 < 2 ^ 64 → h.at_ + 100000000 ≤ t.now)

/-- R149, R366: a write of a session's GET is taken while the session is in use and GET stays within its ring; one out of range leaves it, and raises attention of class fault
with ST_RING; of a FREE session it does nothing. -/
def Sys2Proof.Machine.SessionGetMoves : Prop :=
  ∀ (n : Fin 64) (v : U32) (s : State), s.mmio = true → s.pwr.pstate = .run → s.wins.busy = false → Stays s → s.isFrozen = false →
    ((s.sess n.val).state = 0 → exec (.encSessGet n v) s = .next s) ∧
    ((s.sess n.val).state ≠ 0 → ((s.sess n.val).put - v).toNat ≤ 2 ^ (s.sess n.val).ringLog2 →
      ∃ t, exec (.encSessGet n v) s = .next t ∧ (t.sess n.val).get = v) ∧
    ((s.sess n.val).state ≠ 0 → 2 ^ (s.sess n.val).ringLog2 < ((s.sess n.val).put - v).toNat →
      ∃ t, exec (.encSessGet n v) s = .next t ∧ t.enc = s.enc ∧ t.hif.attn.getLsbD 0 = true ∧ tget 0 t.hif.attnCode 0 = 0x0007)

/-- A held picture and the GET of a clip session (R145, R149, R366). -/
def Obligations.SessionsHoldAndMove : Prop := ClipHoldExpires ∧ SessionGetMoves

/-- R278, R282, R283: a submitted job joins its engine's queue, and the engine starts its oldest when it is free and no WAIT blocks its queue head (R302); a job that is done, with an output buffer that passes the
check of R346, is counted and sends its completion entry. -/
def Obligations.CseJobsRun : Prop :=
  ∀ (e : Fin 4) (s : State),
    (∀ job, s.dis.inService = true → s.cseRoom e.val = true → s.isFrozen = false →
      ∃ t, exec (.cseJobSubmit e job) s = .next t ∧
        t.cseEng e.val = (if s.headWaits (mkUnit 4 e.val) then id else CseEng.start) { s.cseEng e.val with queue := (s.cseEng e.val).queue ++ [job] } ∧ s.within [.cse] t) ∧
    ∀ j, s.mclkOn = true → (s.cseEng e.val).running = some j → s.outCode j = none →
      ∃ t own, exec (.cseJobDone e) s = .next t ∧ (t.cseEng e.val).jobs = (s.cseEng e.val).jobs + 1 ∧
        (t.cseEng e.val).pixels = (s.cseEng e.val).pixels + j.ow.toNat * j.oh.toNat * j.boxes.toNat ∧
        .cseCompletion j.tag (s.picAt j.pic.toNat).flags own ∈ t.out

/-! ### Arrays, work counters and the dispatcher -/

/-- R156, R157, R162, R295: a pass within its ranges writes its results to the OUT buffer (LAST) or to the out-bank, which then becomes the in-bank; the core
counts it and is free, and its column accumulators keep their last sums. No other core and no other memory of the core changes; what the queues and the dispatcher start next follows. -/
def Obligations.PassesCommit : Prop :=
  ∀ (r : Fin 8) (i : Fin 18) (s : State) (p : PassItem) (l : LayerEntry), (s.core r.val i.val).running = some p → s.aclkStopped r.val = false →
    p.desc.ok = true → passFits p.desc ((s.coreMem r.val i.val).rqOf p.desc) = true → (s.layersOf p.ctx)[p.layer]? = some l →
    ∃ u bank pos bytes sat, exec (.passCommit r i) s = .next ((u.resumeRegion r.val).judgeAll) ∧ s.within [.rgn, .rmem, .dis] u ∧
      bank = (if (s.core r.val i.val).inBank then (s.coreMem r.val i.val).psb1 else (s.coreMem r.val i.val).psb0) ∧
      pos = s.tilePos p.ctx l p.tile (s.core r.val i.val).half ∧
      (bytes, sat) = passRows (s.coreMem r.val i.val).sp (s.coreMem r.val i.val).weights bank ((s.coreMem r.val i.val).rqOf p.desc) p.desc pos ∧
      (u.coreMem r.val i.val).acc = passAccs (s.coreMem r.val i.val).sp (s.coreMem r.val i.val).weights bank p.desc pos ∧
      u.core r.val i.val = { s.core r.val i.val with
        running := none, passes := (s.core r.val i.val).passes + 1, cycles := BitVec.ofNat 32 p.desc.cycles, sat := (s.core r.val i.val).sat || sat
        inBank := if p.desc.last then (s.core r.val i.val).inBank else !(s.core r.val i.val).inBank, loaded := true } ∧
      u.coreMem r.val i.val = (if p.desc.last then
          { s.coreMem r.val i.val with acc := (u.coreMem r.val i.val).acc, sp := (s.coreMem r.val i.val).sp.writeN p.desc.out.toNat bytes }
        else if (s.core r.val i.val).inBank then
          { s.coreMem r.val i.val with acc := (u.coreMem r.val i.val).acc, psb0 := (s.coreMem r.val i.val).psb0.writeN 0 bytes }
        else { s.coreMem r.val i.val with acc := (u.coreMem r.val i.val).acc, psb1 := (s.coreMem r.val i.val).psb1.writeN 0 bytes }) ∧
      (u.ctx p.ctx).progress = (s.ctx p.ctx).progress + 1 ∧
      ∀ k, k ≠ i.val → u.core r.val k = s.core r.val k ∧ u.coreMem r.val k = s.coreMem r.val k

/-- R223, R230 to R250, R180, R187: a vector descriptor that meets no lane fault writes its results into the scratchpad and counts what R249 to R250 count; a Millefeuille
pass writes its result into the region buffer, counts its cycles, and sets the flags of its arithmetic. -/
def Obligations.DescriptorsCommit : Prop :=
  (∀ (r : Fin 8) (i : Fin 18) (s : State) (v : VecItem) (l : LayerEntry) (o : VecOut), (s.vec r.val i.val).running = some v →
    s.aclkStopped r.val = false → VecDesc.defined v.desc = true → (s.layersOf v.ctx)[v.layer]? = some l →
    vecRun (s.coreMem r.val i.val).sp v.desc (s.tilePos v.ctx l v.tile (s.core r.val i.val).half) = o → o.fault = none →
    ∃ u, exec (.vecDescriptorCommit r i) s = .next ((u.resumeRegion r.val).judgeAll) ∧ s.within [.rgn, .rmem, .dis] u ∧
      (u.vec r.val i.val).running = none ∧ (u.vec r.val i.val).done = (s.vec r.val i.val).done + 1 ∧
      (u.vec r.val i.val).skips = (s.vec r.val i.val).skips + BitVec.ofNat 32 o.skips ∧
      (u.vec r.val i.val).cycles = BitVec.ofNat 32 (vecCycles (s.coreMem r.val i.val).sp v.desc) ∧
      (u.vec r.val i.val).badBoxes = satAdd (s.vec r.val i.val).badBoxes o.boxes ∧
      (u.vec r.val i.val).sat = ((s.vec r.val i.val).sat || o.flags.sat) ∧ (u.vec r.val i.val).nan = ((s.vec r.val i.val).nan || o.flags.nan) ∧
      (u.vec r.val i.val).inf = ((s.vec r.val i.val).inf || o.flags.inf) ∧
      u.coreMem r.val i.val = { s.coreMem r.val i.val with sp := o.apply (s.coreMem r.val i.val).sp } ∧
      ∀ k, k ≠ i.val → u.vec r.val k = s.vec r.val k ∧ u.coreMem r.val k = s.coreMem r.val k) ∧
  ∀ (r : Fin 8) (s : State) (p : GauItem), (s.region r.val).gau.running = some p → s.aclkStopped r.val = false → s.gauOk p = true →
    ∃ u f, exec (.gauPassCommit r) s = .next (((u.gauNext r.val p).resumeRegion r.val).judgeAll) ∧ s.within [.rgn, .rmem, .dis] u ∧
      ((u.regMem r.val).rb, f) = gauRun (s.regMem r.val).rb (rebase p.desc (s.rbBase p.ctx)) ∧
      (u.region r.val).gau = { (s.region r.val).gau with
        running := none, passes := (s.region r.val).gau.passes + 1, cycles := BitVec.ofNat 32 (gauCycles (s.region r.val).gau p.desc), first := false
        accs := (u.region r.val).gau.accs, drain := (u.region r.val).gau.drain
        sat := (s.region r.val).gau.sat || f.sat, nan := (s.region r.val).gau.nan || f.nan, inf := (s.region r.val).gau.inf || f.inf } ∧
      ∀ k, u.coreMem r.val k = s.coreMem r.val k

/-- A command of a region's engine that finds context `c` at fault: the context takes a CXR with the cause (R168, R236, R299, R319). -/
def Sys2Proof.Machine.TakesCxr (i : Instr) (c cause : Nat) (s : State) : Prop :=
  ∃ t, exec i s = .next t ∧ t.dis.cxrs = s.dis.cxrs + 1 ∧ t.dis.lastCause = BitVec.ofNat 4 cause ∧ t.dis.lastCtx = BitVec.ofNat 12 c ∧
    ∃ run, t.rst.runs = s.rst.runs ++ [run] ∧ run.scope = .ctx (Fin.ofNat 4096 c) ∧ run.level = 5

/-- R161, R179, R225, R168, R236, R299: a descriptor out of its range, an address fault of a vector lane and a context fault that aborts a pass reset the context of
the pass, unless a reset of it is in progress: CXR_COUNT counts, DIS_LAST_FAULT names cause and context. -/
def Obligations.ContextFaultsReset : Prop :=
  ∀ (r : Fin 8) (i : Fin 18) (s : State), s.aclkStopped r.val = false →
    (∀ p, (s.core r.val i.val).running = some p → p.ctx < s.dis.nCtx → s.underReset (.ctx (Fin.ofNat 4096 p.ctx)) = false →
      (p.desc.ok = false ∨ passFits p.desc ((s.coreMem r.val i.val).rqOf p.desc) = false → TakesCxr (.passCommit r i) p.ctx 2 s) ∧ ∀ k : Fin 16, TakesCxr (.passAbort r (.array i) (.ctxFault k)) p.ctx k.val s) ∧
    (∀ v, (s.vec r.val i.val).running = some v → v.ctx < s.dis.nCtx → s.underReset (.ctx (Fin.ofNat 4096 v.ctx)) = false →
      (VecDesc.defined v.desc = false → TakesCxr (.vecDescriptorCommit r i) v.ctx 2 s) ∧
      (∀ k : Fin 16, TakesCxr (.passAbort r (.vec i) (.ctxFault k)) v.ctx k.val s) ∧
      ∀ l f, VecDesc.defined v.desc = true → (s.layersOf v.ctx)[v.layer]? = some l →
        (vecRun (s.coreMem r.val i.val).sp v.desc (s.tilePos v.ctx l v.tile (s.core r.val i.val).half)).fault = some f →
        TakesCxr (.vecDescriptorCommit r i) v.ctx 4 s) ∧
    ∀ g, (s.region r.val).gau.running = some g → g.ctx < s.dis.nCtx → s.underReset (.ctx (Fin.ofNat 4096 g.ctx)) = false →
      (s.gauOk g = false → TakesCxr (.gauPassCommit r) g.ctx 2 s) ∧
      ∀ (t : Fin 17) (k : Fin 16), TakesCxr (.passAbort r (.gau t) (.ctxFault k)) g.ctx k.val s

/-- R167 to R169, R182, R248, R250: an abort counts in the byte of its cause. Pre-emption puts a pass with more than 40 µs left back at the head of its queue, to start
again, and leaves one with less to commit; a fault of the unit puts it there too, whatever is left,
and counts against the unit (R401), which takes an ENR or is fenced; a map change drops the
tile, and restarts the pass of a fused group (R30). Nothing of the pass is committed. -/
def Sys2Proof.Machine.AbortsTake : Prop :=
  ∀ (r : Fin 8) (i : Fin 18) (s : State), s.aclkStopped r.val = false →
    (∀ p, (s.core r.val i.val).running = some p →
      (s.longLeft r.val (s.core r.val i.val).clock = false → exec (.passAbort r (.array i) .preempt) s = .next s) ∧
      (s.longLeft r.val (s.core r.val i.val).clock = true →
        ∃ u, exec (.passAbort r (.array i) .preempt) s = .next ((u.judgeAll).feed r.val i.val) ∧ s.within [.rgn] u ∧
        u.core r.val i.val = { s.core r.val i.val with
          running := none, queue := p :: (s.core r.val i.val).queue, shadowed := none, clock := (s.core r.val i.val).clock.abort (s.aclk r.val)
          abPreempt := satAdd (s.core r.val i.val).abPreempt 1 }) ∧
      (∃ u, exec (.passAbort r (.array i) .unitFault) s = .next (u.unitEvent (mkUnit 0 (r.val * 32 + i.val)) 1 true 0x0502) ∧ s.within [.rgn] u ∧
        u.core r.val i.val = { s.core r.val i.val with
          running := none, queue := p :: (s.core r.val i.val).queue, shadowed := none, clock := (s.core r.val i.val).clock.abort (s.aclk r.val)
          abUnit := satAdd (s.core r.val i.val).abUnit 1 }) ∧
      ((s.core r.val i.val).fusedLayer = none →
        ∃ u, exec (.passAbort r (.array i) .fence) s = .next ((u.dropCoreTile r.val i.val).judgeAll) ∧ s.within [.rgn, .rmem] u ∧
        u.core r.val i.val = { s.core r.val i.val with
          running := none, queue := [], todo := [], shadowed := none, clock := (s.core r.val i.val).clock.abort (s.aclk r.val)
          abFence := satAdd (s.core r.val i.val).abFence 1 }) ∧
      ((s.core r.val i.val).fusedLayer ≠ none →
        ∃ u, exec (.passAbort r (.array i) .fence) s = .next (u.feed r.val i.val) ∧ s.within [.rgn, .rmem] u ∧
        u.core r.val i.val = { s.core r.val i.val with
          running := none, queue := [], todo := s.workOf r.val i.val, shadowed := none, clock := (s.core r.val i.val).clock.abort (s.aclk r.val)
          abFence := satAdd (s.core r.val i.val).abFence 1 })) ∧
    (∀ v, (s.vec r.val i.val).running = some v →
      (s.longLeft r.val (s.vec r.val i.val).clock = true →
        ∃ u, exec (.passAbort r (.vec i) .preempt) s = .next ((u.judgeAll).feed r.val i.val) ∧ s.within [.rmem] u ∧
        u.vec r.val i.val = { s.vec r.val i.val with
          running := none, queue := v :: (s.vec r.val i.val).queue, clock := (s.vec r.val i.val).clock.abort (s.aclk r.val)
          aborts := bumpByte (s.vec r.val i.val).aborts 24 }) ∧
      ∃ u, exec (.passAbort r (.vec i) .unitFault) s = .next (u.unitEvent (mkUnit 0 (r.val * 32 + i.val)) 1 true 0x0502) ∧ s.within [.rmem] u ∧
        u.vec r.val i.val = { s.vec r.val i.val with
          running := none, queue := v :: (s.vec r.val i.val).queue, clock := (s.vec r.val i.val).clock.abort (s.aclk r.val)
          aborts := bumpByte (s.vec r.val i.val).aborts 16 }) ∧
    ∀ (t : Fin 17) g, (s.region r.val).gau.running = some g →
      (s.longLeft r.val (s.region r.val).gau.clock = true →
        ∃ u, exec (.passAbort r (.gau t) .preempt) s = .next (u.judgeAll.startGau r.val) ∧ s.within [.rgn] u ∧
        (u.region r.val).gau = { (s.region r.val).gau with
          running := none, queue := g :: (s.region r.val).gau.queue, clock := (s.region r.val).gau.clock.abort (s.aclk r.val)
          abPreempt := satAdd (s.region r.val).gau.abPreempt 1 }) ∧
      ∃ u, exec (.passAbort r (.gau t) .unitFault) s = .next (u.unitEvent (mkUnit 1 (r.val * 32 + t.val)) 1 true 0x0502) ∧ s.within [.rgn] u ∧
        (u.region r.val).gau = { (s.region r.val).gau with
          running := none, queue := g :: (s.region r.val).gau.queue, clock := (s.region r.val).gau.clock.abort (s.aclk r.val)
          abUnit := satAdd (s.region r.val).gau.abUnit 1 }

/-- R170: an abort that is asked for while ACLK is stopped waits for the restart of the clock; a second pre-emption is merged with the first. -/
def Sys2Proof.Machine.AbortsWait : Prop :=
  ∀ (r : Fin 8) (u : PassUnit) (cause : AbortCause) (s : State), s.aclkStopped r.val = true → (s.runningOn r.val u).isSome = true →
    (cause = .preempt → s.longLeft r.val (s.clockOf r.val u) = true) →
    exec (.passAbort r u cause) s = .next (s.updClock r.val u fun c =>
      if cause = .preempt ∧ ∃ x ∈ c.asked, x.2 = .preempt then c else { c with asked := c.asked ++ [(u, cause)] })

/-- Aborted passes (R167 to R170, R182, R248, R250). -/
def Obligations.PassAbortsCount : Prop := AbortsTake ∧ AbortsWait

/-- A FETCH that a counter may serve: the context that holds it runs, and the group's member slots are VALID and run no tile or
are under a reset (R263, R265). -/
def Sys2Proof.Machine.MayFetch (r wc slot c : Nat) (s : State) : Prop :=
  s.applyMaps r (groupSlots (s.wc r wc) slot) = s ∧ s.wcOwner r wc = some c ∧ (s.wc r wc).active = true ∧ (s.wc r wc).fused = false ∧ slot % 2 ^ (s.wc r wc).qlog = 0 ∧
    (∀ n ∈ groupSlots (s.wc r wc) slot, (mapGet (s.region r).slotMap n).valid = true ∧ s.slotBusyTile r n = false ∧
      s.coreReset r (mapGet (s.region r).slotMap n).phys = false) ∧ s.held r false = false

/-- R263, R265: a FETCH answers with the next unit while one is left, whose tiles become ISSUED and start on the members of the group; with none left, and none
requeued, it answers EMPTY. -/
def Obligations.FetchHandsOutTiles : Prop :=
  ∀ (r : Fin 8) (wc : Fin 64) (slot : Fin 16) (s : State) (c : Nat), MayFetch r.val wc.val slot.val c s → (s.wc r.val wc.val).requeue = [] →
    ((s.wc r.val wc.val).next < (s.wc r.val wc.val).units →
      ∃ u t, exec (.fetch r wc slot) s = .next t ∧ .wcUnit r.val slot.val (s.wc r.val wc.val).next ∈ t.out ∧
        (u.wc r.val wc.val).next = (s.wc r.val wc.val).next + 1 ∧
        (∀ k, k < 2 ^ (s.wc r.val wc.val).qlog → tget 0 (u.wc r.val wc.val).board ((s.wc r.val wc.val).next * 2 ^ (s.wc r.val wc.val).qlog + k) = 1) ∧
        t = (groupSlots (s.wc r.val wc.val) slot.val).foldl (fun (v : State) n => v.startTile r.val (mapGet (s.region r.val).slotMap n).phys c
          (s.wc r.val wc.val).layer wc.val ((s.wc r.val wc.val).next * 2 ^ (s.wc r.val wc.val).qlog + (n - slot.val))) u) ∧
    ((s.wc r.val wc.val).units ≤ (s.wc r.val wc.val).next →
      ∃ t, exec (.fetch r wc slot) s = .next t ∧ t.out = .wcEmpty r.val slot.val :: s.out ∧ s.within [.rgn, .out] t ∧
        (t.wc r.val wc.val).board = (s.wc r.val wc.val).board ∧ ∀ n ∈ groupSlots (s.wc r.val wc.val) slot.val, n ∈ (t.wc r.val wc.val).emptied)

/-- R263, R264, R266: of the cores that run an ISSUED tile the first to CLAIM, with nothing of the tile left to run, is GRANTED and the tile is CLAIMED; a CLAIM of a tile that
is claimed already is LOST and counted; DONE makes a CLAIMED tile DONE, and the last one completes the layer. -/
def Obligations.ClaimsAndDone : Prop :=
  ∀ (r : Fin 8) (wc : Fin 64) (slot : Fin 16) (tile : Fin 4096) (s : State) (c : Nat) (x : Runner), s.wcOwner r.val wc.val = some c →
    (s.wc r.val wc.val).active = true → (s.wc r.val wc.val).fused = false →
    (s.wc r.val wc.val).runners.find? (fun x => x.tile == tile.val && x.slot == slot.val) = some x →
    (tget 0 (s.wc r.val wc.val).board tile.val = 1 → (s.core r.val (mapGet (s.region r.val).slotMap slot.val).phys).todo = [] →
      s.coreQuiet r.val (mapGet (s.region r.val).slotMap slot.val).phys = true →
      (∃ t, exec (.claim r wc slot tile) s = .next t ∧ .wcGranted r.val slot.val tile.val ∈ t.out) ∧
      (x.copy = false → ∃ u : State, exec (.claim r wc slot tile) s = .next u.judgeAll ∧ tget 0 (u.wc r.val wc.val).board tile.val = 2 ∧
        ∀ y ∈ (u.wc r.val wc.val).runners, y.tile = tile.val → y.slot = slot.val)) ∧
    (tget 0 (s.wc r.val wc.val).board tile.val ≠ 1 →
      ∃ t, exec (.claim r wc slot tile) s = .next t ∧ t.out = .wcLost r.val slot.val tile.val :: s.out ∧ s.within [.rgn, .out] t ∧
        (t.wc r.val wc.val).dupes = satAdd (s.wc r.val wc.val).dupes 1 ∧ (t.wc r.val wc.val).board = (s.wc r.val wc.val).board) ∧
    (tget 0 (s.wc r.val wc.val).board tile.val = 2 →
      ∃ u : State, tget 0 (u.wc r.val wc.val).board tile.val = 3 ∧ (u.wc r.val wc.val).doneN = (s.wc r.val wc.val).doneN + 1 ∧ s.within [.rgn, .dis] u ∧
        ((s.wc r.val wc.val).doneN + 1 ≠ (s.wc r.val wc.val).tiles → exec (.done r wc slot tile) s = .next ((u.resumeRegion r.val).judgeAll)) ∧
        ((s.wc r.val wc.val).doneN + 1 = (s.wc r.val wc.val).tiles →
          exec (.done r wc slot tile) s = .next (((u.layerDone r.val c (s.wc r.val wc.val).layer wc.val).resumeRegion r.val).judgeAll)))

/-- R295 to R297, R276: 256 ACLK cycles after the last check a tile that has taken more than four times the median runs a second time, on an idle core, and only once; with
none, nothing but the time of the tile moves. The crust rows of a stripe go to the next core of the cluster while the link holds none of another stripe. -/
def Obligations.StragglersAndCrust : Prop :=
  (∀ (r : Fin 8) (s : State) (c k n : Nat) (x : Runner), (s.region r.val).coresCtx = some c → s.aclkStopped r.val = false → (s.ctx c).state = 3 →
    (s.ctx c).rslot = some k → n ∈ slotWcs k → (s.wc r.val n).active = true → (s.wc r.val n).fused = false →
    (∀ m ∈ slotWcs k, m ≠ n → (s.wc r.val m).active = false) → (s.wc r.val n).runners = [x] →
    ((x.copy = true ∨ tget 0 (s.wc r.val n).board x.tile ≠ 1 ∨ (s.wc r.val n).reissued.contains x.tile = true ∨ 
        ({ x with checks := x.checks + 1 } : Runner).time (s.aclk r.val) ≤ 4 * s.medianOf r.val c n x.tile) →
      exec (.stragglerCheck r) s = .next (s.updWc r.val n fun w => { w with runners := [{ x with checks := x.checks + 1 }] })) ∧
    (∀ m, x.copy = false → tget 0 (s.wc r.val n).board x.tile = 1 → (s.wc r.val n).reissued.contains x.tile = false →
      4 * s.medianOf r.val c n x.tile < ({ x with checks := x.checks + 1 } : Runner).time (s.aclk r.val) → s.idleSlot r.val n = some m →
      ∃ u, exec (.stragglerCheck r) s = .next (u.startTile r.val (mapGet (s.region r.val).slotMap m).phys c (s.wc r.val n).layer n x.tile) ∧
        (u.wc r.val n).reissues = satAdd (s.wc r.val n).reissues 1 ∧ (u.region r.val).reissues = satAdd (s.region r.val).reissues 1 ∧
        (u.wc r.val n).runners = [{ x with checks := x.checks + 1 }, { tile := x.tile, slot := m, since := s.aclk r.val, copy := true }] ∧
        (u.wc r.val n).reissued.contains x.tile = true ∧ s.within [.rgn] u)) ∧
  ∀ (r : Fin 8) (slot : Fin 16) (s : State) (c layer st i j : Nat), i = (mapGet (s.region r.val).slotMap slot.val).phys →
    j = (mapGet (s.region r.val).slotMap (slot.val / 4 * 4 + (slot.val + 1) % 4)).phys → s.sending r.val i = some (c, layer, st) →
    s.aclkStopped r.val = false →
    ((∀ x ∈ tget [] (s.region r.val).crust slot.val, x.2 = st) →
      ∃ u, exec (.crustRowTransfer r slot) s = .next ((u.feed r.val i).resumeRegion r.val) ∧ s.within [.rgn, .rmem] u ∧
        tget [] (u.region r.val).crust slot.val = tget [] (s.region r.val).crust slot.val ++ [(layer, st)] ∧
        u.core r.val i = { s.core r.val i with todo := (s.core r.val i).todo.drop 1 } ∧ ∀ k, k ≠ j → u.coreMem r.val k = s.coreMem r.val k) ∧
    ((∃ x ∈ tget [] (s.region r.val).crust slot.val, x.2 ≠ st) → exec (.crustRowTransfer r slot) s = .next s)

/-- R285, R286, R287: a batch closes at the picture count, or at its time after the first picture; its release, with the deadline of the earliest ARRIVAL, joins the
queue of the detection context. R177, R291: after a swap the incoming context is RUNNING on its engine set, and the swap counts. -/
def Obligations.BatchesAndSwaps : Prop :=
  (∀ (ctx : Fin 4096) (s : State), (s.ctx ctx.val).batch ≠ [] → s.batches ctx.val = true → s.dis.inService = true → s.isFrozen = false →
    0 < s.batchCount → (s.ctx ctx.val).queue.length < 8 →
    ∃ (u : State) (inv : Inv) (p : Nat × Nat), exec (.batchClose ctx) s = .next u.judgeAll ∧ (u.ctx ctx.val).batch = (s.ctx ctx.val).batch.drop s.batchCount ∧
      (u.ctx ctx.val).queue = (s.ctx ctx.val).queue ++ [inv] ∧ p ∈ (s.ctx ctx.val).batch.take s.batchCount ∧
      (∀ q ∈ (s.ctx ctx.val).batch.take s.batchCount, p.2 ≤ q.2) ∧ inv.pics = (s.ctx ctx.val).batch.take s.batchCount ∧ inv.deadline = p.2 + (s.ctx ctx.val).dctx ∧
      (s.batchCount ≤ (s.ctx ctx.val).batch.length → u.now = s.now) ∧
      ((s.ctx ctx.val).batch.length < s.batchCount → (s.ctx ctx.val).batchAt + s.batchTime < 2 ^ 64 → (s.ctx ctx.val).batchAt + s.batchTime ≤ u.now)) ∧
  ∀ (r : Fin 8) (gau : Bool) (s : State) (c : Nat), (s.region r.val).swapping gau = some c → s.aclkStopped r.val = false →
    ∃ u, exec (.swapComplete r gau) s = .next (u.runIn r.val gau c) ∧ s.within [.rgn, .dis] u ∧ u.dis.swaps = s.dis.swaps + 1 ∧
      u.ctx c = { s.ctx c with state := 3 } ∧ (u.region r.val).active gau = some c ∧ (u.region r.val).swapping gau = none ∧
      (u.region r.val).active (!gau) = (s.region r.val).active (!gau)

/-! ### Sync objects, buffer pools and tracks -/

/-- R302, R303, R304, R288: SIGNAL counts the object up and RESET sets it, whereupon every waiter of the object that is satisfied has no wait any more, and a context among them
is READY; a RESET to a lower value wakes no one; a WAIT that is satisfied when it is issued takes no entry; any other joins the list, and a context is BLOCKED. -/
def Obligations.SyncObjectsWork : Prop :=
  ∀ (obj : U16) (s : State),
    (∀ n, ∃ u : State, exec (.synSignal obj n) s = .next (((u.releaseOn obj).judgeAll).resumeAll) ∧ u.synValue obj = s.synValue obj + n ∧
      u.syn.ops = s.syn.ops + 1 ∧ (∀ o : U16, o ≠ obj → u.synValue o = s.synValue o) ∧
      u.syn.waits = s.syn.waits.filter (fun w => !(w.obj == obj && satisfied (s.synValue obj + n) w.v)) ∧
      ∀ w ∈ s.syn.waits, ∀ c, w.obj = obj → satisfied (s.synValue obj + n) w.v = true → w.waiter = .ctx c → (s.ctx c.val).state = 4 →
        (u.ctx c.val).state = 1) ∧
    (∀ v, ∃ u : State, exec (.synReset obj v) s = .next ((u.releaseOn obj).resumeAll) ∧ u.synValue obj = v ∧ u.syn.ops = s.syn.ops + 1 ∧
      ((s.synValue obj).toNat ≤ v.toNat → u.syn.waits = s.syn.waits.filter (fun w => !(w.obj == obj && satisfied v w.v))) ∧
      (v.toNat < (s.synValue obj).toNat → s.within [.syn] u ∧ u.syn.waits = s.syn.waits)) ∧
    ∀ w v, s.mayWait w = true →
      (satisfied (s.synValue obj) v = true → exec (.synWait w obj v) s = .next (s.updSyn fun y => { y with ops := y.ops + 1 })) ∧
      (satisfied (s.synValue obj) v = false → ∃ t, exec (.synWait w obj v) s = .next t ∧
        t.syn = { s.syn with ops := s.syn.ops + 1, waits := s.syn.waits ++ [{ waiter := w, obj := obj, v := v, since := s.now }] } ∧
        ∀ c, w = .ctx c → ∃ u : State, t = u.judgeAll ∧ (u.ctx c.val).state = 4 ∧ (u.ctx c.val).wait = some obj ∧ (u.ctx c.val).blockedAt = s.now)

/-- R347, R348: ALLOC and TRY of a pool with a free buffer answer its handle and name the requester its owner: the next unused index, else the one that returned first.
With none, ALLOC queues the requester, and TRY fails with POOL_EMPTY. -/
def Obligations.AllocationHandsOut : Prop :=
  ∀ (req : U16) (p : Fin 64) (s : State), s.bpm.inService = true → s.poolOk p.val = true →
    ∀ i, i ∈ [Instr.alloc req p, .try_ req p] →
      (∀ k, ((s.pool p.val).fresh < (s.pool p.val).count ∧ k = (s.pool p.val).fresh ∨
          (s.pool p.val).count ≤ (s.pool p.val).fresh ∧ (s.pool p.val).returned.head? = some k) →
        ∃ t, exec i s = .next t ∧ t.out = .bpmHandle req (mkHandle p.val k) :: s.out ∧ t.buf (mkHandle p.val k) = some { owner := req } ∧
          s.within [.bpm, .out] t ∧ (t.pool p.val).free + 1 = (s.pool p.val).free) ∧
      ((s.pool p.val).count ≤ (s.pool p.val).fresh → (s.pool p.val).returned = [] →
        (∃ t, exec (.alloc req p) s = .next t ∧ (t.pool p.val).waiters = (s.pool p.val).waiters ++ [req] ∧
          (t.pool p.val).waits = satAdd (s.pool p.val).waits 1 ∧ t.bpm.bufs = s.bpm.bufs) ∧
        (∃ t, exec (.try_ req p) s = .next t ∧ .bpmError req 0x0308 ∈ t.out) ∧
        ∀ c, ctxOfReq req = some c → c < s.dis.nCtx → s.underReset (.ctx (Fin.ofNat 4096 c)) = false →
          s.aclkStopped (s.ctx c).region = false → TakesCxr (.try_ req p) c 3 s)

/-- R347, R349, R350: SHARE by the named owner adds a share and names the owner, unless 4,194,304 are open, where it answers POOL_SHARE_FULL; RELEASE takes one share of the requester away, and FREE marks the buffer. A buffer that is
freed and has no share left is FREE again; and an operation that is not allowed answers its POOL_ code and changes no buffer, for a requester that is no context. -/
def Obligations.SharesAndFrees : Prop :=
  ∀ (req : U16) (h : U32) (s : State), s.bpm.inService = true →
    (∀ b, s.handleCode h = none → s.buf h = some b →
      (∀ holder owner, b.owner = req → s.bpm.shares < 4194304 → ∃ t, exec (.share req h holder owner) s = .next t ∧
        t.buf h = some { b with owner := owner, shares := b.shares ++ [holder] } ∧ t.bpm.shares = s.bpm.shares + 1 ∧
        t.out = .bpmOk req :: s.out ∧ s.within [.bpm, .out] t) ∧
      (∀ holder owner, b.owner = req → ctxOfReq req = none → 4194304 ≤ s.bpm.shares → ∃ t, exec (.share req h holder owner) s = .next t ∧
        .bpmError req 0x0309 ∈ t.out ∧ t.bpm.bufs = s.bpm.bufs ∧ t.bpm.shares = s.bpm.shares) ∧
      (req ∈ b.shares → ∃ t, exec (.release req h) s = .next t ∧ .bpmOk req ∈ t.out ∧ t.bpm.shares = s.bpm.shares - 1 ∧
        ((b.freed = false ∨ b.shares.erase req ≠ []) → t.buf h = some { b with shares := b.shares.erase req }) ∧
        (b.freed = true → b.shares.erase req = [] → (s.pool (hPool h)).waiters = [] →
          t.buf h = none ∧ (t.pool (hPool h)).returned = (s.pool (hPool h)).returned ++ [hIndex h]) ∧
        (∀ w ws, b.freed = true → b.shares.erase req = [] → (s.pool (hPool h)).waiters = w :: ws →
          t.buf h = some { owner := w } ∧ .bpmHandle w h ∈ t.out ∧ (t.pool (hPool h)).waiters = ws)) ∧
      (b.owner = req → b.freed = false → ∃ t, exec (.free req h) s = .next t ∧ .bpmOk req ∈ t.out ∧
        (b.shares ≠ [] → t.buf h = some { b with freed := true }) ∧
        (b.shares = [] → (s.pool (hPool h)).waiters = [] →
          t.buf h = none ∧ (t.pool (hPool h)).returned = (s.pool (hPool h)).returned ++ [hIndex h]) ∧
        (∀ w ws, b.shares = [] → (s.pool (hPool h)).waiters = w :: ws →
          t.buf h = some { owner := w } ∧ .bpmHandle w h ∈ t.out ∧ (t.pool (hPool h)).waiters = ws))) ∧
    ∀ i code, (i, code) ∈ [(Instr.share req h 0 0, s.handleCode h), (.release req h, s.handleCode h), (.free req h, s.handleCode h)] →
      ∀ k, code = some k → ctxOfReq req = none →
        ∃ t, exec i s = .next t ∧ .bpmError req k ∈ t.out ∧ t.bpm.bufs = s.bpm.bufs ∧ t.bpm.lastReq = req ∧ t.bpm.lastCode = k ∧ t.bpm.lastH = h

/-- R346, R335, R336: an access that passes the checks stores its bytes, or returns the bytes of the buffer with their poison mark; one that fails a check is not
performed, and answers the code of the first check that it fails. -/
def Obligations.BufferAccesses : Prop :=
  ∀ (req : U16) (h : U32) (off size natural : U32) (s : State), s.bpm.inService = true →
    (s.accessCode h off.toNat size.toNat (naturalSize req natural.toNat) = none →
      (∀ d, ∃ t, exec (.bufferAccess req h off size natural (some d)) s = .next t ∧ t.out = .bpmOk req :: s.out ∧ s.within [.dram, .out] t ∧
        t.dram.mem = s.dram.mem.writeN (s.bufAddr h + off.toNat) (padTo size.toNat d)) ∧
      (∃ t, exec (.bufferAccess req h off size natural none) s = .next t ∧
        .bpmData req (s.dramBytes (s.bufAddr h + off.toNat) size.toNat) (s.poisonedAt (s.bufAddr h + off.toNat) size.toNat) ∈ t.out ∧
        (s.poisonedAt (s.bufAddr h + off.toNat) size.toNat = false → s.within [.out] t))) ∧
    ∀ code w, s.accessCode h off.toNat size.toNat (naturalSize req natural.toNat) = some code →
      ∃ t, exec (.bufferAccess req h off size natural w) s = .next t ∧ .bpmError req code ∈ t.out ∧ (ctxOfReq req = none → t.dram = s.dram)

/-- R310 to R314, R300: the association of a picture that its slot has none of in hand decides matches, misses and creations for the scatter to commit: a match of
stage 1 is a LIVE track of the slot, a miss is a LIVE track without a match, and a concealed picture creates and revives nothing. A FAILED picture is skipped, and an embedding access that fails
a check of R346 is not performed. A pipeline that a WAIT blocks associates nothing (R302, log entry 97). -/
def Obligations.AssociationDecides : Prop :=
  ∀ (pipe : Fin 4) (list : U64) (s : State) (tb : TrackerBlock) (l : DetList), s.tracker = some tb → s.detList list.toNat tb.maxDet.toNat = l →
    (s.waits (.tke pipe) = true → exec (.association pipe list) s = .next s) ∧
    (s.waits (.tke pipe) = false → s.tkeServes = true → l.slot < 512 → (s.slot l.slot).state ≠ 0 → (∀ r ∈ s.tke.results, r.slot ≠ l.slot) →
    (l.flags / 2 % 2 = 0 → s.dis.failed.contains (l.slot, l.arrival) = false → (l.ents = [] ∨ s.accessCode l.emb 0 (128 * l.ents.length) 64 = none) →
      ∃ t r, exec (.association pipe list) s = .next t ∧ t.tke.results = s.tke.results ++ [r] ∧ r.slot = l.slot ∧ r.picNum = l.picNum ∧
        r.arrival = l.arrival ∧ r.concealed = (l.flags % 2 == 1) ∧ t.tke.assocs = s.tke.assocs + 1 ∧ t.tke.tracks = s.tke.tracks ∧
        (∀ m ∈ r.matched, m.dormant = false → m.track ∈ s.liveOf l.slot) ∧
        (∀ i, i ∈ r.missed ↔ i ∈ s.liveOf l.slot ∧ ∀ m ∈ r.matched, m.dormant = false → m.track ≠ i) ∧
        (r.concealed = true → r.created = [] ∧ ∀ m ∈ r.matched, m.dormant = false) ∧
        ∀ d ∈ r.created, leF tb.newScore d.score = true) ∧
    (∀ code, l.flags / 2 % 2 = 0 → s.dis.failed.contains (l.slot, l.arrival) = false → l.ents ≠ [] →
      s.accessCode l.emb 0 (128 * l.ents.length) 64 = some code →
      ∃ t, exec (.association pipe list) s = .next t ∧ .bpmError reqTke code ∈ t.out ∧ t.tke = s.tke) ∧
    (l.flags / 2 % 2 = 1 ∨ s.dis.failed.contains (l.slot, l.arrival) = true →
      ∃ t, exec (.association pipe list) s = .next t ∧ t.dis = { s.dis with failed := s.dis.failed.filter fun f => !(f == (l.slot, l.arrival)) } ∧
        s.within [.dis] t))

/-- R309, R313, R314: what the scatter of a picture commits: a LIVE track that it matched has no miss and one hit more; one that it missed counts a miss, and beyond MAX_MISSES
it is DORMANT; an entry that creates takes a free context, LIVE in the slot. The slot has no result in hand any more. -/
def Obligations.ScatterCommits : Prop :=
  ∀ (slot : Fin 512) (s : State) (tb : TrackerBlock) (r : AssocResult), s.tracker = some tb →
    s.tke.results.find? (fun r => r.slot == slot.val) = some r → s.tkeServes = true → (s.slot slot.val).state ≠ 0 → r.predicted = [] →
    (∀ m, r.matched = [m] → m.dormant = false → (s.track m.track).tstate = 1 → r.missed = [] → r.created = [] →
      ∃ t, exec (.trackerStepCommit slot []) s = .next t ∧ (t.track m.track).misses = 0 ∧
        (t.track m.track).hits = satAdd (s.track m.track).hits 1 ∧ (t.track m.track).lastSeen = r.arrival ∧ (t.track m.track).cls = m.det.cls ∧
        (r.concealed = false → (t.track m.track).obs = true ∧ (t.track m.track).embValid = true ∧
          (t.tvec m.track).emb = blend tb.embAlpha (s.track m.track).embValid (s.tvec m.track).emb m.det.emb) ∧
        ∀ q ∈ t.tke.results, q.slot ≠ slot.val) ∧
    (∀ i, r.matched = [] → r.missed = [i] → (s.track i).tstate = 1 → r.created = [] →
      ((s.track i).misses < tb.maxMisses.toNat → ∃ t, exec (.trackerStepCommit slot []) s = .next t ∧
        t.track i = { s.track i with misses := (s.track i).misses + 1 }) ∧
      (tb.maxMisses.toNat ≤ (s.track i).misses → (tget [] s.tke.zones (s.track i).zone).length < 1024 →
        ∃ t, exec (.trackerStepCommit slot []) s = .next t ∧ (t.track i).tstate = 2 ∧
          tget [] t.tke.zones (s.track i).zone = tget [] s.tke.zones (s.track i).zone ++ [i])) ∧
    ∀ d i h u, r.matched = [] → r.missed = [] → r.created = [d] →
      (s.updTke fun k => { k with results := k.results.filter fun q => !(q.slot == slot.val) }).newTrack = some (i, h, u) →
      ∃ t, exec (.trackerStepCommit slot []) s = .next t ∧ (t.track i).tstate = 1 ∧ (t.track i).slot = BitVec.ofNat 16 r.slot ∧ (t.track i).cls = d.cls ∧
        (t.track i).hits = 1 ∧ (t.track i).firstSeen = r.arrival ∧ (t.track i).side = h ∧ (t.tvec i).emb = d.emb

/-- R309, R315, R380: an entry of a handoff ring is consumed: one that keeps its form makes a DORMANT track of its zone, any other counts as rejected. R309: a DORMANT track
whose time has passed is RETIRED, and, in no batch, FREE with its generation moved on. -/
def Obligations.HandoffAndDormancy : Prop :=
  (∀ (ring : Fin 4) (s : State) (tb : TrackerBlock) (a : Nat) (b : List Byte), s.tracker = some tb → s.tkeServes = true → s.dev.state ≠ .parked →
    ring.val < s.setting 12 0 → tget 0 s.hif.hoGet ring.val ≠ tget 0 s.hif.hoPut ring.val →
    a = handoffBase ring.val + 128 * ((tget 0 s.hif.hoGet ring.val).toNat % handoffEntries) → b = s.dramBytes a 128 →
    ∃ t, exec (.handoffEntry ring) s = .next t ∧ tget 0 t.hif.hoGet ring.val = tget 0 s.hif.hoGet ring.val + 1 ∧
      (s.poisonedAt a 128 = true ∨ handoffOk tb b = false → t.tke = { s.tke with rejected := satAdd s.tke.rejected 1 } ∧ s.within [.hif, .tke, .dmc] t) ∧
      (∀ i h u, s.poisonedAt a 128 = false → handoffOk tb b = true → (tget [] s.tke.zones (field b 0 1)).length < 1024 →
        s.newTrack = some (i, h, u) →
        (t.track i).tstate = 2 ∧ (t.track i).handoff = true ∧ (t.track i).zone = field b 0 1 ∧ t.tke.accepted = satAdd s.tke.accepted 1 ∧
          tget [] t.tke.zones (field b 0 1) = tget [] s.tke.zones (field b 0 1) ++ [i])) ∧
  ∀ (i : Fin 1048576) (s : State), s.tke.inService = true → s.isFrozen = false → (s.track i.val).tstate = 2 →
    (∀ r ∈ s.tke.results, ∀ m ∈ r.matched, m.track ≠ i.val) →
    ∃ t, exec (.dormancyExpiry i) s = .next t ∧
      ((s.track i.val).lastSeen + s.setting 5 300 * 1000000000 < 2 ^ 64 → (s.track i.val).lastSeen + s.setting 5 300 * 1000000000 ≤ t.now) ∧
      i.val ∉ tget [] t.tke.zones (s.track i.val).zone ∧
      ((s.track i.val).inBatch = true → (t.track i.val).tstate = 3) ∧
      ((s.track i.val).inBatch = false → tfind t.tke.tracks i.val = none ∧ t.gen i.val = nextGen (s.track i.val).gen)

/-- R317, R318, R321: a tick starts at its due time, or late, which LATE_TICKS counts; TICK takes its number, and the sequences of the batch leave and join before it runs. -/
def Obligations.TickStarts : Prop :=
  ∀ (events : List EventOut) (s : State) (tb : TrackerBlock), s.tracker = some tb → s.tkeServes = true → s.tke.running = false →
    (s.pwr.pstate = .run ∨ s.pwr.pstate ≠ .off ∧ s.tickBusy = false) →
    ∃ u : State, exec (.tickStart events) s = .next (u.runTick.endTick.resumeAll) ∧ u.tke.tick = BitVec.ofNat 32 s.nextTick ∧ u.tke.running = true ∧
      u.tke.ticked = true ∧ u.tke.evts = events ∧
      u.tke.late = (if s.tke.t0 + s.nextTick * s.setting 6 20 * 1000000 < s.now then satAdd s.tke.late 1 else s.tke.late) ∧
      (s.tke.t0 + s.nextTick * s.setting 6 20 * 1000000 < 2 ^ 64 → s.tke.t0 + s.nextTick * s.setting 6 20 * 1000000 ≤ u.now)

/-! ### Registers of the host interface -/

/-- A chip reset has started: RESET_EPOCH and RESET_COUNT moved on, the AON names it, the link is down, and every block holds its reset values (R420, R423, R424, R426). -/
def Sys2Proof.Machine.ChipResets (cause : U16) (s t : State) : Prop :=
  t.ep.epoch = s.ep.epoch + 1 ∧ t.ep.count = s.ep.count + 1 ∧ t.aon.cause = cause ∧ t.aon.level = 3 ∧ t.aon.wdogArmed = true ∧
    t.aon.wdogBoot = false ∧ t.wires.linkUp = false ∧ t.dev = { timeHi := s.dev.timeHi } ∧ t.hif = {} ∧ t.link = {} ∧ t.dis = {} ∧ t.tke = {} ∧ t.bpm = {} ∧ t.ras = {} ∧
    t.dram.poison = [] ∧ t.crt.cart = s.crt.cart ∧ t.crt.stage = 0

/-- Attention of class fault with ST_RING (R366). -/
def Sys2Proof.Machine.BadRing (s t : State) : Prop :=
  t.hif.attn = s.hif.attn ||| 1 ∧ tget 0 t.hif.attnCode 0 = 0x0007

/-- R366, R365, R376, R380: an index that the host writes is taken while it keeps its ring within its size; one out of range leaves the index and raises attention of class
fault with ST_RING. A metadata GET lets the oldest waiting record go out, in one write of all its entries, where there is room for them. -/
def Obligations.RingIndicesMove : Prop :=
  ∀ (v : U32) (s w : State), s.mmio = true → w = s.taken → w.isFrozen = false →
    ((v - w.hif.cmdGet).toNat ≤ 2 ^ w.hif.cmdLog2.toNat → exec (.hifCmdPut v) s = .next (w.updHif fun h => { h with cmdPut := v })) ∧
    (2 ^ w.hif.cmdLog2.toNat < (v - w.hif.cmdGet).toNat → ∃ t, exec (.hifCmdPut v) s = .next t ∧ t.hif.cmdPut = w.hif.cmdPut ∧ BadRing w t) ∧
    ((w.hif.rplPut - v).toNat ≤ 2 ^ w.hif.rplLog2.toNat → exec (.hifRplGet v) s = .next (w.updHif fun h => { h with rplGet := v })) ∧
    (2 ^ w.hif.rplLog2.toNat < (w.hif.rplPut - v).toNat → ∃ t, exec (.hifRplGet v) s = .next t ∧ t.hif.rplGet = w.hif.rplGet ∧ BadRing w t) ∧
    (∀ n : Fin 16, ((w.mdRing n.val).put - v).toNat ≤ 2 ^ (w.mdRing n.val).log2.toNat →
      ((w.mdRing n.val).ovf = [] → exec (.hifMdGet n v) s = .next (w.updMd n.val fun g => { g with get := v })) ∧
      ∀ r rest, (w.mdRing n.val).ovf = r :: rest → w.hif.ringEn = true → ((w.mdRing n.val).put - v).toNat + r.entries ≤ 2 ^ (w.mdRing n.val).log2.toNat →
        ∃ t, exec (.hifMdGet n v) s = .next t ∧ .hostWrite ((w.mdRing n.val).base + BitVec.ofNat 64 (64 * ((w.mdRing n.val).put.toNat % 2 ^ (w.mdRing n.val).log2.toNat)))
          (r.bytes w.now w.dev.synced) w.link.relaxed r.ep ∈ t.out) ∧
    (∀ n : Fin 4, w.serving = true → n.val < w.setting 12 0 →
      ((v - tget 0 w.hif.hoGet n.val).toNat ≤ handoffEntries →
        exec (.hifHoPut n v) s = .next (w.updHif fun h => { h with hoPut := tset 0 h.hoPut n.val v })) ∧
      (handoffEntries < (v - tget 0 w.hif.hoGet n.val).toNat → ∃ t, exec (.hifHoPut n v) s = .next t ∧ t.hif.hoPut = w.hif.hoPut ∧ BadRing w t))

/-- R367, R382: a command entry is read, with a tag that is free, while fewer than 64 commands are started and the reply ring has room for the replies; the read asks for the 64
bytes of the next entry. -/
def Obligations.CommandFetchReads : Prop :=
  ∀ (s : State) (tag : Nat), s.freeTag 0 = some tag → s.ringsWork = true → s.hif.cmdIssued ≠ s.hif.cmdPut →
    s.hif.started.length + s.cmdReads < 64 →
    (s.hif.rplPut - s.hif.rplGet).toNat + (s.hif.started.length + s.cmdReads) + 1 ≤ 2 ^ s.hif.rplLog2.toNat →
    ∃ t, exec .commandFetch s = .next t ∧ t.hif = { s.hif with cmdIssued := s.hif.cmdIssued + 1 } ∧
      t.link.reads = s.link.reads ++ [{ tag := tag, use := .command s.hif.cmdIssued, at_ := s.now }] ∧
      .hostRead tag (s.hif.cmdBase + BitVec.ofNat 64 (64 * (s.hif.cmdIssued.toNat % 2 ^ s.hif.cmdLog2.toNat))) 64 ∈ t.out ∧
      s.within [.hif, .link, .out] t

/-- R365: ENABLE written as 1 enables the rings where every base and size is in range, and else sets CFG_ERR; written as 0 it disables them. R371: a 1 in HIF_ATTN clears
a pending class, and an unsolicited reply with TAG 0 and the UNSOLICITED flag goes out 1 ms after a class was raised, in every power state. R394: HIF_TIME_LO latches the high half. -/
def Obligations.RingControlAndAttention : Prop :=
  (∀ (v : U32) (s w : State), s.mmio = true → w = s.taken →
    (∃ t, exec (.hifRingCtl v) s = .next t ∧
      t.hif.ringEn = (v.getLsbD 31 && w.hif.ringsOk) ∧ t.hif.cfgErr = (w.hif.cfgErr && !v.getLsbD 30 || v.getLsbD 31 && !w.hif.ringsOk) ∧
      t.hif.cmdPut = w.hif.cmdPut ∧ t.hif.rplPut = w.hif.rplPut) ∧
    (∃ t, exec (.hifAttn v) s = .next t ∧ t.hif.attn = w.hif.attn &&& ~~~ v.setWidth 8 ∧ t.hif.attnCode = w.hif.attnCode ∧ w.within [.hif] t) ∧
    ∃ t, exec .hifTimeLo s = .next t ∧ t.dev = { w.dev with timeHi := (w.aon.time >>> 32).setWidth 32 } ∧
      t.out = .completion (le 4 (w.aon.time.setWidth 32).toNat) false :: w.out ∧ w.within [.dev, .out] t) ∧
  ∀ (c : Fin 8) (s : State) (at_ : Nat), tfind s.hif.attnWait c.val = some at_ → s.funcReady = true → s.hif.ringEn = true → s.hif.attn.getLsbD c.val = true →
    (s.hif.rplPut - s.hif.rplGet).toNat < 2 ^ s.hif.rplLog2.toNat →
    ∃ t, exec (.unsolicitedReply c) s = .next t ∧ Replied s t 0 0 1 (tget 0 s.hif.attnCode c.val) [] ∧ t.hif.attnWait = [] ∧
      (at_ + 1000000 < 2 ^ 64 → at_ + 1000000 ≤ t.now)

/-- R362, R363, R364, R396: GO starts a commit, or, during one, sets OVERRUN; once the TLPs from before have drained the shadow descriptors are active and what waited goes on. A
BAR2 write reaches device DRAM through an enabled window where it lies in a push ring that is open or a handoff ring, and else is dropped and counted; a read returns the bytes,
in completions of at most the maximum payload (R357, log entry 130), each with the poison mark of its bytes (R385), or Unsupported Request; either waits during a commit. -/
def Obligations.WindowsWork : Prop :=
  (∀ (s w : State), s.mmio = true → w = s.awake →
    (w.wins.busy = false → exec .go s = .next (w.updWins fun x => { x with busy := true, commitAt := w.now })) ∧
    (w.wins.busy = true → exec .go s = .next (w.updWins fun x => { x with overrun := true })) ∧
    (∀ addr data poisoned a, w.wins.busy = false → w.isFrozen = false → w.dev.state ≠ .parked → w.windowTo addr data.length = some a →
      w.writable a data.length = true →
      ∃ t, exec (.bar2Write addr data poisoned) s = .next t ∧ t.dram = (w.dramPut a data poisoned).dram ∧ t.wins = w.wins ∧
        t.link.rxPoisoned = (if poisoned then satAdd w.link.rxPoisoned 1 else w.link.rxPoisoned) ∧ w.within [.dram, .link, .dev] t) ∧
    (∀ addr data poisoned, w.wins.busy = false →
      (w.isFrozen = true ∨ w.dev.state = .parked ∨ w.windowTo addr data.length = none ∨
        ∃ a, w.windowTo addr data.length = some a ∧ w.writable a data.length = false) →
      ∃ t, exec (.bar2Write addr data poisoned) s = .next t ∧ t.dram = w.dram ∧ t.wins = { w.wins with drops := satAdd w.wins.drops 1 }) ∧
    (∀ addr n a, w.wins.busy = false → w.dev.state ≠ .parked → w.windowTo addr n = some a →
      ((w.tlps a (w.dramBytes a n)).map (·.2)).flatten = w.dramBytes a n ∧
      ∃ t, exec (.bar2Read addr n) s = .next t ∧ (w.poisonedAt a n = false → w.within [.out] t) ∧
        ∀ p ∈ w.tlps a (w.dramBytes a n), p.2.length ≤ 2 ^ w.link.mpsLog2 ∧ .completion p.2 (w.poisonedAt p.1 p.2.length) ∈ t.out) ∧
    (∀ addr n, w.wins.busy = false → w.windowTo addr n = none → exec (.bar2Read addr n) s = .next (w.send .unsupported)) ∧
    (∀ addr data poisoned n, w.wins.busy = true →
      exec (.bar2Write addr data poisoned) s = .next (w.updWins fun x => { x with held := x.held ++ [.write addr data poisoned] }) ∧
      exec (.bar2Read addr n) s = .next (w.updWins fun x => { x with held := x.held ++ [.read addr n] }))) ∧
  ∀ (s : State), s.wins.busy = true → ∃ u : State, exec .windowCommitDrained s = .next (s.wins.held.foldl (fun v t => v.runTlp t) u) ∧
    u.wins.active = s.wins.shadow ∧ u.wins.busy = false ∧ u.wins.held = [] ∧ s.wins.holdMax.toNat ≤ u.wins.holdMax.toNat ∧ s.within [.wins] u

/-- R357, R361: BAR2 takes a new size, of 256 MiB to 64 GiB, while Memory Space Enable is 0, and every window is then disabled, its other fields as they were; at any other time, and
for any other size, nothing changes. -/
def Sys2Proof.Machine.Bar2TakesItsSize : Prop :=
  ∀ (k : Fin 37) (s : State),
    (s.funcReady = true → s.link.memSpace = false → 28 ≤ k.val →
      ∃ t, exec (.bar2Resize k) s = .next t ∧ t.link = { s.link with bar2Log2 := k.val } ∧ s.within [.link, .wins] t ∧
        ∀ n, tget {} t.wins.active n = { tget {} s.wins.active n with enable := false } ∧
          tget {} t.wins.shadow n = { tget {} s.wins.shadow n with enable := false }) ∧
    (s.funcReady = false ∨ s.link.memSpace = true ∨ k.val < 28 → exec (.bar2Resize k) s = .next s)

/-- R361: an access of BAR0 that is not an aligned one of 32 bits is answered with an Unsupported Request completion, which is the whole of what it does. An aligned one under
this command reads as HIF_TIME_LO and every register does, and as a write names no register to write (log entry 119). While BARs do not answer, nothing happens. -/
def Sys2Proof.Machine.Bar0AnswersAnyShape : Prop :=
  ∀ (write : Bool) (off : U32) (n : Nat) (s w : State), w = s.taken →
    (s.mmio = true → (off.toNat % 4 ≠ 0 ∨ n ≠ 4) →
      ∃ t, exec (.bar0BadAccess write off n) s = .next t ∧ t.out = .unsupported :: w.out ∧ w.within [.out] t) ∧
    (s.mmio = true → off.toNat % 4 = 0 → n = 4 →
      exec (.bar0BadAccess true off n) s = .next w ∧
      (off ≠ 0x838 → exec (.bar0BadAccess false off n) s = .next (w.send (.completion (le 4 (w.bar0 off.toNat).toNat) false))) ∧
      (off = 0x838 → exec (.bar0BadAccess false off n) s = exec .hifTimeLo s)) ∧
    (s.mmio = false → exec (.bar0BadAccess write off n) s = .next s)

/-- R433: a read of BAR4 returns the bytes of the dump that DBG_BAR4 names, from where DUMP_READ placed it, in completions of at most the maximum payload,
with EP where they lie in a poisoned block of its place in device DRAM (R385), and zeros where no dump is shown; R361, R433: a write of BAR4 is
answered with an Unsupported Request completion, and changes nothing. -/
def Sys2Proof.Machine.Bar4ReadsTheDump : Prop :=
  ∀ (off : U32) (n : Nat) (s w : State), w = s.taken →
    (s.mmio = true →
      (∀ d, w.dbg.bar4 ≠ 0 → w.findDump w.dbg.bar4 = some d →
        ((w.tlps off.toNat (d.slice (w.dbg.bar4Off.toNat + off.toNat) n)).map (·.2)).flatten = d.slice (w.dbg.bar4Off.toNat + off.toNat) n ∧
        ∃ t, exec (.bar4Read off n) s = .next t ∧ w.within [.out, .dmc] t ∧
          ∀ p ∈ w.tlps off.toNat (d.slice (w.dbg.bar4Off.toNat + off.toNat) n), p.2.length ≤ 2 ^ w.link.mpsLog2 ∧
            .completion p.2 (w.dumpBad d (w.dbg.bar4Off.toNat + off.toNat) (p.1 - off.toNat) p.2.length) ∈ t.out) ∧
      (w.dbg.bar4 = 0 ∨ w.findDump w.dbg.bar4 = none → ((w.tlps off.toNat (zeros n)).map (·.2)).flatten = zeros n ∧
        ∃ t, exec (.bar4Read off n) s = .next t ∧ w.within [.out] t ∧ ∀ p ∈ w.tlps off.toNat (zeros n), .completion p.2 false ∈ t.out) ∧
      ∃ t, exec (.bar4Write off) s = .next t ∧ t.out = .unsupported :: w.out ∧ w.within [.out] t) ∧
    (s.mmio = false → exec (.bar4Read off n) s = .next s ∧ exec (.bar4Write off) s = .next s)

/-- BAR2_RESIZE, BAR0_BAD_ACCESS, BAR4_READ and BAR4_WRITE complete, and what each does (R357, R361, R433). -/
def Obligations.OtherBarAccesses : Prop := Bar2TakesItsSize ∧ Bar0AnswersAnyShape ∧ Bar4ReadsTheDump

/-- R389: POWER_OFF written as 1 closes every open slot (log entry 127), and parks the device once no slot is open, no picture is being encoded and none is left to
encode: the pools and the track engine leave service, the trained channels are in self-refresh. In REFUSED it parks nothing (R81). Written as 0 in PARKED, a CHR with
RAS_UNPARK starts. R388: a first press of the button raises class removal; a second one within 5 s, before POWER_OFF, cancels it. -/
def Obligations.RemovalHandshake : Prop :=
  ∀ (s w : State), w = s.taken →
    (s.mmio = true → w.dev.state ≠ .parked → w.dev.state ≠ .refused → ∃ t, exec .powerOff s = .next t ∧
      ∀ n, n < 512 → (w.slot n).state ≠ 0 → (t.slot n).state = 4 ∨ (t.slot n).state = 0) ∧
    (s.mmio = true → w.dev.state = .refused → exec .powerOff s = .next (w.updDev fun d => { d with powerOff := true })) ∧
    (s.mmio = true → w.dev.state ≠ .parked → w.dev.state ≠ .refused → w.parkReady = true → ∃ t, exec .powerOff s = .next t ∧ t.dev.state = .parked ∧ t.bpm.inService = false ∧ t.tke.inService = false ∧
      ∀ k, k < 24 → (w.chan k).trained = true → (t.chan k).selfRefresh = true) ∧
    (s.mmio = true → w.dev.state = .parked → w.underReset .chip = false → ∃ t, exec .unpark s = .next t ∧ ChipResets 0x0514 w t) ∧
    (s.wires.ready = true → s.pwr.pstate ≠ .off → s.dev.state ≠ .parked → ∀ w : State, w = s.awake →
      (∀ p, w.dev.pressAt = some p → w.now - p ≤ 5000000000 → w.dev.powerOff = false →
        ∃ t, exec .attentionButton s = .next t ∧ t.dev = { w.dev with cancelled := true, pressAt := none } ∧ t.hif.attn = w.hif.attn) ∧
      (w.dev.pressAt = none → w.isFrozen = false → ∃ t, exec .attentionButton s = .next t ∧ t.dev = { w.dev with button := true, pressAt := some w.now } ∧
        t.hif.attn = w.hif.attn ||| 0x20 ∧ tget 0 t.hif.attnCode 5 = 0x051D))

/-- R26, R28, R30: a slot-map write with a physical core that is free and not fenced waits for the slot's next tile fetch, and the tile that the replaced core runs is to be
issued again; a core of a fused group is replaced at once, and its group restarts; R178: a tile-map write of that kind takes effect at the
next pass; either is ignored for an index out of range, one that a VALID entry maps, or a fenced one. R339: DMC_TRN_CTL starts a training run, whose end leaves its result, with errors that saturate (R354). -/
def Obligations.MapsAndTraining : Prop :=
  (∀ (r : Fin 8) (n : Fin 16) (v : U32) (s : State), v.getLsbD 31 = true →
    (v.toNat % 32 ≤ 17 → (s.region r.val).fenced.getLsbD (v.toNat % 32) = false →
      (∀ m, m < 16 → m ≠ n.val → ((s.region r.val).written m).valid = true → ((s.region r.val).written m).phys ≠ v.toNat % 32) →
      ((s.core r.val (mapGet (s.region r.val).slotMap n.val).phys).fusedLayer = none →
      ∃ t, exec (.rgnSlotMap r n v) s = .next t ∧ tfind (t.region r.val).slotNext n.val = some { valid := true, phys := v.toNat % 32 } ∧
        (t.region r.val).slotMap = (s.region r.val).slotMap ∧ s.within [.rgn] t ∧
        ((mapGet (s.region r.val).slotMap n.val).valid = true → mapGet (s.region r.val).slotMap n.val ≠ { valid := true, phys := v.toNat % 32 } →
          ∀ k, k < 64 → (s.wc r.val k).active = true → ∀ x ∈ (s.wc r.val k).runners, x.slot = n.val → tget 0 (s.wc r.val k).board x.tile = 1 →
            x.tile ∈ (t.wc r.val k).requeue)) ∧
      ((s.core r.val (mapGet (s.region r.val).slotMap n.val).phys).fusedLayer.isSome = true → (mapGet (s.region r.val).slotMap n.val).valid = true →
        mapGet (s.region r.val).slotMap n.val ≠ { valid := true, phys := v.toNat % 32 } →
        ∃ t, exec (.rgnSlotMap r n v) s = .next t ∧ mapGet (t.region r.val).slotMap n.val = { valid := true, phys := v.toNat % 32 })) ∧
    ((17 < v.toNat % 32 ∨ (s.region r.val).fenced.getLsbD (v.toNat % 32) = true ∨
        ∃ m, m < 16 ∧ m ≠ n.val ∧ ((s.region r.val).written m).valid = true ∧ ((s.region r.val).written m).phys = v.toNat % 32) →
      exec (.rgnSlotMap r n v) s = .next s) ∧
    (v.toNat % 32 ≤ 16 → (s.region r.val).gau.fenced.getLsbD (v.toNat % 32) = false →
      (∀ m, m < 16 → m ≠ n.val → (mapGet (s.region r.val).gau.tileMap m).valid = true → (mapGet (s.region r.val).gau.tileMap m).phys ≠ v.toNat % 32) →
      ∃ t, exec (.gauTileMap r n v) s = .next t ∧ mapGet (t.region r.val).gau.tileMap n.val = { valid := true, phys := v.toNat % 32 } ∧ s.within [.rgn] t)) ∧
  ∀ (k : Fin 24) (s : State),
    (∀ v : U32, v.getLsbD 31 = true → ∃ t, exec (.trainingRun k v) s = .next t ∧ (tget {} t.dmc.trn k.val).busy = true ∧
      (tget {} t.dmc.trn k.val).step = BitVec.ofNat 3 (v.toNat / 2 ^ 27 % 8) ∧ (tget {} t.dmc.trn k.val).code = BitVec.ofNat 8 (v.toNat / 2 ^ 16 % 256) ∧
      s.within [.dmc] t) ∧
    ∀ mask e, (tget {} s.dmc.trn k.val).busy = true → ∃ t, exec (.trainingRunDone k mask e) s = .next t ∧ (tget {} t.dmc.trn k.val).busy = false ∧
      (tget {} t.dmc.trn k.val).failMask = mask ∧ (tget {} t.dmc.trn k.val).errors = BitVec.ofNat 16 (min e 65535) ∧
      (tget {} t.dmc.trn k.val).runs = ((tget {} s.dmc.trn k.val).step.toNat, (tget {} s.dmc.trn k.val).code.toNat, mask) :: (tget {} s.dmc.trn k.val).runs ∧
      s.within [.dmc] t

/-- R11, R361, R395, R396, R413, R427, R434, R71: a register write sets the fields that its block gives it, RW1C fields clear where a 1 is written, RO registers keep their value, and the RAS
thresholds take the MGC's writes alone. A poisoned write is discarded and counted (R385). -/
def Obligations.RegisterWritesAct : Prop :=
  ∀ (v : U32) (s w : State), s.mmio = true → w = s.taken →
    exec (.registerWrite 0x10 v false false) s = .next (w.updHif fun h => { h with cmdBase := setLo h.cmdBase v }) ∧
    exec (.registerWrite 0x44 v false false) s = .next (w.updHif fun h => { h with rplMirror := setLo h.rplMirror v }) ∧
    (∀ n, n < 32 → exec (.registerWrite (BitVec.ofNat 32 (0x408 + 0x10 * n)) v false false) s
      = .next (w.updWins fun x => { x with shadow := tupd {} x.shadow n fun d => { d with enable := v.getLsbD 31, area := v.getLsbD 30 } })) ∧
    exec (.registerWrite 0x804 v false false) s = .next (w.updWins fun x => { x with overrun := x.overrun && !v.getLsbD 30 }) ∧
    exec (.registerWrite 0x820 v false false) s
      = .next (w.updDev fun d => { d with button := d.button && !v.getLsbD 31, cancelled := d.cancelled && !v.getLsbD 30 }) ∧
    exec (.registerWrite 0x3300008 v false false) s = .next (w.updCrt fun c => { c with
      untrained := c.untrained && !v.getLsbD 5, foreign := c.foreign && !v.getLsbD 4, lifeLow := c.lifeLow && !v.getLsbD 3
      writeFail := c.writeFail && !v.getLsbD 2, inserted := c.inserted && !v.getLsbD 1, removed := c.removed && !v.getLsbD 0 }) ∧
    exec (.registerWrite 0x3200008 v false false) s = .next (w.updDbg fun d => { d with
      errClasses := BitVec.ofNat 5 (v.toNat / 256 % 32), resetEn := v.getLsbD 3, treacleEn := v.getLsbD 2, errorEn := v.getLsbD 1, pinEn := v.getLsbD 0 }) ∧
    (∀ k, k < 5 → exec (.registerWrite (BitVec.ofNat 32 (0x3100010 + 4 * k)) v false false) s = .next w ∧
      exec (.registerWrite (BitVec.ofNat 32 (0x3100010 + 4 * k)) v true false) s
        = .next (s.updRas fun r => { r with thr := tput k (v.toNat / 2 ^ 24 % 32) r.thr, win := tput k (v.toNat % 2 ^ 24) r.win })) ∧
    (∀ k, k < 0x100 → exec (.registerWrite (BitVec.ofNat 32 (0x3400000 + 4 * k)) v false false) s = .next w) ∧
    ∀ off : U32, off ≠ goOffset → ∃ t, exec (.registerWrite off v false true) s = .next t ∧ t.link.rxPoisoned = satAdd w.link.rxPoisoned 1 ∧
      t.link.aerPoison = true ∧ w.within [.link, .dev] t

/-! ### Link, boot and resets -/

/-- The boot ROM starts: BOOT_STAGE 1, the link trained at its highest width and rate, the watchdog on the boot (R72, R358, R420). -/
def Sys2Proof.Machine.Boots (s t : State) : Prop :=
  t.crt.stage = 1 ∧ t.crt.present = s.crt.cart.isSome ∧ t.wires.linkUp = true ∧ t.wires.l23 = false ∧ t.wires.cartVcc = s.crt.cart.isSome ∧
    t.link.width = 16 ∧ t.link.rate = 3 ∧ t.aon.wdogArmed = true ∧ t.aon.wdogBoot = true ∧ t.aon.wdogStart = s.now ∧ t.ep = s.ep

/-- R359, R424, R442, R67: PERST#, a hot reset and the loss of the link start a CHR with RAS_LINK_RESET, PERST# in Off one with RAS_WAKE_OFF, and an insertion in REFUSED, 1 s
later, one with RAS_CART_INSERT. PERST# deasserted over a supply that is there starts the boot ROM, with the clock strap sampled. -/
def Obligations.LinkResets : Prop :=
  ∀ (s : State), s.underReset .chip = false →
    (s.wires.perst = false → s.wires.ready = true → ∃ t, exec .perstAssert s = .next t ∧ t.wires.perst = true ∧
      ChipResets (if s.pwr.pstate = .off then 0x0516 else 0x050B) s t) ∧
    (s.wires.perst = false → s.wires.ready = false → exec .perstAssert s = .next (s.updWires fun w => { w with perst := true })) ∧
    (∀ common, s.wires.perst = true → s.atRest = true → s.supplyOk = true → s.dbg.current = none →
      ∃ t, exec (.perstDeassert common) s = .next t ∧ t.wires.perst = false ∧ t.wires.commonClock = common ∧ Boots s t) ∧
    (∀ common, s.wires.perst = true → s.atRest = false →
      exec (.perstDeassert common) s = .next (s.updWires fun w => { w with perst := false, commonClock := common })) ∧
    (∀ i, i ∈ [Instr.hotReset, .linkDown] → s.wires.linkUp = true → s.pwr.pstate ≠ .off → ∃ t, exec i s = .next t ∧ ChipResets 0x050B s t) ∧
    ∀ at_, s.crt.chrAt = some at_ → ∃ t, exec .cartInsertChr s = .next t ∧ ChipResets 0x0512 s t ∧ (at_ < 2 ^ 64 → at_ ≤ t.now)

/-- R358, R38, R442: a link that retrains takes its new width and rate; D3hot and D0 change no other state; PME_Turn_Off puts the link into L2/L3 Ready, and the device into Off where
every condition of Off holds: everything is lost but the AON, the wires, the JTAG port and the cartridge. -/
def Obligations.LinkPowerStates : Prop :=
  (∀ (width : Fin 32) (rate : Fin 4) (s : State), s.wires.linkUp = true →
    ∃ t, exec (.linkRetrain width rate) s = .next t ∧ t.link.width = BitVec.ofNat 5 width.val ∧ t.link.rate = BitVec.ofNat 3 rate.val ∧
      (s.link.width.toNat ≤ width.val → s.link.rate.toNat ≤ rate.val → s.within [.link] t)) ∧
  ∀ (s w u : State), s.funcReady = true → w = s.awake → u = (w.updWires fun x => { x with l23 := true }) →
    (∀ d, exec (.pmStateChange d) s = .next (w.updLink fun l => { l with d3hot := d })) ∧
    (u.mayOff = false → exec .pmeTurnOff s = .next u) ∧
    (u.mayOff = true → w.pwr.pstate ≠ .off → ∃ t, exec .pmeTurnOff s = .next t ∧ t.pwr.pstate = .off ∧ t.aon.offAt = w.aon.time ∧ t.ep = w.ep ∧
      t.jtag = w.jtag ∧ t.hif = {} ∧ t.dev = {} ∧ t.dis = {} ∧ t.dbg = {} ∧ t.dram.poison = [] ∧ t.crt.stage = 0 ∧ t.crt.recipe = none)

/-- R382, R384, R373, R96, R385: a read that times out is counted, its tag is quarantined and its data is lost: of a command, a reply with ST_CMD_LOST goes out; of a pull
ring, the bytes are marked. A completion that comes late counts and frees its tag, and so counts each
further one of a read that was split (log entry 87); after twice the timeout the tag is free in any case. -/
def Obligations.ReadsTimeOut : Prop :=
  ∀ (tag : U16) (s : State),
    (∀ r, s.link.reads.find? (fun r => r.tag == tag.toNat) = some r → ∃ t, exec (.completionTimeout tag) s = .next t ∧
      t.link.timeouts = satAdd s.link.timeouts 1 ∧ t.link.aerCto = true ∧ (∀ x ∈ t.link.reads, x.tag ≠ tag.toNat) ∧
      (∃ q, t.link.quarantine = s.link.quarantine ++ [q] ∧ q.tag = r.tag) ∧ (r.at_ + s.ctoNs < 2 ^ 64 → r.at_ + s.ctoNs ≤ t.now) ∧
      (∀ i, r.use = .command i → s.hif.ringEn = true → t.hif.cmdGet = s.hif.cmdGet + 1 ∧ ∃ st, RepliedAs st s t 0 0xFF 0 0x0005 (le 4 i.toNat)) ∧
      ∀ n pos len, r.use = .pull n pos len → (s.slot n).wants pos = true → ∃ u : State, t = u.fetched n ∧
        (u.slot n).lost = (s.slot n).lost ++ [(pos, len)]) ∧
    (s.link.quarantine.any (fun r => r.tag == tag.toNat) = true → exec (.lateCompletion tag) s = .next (s.updLink fun l =>
      { l with late := satAdd l.late 1, quarantine := l.quarantine.filter fun r => !(r.tag == tag.toNat), split := insertN tag.toNat l.split })) ∧
    (s.link.quarantine.any (fun r => r.tag == tag.toNat) = false → s.link.split.contains tag.toNat = true →
      exec (.lateCompletion tag) s = .next (s.updLink fun l => { l with late := satAdd l.late 1 })) ∧
    ∀ r, s.link.quarantine.find? (fun r => r.tag == tag.toNat) = some r → ∃ t, exec (.tagQuarantineExpiry tag) s = .next t ∧
      t.link = { s.link with quarantine := s.link.quarantine.filter fun r => !(r.tag == tag.toNat) } ∧ s.within [.link, .aon] t ∧
      (r.at_ + 2 * s.ctoNs < 2 ^ 64 → r.at_ + 2 * s.ctoNs ≤ t.now)

/-- R387, R453, R441: a dialogue sends a request; a response gives the offset of device time, a lag of more than 1 ms is stepped away and any other offset slewed, and SYNCED is set
once every dialogue of 1 s has found the offset within 100 ns. After 1 s without one SYNCED is clear. The sign of the offset is the model's reading (log entry 43). -/
def Obligations.PtmFollowsRoot : Prop :=
  ∀ (s : State),
    (s.ptmRuns = true → s.isFrozen = false → exec .ptmDialogue s = .next (s.send .ptmRequest)) ∧
    (∀ (root : U64) (off : Int), s.ptmRuns = true → off = (s.now : Int) - (root.toNat : Int) → -(2 ^ 31 : Int) ≤ off → off < 2 ^ 31 →
      ∃ t, exec (.ptmResponse root) s = .next t ∧ t.dev.ptmOffset = BitVec.ofInt 32 off ∧ t.dev.ptmLast = some s.now ∧
        (off < -1000000 → t.aon.time = root ∧ t.aon.offsetPs = 0) ∧ (-1000000 ≤ off → t.aon.time = s.aon.time ∧ t.aon.offsetPs = off * 1000) ∧
        (t.dev.synced = true ↔ -100 ≤ off ∧ off ≤ 100 ∧ ∃ g, s.dev.ptmGood = some g ∧ 1000000000 ≤ s.now - g) ∧ s.within [.dev, .aon] t) ∧
    ∀ at_, s.dev.ptmLast = some at_ → ∃ t, exec .ptmSyncLoss s = .next t ∧ t.dev = { s.dev with synced := false, ptmGood := none, ptmLast := none } ∧
      t.aon.offsetPs = 0 ∧ (at_ + 1000000000 < 2 ^ 64 → at_ + 1000000000 ≤ t.now)

/-- R381: DELAY after the oldest entry that was not signalled the ring's vector fires, or stays pending while it or the function is masked; while MSI-X is not enabled
nothing is sent (log entry 130). R72, R357: a configuration request before step 6 is answered with
retry status; later each write sets its field, a size out of its range but for that, enabling MSI-X and unmasking send
what is pending, a read of a field returns its value, and a read of a word returns the class code and the BAR attributes where the common header has them, and bits
that the spec does not state elsewhere (R360; log entry 44). -/
def Obligations.ConfigurationAndDelays : Prop :=
  (∀ (v : Fin 18) (s : State), v.val ≠ 0 → v.val ≠ 17 → (s.mdRing (v.val - 1)).unsig ≠ 0 → (s.mdRing (v.val - 1)).delay ≠ 0 → s.funcReady = true →
    ∃ t, exec (.msixDelay v) s = .next t ∧ t.mdRing (v.val - 1) = { s.mdRing (v.val - 1) with unsig := 0, oldest := 0 } ∧
      (s.link.msixEn = true → s.link.msixMaskAll = false → v.val ∉ s.link.msixMask → t.out = .msix v.val :: s.out ∧ t.link = s.link) ∧
      (s.link.msixEn = true → (s.link.msixMaskAll = true ∨ v.val ∈ s.link.msixMask) → v.val ∈ t.link.msixPend ∧ t.out = s.out) ∧
      (s.link.msixEn = false → t.out = s.out ∧ t.link = s.link) ∧
      ((s.mdRing (v.val - 1)).oldest + 16000 * (s.mdRing (v.val - 1)).delay.toNat < 2 ^ 64 →
        (s.mdRing (v.val - 1)).oldest + 16000 * (s.mdRing (v.val - 1)).delay.toNat ≤ t.now)) ∧
  ∀ (s w : State), s.wires.linkUp = true → s.wires.l23 = false → w = s.awake →
    (∀ q, s.funcReady = false → exec (.configurationRequest q) s = .next (s.send .retryStatus)) ∧
    (s.funcReady = true →
      (∀ r, exec (.configurationRequest (.setCtoRange r)) s = .next ((w.updLink fun l => { l with ctoRange := r }).send .completionOk)) ∧
      (∀ b, exec (.configurationRequest (.setPtm b)) s = .next ((w.updLink fun l => { l with ptmOn := b }).send .completionOk)) ∧
      (∀ b, exec (.configurationRequest (.setTag10 b)) s = .next ((w.updLink fun l => { l with tag10 := b }).send .completionOk)) ∧
      (∀ b, exec (.configurationRequest (.setRelaxed b)) s = .next ((w.updLink fun l => { l with relaxed := b }).send .completionOk)) ∧
      (∀ b, exec (.configurationRequest (.setMemSpace b)) s = .next ((w.updLink fun l => { l with memSpace := b }).send .completionOk)) ∧
      (∀ n, (7 ≤ n.val → exec (.configurationRequest (.setMaxReadReq n)) s = .next ((w.updLink fun l => { l with mrrsLog2 := n.val }).send .completionOk)) ∧
        (n.val < 7 → exec (.configurationRequest (.setMaxReadReq n)) s = .next (w.send .completionOk))) ∧
      (∀ n, (7 ≤ n.val → exec (.configurationRequest (.setMaxPayload n)) s = .next ((w.updLink fun l => { l with mpsLog2 := n.val }).send .completionOk)) ∧
        (n.val < 7 → exec (.configurationRequest (.setMaxPayload n)) s = .next (w.send .completionOk))) ∧
      (∀ g c, exec (.configurationRequest (.setEcrc g c)) s = .next ((w.updLink fun l => { l with ecrcGen := g, ecrcChk := c }).send .completionOk)) ∧
      (∀ b, exec (.configurationRequest (.setAspmL1 b)) s = .next ((w.updLink fun l => { l with aspmL1 := b }).send .completionOk)) ∧
      exec (.configurationRequest .clearAer) s
        = .next ((w.updLink fun l => { l with aerCto := false, aerPoison := false, aerHead := none }).send .completionOk) ∧
      (∀ all, ∃ t, exec (.configurationRequest (.setMsix true all)) s = .next t ∧ t.link.msixEn = true ∧ t.link.msixMaskAll = all ∧
        (all = false → ∀ v, v ∈ w.link.msixPend → v ∉ w.link.msixMask → .msix v ∈ t.out ∧ v ∉ t.link.msixPend)) ∧
      (∀ f, exec (.configurationRequest (.readField f)) s = .next (w.send (.completion (le (fieldBytes f) (w.cfgField f)) false))) ∧
      (∀ b, ∃ t, exec (.configurationRequest (.setLtr b)) s = .next t ∧ t.link.ltrOn = b ∧ .completionOk ∈ t.out) ∧
      (∀ v : Fin 18, ∃ t, exec (.configurationRequest (.setMsixMask v false)) s = .next t ∧ v.val ∉ t.link.msixMask ∧
        (w.link.msixEn = true → w.link.msixMaskAll = false → v.val ∉ t.link.msixPend ∧ (v.val ∈ w.link.msixPend → .msix v.val ∈ t.out))) ∧
      ∀ off, ∃ t x, exec (.configurationRequest (.read off)) s = .next t ∧ t.out = .completion x false :: w.out ∧ x.length = 4 ∧
        w.within [.out, .fresh] t ∧ (off = 8 → x.drop 1 = [0x00, 0x00, 0x12]) ∧
        (off = 16 → x.head? = some 0x04) ∧ (off = 24 → 28 ≤ w.link.bar2Log2 → x.head? = some 0x0C) ∧ (off = 32 → x.head? = some 0x0C))

/-- R51: the checks of a header in order, each with its code: the first one that fails decides, and a header that passes them all has none. The hash is SHA-384 of the
manifest, and the signatures are ECDSA P-384 over SHA-384 under the root key that the header names (log entry 8). -/
def Sys2Proof.Machine.HeaderChecksInOrder : Prop :=
  ∀ (f : Fuses) (c : Cartridge) (a b d e g i : Bool),
    a = (c.header.magic == 0x4352514B && c.header.hdrVersion == 1 && c.header.manifestLen.toNat != 0 && c.header.manifestLen.toNat % 72 == 0
      && decide (c.header.manifestLen.toNat ≤ 65536)) →
    b = (!f.rootRevoked.getLsbD c.header.rootIndex.toNat && decide (c.header.rootIndex.toNat ≤ 3) && certOk f c.header && headerSigOk c.header) →
    d = (unle (sha384 (manifestBytes c.manifest)) == c.header.manifestHash.toNat) → e = decide (f.minSecVer.toNat ≤ c.header.secVersion.toNat) →
    g = (c.header.cartType == 1 || c.header.cartType == 2) → i = manifestFits c →
    headerCode f c = (if !a then some 0x0102 else if !b then some 0x0103 else if !d then some 0x0104 else if !e then some 0x0105
      else if !g then some 0x0106 else if !i then some 0x0107 else none)

/-- R51 to R54, R72 steps 1 to 5, R75: the boot stops in REFUSED without a cartridge and at the first header check that fails, with its code, and at a firmware image whose hash is
wrong; else it moves on stage by stage. -/
def Sys2Proof.Machine.BootChecks : Prop :=
  ∀ (s : State),
    (s.bootAt 1 = true →
      (s.crt.cart = none → ∃ t, exec (.headerCheck ()) s = .next t ∧ t.dev.state = .refused ∧ t.dev.refCode = 0x0101 ∧ t.aon.wdogArmed = false) ∧
      (∀ c code, s.crt.cart = some c → headerCode s.fuses c = some code →
        ∃ t, exec (.headerCheck ()) s = .next t ∧ t.dev.state = .refused ∧ t.dev.refCode = code ∧ t.crt.stage = 2 ∧ t.crt.verified = s.crt.verified) ∧
      ∀ c, s.crt.cart = some c → headerCode s.fuses c = none →
        ∃ t r, exec (.headerCheck ()) s = .next t ∧ t.crt.stage = 2 ∧ t.crt.verified = true ∧ t.crt.sameCart = true ∧ t.crt.recipe = some r ∧
          r.header = c.header ∧ r.plans = [] ∧ s.within [.crt] t) ∧
    (∀ r c hash, s.bootAt 2 = true → s.crt.verified = true → s.crt.recipe = some r → s.crt.cart = some c →
      (sectionHashes r.manifest (· == 1) = [hash] → exec (.firmwareStart hash) s =
        .next (s.updCrt fun d => { d with stage := 3, recipe := some { r with fwVersion := c.fwVersion, fw := c.fw } })) ∧
      (sectionHashes r.manifest (· == 1) ≠ [hash] → ∃ t, exec (.firmwareStart hash) s = .next t ∧ t.dev.state = .refused ∧ t.dev.refCode = 0x0104 ∧
        t.crt = { s.crt with verified := false })) ∧
    (s.bootAt 3 = true → exec .functionReady s = .next (s.updCrt fun c => { c with stage := 4 }))

/-- R72 steps 6 to 8, R74, R411, R75, R339: one channel whose training fails, or whose runs find no window of 8 delay codes for some bit (log entry 125), is retired and
the boot goes on, two stop it; self-test leaves its result, in its extended form which ends after the sections are read, with the losses of
the VERIFY training compared (R223), and counts in FAILED the units that a failing row without a spare has fenced too (R404), and the sections, once hashed, are the Recipe in force; both done, the boot stands at stage 8. -/
def Sys2Proof.Machine.BootProceeds : Prop :=
  ∀ (s : State),
    (∀ fail delays ppr, s.bootAt 4 = true →
      (∀ a b rest, (List.range 24).filter (fun k => BitVec.getLsbD fail k || (tget {} s.dmc.trn k).narrow) = a :: b :: rest →
        ∃ t, exec (.dramTrainingDone fail delays ppr) s = .next t ∧ t.dev.state = .refused ∧ t.dev.refCode = 0x0108) ∧
      (((List.range 24).filter (fun k => BitVec.getLsbD fail k || (tget {} s.dmc.trn k).narrow)).length ≤ 1 →
        ∃ t, exec (.dramTrainingDone fail delays ppr) s = .next t ∧ t.crt.stage = 6 ∧
          ∀ k, k < 24 → (BitVec.getLsbD fail k || (tget {} s.dmc.trn k).narrow) = true → (t.chan k).retired = true ∧ (t.chan k).inService = false ∧ (t.chan k).selfRefresh = true)) ∧
    ((s.bootAt 6 = true ∨ s.bootAt 7 = true) → s.ras.stResult = 0 → (s.diagnostic = false ∨ s.crt.loaded = true) →
      ∀ failed rows ms trained, ∃ t n, exec (.selfTestDone failed rows ms trained) s = .next t ∧ failed.length ≤ n ∧
        (rows = [] → s.diagnostic = false → n = failed.length) ∧
        (∀ r, rows = [] → s.diagnostic = true → s.crt.recipe = some r → (n = 0 ↔ failed = [] ∧ ∀ x ∈ trained, x.2.2 = r.verifyLoss)) ∧
        (t.underReset .chip = false → t.ras.stMs = ms ∧ t.ras.stFailed = BitVec.ofNat 8 (min n 255) ∧
          t.ras.stResult = (if n = 0 then 1 else if s.diagnostic then 3 else 2) ∧ t.crt.stage = (if s.crt.loaded then 8 else 7))) ∧
    (s.diagnostic = true → s.crt.loaded = false → ∀ failed rows ms trained, exec (.selfTestDone failed rows ms trained) s = .next s) ∧
    ((s.bootAt 6 = true ∨ s.bootAt 7 = true) → s.crt.loaded = false →
      ∀ r hashes, s.crt.recipe = some r →
      (sectionHashes r.manifest (· != 1) ≠ hashes → ∃ t, exec (.sectionsLoaded hashes) s = .next t ∧ t.dev.state = .refused ∧ t.dev.refCode = 0x0104) ∧
      ∀ c, sectionHashes r.manifest (· != 1) = hashes → s.crt.cart = some c → ∃ t, exec (.sectionsLoaded hashes) s = .next t ∧ t.crt.recipe = some c ∧ t.crt.loaded = true ∧
        t.crt.stage = (if s.ras.stResult ≠ 0 then 8 else if c.header.cartType = 2 then s.crt.stage else 7) ∧ t.crt.adapter.isSome = true ∧ s.within [.crt] t)

/-- The boot up to the loader (R51 to R54, R72 steps 1 to 8, R74, R75, R223, R339, R411). -/
def Obligations.BootRunsItsSteps : Prop := HeaderChecksInOrder ∧ BootChecks ∧ BootProceeds

/-- R72 steps 9 to 13, R76, R77: a plan that fails a loader check stops the boot with its code, plan and place; an admission that fails stops it with its code; else the device is
in Run, its blocks serve, and the watchdog is off. -/
def Obligations.ServiceEntry : Prop :=
  ∀ (s : State) (r : Cartridge), s.bootAt 8 = true → s.crt.recipe = some r →
    (∀ code plan index, loaderFail r = some (code, plan, index) →
      ∃ t, exec .loaderCheck s = .next t ∧ t.dev.state = .refused ∧ t.dev.refCode = code ∧ t.dev.refKind = 5 ∧ t.dev.refPlan = BitVec.ofNat 16 plan ∧
        t.dev.refIndex = BitVec.ofNat 32 index) ∧
    ∀ u : State, loaderFail r = none → u = ((s.updCrt fun c => { c with stage := 9 }).updDmc fun d => { d with grain := s.setting 11 12 }) →
      (∀ f, u.admitAll r (entriesOf r (reserveSlots r)) = .error f →
        ∃ t, exec .loaderCheck s = .next t ∧ t.dev.state = .refused ∧ t.dev.refCode = f.code ∧ t.crt.stage = 9) ∧
      ∀ a, u.admitAll r (entriesOf r (reserveSlots r)) = .ok a →
        ∃ t, exec .loaderCheck s = .next t ∧ t.dev.state = .run ∧ t.crt.stage = 0xA ∧ t.dis.inService = true ∧ t.ras.inService = true ∧
          t.bpm.inService = true ∧ t.tke.inService = true ∧ t.tke.t0 = s.now ∧ t.aon.wdogArmed = false

/-- R299, R420, R423, R426: the end of a reset takes its run from those in progress and the scope returns to service; of a chip reset it is the start of the boot ROM. A reset that
overruns its bound counts and goes to the next level: a unit's to its partition, a partition's to the chip. -/
def Obligations.ResetsEndOrEscalate : Prop :=
  ∀ (s : State),
    (∀ scope, scope ≠ .chip → (∀ c, scope ≠ .ctx c) → (s.runOf scope).isSome = true →
      ∃ u v : State, v = ((u.restoreScope scope).lateFences).postResets ∧
        exec (.resetComplete scope) s = .next (((v.drainJobs v.dis.jobs.length).resumeAll).afterClose) ∧ u.runOf scope = none ∧ s.within [.rst] u) ∧
    (∀ c, (s.runOf (.ctx c)).isSome = true → ∃ t, exec (.resetComplete (.ctx c)) s = .next t ∧
      ∀ r ∈ t.rst.runs, r.scope = .ctx c → r.level ≠ 5) ∧
    ((s.runOf .chip).isSome = true → s.wires.perst = false → s.supplyOk = true → s.dbg.current = none →
      ∃ t, exec (.resetComplete .chip) s = .next t ∧ Boots s t ∧ t.runOf .chip = none) ∧
    (∀ c r, s.runOf (.ctx c) = some r → Stays s → ∃ t, exec (.resetOverrun (.ctx c)) s = .next t ∧ (r.since + 50000 < 2 ^ 64 → r.since + 50000 ≤ t.now) ∧
      (r.units = [] → t.ras.ovCxr = satAdd s.ras.ovCxr 1)) ∧
    (∀ u p r, s.runOf (.unit u) = some r → unitPart u = some p → p < 10 → s.underReset (.part (Fin.ofNat 10 p)) = false →
      ∃ t, exec (.resetOverrun (.unit u)) s = .next t ∧ t.ep.epoch = s.ep.epoch + 1 ∧ t.ep.count = s.ep.count + 1 ∧ t.aon.cause = 0x0509 ∧ t.aon.level = 2) ∧
    ∀ p r, s.runOf (.part p) = some r → s.underReset .chip = false →
      ∃ t, exec (.resetOverrun (.part p)) s = .next t ∧ ChipResets 0x0509 s t ∧ (r.since + 20000000 < 2 ^ 64 → r.since + 20000000 ≤ t.now)

/-- R419, R420, R393, R459, R463: a watchdog that expires asks for a power cycle, with its SMBus cause. VAUX3 brings the AON up from its reset values with device time 0; its loss takes
everything but the cartridge and the fuses; the straps are sampled with KCLK, and the package is ready once 12 V stands. -/
def Obligations.PowerUpAndWatchdogs : Prop :=
  ∀ (s : State),
    (s.aon.wdogArmed = true → s.aon.wdogBoot = false → ∃ t, exec .chrWatchdogExpiry s = .next t ∧ t.aon.pwcReq = true ∧ t.aon.cause = 0x0515 ∧
      t.aon.level = 4 ∧ t.aon.wdogArmed = false ∧ t.aon.pwcCause = (if s.wires.vin12.toNat ≤ 11000 ∨ s.aon.dip = true then 2 else 1)) ∧
    (s.aon.wdogArmed = true → s.aon.wdogBoot = true → ∃ t, exec .bootWatchdogExpiry s = .next t ∧ t.aon.pwcReq = true ∧ t.aon.cause = 0x0515 ∧
      t.aon.level = 4 ∧ t.aon.pwcCause = 4 ∧ (s.aon.wdogStart + s.bootBound < 2 ^ 64 → s.aon.wdogStart + s.bootBound ≤ t.now)) ∧
    (s.wires.vaux3 = false → ∃ t, exec .vaux3Rise s = .next t ∧ t.wires.vaux3 = true ∧ t.aon.time = 0 ∧ t.aon.cause = 0x0513 ∧ t.aon.dumpNext = 1 ∧
      t.aon.v12 = s.wires.vin12 ∧ s.within [.aon, .wires, .rst] t) ∧
    (s.wires.vaux3 = true → ∃ t, exec .vaux3Fall s = .next t ∧ t.wires = { vin12 := s.wires.vin12, perst := s.wires.perst } ∧ t.ep = {} ∧ t.aon = {} ∧
      t.jtag = {} ∧ t.hif = {} ∧ t.dev = {} ∧ t.dbg = {} ∧ t.crt.cart = s.crt.cart ∧ t.fuses = s.fuses ∧ t.clk = []) ∧
    (∀ mv, ∃ t, exec (.vin12Rise mv) s = .next t ∧ t.wires = { s.wires with vin12 := mv } ∧ (s.wires.vaux3 = true → t.aon.v12 = mv)) ∧
    (∀ a b, s.wires.vaux3 = true → s.wires.kclk = false → ∃ t, exec (.kclkLocked a b) s = .next t ∧
      t.wires = { s.wires with kclk := true, addr0 := a, addr1 := b } ∧ (tget {} t.clk 16).locked = true) ∧
    (s.wires.vaux3 = true → s.wires.kclk = true → 11000 < s.wires.vin12.toNat → s.wires.ready = false →
      (s.wires.perst = true → exec .packageReady s = .next (s.updWires fun w => { w with ready := true })) ∧
      (s.wires.perst = false → s.aon.dip = false → s.dbg.current = none → ∃ t, exec .packageReady s = .next t ∧ t.wires.ready = true ∧ Boots s t))

/-! ### Cartridge and CALIBRATE -/

/-- R65, R66, R67, R75: a cartridge that goes out during the boot stops it; later its writes break off, REMOVED is set and attention of class cartridge is raised. One that comes in
after the boot is compared: the same one takes the pending records, which wait while another is
present; in REFUSED a CHR is due in 1 s. Before the boot the supply comes on and CART_RESET# pulses (R469); before the package is ready, and in Off, only the socket
changes. -/
def Sys2Proof.Machine.CartridgeMoves : Prop :=
  ∀ (s : State) (c : Cartridge),
    (s.crt.cart.isSome = true → ∃ t, exec .cartRemoval s = .next t ∧ t.crt.cart = none ∧ t.wires.cartVcc = false ∧ t.crt.present = false ∧
      (s.pwr.pstate ≠ .off → s.crt.stage ≠ 0 → s.dev.state = .booting → t.dev.state = .refused ∧ t.dev.refCode = 0x0101) ∧
      (s.pwr.pstate ≠ .off → s.crt.stage ≠ 0 → s.dev.state ≠ .booting → s.isFrozen = false →
        t.crt.removed = true ∧ t.crt.writeBusy = false ∧ t.hif.attn = s.hif.attn ||| 0x10 ∧ tget 0 t.hif.attnCode 4 = 0x0518)) ∧
    (s.crt.cart = none →
      (s.pwr.pstate = .off ∨ s.wires.ready = false → exec (.cartInsertion c) s = .next (s.updCrt fun d => { d with cart := some c })) ∧
      (s.pwr.pstate ≠ .off → s.wires.ready = true → s.crt.stage = 0 → exec (.cartInsertion c) s =
        .next (((s.updCrt fun d => { d with cart := some c }).updWires fun w => { w with cartVcc := true }).send .cartReset)) ∧
      (s.pwr.pstate ≠ .off → s.wires.ready = true → s.crt.stage ≠ 0 →
        (s.dev.state = .refused → ∃ t, exec (.cartInsertion c) s = .next t ∧ .cartReset ∈ t.out ∧ t.crt = { s.crt with
          cart := some c, present := true, inserted := true, chrAt := some (s.now + 1000000000) }) ∧
        ∀ r, s.dev.state ≠ .refused → s.dev.state ≠ .booting → s.crt.recipe = some r → s.isFrozen = false →
          ∃ t, exec (.cartInsertion c) s = .next t ∧ t.crt.inserted = true ∧ t.crt.present = true ∧ t.wires.cartVcc = true ∧
            t.hif.attn = s.hif.attn ||| 0x10 ∧
            (sameCartridge c r = true → t.crt.sameCart = true ∧ t.crt.hold = false ∧ t.crt.pend.length = s.crt.pend.length ∧
              tget 0 t.hif.attnCode 4 = 0x0519) ∧
            (sameCartridge c r = false → t.crt.sameCart = false ∧ t.crt.pend = s.crt.pend ∧ tget 0 t.hif.attnCode 4 = 0x051A)))

/-- R57, R59, R60, R62, R64, R473: a write that completes puts its record, whole, into the cartridge at the place chosen for it (log entry 108), with a SEQ one higher than the
last written, where no reclaim pass has to come first; a life record is stored with the figures of that moment (log entry 108); one that fails leaves the record pending, sets WRITE_FAIL and takes its block out of use. Every 6 h a life record
arises; every 60 s the age grows by the weight of the temperature. -/
def Sys2Proof.Machine.CartridgeWrites : Prop :=
  ∀ (s : State),
    (∀ i p, s.crt.writeBusy = true → s.crt.pend.findIdx? (·.writing) = some i → s.crt.pend[i]? = some p →
      (∀ c r q, s.crt.cart = some c → s.crt.recipe = some r → p.origin ≠ .calibrate → q = s.written p.payload →
        (s.updCrt fun c => { c with writeBusy := false, hold := c.hold || p.holds }).tight q = false → (s.writePlace c [] (payloadBytes q).length).isSome = true →
        (s.serving = true → lifeLevelOf (lifeFigures s.crt.counts s.crt.age).2.2 ≤ s.crt.lifeLevel) →
        ∃ t c' x, exec (.cartridgeWriteComplete true false) s = .next t ∧ t.crt.cart = some c' ∧ c'.records = c.records ++ [x] ∧ x.payload = q ∧
          recordOk x = true ∧ some x.place = s.writePlace c [] (payloadBytes q).length ∧ x.seq = s.nextSeq ∧ t.crt.seq = s.nextSeq ∧ t.crt.pend.length + 1 = s.crt.pend.length ∧ t.crt.hold = (s.crt.hold || p.holds)) ∧
      (p.origin ≠ .calibrate → ∃ t, exec (.cartridgeWriteComplete false false) s = .next t ∧ t.crt.writeFail = true ∧ t.crt.cart = s.crt.cart ∧
        s.writeBlock p.payload ∈ t.crt.badBlocks ∧ t.crt.seq = s.crt.seq ∧ t.crt.pend.length = s.crt.pend.length)) ∧
    (s.serving = true → ∃ t p, exec .lifeRecordTimer s = .next t ∧ p ∈ t.crt.pend ∧ p.payload = s.lifeRecord ∧ t.crt.pend.length = s.crt.pend.length + 1 ∧
      t.crt.lastLife = s.crt.lastLife + 21600000000000 ∧ (s.crt.lastLife + 21600000000000 < 2 ^ 64 → s.crt.lastLife + 21600000000000 ≤ t.now)) ∧
    ∀ temp : Byte, s.pwr.pstate ≠ .off → s.crt.present = true → (s.crt.recipe.isSome = true → s.crt.sameCart = true) →
      ∃ t, exec (.ageAccrual temp) s = .next t ∧ t.crt.lastAge = t.now ∧ t.crt.age = s.crt.age +
        (if temp.toNat ≤ 40 then 1 else if temp.toNat ≤ 55 then 4 else if temp.toNat ≤ 70 then 16 else 64)

/-- R217 to R222, R287: training goes on in Run, while a Millefeuille with a share is free of every context; the steps of the training whose batch is one of the
training set (log entry 118) update the masters in order, and training in Run ends the run: with a loss that has not fallen enough, steps missing or a value that is not finite it replies the code of the case; a result that
counts is replied for VERIFY, and for COMMISSION its adapter record arises first. A run out of time replies ST_CAL_TIMEOUT or the code of its missing data. -/
def Sys2Proof.Machine.CalibrateEnds : Prop :=
  ∀ (s : State),
    (∀ r xs done finite before after code, s.cal.running = true → s.cal.training = true → s.cal.writing = false → s.dev.state = .run →
      s.trainsNow = true → s.hif.ringEn = true → trainSteps (s.runSteps r) 0 s.cal.tensors = (xs, done, finite) → s.losses r = (before, after) →
      calCode s.cal.steps done finite before after = code →
      ((code ≠ 0 ∨ s.cal.mode = 2) → ∃ t st, exec (.calTrainDone r) s = .next t ∧ t.cal = {} ∧
        RepliedAs st s t s.cal.tag 0x0C 0 code (le 4 before.toNat ++ le 4 after.toNat ++ le 4 done)) ∧
      (∀ c, code = 0 → s.cal.mode ≠ 2 → s.crt.present = true → s.crt.sameCart = true → s.crt.recipe = some c →
        ∃ t p, exec (.calTrainDone r) s = .next t ∧ p ∈ t.crt.pend ∧
          p.payload = .adapter (some (trainedImage c.adapter xs done before after s.now)) ∧ t.cal.writing = true ∧
          t.hif.rplPut = s.hif.rplPut)) ∧
    (s.cal.training = true → (s.dev.state ≠ .run ∨ s.trainsNow = false) → ∀ r, exec (.calTrainDone r) s = .next s) ∧
    (s.cal.running = true → s.cal.writing = false → s.hif.ringEn = true →
      ∃ t st pl, exec .calTimeLimit s = .next t ∧ t.cal = {} ∧ RepliedAs st s t s.cal.tag 0x0C 0 (if s.cal.training then 0x0054 else 0x0051) pl ∧
        (s.cal.deadline < 2 ^ 64 → s.cal.deadline ≤ t.now))

/-- The cartridge in its socket, its records, and the end of a CALIBRATE run (R57 to R67, R217 to R222). -/
def Obligations.CartridgeAndCalibrate : Prop := CartridgeMoves ∧ CartridgeWrites ∧ CalibrateEnds

/-! ### Device DRAM -/

/-- An access of device DRAM that fails the BPM's range check: nothing of it is performed, POOL_RANGE returns to the requester, and the BPM in service counts and records
it (R325, R346, R350), under a requester that the command does not name (log entry 120). -/
def Sys2Proof.Machine.FailsRange (i : Instr) (s : State) : Prop :=
  (s.bpm.inService = false → exec i s = .next (s.send (.dramError 0x0303))) ∧
  (s.bpm.inService = true → ∃ t req, exec i s = .next t ∧ t.out = .bpmError req 0x0303 :: s.out ∧ s.within [.bpm, .out, .fresh] t ∧
    tget 0 t.bpm.errors 3 = satAdd (tget 0 s.bpm.errors 3) 1 ∧ t.bpm.lastCode = 0x0303 ∧ t.bpm.lastReq = req ∧ t.bpm.pools = s.bpm.pools)

/-- R325, R323, R324, R335, R336, R332, R338: an access beyond the top of the address space never reaches a controller: it is not performed, and
POOL_RANGE returns to the requester and is counted. A channel under an ENR holds its requests, in order. A read of a block without errors returns its bytes, and their poison mark exactly
where a half that it touches carries one; a write puts its bytes there and nowhere else, marks every half they cover when they are poisoned, and clears the marks of a block that it
writes whole. -/
def Obligations.DramReadsAndWrites : Prop :=
  (∀ (addr : U64) (n : Nat) (lo hi : HalfErr) (s : State), s.dramTop < addr.toNat + n → FailsRange (.dramRead addr n lo hi) s) ∧
  (∀ (addr : U64) (d : List Byte) (p : Bool) (lo hi : HalfErr) (s : State), s.dramTop < addr.toNat + d.length → FailsRange (.dramWrite addr d p lo hi) s) ∧
  ∀ (addr : U64) (s : State),
    ((s.chan (s.placeOf addr.toNat).chan).inService = true → s.underReset (.unit (mkUnit 5 (s.placeOf addr.toNat).chan)) = true →
      (∀ n lo hi, addr.toNat + n ≤ s.dramTop → 1 ≤ n → addr.toNat % 64 + n ≤ 64 → exec (.dramRead addr n lo hi) s =
        .next (s.updChan (s.placeOf addr.toNat).chan fun c => { c with held := c.held ++ [.read addr.toNat n lo hi] })) ∧
      ∀ d p lo hi, addr.toNat + d.length ≤ s.dramTop → 1 ≤ d.length → addr.toNat % 64 + d.length ≤ 64 → exec (.dramWrite addr d p lo hi) s =
        .next (s.updChan (s.placeOf addr.toNat).chan fun c => { c with held := c.held ++ [.write addr.toNat d p lo hi] })) ∧
    (∀ n, addr.toNat + n ≤ s.dramTop → 1 ≤ n → addr.toNat % 64 + n ≤ 64 → s.dramServes addr.toNat = true →
      s.underReset (.unit (mkUnit 5 (s.placeOf addr.toNat).chan)) = false →
      ∃ t, exec (.dramRead addr n .clean .clean) s = .next t ∧ t.out = .dramData (s.dramBytes addr.toNat n) (s.poisonedAt addr.toNat n) :: s.out ∧
        t.dram = s.dram ∧ s.within [.dmc, .out] t) ∧
    ∀ d p, addr.toNat + d.length ≤ s.dramTop → 1 ≤ d.length → addr.toNat % 64 + d.length ≤ 64 → s.dramServes addr.toNat = true →
      s.underReset (.unit (mkUnit 5 (s.placeOf addr.toNat).chan)) = false → s.dram.mem.wf = true →
      ∃ t, exec (.dramWrite addr d p .clean .clean) s = .next t ∧ t.dramBytes addr.toNat d.length = d ∧
        (∀ a, a < addr.toNat ∨ addr.toNat + d.length ≤ a → t.dram.mem.read a = s.dram.mem.read a) ∧ s.within [.dmc, .dram] t ∧
        (p = true → ∀ h ∈ halves addr.toNat d.length, h ∈ t.dram.poison) ∧
        (p = false → d.length = 64 → t.poisonedAt addr.toNat 64 = false) ∧
        (∀ h, h ∉ halves addr.toNat d.length → (h ∈ t.dram.poison ↔ h ∈ s.dram.poison))

/-- R331, R333, R334, R335, R337, R340: a refresh in a panic is postponed at most 8 times; a package above 85 °C is HOT until two reports in a row are at or below that; patrol
scrub reads the next block of its channel and goes round; WCK2DQ tracking moves every write delay by the drift. The code of a report above 105 °C is free (log entry 50). -/
def Obligations.DramUpkeep : Prop :=
  (∀ (k : Fin 24) (b : Fin 16) (s : State), (s.chan k.val).inService = true → (s.chan k.val).selfRefresh = false →
    ∃ t, exec (.refresh k b) s = .next t ∧ s.within [.dmc] t ∧ (∀ j, j ≠ k.val → t.chan j = s.chan j) ∧
      ((s.chan k.val).panic = true ∧ tget 0 (s.chan k.val).postponed b.val < 8 → tget 0 (t.chan k.val).postponed b.val = tget 0 (s.chan k.val).postponed b.val + 1 ∧
        (t.chan k.val).refreshed = (s.chan k.val).refreshed) ∧
      ((s.chan k.val).panic = false ∨ 8 ≤ tget 0 (s.chan k.val).postponed b.val → tget 0 (t.chan k.val).postponed b.val = 0 ∧
        tget 0 (t.chan k.val).refreshed b.val = s.now)) ∧
  (∀ (pkg : Fin 6) (temp : Byte) (s : State), (∀ j, j < 4 → (s.chan (4 * pkg.val + j)).inService = true ∧ (s.chan (4 * pkg.val + j)).selfRefresh = false) →
    ∃ t, exec (.mr4Poll pkg temp) s = .next t ∧ (∀ j, j < 4 → (t.chan (4 * pkg.val + j)).mr4 = temp ∧
        (85 < temp.toNat → (t.chan (4 * pkg.val + j)).hot = true) ∧
        (temp.toNat ≤ 85 → (t.chan (4 * pkg.val + j)).hot = ((s.chan (4 * pkg.val + j)).hot && (s.chan (4 * pkg.val + j)).cool == 0))) ∧
      (105 < temp.toNat → s.isFrozen = false → t.hif.attn = s.hif.attn ||| 4) ∧ (temp.toNat ≤ 105 → s.within [.dmc] t)) ∧
  (∀ (k : Fin 24) (i a : Nat) (s : State), (s.chan k.val).inService = true → (s.chan k.val).selfRefresh = false → s.channels.findIdx? (· == k.val) = some i →
    a = deinterleave s.dmc.grain (max 1 s.nChan) i (64 * (s.chan k.val).scrubPos) → a / 64 * 2 ∉ s.dram.poison → a / 64 * 2 + 1 ∉ s.dram.poison →
    ∃ t, exec (.patrolScrub k .clean .clean) s = .next t ∧ t.dram = s.dram ∧ s.within [.dmc] t ∧
      (t.chan k.val).scrubPos = (if chanBlocks ≤ (s.chan k.val).scrubPos + 1 then 0 else (s.chan k.val).scrubPos + 1) ∧
      (t.chan k.val).scrubPasses = (if chanBlocks ≤ (s.chan k.val).scrubPos + 1 then satAdd (s.chan k.val).scrubPasses 1 else (s.chan k.val).scrubPasses)) ∧
  ∀ (k : Fin 24) (d : Byte) (s : State), (s.chan k.val).inService = true → (s.chan k.val).selfRefresh = false →
    ∃ t, exec (.wck2dqTrack k d) s = .next t ∧ s.within [.dmc] t ∧
      (∀ i, i < 16 → tget 0 (tget {} t.dmc.trn k.val).wr i = tget 0 (tget {} s.dmc.trn k.val).wr i + d) ∧
      (tget {} t.dmc.trn k.val).rd = (tget {} s.dmc.trn k.val).rd

/-! ### Power, clocks, supplies and temperature -/

/-- R438, R439, R440, R341, R443, R125: Doze, Nap and Slumber are entered where their conditions hold, and any access that the BARs serve, SNAP#, the button and the wake timer end them, Slumber
with the end of its wake. DCLK is off and every channel in self-refresh in Slumber alone. The times of entry are counted as log entry 51 says. -/
def Obligations.PowerStatesChange : Prop :=
  ∀ (s : State),
    (s.pwr.pstate ≠ .off → s.awake.pwr.pstate = .run) ∧
    (s.pwr.pstate = .run → s.mayRest = true → 4 ≤ s.tEff → s.quiet = true → exec .dozeEntry s = .next (s.updPwr fun p =>
      { p with pstate := .doze, idleAt := s.now, wakeAt := s.wakeDue })) ∧
    (s.pwr.pstate = .doze → 150 ≤ s.tEff → ∃ t, exec .napEntry s = .next t ∧ t.pwr.pstate = .nap ∧ s.within [.aon, .pwr] t ∧
      (s.pwr.idleAt + 200000 < 2 ^ 64 → s.pwr.idleAt + 200000 ≤ t.now)) ∧
    ((s.pwr.pstate = .doze ∨ s.pwr.pstate = .nap) → s.maySlumber = true → ∃ t, exec .slumberEntry s = .next t ∧ t.pwr.pstate = .slumber ∧
      (tget {} t.clk 10).locked = false ∧ (∀ k, k < 24 → (s.chan k).inService = true → (t.chan k).selfRefresh = true) ∧
      (∀ e, e ∈ t.dis.recorded ↔ ∃ r p, r < 8 ∧ p ∈ (s.region r).rslots ∧ e = (r, p.1, p.2)) ∧
      (s.pwr.idleAt + 10000000 < 2 ^ 64 → s.pwr.idleAt + 10000000 ≤ t.now)) ∧
    (∀ c, ((s.pwr.pstate = .doze ∨ s.pwr.pstate = .nap) → ∃ t, exec (.wake c) s = .next t ∧ t.pwr.pstate = .run ∧ t.pwr.idleAt = s.now) ∧
      (s.pwr.pstate = .slumber → exec (.wake c) s = .next (s.updPwr fun p => { p with waking := true }))) ∧
    (∀ at_, s.pwr.wakeAt = some at_ → ∃ t, exec .wakeTimer s = .next t ∧ (at_ < 2 ^ 64 → at_ ≤ t.now) ∧
      ((s.pwr.pstate = .doze ∨ s.pwr.pstate = .nap) → t.pwr.pstate = .run) ∧ (s.pwr.pstate = .slumber → t.pwr.waking = true)) ∧
    (s.pwr.pstate = .slumber → s.pwr.waking = true → ∃ t, exec .wakeComplete s = .next t ∧ t.pwr.pstate = .run ∧ (tget {} t.clk 10).locked = true ∧
      ∀ k, k < 24 → (s.chan k).retired = false → (t.chan k).selfRefresh = false) ∧
    ∀ r : Fin 8,
      (s.pwr.pstate = .run → s.mayRest = true → 150 ≤ s.tEff → s.regionRuns r.val = false → (s.region r.val).coresCtx = none →
        (s.region r.val).gauCtx = none → (s.region r.val).swapCores = none → (s.region r.val).swapGau = none →
        exec (.regionNap r) s = .next (s.updRegPwr r.val fun p => { p with nap := true })) ∧
      ((s.regPwr r.val).nap = true → s.hasContexts r.val = true → ∃ t, exec (.regionNapWake r) s = .next t ∧ (t.regPwr r.val).nap = false)

/-- R444 to R447, R451: a region below f_adm steps up once power allows it, over the limit it steps down and POWER_STEPS counts; its ACLK stops until the PLL has relocked, and then restarts at the
new step, and stops again for the next one while a re-admission moves it (R35, R446), unless power or heat holds a region below it (R447, R450). A sample above 1.2 times the limit stops every ACLK until one at or below the limit; 100 ms below f_adm raise class degraded once. -/
def Obligations.PowerIsHeld : Prop :=
  (∀ (s : State), s.dis.inService = true → s.adm.done = true → s.pwr.pstate = .run → s.dev.state ≠ .parked →
    ∃ t, exec .dvfsCheck s = .next t ∧ s.within [.rgn, .pwr, .clk] t ∧
      ∀ r, r < 8 → (s.regPwr r).nap = false → (s.regPwr r).freq ≠ 0 → (s.regPwr r).target = none →
        (s.limitMw < s.pwr.average → s.adm.fAdm < (s.regPwr r).freq → 50 < (s.regPwr r).freq →
          (t.regPwr r).target = some ((s.regPwr r).freq - 5) ∧ (t.regPwr r).stopDvfs = true) ∧
        (s.pwr.average ≤ s.limitMw → (s.regPwr r).freq < s.adm.fAdm → (s.regPwr r).freq < 140 → (s.regPwr r).thermal = false → (s.die (dieOf r)).throttle = false →
          (s.regPwr r).lowSince = none → (t.regPwr r).target = some ((s.regPwr r).freq + 5) ∧ (t.regPwr r).stopDvfs = true)) ∧
  (∀ (r : Fin 8) (f : Nat) (s : State), (s.regPwr r.val).target = some f →
    ∃ u : State, exec (.dvfsStepDone r) s = .next (((u.restartAclk r.val).onward r.val).freqSettled) ∧ (u.regPwr r.val).freq = f ∧
      (u.regPwr r.val).volt = stepVolt f ∧ (u.regPwr r.val).target = none ∧ (u.regPwr r.val).stopDvfs = false ∧
      (u.regPwr r.val).goal = (s.regPwr r.val).goal ∧ (tget {} u.clk r.val).freq = 10 * f ∧ (tget {} u.clk r.val).locked = true ∧
      (tget {} u.clk r.val).relocks = satAdd (tget {} s.clk r.val).relocks 1 ∧ s.within [.pwr, .clk] u) ∧
  (∀ (r : Fin 8) (g n : Nat) (u : State), (u.regPwr r.val).goal = some g → (u.regPwr r.val).target = none →
    n = (if (u.regPwr r.val).freq < g then stepUp (u.regPwr r.val).freq else stepDown (u.regPwr r.val).freq) →
    ((u.regPwr r.val).freq = g ∨ (u.regPwr r.val).freq < g ∧ (u.regPwr r.val).throttled = true →
      ((u.onward r.val).regPwr r.val).goal = none ∧ ((u.onward r.val).regPwr r.val).target = none) ∧
    ((u.regPwr r.val).freq ≠ g → (g < (u.regPwr r.val).freq ∨ (u.regPwr r.val).throttled = false) → n ≠ (u.regPwr r.val).freq →
      ((u.onward r.val).regPwr r.val).target = some n ∧ ((u.onward r.val).regPwr r.val).stopDvfs = true ∧ (tget {} (u.onward r.val).clk r.val).locked = false)) ∧
  (∀ (mw : Nat) (mv : U16) (s : State), s.pwrWorks = true → ∃ t, exec (.powerSample mw mv) s = .next t ∧ t.aon.v12 = mv ∧ t.pwr.volts = mv ∧
    (12 * s.limitMw < 10 * mw → (s.regPwr 0).stopFast = false → t.pwr.fast = satAdd s.pwr.fast 1 ∧ ∀ r, r < 8 → (t.regPwr r).stopFast = true) ∧
    (mw ≤ s.limitMw → (s.regPwr 0).stopFast = true → ∀ r, r < 8 → (t.regPwr r).stopFast = false)) ∧
  ∀ (r : Fin 8) (at_ : Nat) (s : State), (s.regPwr r.val).lowSince = some at_ → (s.regPwr r.val).lowRaised = false →
    (s.regPwr r.val).freq < s.adm.fAdm → s.isFrozen = false →
    ∃ t, exec (.powerThrottleAttention r) s = .next t ∧ (t.regPwr r.val).lowRaised = true ∧ t.hif.attn = s.hif.attn ||| 2 ∧
      tget 0 t.hif.attnCode 1 = 0x0121 ∧ (at_ + 100000000 < 2 ^ 64 → at_ + 100000000 ≤ t.now)

/-- R448, R449, R402, R464: a dip below 10.8 V stops ACLK in every region and warns; above 11.0 V it is over; below 9.6 V the device takes a CHR with RAS_SUPPLY_LOW. R419, R450: a die at 100 °C starts to throttle and
ends it at 97 °C, a hub that throttles pauses the encode engines, and a die at 110 °C stops every clock and asks for a power cycle. -/
def Obligations.SuppliesAndTemperature : Prop :=
  (∀ (mv : U16) (s : State), s.supplyWatched = true →
    (mv.toNat < 10800 → ∃ t, exec (.supplyDip mv) s = .next t ∧ t.wires.vin12 = mv ∧ t.aon.v12 = mv ∧ t.aon.dip = true ∧
      (s.aon.dip = false → t.aon.warn = true ∧ (∀ r, r < 8 → (t.regPwr r).stopDip = true) ∧ (s.ras.inService = true → t.ras.dips = satAdd s.ras.dips 1))) ∧
    (11000 < mv.toNat → ∃ t, exec (.supplyRecover mv) s = .next t ∧ t.wires.vin12 = mv ∧ t.aon.dip = false ∧ t.aon.warn = false ∧
      (s.atRest = false → ∀ r, r < 8 → (t.regPwr r).stopDip = false)) ∧
    (mv.toNat < 9600 → s.underReset .chip = false → ∃ t, exec (.supplyLow mv) s = .next t ∧ ChipResets 0x0507 s t ∧ t.aon.dip = true ∧
      t.aon.mainOk = false)) ∧
  (∀ (hub cd0 cd1 : List Byte) (s : State), s.pwrWorks = true → ∃ t, exec (.thermalSample hub cd0 cd1) s = .next t ∧
    (t.die 0).tj = hottest hub ∧ (t.die 1).tj = hottest cd0 ∧ (t.die 2).tj = hottest cd1 ∧
    (100 ≤ (hottest hub).toNat → (t.die 0).throttle = true) ∧ (100 ≤ (hottest cd0).toNat → (t.die 1).throttle = true) ∧
    ((hottest hub).toNat ≤ 97 → (t.die 0).throttle = false ∧ t.encPaused = false) ∧
    (100 ≤ (hottest hub).toNat → t.encPaused = true ∧ ∀ e, exec (.encodeStart e) t = .next t) ∧
    (110 ≤ (hottest hub).toNat → t.aon.tripped = true ∧ (s.aon.tripped = false → t.aon.pwcReq = true ∧ t.aon.pwcCause = 3 ∧ t.aon.cause = 0x0508))) ∧
  ∀ (s : State), s.dis.inService = true → s.adm.done = true → s.pwr.pstate ≠ .off → s.dev.state ≠ .parked →
    ∃ t, exec .thermalStep s = .next t ∧ ∀ r, r < 8 → (s.regPwr r).nap = false → (s.regPwr r).target = none → 50 < (s.regPwr r).freq →
      (s.die (dieOf r)).throttle = true → 100 ≤ (s.die (dieOf r)).tj.toNat → (t.regPwr r).target = some ((s.regPwr r).freq - 5) ∧ (t.regPwr r).thermal = true

/-! ### Reliability, dumps, SMBus and JTAG -/

/-- R427 to R432, R466: an edge on SNAP# fires Glaze while PIN_EN is set, edges closer than 1 µs once; a block that times out is marked as not captured; a collection that ends puts the dump, with the AON registers as they are then, into the dump
SRAM, which keeps the newest two, counts what it missed, and raises class dump. -/
def Sys2Proof.Machine.DumpsCollect : Prop :=
  (∀ (s w : State), w = s.awake → s.wires.ready = true → s.pwr.pstate ≠ .off → (∀ p, s.wires.snapAt = some p → 1000 ≤ s.now - p) →
    ∃ t, exec .snapPin s = .next t ∧ t.wires.snapAt = some s.now ∧
      (w.dbg.pinEn = true → w.dbg.current = none → ∃ d, t.dbg.current = some d ∧ d.id = w.aon.dumpNext ∧ d.trigger = 1 ∧ d.epoch = w.ep.epoch ∧
        t.aon.dumpNext = w.aon.dumpNext + 1) ∧
      (w.dbg.pinEn = true → w.dbg.current.isSome = true → t.dbg.merged = satAdd w.dbg.merged 1) ∧ (w.dbg.pinEn = false → t.dbg = w.dbg)) ∧
  (∀ (base : U32) (d : Dump) (s : State), blocks.any (fun b => b.1 == base.toNat) = true → base.toNat ≠ aonBase → s.dbg.current = some d →
    ∃ t d', exec (.crumbTimeout base) s = .next t ∧ t.dbg.current = some d' ∧ base.toNat ∈ d'.missed ∧ d'.image = d.image ∧ d'.id = d.id ∧ s.within [.dbg] t) ∧
  ∀ (d : Dump) (s : State), s.dbg.current = some d → s.isFrozen = false →
    ∃ t d', exec .dumpComplete s = .next t ∧ t.dbg.current = none ∧ d' ∈ t.dbg.sram ∧ t.dbg.sram.length ≤ 2 ∧ t.dbg.lastId = d.id ∧
      d'.id = d.id ∧ d'.missed = d.missed ∧ (∀ w ∈ d.image, inAon w.1 = false → w ∈ d'.image) ∧ (∀ w ∈ s.image, inAon w.1 = true → w ∈ d'.image) ∧
      t.dbg.lastMissed = BitVec.ofNat 16 d.missed.length ∧ t.hif.attn = s.hif.attn ||| 0x40

/-- R399 to R402, R405, R418: an error in a unit's control state counts against it; a hang, or an uncorrectable error, that is not lasting takes its ENR; at the threshold of its class within the window it is
fenced. R418: faults of a region, of the media fabric, of the host blocks and of the hub reset their partition or the chip; a context fault takes a CXR. -/
def Sys2Proof.Machine.ErrorsAct : Prop :=
  ∀ (s : State), s.atRest = false → s.pwr.pstate ≠ .off → Stays s →
    (∀ u k, unitPresent u = true → s.ras.inService = true → (s.unitRas u.toNat).fenced = false → k ∈ [1, 2] → s.underReset (.unit u) = false →
      2 ≤ s.ras.threshold k → tget [] (s.unitRas u.toNat).times k = [] →
      ∃ t, exec (.errorEvent (.unit u (Fin.ofNat 5 k))) s = .next t ∧ t.ep.epoch = s.ep.epoch + 1 ∧ t.ep.count = s.ep.count + 1 ∧ t.aon.level = 1 ∧
        t.aon.cause = classCode k) ∧
    (∀ r : Fin 8, s.underReset (.part (Fin.ofNat 10 r.val)) = false → ∃ t, exec (.errorEvent (.region r)) s = .next t ∧
      t.ep.epoch = s.ep.epoch + 1 ∧ t.aon.cause = 0x0511 ∧ t.aon.level = 2 ∧ t.aon.scopeKind = BitVec.ofNat 4 r.val) ∧
    (∀ e k, (e, k) ∈ [(ErrEvent.media, 8), (.hostBlock, 9)] → s.underReset (.part (Fin.ofNat 10 k)) = false → ∃ t, exec (.errorEvent e) s = .next t ∧
      t.ep.epoch = s.ep.epoch + 1 ∧ t.aon.cause = 0x0511 ∧ t.aon.level = 2 ∧ t.aon.scopeKind = BitVec.ofNat 4 k) ∧
    (s.underReset .chip = false → ∃ t, exec (.errorEvent .hub) s = .next t ∧ t.ep.epoch = s.ep.epoch + 1 ∧ t.aon.cause = 0x0511 ∧ t.aon.level = 3) ∧
    (∀ (c : Fin 4096) (cause : Fin 16) (code layer : U16) (tile : U32), c.val < s.dis.nCtx → s.underReset (.ctx c) = false →
      code.toNat < 0x600 → s.aclkStopped (s.ctx c.val).region = false →
      ∃ t, exec (.errorEvent (.context c cause code layer tile)) s = .next t ∧ t.dis.cxrs = s.dis.cxrs + 1 ∧ t.ep = s.ep) ∧
    ∃ t, exec (.errorEvent .poisonedTlp) s = .next t ∧ t.link.rxPoisoned = satAdd s.link.rxPoisoned 1

/-- R414 to R417: a Treacle check is counted; with no node that waits on another and no unit that holds work it reaches no verdict. Where no verdict is allowed, histories stay. -/
def Sys2Proof.Machine.TreacleChecks : Prop :=
  ∀ (s : State), s.ras.inService = true → Stays s →
    ((s.isFrozen = true ∨ s.dev.state = .parked ∨ s.pwr.pstate = .nap ∨ s.pwr.pstate = .slumber) →
      exec .treacleCheck s = .next (s.updTrc fun t => { t with checks := t.checks + 1 })) ∧
    (s.isFrozen = false → s.dev.state ≠ .parked → s.pwr.pstate = .run → s.syn.waits = [] → s.bpm.pools.all (fun p => p.2.waiters.isEmpty) = true →
      s.workers = [] → ∃ t, exec .treacleCheck s = .next t ∧ t.trc.checks = s.trc.checks + 1 ∧ t.trc.cycles = s.trc.cycles ∧ t.trc.stalls = s.trc.stalls ∧
        t.ep = s.ep)

/-- Dumps, errors and hangs (R399 to R432). -/
def Obligations.ReliabilityActs : Prop := DumpsCollect ∧ ErrorsAct ∧ TreacleChecks

/-- An answer of the SMBus target: `n` bytes of a value, and the packet error code over the bytes of the transfer (R392; its polynomial is the model's, log entry 131). -/
def Sys2Proof.Machine.State.sendSmbus (s : State) (cmd : Byte) (n v : Nat) : State :=
  s.send (.smbus n v (pecOf ([s.smbusAddr, cmd, s.smbusAddr ||| 1] ++ le n v)))

/-- R392, R393, R442, R470: the SMBus target answers each read with its value and packet error code, all ones in Off for what only the device provides; 0xA5, with a right
packet error code or none, releases PWR_CYCLE_REQ# and no other write does (log entry 131); a transaction that times out changes nothing. -/
def Sys2Proof.Machine.SmbusAnswers : Prop :=
  ∀ (s : State), s.smbusOn = true →
    (s.pwr.pstate ≠ .off →
      exec .smbusDevState s = .next (s.sendSmbus 0x01 2 (256 * s.dev.state.code + s.ep.epoch.toNat)) ∧
      exec .smbusTj s = .next (s.sendSmbus 0x02 1 (hottest [(s.die 0).tj, (s.die 1).tj, (s.die 2).tj]).toNat) ∧
      exec .smbusInputPower s = .next (s.sendSmbus 0x03 2 (min (s.pwr.average / 100) 65535)) ∧
      exec .smbusCartLife s = .next (s.sendSmbus 0x06 2 (s.crt.life % 65536)) ∧
      exec .smbusAttnPending s = .next (s.sendSmbus 0x07 1 s.hif.attn.toNat)) ∧
    (s.pwr.pstate = .off → ∀ i k, (i, k) ∈ [(Instr.smbusDevState, (1 : Byte)), (.smbusInputPower, 3), (.smbusCartLife, 6)] →
      exec i s = .next (s.sendSmbus k 2 0xFFFF)) ∧
    exec .smbusInputVolts s = .next (s.sendSmbus 0x04 2 s.aon.v12.toNat) ∧
    exec .smbusPwcCause s = .next (s.sendSmbus 0x05 1 s.aon.pwcCause.toNat) ∧
    (∀ w : SmbusWrite, w.data = 0xA5 → (w.pec = none ∨ w.pec = some (pecOf [s.smbusAddr, 0x10, 0xA5])) →
      exec (.smbusPwcAck w) s = .next (s.updAon fun a => { a with pwcReq := false })) ∧
    (∀ w : SmbusWrite, (w.data ≠ 0xA5 ∨ ∃ p, w.pec = some p ∧ p ≠ pecOf [s.smbusAddr, 0x10, w.data]) → exec (.smbusPwcAck w) s = .next s) ∧
    exec .smbusTimeout s = .next s

/-- R471: each instruction that the TAP takes is in force and shifts its register out: one bit 0 for BYPASS, 0x1512074F for IDCODE, the levels of the balls for SAMPLE/PRELOAD. TRST# puts IDCODE in force. What the
bypass register captures, and the instruction in force after TRST#, are the model's (log entry 57). -/
def Sys2Proof.Machine.JtagShifts : Prop :=
  ∀ (s : State), s.wires.vaux3 = true →
    (∀ i ir, (i, ir) ∈ [(Instr.bypass, JtagIr.bypass), (.clamp, .clamp), (.highz, .highz)] →
      exec i s = .next ((s.updJtag fun j => { j with held := false, ir := ir }).send (.tdo [false]))) ∧
    (∃ t bs, exec .idcode s = .next t ∧ t.jtag = { s.jtag with held := false, ir := .idcode } ∧ t.out = .tdo bs :: s.out ∧ bs.length = 32 ∧
      ∀ i, i < 32 → bs.getD i false = (0x1512074F : U32).getLsbD i) ∧
    (∃ t bs, exec .samplePreload s = .next t ∧ t.jtag = { held := false, ir := .sample, boundary := bs } ∧ t.out = .tdo bs :: s.out ∧ bs.length = 25 ∧
      bs.getD 17 false = (!s.aon.pwcReq) ∧ (s.wires.cartVcc = false → ∀ i, i < 12 → bs.getD i true = false)) ∧
    (∃ t bs, exec .extest s = .next t ∧ t.jtag = { s.jtag with held := false, ir := .extest } ∧ t.out = .tdo bs :: s.out ∧
      (s.jtagActs = true → bs = s.jtag.boundary)) ∧
    exec .trstAssert s = .next (s.updJtag fun j => { j with held := true, ir := .idcode })

/-- The SMBus target and the test access port (R392, R393, R470, R471). -/
def Obligations.SmbusAndJtag : Prop := SmbusAnswers ∧ JtagShifts

/-! ### The machine as a whole -/

/-- A step takes the command at the front of the queue and has its effect on the state with the rest of the queue (log entry 1); an empty queue idles for one cycle of the resonator, 20 ns of device time, where the
auxiliary supply is there (log entry 2). -/
def Obligations.StepServesTheFront : Prop :=
  (∀ (c : Instr) (rest : List Instr) (s : State), step { s with pending := c :: rest } = exec c { s with pending := rest }) ∧
  ∀ (s : State), s.pending = [] →
    (s.wires.vaux3 = false → step s = .next s) ∧
    (s.wires.vaux3 = true → s.aon.fracPs = 0 → s.aon.offsetPs = 0 →
      step s = .next { s with aon := { s.aon with time := s.aon.time + 20 } })

/-- R424, R453, R454, R456, R459, R426: the reset state: device time 0, RESET_EPOCH 0 and RESET_COUNT 0, the power-on cause, PERST# asserted, no link, an empty queue; and it is sound. -/
def Obligations.ResetStateIsSound : Prop :=
  State.reset.sound = true ∧ State.reset.pending = [] ∧ State.reset.aon.time = 0 ∧ State.reset.ep = { epoch := 0, count := 0 } ∧
    State.reset.aon.cause = 0x0513 ∧ State.reset.aon.dumpNext = 1 ∧ State.reset.wires.perst = true ∧ State.reset.wires.linkUp = false ∧
    State.reset.dev.state = .booting ∧ State.reset.out = [] ∧ State.reset.dram.mem.cells = [] ∧ State.reset.hif.ringEn = false

/-- Every step keeps a state sound: each memory has its canonical form, the poison marks rise, and RESET_EPOCH is RESET_COUNT modulo 256 (R423, R456). -/
def Obligations.StepKeepsSound : Prop :=
  ∀ (s t : State), step s = .next t → s.sound = true → t.sound = true

/-- No command changes a part of the state beyond those that `touches` lists for it; none touches the queue or the fuses (R57), and what the device has sent stays sent. -/
def Obligations.CommandsStayWithin : Prop :=
  (∀ (c : Instr) (s t : State), exec c s = .next t → s.within (touches c) t) ∧
  (∀ c : Instr, Part.pending ∉ touches c ∧ Part.fuses ∉ touches c) ∧
  ∀ (c : Instr) (s t : State), exec c s = .next t → s.out <:+ t.out

end
end

