-- ==== Sys2Proof/Laws/Mem.lean ====
section
/-! SUPPORT. Tables and memories: what a write sets and leaves, and that every memory operation keeps the canonical form. -/

set_option Elab.async false

namespace Sys2Proof.Machine

/-! ### Tables -/

theorem tget_tput {α : Type} (d : α) (k k' : Nat) (v : α) (t : Tbl α) :
    tget d (tput k v t) k' = if k' = k then v else tget d t k' := by
  induction t with
  | nil => simp [tput, tget]
  | cons e r ih =>
    obtain ⟨a, x⟩ := e
    simp only [tput]
    split
    · simp [tget]
    · split
      · subst_vars; simp only [tget]; split <;> rfl
      · simp only [tget, ih]; split <;> split <;> simp_all

theorem tfind_tput {α : Type} (k k' : Nat) (v : α) (t : Tbl α) :
    tfind (tput k v t) k' = if k' = k then some v else tfind t k' := by
  induction t with
  | nil => simp [tput, tfind]
  | cons e r ih =>
    obtain ⟨a, x⟩ := e
    simp only [tput]
    split
    · simp [tfind]
    · split
      · subst_vars; simp only [tfind]; split <;> rfl
      · simp only [tfind, ih]; split <;> split <;> simp_all

theorem tget_tdel_ne {α : Type} (d : α) {k k' : Nat} (h : k' ≠ k) (t : Tbl α) : tget d (tdel k t) k' = tget d t k' := by
  induction t with
  | nil => rfl
  | cons e r ih =>
    obtain ⟨a, x⟩ := e
    simp only [tdel]
    split
    · subst_vars; simp [tget, h, ih]
    · simp [tget, ih]

theorem tfind_tdel_ne {α : Type} {k k' : Nat} (h : k' ≠ k) (t : Tbl α) : tfind (tdel k t) k' = tfind t k' := by
  induction t with
  | nil => rfl
  | cons e r ih =>
    obtain ⟨a, x⟩ := e
    simp only [tdel]
    split
    · subst_vars; simp [tfind, h, ih]
    · simp [tfind, ih]

theorem tfind_tdel_self {α : Type} (k : Nat) (t : Tbl α) : tfind (tdel k t) k = none := by
  induction t with
  | nil => rfl
  | cons e r ih =>
    obtain ⟨a, v⟩ := e
    simp only [tdel]
    split
    · exact ih
    · simp [tfind, ‹k ≠ a›, ih]

theorem tget_tdel_self {α : Type} (d : α) (k : Nat) (t : Tbl α) : tget d (tdel k t) k = d := by
  induction t with
  | nil => rfl
  | cons e r ih =>
    obtain ⟨a, v⟩ := e
    simp only [tdel]
    split
    · exact ih
    · simp [tget, ‹k ≠ a›, ih]

/-- An update of one entry sets that entry. -/
@[simp] theorem tget_tset_self {α : Type} [DecidableEq α] (d : α) (t : Tbl α) (k : Nat) (v : α) : tget d (tset d t k v) k = v := by
  unfold tset
  split
  · subst_vars; exact tget_tdel_self _ _ _
  · rw [tget_tput, if_pos rfl]

@[simp] theorem tget_tupd_self {α : Type} [DecidableEq α] (d : α) (t : Tbl α) (k : Nat) (f : α → α) :
    tget d (tupd d t k f) k = f (tget d t k) := tget_tset_self _ _ _ _

/-- An update of one entry leaves every other entry. -/
theorem tget_tupd_ne {α : Type} [DecidableEq α] (d : α) (t : Tbl α) {k k' : Nat} (f : α → α) (h : k' ≠ k) :
    tget d (tupd d t k f) k' = tget d t k' := by
  unfold tupd tset
  split
  · exact tget_tdel_ne d h t
  · rw [tget_tput, if_neg h]

theorem rising_tail {a : Nat} {l : List Nat} (h : rising (a :: l) = true) : rising l = true := by
  cases l with
  | nil => rfl
  | cons b r => simp [rising] at h; exact h.2

theorem rising_lt {a : Nat} {l : List Nat} (h : rising (a :: l) = true) : ∀ b ∈ l, a < b := by
  induction l generalizing a with
  | nil => simp
  | cons c r ih =>
    intro b hb
    simp only [rising, Bool.and_eq_true, decide_eq_true_eq] at h
    rcases List.mem_cons.mp hb with rfl | hb
    · exact h.1
    · exact Nat.lt_trans h.1 (ih h.2 b hb)

theorem rising_cons {a : Nat} {l : List Nat} (h : ∀ b ∈ l, a < b) (hl : rising l = true) : rising (a :: l) = true := by
  cases l with
  | nil => rfl
  | cons b r => simp [rising, hl, h b]

theorem tdel_mem {α : Type} {k : Nat} {t : Tbl α} {e : Nat × α} (h : e ∈ tdel k t) : e ∈ t := by
  induction t with
  | nil => simp [tdel] at h
  | cons x r ih =>
    obtain ⟨a, v⟩ := x
    simp only [tdel] at h
    split at h
    · exact List.mem_cons_of_mem _ (ih h)
    · rcases List.mem_cons.mp h with rfl | h
      · exact List.mem_cons_self
      · exact List.mem_cons_of_mem _ (ih h)

theorem tput_mem {α : Type} {k : Nat} {v : α} {t : Tbl α} {e : Nat × α} (h : e ∈ tput k v t) : e = (k, v) ∨ e ∈ t := by
  induction t with
  | nil => simp [tput] at h; exact .inl h
  | cons x r ih =>
    obtain ⟨a, w⟩ := x
    simp only [tput] at h
    split at h
    · rcases List.mem_cons.mp h with rfl | h
      · exact .inl rfl
      · exact .inr h
    · split at h
      · rcases List.mem_cons.mp h with rfl | h
        · exact .inl rfl
        · exact .inr (List.mem_cons_of_mem _ h)
      · rcases List.mem_cons.mp h with rfl | h
        · exact .inr List.mem_cons_self
        · exact (ih h).imp id (List.mem_cons_of_mem _)

theorem rising_tdel {α : Type} (k : Nat) {t : Tbl α} (h : rising (t.map (·.1)) = true) :
    rising ((tdel k t).map (·.1)) = true := by
  induction t with
  | nil => rfl
  | cons x r ih =>
    obtain ⟨a, v⟩ := x
    simp only [tdel]
    split
    · exact ih (rising_tail h)
    · refine rising_cons (fun b hb => ?_) (ih (rising_tail h))
      obtain ⟨e, he, rfl⟩ := List.mem_map.mp hb
      exact rising_lt h _ (List.mem_map.mpr ⟨e, tdel_mem he, rfl⟩)

theorem rising_tput {α : Type} (k : Nat) (v : α) {t : Tbl α} (h : rising (t.map (·.1)) = true) :
    rising ((tput k v t).map (·.1)) = true := by
  induction t with
  | nil => rfl
  | cons x r ih =>
    obtain ⟨a, w⟩ := x
    simp only [tput]
    split
    · refine rising_cons (fun b hb => ?_) h
      rcases List.mem_cons.mp hb with rfl | hb
      · assumption
      · exact Nat.lt_trans ‹k < a› (rising_lt h b hb)
    · split
      · subst_vars; exact h
      · refine rising_cons (fun b hb => ?_) (ih (rising_tail h))
        obtain ⟨e, he, rfl⟩ := List.mem_map.mp hb
        rcases tput_mem he with rfl | he
        · show a < k
          omega
        · exact rising_lt h _ (List.mem_map.mpr ⟨e, he, rfl⟩)

theorem rising_insertN (k : Nat) {l : List Nat} (h : rising l = true) : rising (insertN k l) = true := by
  have mem : ∀ (l : List Nat) b, b ∈ insertN k l → b = k ∨ b ∈ l := by
    intro l b
    induction l with
    | nil => simp [insertN]
    | cons a r ih =>
      simp only [insertN]
      split
      · simp
      · split
        · exact .inr
        · intro hb
          rcases List.mem_cons.mp hb with rfl | hb
          · simp
          · exact (ih hb).imp id (List.mem_cons_of_mem _)
  induction l with
  | nil => rfl
  | cons a r ih =>
    simp only [insertN]
    split
    · refine rising_cons (fun b hb => ?_) h
      rcases List.mem_cons.mp hb with rfl | hb
      · assumption
      · exact Nat.lt_trans ‹k < a› (rising_lt h b hb)
    · split
      · exact h
      · refine rising_cons (fun b hb => ?_) (ih (rising_tail h))
        rcases mem r b hb with rfl | hb
        · omega
        · exact rising_lt h b hb

theorem rising_filter (p : Nat → Bool) {l : List Nat} (h : rising l = true) : rising (l.filter p) = true := by
  induction l with
  | nil => rfl
  | cons a r ih =>
    simp only [List.filter_cons]
    split
    · exact rising_cons (fun b hb => rising_lt h b (List.mem_filter.mp hb).1) (ih (rising_tail h))
    · exact ih (rising_tail h)

theorem rising_foldl_insertN {α : Type} (f : α → Nat) (xs : List α) {l : List Nat} (h : rising l = true) :
    rising (xs.foldl (fun m x => insertN (f x) m) l) = true := by
  induction xs generalizing l with
  | nil => exact h
  | cons x r ih => exact ih (rising_insertN (f x) h)

theorem tset_all {α : Type} [DecidableEq α] {d : α} {t : Tbl α} {p : α → Bool} {k : Nat} {v : α}
    (h : (t.all fun e => p e.2) = true) (hv : p v = true) : ((tset d t k v).all fun e => p e.2) = true := by
  rw [List.all_eq_true] at h ⊢
  intro e he
  unfold tset at he
  split at he
  · exact h e (tdel_mem he)
  · rcases tput_mem he with rfl | he
    · exact hv
    · exact h e he

theorem tget_all {α : Type} {d : α} {t : Tbl α} {p : α → Bool} (h : (t.all fun e => p e.2) = true) (hd : p d = true) (k : Nat) :
    p (tget d t k) = true := by
  induction t with
  | nil => exact hd
  | cons e r ih =>
    obtain ⟨a, v⟩ := e
    simp only [List.all_cons, Bool.and_eq_true] at h
    simp only [tget]
    split
    · exact h.1
    · exact ih h.2

theorem tupd_all {α : Type} [DecidableEq α] {d : α} {t : Tbl α} {p : α → Bool} {k : Nat} {f : α → α}
    (h : (t.all fun e => p e.2) = true) (hd : p d = true) (hf : ∀ x, p x = true → p (f x) = true) :
    ((tupd d t k f).all fun e => p e.2) = true :=
  tset_all h (hf _ (tget_all h hd k))

/-! ### Memories -/

/-- A write leaves what unlisted addresses read as. -/
@[simp] theorem Mem.write_background (m : Mem) (a : Nat) (b : Byte) (x : Nat) : (m.write a b).background x = m.background x := by
  unfold Mem.write; split <;> rfl

theorem Mem.wf_iff (m : Mem) :
    m.wf = true ↔ rising (m.cells.map (·.1)) = true ∧ ∀ c ∈ m.cells, c.2 ≠ m.background c.1 := by
  simp [Mem.wf, List.all_eq_true]

/-- A write keeps the canonical form. -/
theorem Mem.write_wf (m : Mem) (a : Nat) (b : Byte) (h : m.wf = true) : (m.write a b).wf = true := by
  rw [Mem.wf_iff] at h ⊢
  unfold Mem.write
  split
  · exact ⟨rising_tdel a h.1, fun c hc => h.2 c (tdel_mem hc)⟩
  · refine ⟨rising_tput a b h.1, fun c hc => ?_⟩
    rcases tput_mem hc with rfl | hc
    · assumption
    · exact h.2 c hc

theorem Mem.writeN_wf (m : Mem) (a : Nat) (bs : List Byte) (h : m.wf = true) : (m.writeN a bs).wf = true := by
  induction bs generalizing m a with
  | nil => exact h
  | cons b r ih => exact ih _ _ (m.write_wf a b h)

theorem background_filter (lo hi : Nat) (fr : List FreeRange) (a : Nat) (ha : a < lo ∨ hi ≤ a) :
    Machine.background (fr.filter fun r => r.lo < lo || hi < r.hi) a = Machine.background fr a := by
  induction fr with
  | nil => rfl
  | cons r q ih =>
    simp only [List.filter_cons]
    split
    · simp only [Machine.background, ih]
    · rename_i hn
      rw [ih]
      simp only [Bool.or_eq_true, decide_eq_true_eq, not_or, Nat.not_lt] at hn
      simp only [Machine.background]
      rw [if_neg (by omega)]

/-- Leaving a range undefined keeps the canonical form. -/
theorem Mem.forget_wf (m : Mem) (lo hi t : Nat) (h : m.wf = true) : (m.forget lo hi t).wf = true := by
  rw [Mem.wf_iff] at h ⊢
  have key : ∀ l : List Host.Cell, rising (l.map (·.1)) = true →
      rising ((l.filter (fun c => c.1 < lo || hi ≤ c.1)).map (·.1)) = true := by
    intro l hl
    have : (l.filter (fun c => c.1 < lo || hi ≤ c.1)).map (·.1) = (l.map (·.1)).filter (fun a => a < lo || hi ≤ a) := by
      rw [List.filter_map]; rfl
    rw [this]
    exact rising_filter _ hl
  refine ⟨key _ h.1, fun c hc => ?_⟩
  simp only [Mem.forget, List.mem_filter, Bool.or_eq_true, decide_eq_true_eq] at hc
  have hb := h.2 c hc.1
  simp only [Mem.background, Mem.forget, Machine.background] at hb ⊢
  rw [if_neg (by omega), background_filter lo hi m.free c.1 hc.2]
  exact hb

theorem Mem.ite_wf (c : Bool) {a b : Mem} (h : a.wf = true) (k : b.wf = true) : (if c then a else b).wf = true := by
  split <;> assumption

theorem Mem.foldl_wf {α : Type} (f : Mem → α → Mem) (hf : ∀ m x, m.wf = true → (f m x).wf = true) (xs : List α) (m : Mem)
    (h : m.wf = true) : (xs.foldl f m).wf = true := by
  induction xs generalizing m with
  | nil => exact h
  | cons x r ih => exact ih _ (hf m x h)

/-- A read after a write: the written byte at its address, every other byte as before. -/
theorem Mem.read_write (m : Mem) (a x : Nat) (b : Byte) : (m.write a b).read x = if x = a then b else m.read x := by
  unfold Mem.write
  split
  · rename_i hb
    by_cases hx : x = a
    · subst hx
      rw [if_pos rfl]
      simp only [Mem.read, tfind_tdel_self]
      exact hb.symm
    · rw [if_neg hx]
      simp only [Mem.read, tfind_tdel_ne hx]
      rfl
  · simp only [Mem.read, tfind_tput]
    by_cases hx : x = a
    · simp [hx]
    · simp only [if_neg hx]
      rfl

/-- What a write of several bytes leaves: every byte outside them. -/
theorem Mem.read_writeN_out (m : Mem) (a x : Nat) (bs : List Byte) (hx : x < a ∨ a + bs.length ≤ x) :
    (m.writeN a bs).read x = m.read x := by
  induction bs generalizing m a with
  | nil => rfl
  | cons b r ih =>
    simp only [List.length_cons] at hx
    simp only [Mem.writeN]
    rw [ih _ _ (by omega), m.read_write, if_neg (by omega)]

/-- What a write of several bytes sets. -/
theorem Mem.read_writeN_in (m : Mem) (a i : Nat) (bs : List Byte) (hi : i < bs.length) :
    (m.writeN a bs).read (a + i) = bs[i] := by
  induction bs generalizing m a i with
  | nil => simp at hi
  | cons b r ih =>
    simp only [Mem.writeN]
    cases i with
    | zero =>
      rw [(m.write a b).read_writeN_out _ _ _ (by omega), m.read_write]
      simp
    | succ j =>
      have := ih (m.write a b) (a + 1) j (by simpa using hi)
      rw [show a + (j + 1) = a + 1 + j by omega, this]
      simp

/-- Reading back what was written. -/
theorem Mem.readN_writeN (m : Mem) (a : Nat) (bs : List Byte) : (m.writeN a bs).readN a bs.length = bs := by
  have go : ∀ (n : Nat) (q : Mem) (a : Nat), q.readN a n = (List.range n).map fun i => q.read (a + i) := by
    intro n
    induction n with
    | zero => intro q a; rfl
    | succ n ih =>
      intro q a
      simp only [Mem.readN, ih, List.range_succ_eq_map, List.map_cons, List.map_map]
      congr 1
      apply List.map_congr_left
      intro i _
      show q.read (a + 1 + i) = q.read (a + (i + 1))
      congr 1; omega
  rw [go]
  apply List.ext_getElem
  · simp
  · intro i h1 h2
    simp [m.read_writeN_in a i bs h2]

/-- A Millefeuille pass keeps the canonical form of the region buffer. -/
theorem gauRun_wf (m : Mem) (d : GauDesc) (h : m.wf = true) : (gauRun m d).1.wf = true := by
  have go : ∀ (xs : List Nat) (r : Mem × Flags), r.1.wf = true → (xs.foldl (fun (r : Mem × Flags) g =>
      let (bs, fl) := gauBlock m d (gangBlock d.gang.toNat) g
      (r.1.writeN (d.cOut.toNat + g * d.cStride.toNat) bs, r.2.or fl)) r).1.wf = true := by
    intro xs
    induction xs with
    | nil => intro r hr; exact hr
    | cons x q ih => intro r hr; exact ih _ (Mem.writeN_wf _ _ _ hr)
  exact go _ _ h

/-- A pass keeps the canonical form of its core's memories. -/
theorem CoreMem.commit_wf (m : CoreMem) (inBank : Bool) (d : PassDesc) (pos : TilePos) (h : m.wf = true) : (m.commit inBank d pos).wf = true := by
  simp only [CoreMem.wf, Bool.and_eq_true] at h ⊢
  unfold CoreMem.commit
  dsimp only
  split
  · exact ⟨⟨⟨Mem.writeN_wf _ _ _ h.1.1.1, h.1.1.2⟩, h.1.2⟩, h.2⟩
  · split
    · exact ⟨⟨h.1.1, Mem.writeN_wf _ _ _ h.1.2⟩, h.2⟩
    · exact ⟨h.1, Mem.writeN_wf _ _ _ h.2⟩

/-- A write keeps the poison marks rising. -/
theorem rising_poisonAfter (a n : Nat) (b : Bool) {l : List Nat} (h : rising l = true) : rising (poisonAfter a n b l) = true := by
  unfold poisonAfter
  split
  · exact rising_foldl_insertN _ _ h
  · exact rising_filter _ h

/-- The epoch follows the count through a reset. -/
theorem Epoch.wf_succ (e : Epoch) (h : e.wf = true) : Epoch.wf { epoch := e.epoch + 1, count := e.count + 1 } = true := by
  simp only [Epoch.wf, beq_iff_eq] at h ⊢
  rw [h]
  apply BitVec.eq_of_toNat_eq
  have h8 : (1 : Byte).toNat = 1 := rfl
  have h32 : (1 : U32).toNat = 1 := rfl
  simp only [BitVec.toNat_add, BitVec.toNat_setWidth, h8, h32]
  omega

end Sys2Proof.Machine
end

