-- ==== Sys2Proof/Laws/Keeps.lean ====
section
/-! SUPPORT. What an operation keeps: every part outside those it may touch, and soundness of the state. One relation with its rules; the
lemma of each operation is in the files beside this one. -/

set_option Elab.async false
set_option linter.all false

namespace Sys2Proof.Machine

variable {m : Part → Bool} {s t u : State}

/-- From `s` to `t` every part that `m` does not let change is the same, a sound state stays sound, and what was sent stays sent. -/
structure Keeps (m : Part → Bool) (s t : State) : Prop where
  same  : ∀ p, m p = false → p.same s t
  sound : s.sound = true → t.sound = true
  sent  : s.out <:+ t.out

theorem Part.same_refl (p : Part) (s : State) : p.same s s := by cases p <;> rfl

theorem Part.same_trans {p : Part} (h : p.same s t) (k : p.same t u) : p.same s u := by
  cases p <;> exact Eq.trans k h

theorem Keeps.refl (s : State) : Keeps m s s := ⟨fun p _ => p.same_refl s, id, List.suffix_refl _⟩

theorem Keeps.trans (h : Keeps m s t) (k : Keeps m t u) : Keeps m s u :=
  ⟨fun p hp => Part.same_trans (h.same p hp) (k.same p hp), fun x => k.sound (h.sound x), h.sent.trans k.sent⟩

theorem Keeps.ite {c : Prop} [Decidable c] {a b : State} (h : Keeps m s a) (k : Keeps m s b) : Keeps m s (if c then a else b) := by
  split <;> assumption

theorem Keeps.foldl {α : Type} {g : State → α → State} {xs : List α} (hg : ∀ t x, Keeps m s t → Keeps m s (g t x)) (k : Keeps m s t) :
    Keeps m s (xs.foldl g t) := by
  induction xs generalizing t with
  | nil => exact k
  | cons x r ih => exact ih (hg t x k)

/-- The same for the outcome of a command. -/
def Keeps.out (m : Part → Bool) (s : State) (o : Host.Outcome State Fault Refusal) : Prop := ∀ t, o = .next t → Keeps m s t

theorem Keeps.out_next (h : Keeps m s t) : Keeps.out m s (.next t) := by
  intro u hu; cases hu; exact h

theorem Keeps.out_fault (r : Fault) : Keeps.out m s (.fault r) := by intro u hu; cases hu

theorem Keeps.out_ite {c : Prop} [Decidable c] {a b : Host.Outcome State Fault Refusal} (h : Keeps.out m s a) (k : Keeps.out m s b) :
    Keeps.out m s (if c then a else b) := by
  split <;> assumption

/-! ### The updates of the parts -/

theorem State.updPending_keeps (h : m .pending = true) {g} (k : Keeps m s t) : Keeps m s (t.updPending g) :=
  k.trans ⟨fun q hq => by cases q <;> first | rfl | simp [h] at hq, id, List.suffix_refl _⟩

theorem State.updEp_keeps (h : m .ep = true) {g} (hg : t.ep.wf = true → (g t.ep).wf = true) (k : Keeps m s t) :
    Keeps m s (t.updEp g) := by
  refine k.trans ⟨fun q hq => ?_, fun hs => ?_, List.suffix_refl _⟩
  · cases q <;> first | rfl | simp [h] at hq
  · simp only [State.sound, State.updEp, Bool.and_eq_true] at hs ⊢
    exact ⟨hs.1, hg hs.2⟩

theorem State.updAon_keeps (h : m .aon = true) {g} (k : Keeps m s t) : Keeps m s (t.updAon g) :=
  k.trans ⟨fun q hq => by cases q <;> first | rfl | simp [h] at hq, id, List.suffix_refl _⟩

theorem State.updWires_keeps (h : m .wires = true) {g} (k : Keeps m s t) : Keeps m s (t.updWires g) :=
  k.trans ⟨fun q hq => by cases q <;> first | rfl | simp [h] at hq, id, List.suffix_refl _⟩

theorem State.updJtag_keeps (h : m .jtag = true) {g} (k : Keeps m s t) : Keeps m s (t.updJtag g) :=
  k.trans ⟨fun q hq => by cases q <;> first | rfl | simp [h] at hq, id, List.suffix_refl _⟩

theorem State.updFuses_keeps (h : m .fuses = true) {g} (k : Keeps m s t) : Keeps m s (t.updFuses g) :=
  k.trans ⟨fun q hq => by cases q <;> first | rfl | simp [h] at hq, id, List.suffix_refl _⟩

theorem State.updHif_keeps (h : m .hif = true) {g} (k : Keeps m s t) : Keeps m s (t.updHif g) :=
  k.trans ⟨fun q hq => by cases q <;> first | rfl | simp [h] at hq, id, List.suffix_refl _⟩

theorem State.updWins_keeps (h : m .wins = true) {g} (k : Keeps m s t) : Keeps m s (t.updWins g) :=
  k.trans ⟨fun q hq => by cases q <;> first | rfl | simp [h] at hq, id, List.suffix_refl _⟩

theorem State.updLink_keeps (h : m .link = true) {g} (k : Keeps m s t) : Keeps m s (t.updLink g) :=
  k.trans ⟨fun q hq => by cases q <;> first | rfl | simp [h] at hq, id, List.suffix_refl _⟩

theorem State.updDev_keeps (h : m .dev = true) {g} (k : Keeps m s t) : Keeps m s (t.updDev g) :=
  k.trans ⟨fun q hq => by cases q <;> first | rfl | simp [h] at hq, id, List.suffix_refl _⟩

theorem State.updCrt_keeps (h : m .crt = true) {g} (k : Keeps m s t) : Keeps m s (t.updCrt g) :=
  k.trans ⟨fun q hq => by cases q <;> first | rfl | simp [h] at hq, id, List.suffix_refl _⟩

theorem State.updCal_keeps (h : m .cal = true) {g} (k : Keeps m s t) : Keeps m s (t.updCal g) :=
  k.trans ⟨fun q hq => by cases q <;> first | rfl | simp [h] at hq, id, List.suffix_refl _⟩

theorem State.updAdm_keeps (h : m .adm = true) {g} (k : Keeps m s t) : Keeps m s (t.updAdm g) :=
  k.trans ⟨fun q hq => by cases q <;> first | rfl | simp [h] at hq, id, List.suffix_refl _⟩

theorem State.updDec_keeps (h : m .dec = true) {g} (k : Keeps m s t) : Keeps m s (t.updDec g) :=
  k.trans ⟨fun q hq => by cases q <;> first | rfl | simp [h] at hq, id, List.suffix_refl _⟩

theorem State.updEnc_keeps (h : m .enc = true) {g} (k : Keeps m s t) : Keeps m s (t.updEnc g) :=
  k.trans ⟨fun q hq => by cases q <;> first | rfl | simp [h] at hq, id, List.suffix_refl _⟩

theorem State.updCse_keeps (h : m .cse = true) {g} (k : Keeps m s t) : Keeps m s (t.updCse g) :=
  k.trans ⟨fun q hq => by cases q <;> first | rfl | simp [h] at hq, id, List.suffix_refl _⟩

theorem State.updRgn_keeps (h : m .rgn = true) {g} (k : Keeps m s t) : Keeps m s (t.updRgn g) :=
  k.trans ⟨fun q hq => by cases q <;> first | rfl | simp [h] at hq, id, List.suffix_refl _⟩

theorem State.updRmem_keeps (h : m .rmem = true) {g} (hg : (t.rmem.all fun e => e.2.wf) = true → ((g t.rmem).all fun e => e.2.wf) = true) (k : Keeps m s t) :
    Keeps m s (t.updRmem g) := by
  refine k.trans ⟨fun q hq => ?_, fun hs => ?_, List.suffix_refl _⟩
  · cases q <;> first | rfl | simp [h] at hq
  · simp only [State.sound, State.updRmem, Bool.and_eq_true] at hs ⊢
    exact ⟨⟨hs.1.1, hg hs.1.2⟩, hs.2⟩

theorem State.updDis_keeps (h : m .dis = true) {g} (k : Keeps m s t) : Keeps m s (t.updDis g) :=
  k.trans ⟨fun q hq => by cases q <;> first | rfl | simp [h] at hq, id, List.suffix_refl _⟩

theorem State.updSyn_keeps (h : m .syn = true) {g} (k : Keeps m s t) : Keeps m s (t.updSyn g) :=
  k.trans ⟨fun q hq => by cases q <;> first | rfl | simp [h] at hq, id, List.suffix_refl _⟩

theorem State.updBpm_keeps (h : m .bpm = true) {g} (k : Keeps m s t) : Keeps m s (t.updBpm g) :=
  k.trans ⟨fun q hq => by cases q <;> first | rfl | simp [h] at hq, id, List.suffix_refl _⟩

theorem State.updTke_keeps (h : m .tke = true) {g} (k : Keeps m s t) : Keeps m s (t.updTke g) :=
  k.trans ⟨fun q hq => by cases q <;> first | rfl | simp [h] at hq, id, List.suffix_refl _⟩

theorem State.updDmc_keeps (h : m .dmc = true) {g} (k : Keeps m s t) : Keeps m s (t.updDmc g) :=
  k.trans ⟨fun q hq => by cases q <;> first | rfl | simp [h] at hq, id, List.suffix_refl _⟩

theorem State.updDram_keeps (h : m .dram = true) {g} (hg : t.dram.wf = true → (g t.dram).wf = true) (k : Keeps m s t) :
    Keeps m s (t.updDram g) := by
  refine k.trans ⟨fun q hq => ?_, fun hs => ?_, List.suffix_refl _⟩
  · cases q <;> first | rfl | simp [h] at hq
  · simp only [State.sound, State.updDram, Bool.and_eq_true] at hs ⊢
    exact ⟨⟨hg hs.1.1, hs.1.2⟩, hs.2⟩

theorem State.updPwr_keeps (h : m .pwr = true) {g} (k : Keeps m s t) : Keeps m s (t.updPwr g) :=
  k.trans ⟨fun q hq => by cases q <;> first | rfl | simp [h] at hq, id, List.suffix_refl _⟩

theorem State.updClk_keeps (h : m .clk = true) {g} (k : Keeps m s t) : Keeps m s (t.updClk g) :=
  k.trans ⟨fun q hq => by cases q <;> first | rfl | simp [h] at hq, id, List.suffix_refl _⟩

theorem State.updRas_keeps (h : m .ras = true) {g} (k : Keeps m s t) : Keeps m s (t.updRas g) :=
  k.trans ⟨fun q hq => by cases q <;> first | rfl | simp [h] at hq, id, List.suffix_refl _⟩

theorem State.updTrc_keeps (h : m .trc = true) {g} (k : Keeps m s t) : Keeps m s (t.updTrc g) :=
  k.trans ⟨fun q hq => by cases q <;> first | rfl | simp [h] at hq, id, List.suffix_refl _⟩

theorem State.updRst_keeps (h : m .rst = true) {g} (k : Keeps m s t) : Keeps m s (t.updRst g) :=
  k.trans ⟨fun q hq => by cases q <;> first | rfl | simp [h] at hq, id, List.suffix_refl _⟩

theorem State.updDbg_keeps (h : m .dbg = true) {g} (k : Keeps m s t) : Keeps m s (t.updDbg g) :=
  k.trans ⟨fun q hq => by cases q <;> first | rfl | simp [h] at hq, id, List.suffix_refl _⟩

theorem State.updOut_keeps (h : m .out = true) {g} (hg : t.out <:+ g t.out) (k : Keeps m s t) : Keeps m s (t.updOut g) :=
  k.trans ⟨fun q hq => by cases q <;> first | rfl | simp [h] at hq, id, hg⟩

theorem State.updFresh_keeps (h : m .fresh = true) {g} (k : Keeps m s t) : Keeps m s (t.updFresh g) :=
  k.trans ⟨fun q hq => by cases q <;> first | rfl | simp [h] at hq, id, List.suffix_refl _⟩

end Sys2Proof.Machine
end

