-- ==== Sys2Proof/Laws/KeepsOps.lean ====
section
/-! SUPPORT. What each operation of Machine/Ops.lean keeps. -/

set_option Elab.async false
set_option linter.all false

namespace Sys2Proof.Machine

variable {m : Part → Bool} {s₀ : State}

theorem State.updSess_keeps (h_enc : m .enc = true) (a0) (a1) (s) (k : Keeps m s₀ s) :
    Keeps m s₀ (State.updSess a0 a1 s) := by
  unfold State.updSess
  repeat' with_reducible first
    | exact k
    | assumption
    | intro _ _ _
    | intro _ _
    | apply State.updEnc_keeps h_enc
    | apply Keeps.ite
    | apply Keeps.foldl
    | split
    | dsimp only
    | intro _

theorem State.updEeng_keeps (h_enc : m .enc = true) (a0) (a1) (s) (k : Keeps m s₀ s) :
    Keeps m s₀ (State.updEeng a0 a1 s) := by
  unfold State.updEeng
  repeat' with_reducible first
    | exact k
    | assumption
    | intro _ _ _
    | intro _ _
    | apply State.updEnc_keeps h_enc
    | apply Keeps.ite
    | apply Keeps.foldl
    | split
    | dsimp only
    | intro _

theorem State.updPool_keeps (h_bpm : m .bpm = true) (a0) (a1) (s) (k : Keeps m s₀ s) :
    Keeps m s₀ (State.updPool a0 a1 s) := by
  unfold State.updPool
  repeat' with_reducible first
    | exact k
    | assumption
    | intro _ _ _
    | intro _ _
    | apply State.updBpm_keeps h_bpm
    | apply Keeps.ite
    | apply Keeps.foldl
    | split
    | dsimp only
    | intro _

theorem State.send_keeps (h_out : m .out = true) (a0) (s) (k : Keeps m s₀ s) :
    Keeps m s₀ (State.send a0 s) := by
  unfold State.send
  repeat' with_reducible first
    | exact k
    | assumption
    | intro _ _ _
    | intro _ _
    | apply State.updOut_keeps h_out
    | apply Keeps.ite
    | apply Keeps.foldl
    | split
    | dsimp only
    | intro _
  exact List.suffix_cons _ _

theorem State.updCtx_keeps (h_dis : m .dis = true) (a0) (a1) (s) (k : Keeps m s₀ s) :
    Keeps m s₀ (State.updCtx a0 a1 s) := by
  unfold State.updCtx
  repeat' with_reducible first
    | exact k
    | assumption
    | intro _ _ _
    | intro _ _
    | apply State.updDis_keeps h_dis
    | apply Keeps.ite
    | apply Keeps.foldl
    | split
    | dsimp only
    | intro _

theorem State.hostPut_keeps (h_out : m .out = true) (a0) (a1) (a2) (a3) (s) (k : Keeps m s₀ s) :
    Keeps m s₀ (State.hostPut a0 a1 a2 a3 s) := by
  unfold State.hostPut
  repeat' with_reducible first
    | exact k
    | assumption
    | intro _ _ _
    | intro _ _
    | apply State.send_keeps h_out
    | apply Keeps.ite
    | apply Keeps.foldl
    | split
    | dsimp only
    | intro _

theorem State.fire_keeps (h_link : m .link = true) (h_out : m .out = true) (a0) (s) (k : Keeps m s₀ s) :
    Keeps m s₀ (State.fire a0 s) := by
  unfold State.fire
  repeat' with_reducible first
    | exact k
    | assumption
    | intro _ _ _
    | intro _ _
    | apply State.send_keeps h_out
    | apply State.updLink_keeps h_link
    | apply Keeps.ite
    | apply Keeps.foldl
    | split
    | dsimp only
    | intro _

theorem State.updProg_keeps (h_enc : m .enc = true) (a0) (a1) (s) (k : Keeps m s₀ s) :
    Keeps m s₀ (State.updProg a0 a1 s) := by
  unfold State.updProg
  repeat' with_reducible first
    | exact k
    | assumption
    | intro _ _ _
    | intro _ _
    | apply State.updEnc_keeps h_enc
    | apply Keeps.ite
    | apply Keeps.foldl
    | split
    | dsimp only
    | intro _

theorem State.dramPut_keeps (h_dram : m .dram = true) (a0) (a1) (a2) (s) (k : Keeps m s₀ s) :
    Keeps m s₀ (State.dramPut a0 a1 a2 s) := State.updDram_keeps h_dram (fun h => by
    simp only [Dram.wf, Bool.and_eq_true] at h ⊢
    exact ⟨Mem.writeN_wf _ _ _ h.1, rising_poisonAfter _ _ _ h.2⟩) k

theorem State.updUnit_keeps (h_ras : m .ras = true) (a0) (a1) (s) (k : Keeps m s₀ s) :
    Keeps m s₀ (State.updUnit a0 a1 s) := by
  unfold State.updUnit
  repeat' with_reducible first
    | exact k
    | assumption
    | intro _ _ _
    | intro _ _
    | apply State.updRas_keeps h_ras
    | apply Keeps.ite
    | apply Keeps.foldl
    | split
    | dsimp only
    | intro _

theorem State.updDeng_keeps (h_dec : m .dec = true) (a0) (a1) (s) (k : Keeps m s₀ s) :
    Keeps m s₀ (State.updDeng a0 a1 s) := by
  unfold State.updDeng
  repeat' with_reducible first
    | exact k
    | assumption
    | intro _ _ _
    | intro _ _
    | apply State.updDec_keeps h_dec
    | apply Keeps.ite
    | apply Keeps.foldl
    | split
    | dsimp only
    | intro _

theorem State.updCseEng_keeps (h_cse : m .cse = true) (a0) (a1) (s) (k : Keeps m s₀ s) :
    Keeps m s₀ (State.updCseEng a0 a1 s) := by
  unfold State.updCseEng
  repeat' with_reducible first
    | exact k
    | assumption
    | intro _ _ _
    | intro _ _
    | apply State.updCse_keeps h_cse
    | apply Keeps.ite
    | apply Keeps.foldl
    | split
    | dsimp only
    | intro _

theorem State.updSdec_keeps (h_dec : m .dec = true) (a0) (a1) (s) (k : Keeps m s₀ s) :
    Keeps m s₀ (State.updSdec a0 a1 s) := by
  unfold State.updSdec
  repeat' with_reducible first
    | exact k
    | assumption
    | intro _ _ _
    | intro _ _
    | apply State.updDec_keeps h_dec
    | apply Keeps.ite
    | apply Keeps.foldl
    | split
    | dsimp only
    | intro _

theorem State.updSlot_keeps (h_dec : m .dec = true) (a0) (a1) (s) (k : Keeps m s₀ s) :
    Keeps m s₀ (State.updSlot a0 a1 s) := by
  unfold State.updSlot
  repeat' with_reducible first
    | exact k
    | assumption
    | intro _ _ _
    | intro _ _
    | apply State.updDec_keeps h_dec
    | apply Keeps.ite
    | apply Keeps.foldl
    | split
    | dsimp only
    | intro _

theorem State.updMd_keeps (h_hif : m .hif = true) (a0) (a1) (s) (k : Keeps m s₀ s) :
    Keeps m s₀ (State.updMd a0 a1 s) := by
  unfold State.updMd
  repeat' with_reducible first
    | exact k
    | assumption
    | intro _ _ _
    | intro _ _
    | apply State.updHif_keeps h_hif
    | apply Keeps.ite
    | apply Keeps.foldl
    | split
    | dsimp only
    | intro _

theorem State.writeEntry_keeps (h_hif : m .hif = true) (h_link : m .link = true) (h_out : m .out = true) (a0) (a1) (s) (k : Keeps m s₀ s) :
    Keeps m s₀ (State.writeEntry a0 a1 s) := by
  unfold State.writeEntry
  repeat' with_reducible first
    | exact k
    | assumption
    | intro _ _ _
    | intro _ _
    | apply State.send_keeps h_out
    | apply State.fire_keeps h_link h_out
    | apply State.updMd_keeps h_hif
    | apply Keeps.ite
    | apply Keeps.foldl
    | split
    | dsimp only
    | intro _

theorem State.drainRing_keeps (h_hif : m .hif = true) (h_link : m .link = true) (h_out : m .out = true) (a0) (a1) (s) (k : Keeps m s₀ s) :
    Keeps m s₀ (State.drainRing a0 a1 s) := by
  induction a1 generalizing s with
  | zero => exact k
  | succ n ih =>
    simp only [State.drainRing]
    split
    · exact k
    · exact .ite (ih _ (State.writeEntry_keeps h_hif h_link h_out _ _ _ (State.updMd_keeps h_hif _ _ _ k))) k

theorem State.pushRec_keeps (h_hif : m .hif = true) (h_link : m .link = true) (h_out : m .out = true) (a0) (a1) (a2) (a3) (a4) (a5) (a6) (s) (k : Keeps m s₀ s) :
    Keeps m s₀ (State.pushRec a0 a1 a2 a3 a4 a5 a6 s) := by
  unfold State.pushRec
  repeat' with_reducible first
    | exact k
    | assumption
    | intro _ _ _
    | intro _ _
    | apply State.updMd_keeps h_hif
    | apply State.drainRing_keeps h_hif h_link h_out
    | apply Keeps.ite
    | apply Keeps.foldl
    | split
    | dsimp only
    | intro _

theorem State.record_keeps (h_hif : m .hif = true) (h_link : m .link = true) (h_out : m .out = true) (a0) (a1) (a2) (a3) (s) (k : Keeps m s₀ s) :
    Keeps m s₀ (State.record a0 a1 a2 a3 s) := by
  unfold State.record
  repeat' with_reducible first
    | exact k
    | assumption
    | intro _ _ _
    | intro _ _
    | apply State.pushRec_keeps h_hif h_link h_out
    | apply Keeps.ite
    | apply Keeps.foldl
    | split
    | dsimp only
    | intro _

theorem State.updTrack_keeps (h_tke : m .tke = true) (a0) (a1) (s) (k : Keeps m s₀ s) :
    Keeps m s₀ (State.updTrack a0 a1 s) := by
  unfold State.updTrack
  repeat' with_reducible first
    | exact k
    | assumption
    | intro _ _ _
    | intro _ _
    | apply State.updTke_keeps h_tke
    | apply Keeps.ite
    | apply Keeps.foldl
    | split
    | dsimp only
    | intro _

theorem State.updChan_keeps (h_dmc : m .dmc = true) (a0) (a1) (s) (k : Keeps m s₀ s) :
    Keeps m s₀ (State.updChan a0 a1 s) := by
  unfold State.updChan
  repeat' with_reducible first
    | exact k
    | assumption
    | intro _ _ _
    | intro _ _
    | apply State.updDmc_keeps h_dmc
    | apply Keeps.ite
    | apply Keeps.foldl
    | split
    | dsimp only
    | intro _

theorem State.notePoison_keeps (h_dmc : m .dmc = true) (a0) (a1) (s) (k : Keeps m s₀ s) :
    Keeps m s₀ (State.notePoison a0 a1 s) := by
  unfold State.notePoison
  repeat' with_reducible first
    | exact k
    | assumption
    | intro _ _ _
    | intro _ _
    | apply State.updChan_keeps h_dmc
    | apply Keeps.ite
    | apply Keeps.foldl
    | split
    | dsimp only
    | intro _

theorem State.reply_keeps (h_hif : m .hif = true) (h_link : m .link = true) (h_out : m .out = true) (a0) (a1) (a2) (a3) (a4) (s) (k : Keeps m s₀ s) :
    Keeps m s₀ (State.reply a0 a1 a2 a3 a4 s) := by
  unfold State.reply
  repeat' with_reducible first
    | exact k
    | assumption
    | intro _ _ _
    | intro _ _
    | apply State.send_keeps h_out
    | apply State.fire_keeps h_link h_out
    | apply State.updHif_keeps h_hif
    | apply Keeps.ite
    | apply Keeps.foldl
    | split
    | dsimp only
    | intro _

theorem State.burn_keeps (h_fresh : m .fresh = true) (s) (k : Keeps m s₀ s) :
    Keeps m s₀ (State.burn s) := by
  unfold State.burn
  repeat' with_reducible first
    | exact k
    | assumption
    | intro _ _ _
    | intro _ _
    | apply State.updFresh_keeps h_fresh
    | apply Keeps.ite
    | apply Keeps.foldl
    | split
    | dsimp only
    | intro _

theorem State.dramForget_keeps (h_dram : m .dram = true) (h_fresh : m .fresh = true) (a0) (a1) (s) (k : Keeps m s₀ s) :
    Keeps m s₀ (State.dramForget a0 a1 s) := by
  unfold State.dramForget
  refine State.updDram_keeps h_dram (fun h => ?_) (State.burn_keeps h_fresh _ k)
  simp only [Dram.wf, Bool.and_eq_true] at h ⊢
  exact ⟨Mem.forget_wf _ _ _ _ h.1, h.2⟩

theorem State.noteCode_keeps (h_ras : m .ras = true) (a0) (s) (k : Keeps m s₀ s) :
    Keeps m s₀ (State.noteCode a0 s) := by
  unfold State.noteCode
  repeat' with_reducible first
    | exact k
    | assumption
    | intro _ _ _
    | intro _ _
    | apply State.updRas_keeps h_ras
    | apply Keeps.ite
    | apply Keeps.foldl
    | split
    | dsimp only
    | intro _

theorem State.setAttn_keeps (h_hif : m .hif = true) (h_dev : m .dev = true) (h_ras : m .ras = true) (a0) (a1) (s) (k : Keeps m s₀ s) :
    Keeps m s₀ (State.setAttn a0 a1 s) := by
  unfold State.setAttn
  repeat' with_reducible first
    | exact k
    | assumption
    | intro _ _ _
    | intro _ _
    | apply State.noteCode_keeps h_ras
    | apply State.updDev_keeps h_dev
    | apply State.updHif_keeps h_hif
    | apply Keeps.ite
    | apply Keeps.foldl
    | split
    | dsimp only
    | intro _

theorem State.attention_keeps (h_hif : m .hif = true) (h_link : m .link = true) (h_dev : m .dev = true) (h_ras : m .ras = true) (h_out : m .out = true) (a0) (a1) (a2) (a3) (s) (k : Keeps m s₀ s) :
    Keeps m s₀ (State.attention a0 a1 a2 a3 s) := by
  unfold State.attention
  repeat' with_reducible first
    | exact k
    | assumption
    | intro _ _ _
    | intro _ _
    | apply State.record_keeps h_hif h_link h_out
    | apply State.setAttn_keeps h_hif h_dev h_ras
    | apply Keeps.ite
    | apply Keeps.foldl
    | split
    | dsimp only
    | intro _

theorem State.updRegion_keeps (h_rgn : m .rgn = true) (a0) (a1) (s) (k : Keeps m s₀ s) :
    Keeps m s₀ (State.updRegion a0 a1 s) := by
  unfold State.updRegion
  repeat' with_reducible first
    | exact k
    | assumption
    | intro _ _ _
    | intro _ _
    | apply State.updRgn_keeps h_rgn
    | apply Keeps.ite
    | apply Keeps.foldl
    | split
    | dsimp only
    | intro _

theorem State.updRegMem_keeps (h_rmem : m .rmem = true) {r f s}
    (hf : ∀ x, RegionMem.wf x = true → RegionMem.wf (f x) = true) (k : Keeps m s₀ s) : Keeps m s₀ (State.updRegMem r f s) := State.updRmem_keeps h_rmem (fun h => tupd_all h rfl hf) k

theorem State.updVec_keeps (h_rmem : m .rmem = true) (a0) (a1) (a2) (s) (k : Keeps m s₀ s) :
    Keeps m s₀ (State.updVec a0 a1 a2 s) := State.updRegMem_keeps h_rmem (fun _ hx => hx) k

theorem State.updCore_keeps (h_rgn : m .rgn = true) (a0) (a1) (a2) (s) (k : Keeps m s₀ s) :
    Keeps m s₀ (State.updCore a0 a1 a2 s) := by
  unfold State.updCore
  repeat' with_reducible first
    | exact k
    | assumption
    | intro _ _ _
    | intro _ _
    | apply State.updRegion_keeps h_rgn
    | apply Keeps.ite
    | apply Keeps.foldl
    | split
    | dsimp only
    | intro _

theorem State.updGau_keeps (h_rgn : m .rgn = true) (a0) (a1) (s) (k : Keeps m s₀ s) :
    Keeps m s₀ (State.updGau a0 a1 s) := by
  unfold State.updGau
  repeat' with_reducible first
    | exact k
    | assumption
    | intro _ _ _
    | intro _ _
    | apply State.updRegion_keeps h_rgn
    | apply Keeps.ite
    | apply Keeps.foldl
    | split
    | dsimp only
    | intro _

theorem State.updTvec_keeps (h_tke : m .tke = true) (a0) (a1) (s) (k : Keeps m s₀ s) :
    Keeps m s₀ (State.updTvec a0 a1 s) := by
  unfold State.updTvec
  repeat' with_reducible first
    | exact k
    | assumption
    | intro _ _ _
    | intro _ _
    | apply State.updTke_keeps h_tke
    | apply Keeps.ite
    | apply Keeps.foldl
    | split
    | dsimp only
    | intro _

theorem State.updWc_keeps (h_rgn : m .rgn = true) (a0) (a1) (a2) (s) (k : Keeps m s₀ s) :
    Keeps m s₀ (State.updWc a0 a1 a2 s) := by
  unfold State.updWc
  repeat' with_reducible first
    | exact k
    | assumption
    | intro _ _ _
    | intro _ _
    | apply State.updRegion_keeps h_rgn
    | apply Keeps.ite
    | apply Keeps.foldl
    | split
    | dsimp only
    | intro _

theorem State.updRb_keeps (h_rmem : m .rmem = true) {r f s}
    (hf : ∀ x, Mem.wf x = true → Mem.wf (f x) = true) (k : Keeps m s₀ s) : Keeps m s₀ (State.updRb r f s) := State.updRegMem_keeps h_rmem (fun x hx => by
    simp only [RegionMem.wf, Bool.and_eq_true] at hx ⊢
    exact ⟨hf _ hx.1, hx.2⟩) k

theorem State.updCoreMem_keeps (h_rmem : m .rmem = true) {r c f s}
    (hf : ∀ x, CoreMem.wf x = true → CoreMem.wf (f x) = true) (k : Keeps m s₀ s) : Keeps m s₀ (State.updCoreMem r c f s) := State.updRegMem_keeps h_rmem (fun x hx => by
    simp only [RegionMem.wf, Bool.and_eq_true] at hx ⊢
    exact ⟨hx.1, tupd_all hx.2 rfl hf⟩) k

theorem State.progressed_keeps (h_dis : m .dis = true) (a0) (s) (k : Keeps m s₀ s) :
    Keeps m s₀ (State.progressed a0 s) := by
  unfold State.progressed
  repeat' with_reducible first
    | exact k
    | assumption
    | intro _ _ _
    | intro _ _
    | apply State.updCtx_keeps h_dis
    | apply Keeps.ite
    | apply Keeps.foldl
    | split
    | dsimp only
    | intro _

theorem State.runClocks_keeps (h_aon : m .aon = true) (a0) (s) (k : Keeps m s₀ s) :
    Keeps m s₀ (State.runClocks a0 s) := by
  unfold State.runClocks
  repeat' with_reducible first
    | exact k
    | assumption
    | intro _ _ _
    | intro _ _
    | apply State.updAon_keeps h_aon
    | apply Keeps.ite
    | apply Keeps.foldl
    | split
    | dsimp only
    | intro _

theorem State.waitUntil_keeps (h_aon : m .aon = true) (a0) (s) (k : Keeps m s₀ s) :
    Keeps m s₀ (State.waitUntil a0 s) := by
  unfold State.waitUntil
  repeat' with_reducible first
    | exact k
    | assumption
    | intro _ _ _
    | intro _ _
    | apply State.updAon_keeps h_aon
    | apply State.runClocks_keeps h_aon
    | apply Keeps.ite
    | apply Keeps.foldl
    | split
    | dsimp only
    | intro _

theorem State.updRegPwr_keeps (h_pwr : m .pwr = true) (a0) (a1) (s) (k : Keeps m s₀ s) :
    Keeps m s₀ (State.updRegPwr a0 a1 s) := by
  unfold State.updRegPwr
  repeat' with_reducible first
    | exact k
    | assumption
    | intro _ _ _
    | intro _ _
    | apply State.updPwr_keeps h_pwr
    | apply Keeps.ite
    | apply Keeps.foldl
    | split
    | dsimp only
    | intro _

theorem State.stopAclk_keeps (h_rgn : m .rgn = true) (h_pwr : m .pwr = true) (a0) (a1) (a2) (s) (k : Keeps m s₀ s) :
    Keeps m s₀ (State.stopAclk a0 a1 a2 s) := by
  unfold State.stopAclk
  repeat' with_reducible first
    | exact k
    | assumption
    | intro _ _ _
    | intro _ _
    | apply State.updRegion_keeps h_rgn
    | apply State.updRegPwr_keeps h_pwr
    | apply Keeps.ite
    | apply Keeps.foldl
    | split
    | dsimp only
    | intro _

theorem State.updTrn_keeps (h_dmc : m .dmc = true) (a0) (a1) (s) (k : Keeps m s₀ s) :
    Keeps m s₀ (State.updTrn a0 a1 s) := by
  unfold State.updTrn
  repeat' with_reducible first
    | exact k
    | assumption
    | intro _ _ _
    | intro _ _
    | apply State.updDmc_keeps h_dmc
    | apply Keeps.ite
    | apply Keeps.foldl
    | split
    | dsimp only
    | intro _

theorem State.answer_keeps (h_out : m .out = true) (a0) (a1) (a2) (s) (k : Keeps m s₀ s) :
    Keeps m s₀ (State.answer a0 a1 a2 s) := by
  unfold State.answer
  repeat' with_reducible first
    | exact k
    | assumption
    | intro _ _ _
    | intro _ _
    | apply State.send_keeps h_out
    | apply Keeps.ite
    | apply Keeps.foldl
    | split
    | dsimp only
    | intro _

theorem State.idle_keeps (h_aon : m .aon = true) (s) (k : Keeps m s₀ s) :
    Keeps m s₀ (State.idle s) := by
  unfold State.idle
  repeat' with_reducible first
    | exact k
    | assumption
    | intro _ _ _
    | intro _ _
    | apply State.updAon_keeps h_aon
    | apply State.runClocks_keeps h_aon
    | apply Keeps.ite
    | apply Keeps.foldl
    | split
    | dsimp only
    | intro _

theorem State.drainRings_keeps (h_hif : m .hif = true) (h_link : m .link = true) (h_out : m .out = true) (s) (k : Keeps m s₀ s) :
    Keeps m s₀ (State.drainRings s) := by
  unfold State.drainRings
  repeat' with_reducible first
    | exact k
    | assumption
    | intro _ _ _
    | intro _ _
    | apply State.drainRing_keeps h_hif h_link h_out
    | apply Keeps.ite
    | apply Keeps.foldl
    | split
    | dsimp only
    | intro _

end Sys2Proof.Machine
end

