-- ==== Sys2Proof/Laws/KeepsCartOps.lean ====
section
/-! SUPPORT. What each operation of Machine/CartOps.lean keeps. -/

set_option Elab.async false
set_option linter.all false

namespace Sys2Proof.Machine

variable {m : Part → Bool} {s₀ : State}

theorem State.storeRecord_keeps (h_crt : m .crt = true) (a0) (a1) (s) (k : Keeps m s₀ s) :
    Keeps m s₀ (State.storeRecord a0 a1 s) := by
  unfold State.storeRecord
  repeat' with_reducible first
    | exact k
    | assumption
    | intro _ _ _
    | intro _ _
    | apply State.updCrt_keeps h_crt
    | apply Keeps.ite
    | apply Keeps.foldl
    | split
    | dsimp only
    | intro _

theorem State.copyForward_keeps (h_crt : m .crt = true) (s) (k : Keeps m s₀ s) :
    Keeps m s₀ (State.copyForward s) := by
  unfold State.copyForward
  repeat' with_reducible first
    | exact k
    | assumption
    | intro _ _ _
    | intro _ _
    | apply State.storeRecord_keeps h_crt
    | apply Keeps.ite
    | apply Keeps.foldl
    | split
    | dsimp only
    | intro _

theorem State.reclaim_keeps (h_crt : m .crt = true) (s) (k : Keeps m s₀ s) :
    Keeps m s₀ (State.reclaim s) := by
  unfold State.reclaim
  repeat' with_reducible first
    | exact k
    | assumption
    | intro _ _ _
    | intro _ _
    | apply State.copyForward_keeps h_crt
    | apply State.updCrt_keeps h_crt
    | apply State.storeRecord_keeps h_crt
    | apply Keeps.ite
    | apply Keeps.foldl
    | split
    | dsimp only
    | intro _

theorem State.kickWrite_keeps (h_crt : m .crt = true) (s) (k : Keeps m s₀ s) :
    Keeps m s₀ (State.kickWrite s) := by
  unfold State.kickWrite
  repeat' with_reducible first
    | exact k
    | assumption
    | intro _ _ _
    | intro _ _
    | apply State.updCrt_keeps h_crt
    | apply Keeps.ite
    | apply Keeps.foldl
    | split
    | dsimp only
    | intro _

theorem State.replyTag_keeps (h_hif : m .hif = true) (h_link : m .link = true) (h_out : m .out = true) (a0) (a1) (a2) (a3) (s) (k : Keeps m s₀ s) :
    Keeps m s₀ (State.replyTag a0 a1 a2 a3 s) := by
  unfold State.replyTag
  repeat' with_reducible first
    | exact k
    | assumption
    | intro _ _ _
    | intro _ _
    | apply State.reply_keeps h_hif h_link h_out
    | apply State.updHif_keeps h_hif
    | apply Keeps.ite
    | apply Keeps.foldl
    | split
    | dsimp only
    | intro _

theorem State.calReply_keeps (h_hif : m .hif = true) (h_link : m .link = true) (h_cal : m .cal = true) (h_out : m .out = true) (a0) (s) (k : Keeps m s₀ s) :
    Keeps m s₀ (State.calReply a0 s) := by
  unfold State.calReply
  repeat' with_reducible first
    | exact k
    | assumption
    | intro _ _ _
    | intro _ _
    | apply State.replyTag_keeps h_hif h_link h_out
    | apply State.updCal_keeps h_cal
    | apply Keeps.ite
    | apply Keeps.foldl
    | split
    | dsimp only
    | intro _

theorem State.pendRecord_keeps (h_crt : m .crt = true) (a0) (a1) (a2) (a3) (s) (k : Keeps m s₀ s) :
    Keeps m s₀ (State.pendRecord a0 a1 a2 a3 s) := by
  unfold State.pendRecord
  repeat' with_reducible first
    | exact k
    | assumption
    | intro _ _ _
    | intro _ _
    | apply State.kickWrite_keeps h_crt
    | apply State.updCrt_keeps h_crt
    | apply Keeps.ite
    | apply Keeps.foldl
    | split
    | dsimp only
    | intro _

theorem State.addRepair_keeps (h_hif : m .hif = true) (h_link : m .link = true) (h_dev : m .dev = true) (h_crt : m .crt = true) (h_ras : m .ras = true) (h_out : m .out = true) (a0) (a1) (a2) (a3) (s) (k : Keeps m s₀ s) :
    Keeps m s₀ (State.addRepair a0 a1 a2 a3 s) := by
  unfold State.addRepair
  repeat' with_reducible first
    | exact k
    | assumption
    | intro _ _ _
    | intro _ _
    | apply State.attention_keeps h_hif h_link h_dev h_ras h_out
    | apply State.updRas_keeps h_ras
    | apply State.pendRecord_keeps h_crt
    | apply Keeps.ite
    | apply Keeps.foldl
    | split
    | dsimp only
    | intro _

theorem State.pendLife_keeps (h_crt : m .crt = true) (a0) (a1) (s) (k : Keeps m s₀ s) :
    Keeps m s₀ (State.pendLife a0 a1 s) := by
  unfold State.pendLife
  repeat' with_reducible first
    | exact k
    | assumption
    | intro _ _ _
    | intro _ _
    | apply State.pendRecord_keeps h_crt
    | apply Keeps.ite
    | apply Keeps.foldl
    | split
    | dsimp only
    | intro _

theorem State.flushRecords_keeps (h_crt : m .crt = true) (a0) (a1) (s) (k : Keeps m s₀ s) :
    Keeps m s₀ (State.flushRecords a0 a1 s) := by
  unfold State.flushRecords
  repeat' with_reducible first
    | exact k
    | assumption
    | intro _ _ _
    | intro _ _
    | apply State.pendLife_keeps h_crt
    | apply State.updCrt_keeps h_crt
    | apply Keeps.ite
    | apply Keeps.foldl
    | split
    | dsimp only
    | intro _

theorem State.showLife_keeps (h_crt : m .crt = true) (s) (k : Keeps m s₀ s) :
    Keeps m s₀ (State.showLife s) := by
  unfold State.showLife
  repeat' with_reducible first
    | exact k
    | assumption
    | intro _ _ _
    | intro _ _
    | apply State.updCrt_keeps h_crt
    | apply Keeps.ite
    | apply Keeps.foldl
    | split
    | dsimp only
    | intro _

theorem State.judgeLife_keeps (h_hif : m .hif = true) (h_link : m .link = true) (h_dev : m .dev = true) (h_crt : m .crt = true) (h_ras : m .ras = true) (h_out : m .out = true) (a0) (s) (k : Keeps m s₀ s) :
    Keeps m s₀ (State.judgeLife a0 s) := by
  unfold State.judgeLife
  repeat' with_reducible first
    | exact k
    | assumption
    | intro _ _ _
    | intro _ _
    | apply State.showLife_keeps h_crt
    | apply State.updCrt_keeps h_crt
    | apply State.attention_keeps h_hif h_link h_dev h_ras h_out
    | apply State.pendLife_keeps h_crt
    | apply Keeps.ite
    | apply Keeps.foldl
    | split
    | dsimp only
    | intro _

theorem State.adapterWritten_keeps (h_crt : m .crt = true) (a0) (s) (k : Keeps m s₀ s) :
    Keeps m s₀ (State.adapterWritten a0 s) := by
  unfold State.adapterWritten
  repeat' with_reducible first
    | exact k
    | assumption
    | intro _ _ _
    | intro _ _
    | apply State.updCrt_keeps h_crt
    | apply Keeps.ite
    | apply Keeps.foldl
    | split
    | dsimp only
    | intro _

theorem State.writeOk_keeps (h_hif : m .hif = true) (h_link : m .link = true) (h_dev : m .dev = true) (h_crt : m .crt = true) (h_cal : m .cal = true) (h_ras : m .ras = true) (h_out : m .out = true) (a0) (a1) (s) (k : Keeps m s₀ s) :
    Keeps m s₀ (State.writeOk a0 a1 s) := by
  unfold State.writeOk
  repeat' with_reducible first
    | exact k
    | assumption
    | intro _ _ _
    | intro _ _
    | apply State.updCrt_keeps h_crt
    | apply State.storeRecord_keeps h_crt
    | apply State.adapterWritten_keeps h_crt
    | apply State.calReply_keeps h_hif h_link h_cal h_out
    | apply State.replyTag_keeps h_hif h_link h_out
    | apply State.judgeLife_keeps h_hif h_link h_dev h_crt h_ras h_out
    | apply State.showLife_keeps h_crt
    | apply Keeps.ite
    | apply Keeps.foldl
    | split
    | dsimp only
    | intro _

theorem State.writeFailed_keeps (h_hif : m .hif = true) (h_link : m .link = true) (h_crt : m .crt = true) (h_cal : m .cal = true) (h_out : m .out = true) (a0) (a1) (s) (k : Keeps m s₀ s) :
    Keeps m s₀ (State.writeFailed a0 a1 s) := by
  unfold State.writeFailed
  repeat' with_reducible first
    | exact k
    | assumption
    | intro _ _ _
    | intro _ _
    | apply State.updCrt_keeps h_crt
    | apply State.calReply_keeps h_hif h_link h_cal h_out
    | apply State.replyTag_keeps h_hif h_link h_out
    | apply Keeps.ite
    | apply Keeps.foldl
    | split
    | dsimp only
    | intro _

theorem State.endWrite_keeps (h_hif : m .hif = true) (h_link : m .link = true) (h_dev : m .dev = true) (h_crt : m .crt = true) (h_cal : m .cal = true) (h_ras : m .ras = true) (h_out : m .out = true) (a0) (a1) (s) (k : Keeps m s₀ s) :
    Keeps m s₀ (State.endWrite a0 a1 s) := by
  unfold State.endWrite
  repeat' with_reducible first
    | exact k
    | assumption
    | intro _ _ _
    | intro _ _
    | apply State.updCrt_keeps h_crt
    | apply State.reclaim_keeps h_crt
    | apply State.writeOk_keeps h_hif h_link h_dev h_crt h_cal h_ras h_out
    | apply State.writeFailed_keeps h_hif h_link h_crt h_cal h_out
    | apply State.kickWrite_keeps h_crt
    | apply Keeps.ite
    | apply Keeps.foldl
    | split
    | dsimp only
    | intro _

end Sys2Proof.Machine
end

