-- ==== Sys2Proof/Laws/KeepsAdmission.lean ====
section
/-! SUPPORT. What each operation of Machine/Admission.lean keeps. -/

set_option Elab.async false
set_option linter.all false

namespace Sys2Proof.Machine

variable {m : Part → Bool} {s₀ : State}

theorem State.setSlack_keeps (h_pwr : m .pwr = true) (s) (k : Keeps m s₀ s) :
    Keeps m s₀ (State.setSlack s) := by
  unfold State.setSlack
  repeat' with_reducible first
    | exact k
    | assumption
    | intro _ _ _
    | intro _ _
    | apply State.updPwr_keeps h_pwr
    | apply Keeps.ite
    | apply Keeps.foldl
    | split
    | dsimp only
    | intro _

theorem State.undegrade_keeps (h_dev : m .dev = true) (s) (k : Keeps m s₀ s) :
    Keeps m s₀ (State.undegrade s) := by
  unfold State.undegrade
  repeat' with_reducible first
    | exact k
    | assumption
    | intro _ _ _
    | intro _ _
    | apply State.updDev_keeps h_dev
    | apply Keeps.ite
    | apply Keeps.foldl
    | split
    | dsimp only
    | intro _

theorem State.stepTo_keeps (h_rgn : m .rgn = true) (h_pwr : m .pwr = true) (h_clk : m .clk = true) (a0) (a1) (s) (k : Keeps m s₀ s) :
    Keeps m s₀ (State.stepTo a0 a1 s) := by
  unfold State.stepTo
  repeat' with_reducible first
    | exact k
    | assumption
    | intro _ _ _
    | intro _ _
    | apply State.updClk_keeps h_clk
    | apply State.stopAclk_keeps h_rgn h_pwr
    | apply Keeps.ite
    | apply Keeps.foldl
    | split
    | dsimp only
    | intro _

theorem State.onward_keeps (h_rgn : m .rgn = true) (h_pwr : m .pwr = true) (h_clk : m .clk = true) (a0) (s) (k : Keeps m s₀ s) :
    Keeps m s₀ (State.onward a0 s) := by
  unfold State.onward
  repeat' with_reducible first
    | exact k
    | assumption
    | intro _ _ _
    | intro _ _
    | apply State.updRegPwr_keeps h_pwr
    | apply State.stepTo_keeps h_rgn h_pwr h_clk
    | apply Keeps.ite
    | apply Keeps.foldl
    | split
    | dsimp only
    | intro _

theorem State.regionsTo_keeps (h_rgn : m .rgn = true) (h_pwr : m .pwr = true) (h_clk : m .clk = true) (a0) (a1) (s) (k : Keeps m s₀ s) :
    Keeps m s₀ (State.regionsTo a0 a1 s) := by
  unfold State.regionsTo
  repeat' with_reducible first
    | exact k
    | assumption
    | intro _ _ _
    | intro _ _
    | apply State.updRegPwr_keeps h_pwr
    | apply State.onward_keeps h_rgn h_pwr h_clk
    | apply Keeps.ite
    | apply Keeps.foldl
    | split
    | dsimp only
    | intro _

theorem State.applyAdm_keeps (h_adm : m .adm = true) (h_dec : m .dec = true) (h_enc : m .enc = true) (h_rgn : m .rgn = true) (h_dis : m .dis = true) (h_pwr : m .pwr = true) (h_clk : m .clk = true) (a0) (a1) (s) (k : Keeps m s₀ s) :
    Keeps m s₀ (State.applyAdm a0 a1 s) := by
  unfold State.applyAdm
  repeat' with_reducible first
    | exact k
    | assumption
    | intro _ _ _
    | intro _ _
    | apply State.updAdm_keeps h_adm
    | apply State.updDis_keeps h_dis
    | apply State.updDec_keeps h_dec
    | apply State.updEnc_keeps h_enc
    | apply State.setSlack_keeps h_pwr
    | apply State.regionsTo_keeps h_rgn h_pwr h_clk
    | apply Keeps.ite
    | apply Keeps.foldl
    | split
    | dsimp only
    | intro _

theorem State.degrade_keeps (h_dev : m .dev = true) (h_adm : m .adm = true) (a0) (s) (k : Keeps m s₀ s) :
    Keeps m s₀ (State.degrade a0 s) := by
  unfold State.degrade
  repeat' with_reducible first
    | exact k
    | assumption
    | intro _ _ _
    | intro _ _
    | apply State.updAdm_keeps h_adm
    | apply State.updDev_keeps h_dev
    | apply Keeps.ite
    | apply Keeps.foldl
    | split
    | dsimp only
    | intro _

theorem State.readmit_keeps (h_dev : m .dev = true) (h_adm : m .adm = true) (h_dec : m .dec = true) (h_enc : m .enc = true) (h_rgn : m .rgn = true) (h_dis : m .dis = true) (h_pwr : m .pwr = true) (h_clk : m .clk = true) (s) {t : State} {x : Option AdmFail} (e : State.readmit s = (t, x)) (k : Keeps m s₀ s) :
    Keeps m s₀ t := by
  revert e
  unfold State.readmit
  repeat' with_reducible first
    | exact k
    | assumption
    | intro _ _ _
    | intro _ _
    | (intro e; cases e)
    | apply State.undegrade_keeps h_dev
    | apply State.applyAdm_keeps h_adm h_dec h_enc h_rgn h_dis h_pwr h_clk
    | apply State.degrade_keeps h_dev h_adm
    | apply Keeps.ite
    | apply Keeps.foldl
    | split
    | dsimp only
    | intro _

theorem State.readmitFor_keeps (h_hif : m .hif = true) (h_link : m .link = true) (h_dev : m .dev = true) (h_adm : m .adm = true) (h_dec : m .dec = true) (h_enc : m .enc = true) (h_rgn : m .rgn = true) (h_dis : m .dis = true) (h_pwr : m .pwr = true) (h_clk : m .clk = true) (h_ras : m .ras = true) (h_out : m .out = true) (a0) (a1) (a2) (s) (k : Keeps m s₀ s) :
    Keeps m s₀ (State.readmitFor a0 a1 a2 s) := by
  unfold State.readmitFor
  repeat' with_reducible first
    | exact k
    | assumption
    | intro _ _ _
    | intro _ _
    | apply State.attention_keeps h_hif h_link h_dev h_ras h_out
    | apply State.readmit_keeps h_dev h_adm h_dec h_enc h_rgn h_dis h_pwr h_clk _ (by assumption)
    | apply State.readmit_keeps h_dev h_adm h_dec h_enc h_rgn h_dis h_pwr h_clk _ rfl
    | apply Keeps.ite
    | apply Keeps.foldl
    | split
    | dsimp only
    | intro _

theorem State.applyLayout_keeps (h_hif : m .hif = true) (h_adm : m .adm = true) (h_dec : m .dec = true) (h_bpm : m .bpm = true) (a0) (a1) (s) (k : Keeps m s₀ s) :
    Keeps m s₀ (State.applyLayout a0 a1 s) := by
  unfold State.applyLayout
  repeat' with_reducible first
    | exact k
    | assumption
    | intro _ _ _
    | intro _ _
    | apply State.updBpm_keeps h_bpm
    | apply State.updAdm_keeps h_adm
    | apply State.updDec_keeps h_dec
    | apply State.updHif_keeps h_hif
    | apply Keeps.ite
    | apply Keeps.foldl
    | split
    | dsimp only
    | intro _

theorem State.freqSettled_keeps (h_dec : m .dec = true) (s) (k : Keeps m s₀ s) :
    Keeps m s₀ (State.freqSettled s) := by
  unfold State.freqSettled
  repeat' with_reducible first
    | exact k
    | assumption
    | intro _ _ _
    | intro _ _
    | apply State.updDec_keeps h_dec
    | apply Keeps.ite
    | apply Keeps.foldl
    | split
    | dsimp only
    | intro _

end Sys2Proof.Machine
end

