-- ==== Sys2Proof/Laws/KeepsBar0.lean ====
section
/-! SUPPORT. What each operation of Machine/Bar0.lean keeps. -/

set_option Elab.async false
set_option linter.all false

namespace Sys2Proof.Machine

variable {m : Part → Bool} {s₀ : State}

theorem State.holdDomains_keeps (h_pwr : m .pwr = true) (a0) (s) (k : Keeps m s₀ s) :
    Keeps m s₀ (State.holdDomains a0 s) := by
  unfold State.holdDomains
  repeat' with_reducible first
    | exact k
    | assumption
    | intro _ _ _
    | intro _ _
    | apply State.updPwr_keeps h_pwr
    | apply Keeps.ite
    | apply Keeps.foldl
    | split
    | dsimp only
    | intro _

theorem State.letDomains_keeps (h_pwr : m .pwr = true) (a0) (s) (k : Keeps m s₀ s) :
    Keeps m s₀ (State.letDomains a0 s) := by
  unfold State.letDomains
  repeat' with_reducible first
    | exact k
    | assumption
    | intro _ _ _
    | intro _ _
    | apply State.updPwr_keeps h_pwr
    | apply Keeps.ite
    | apply Keeps.foldl
    | split
    | dsimp only
    | intro _

end Sys2Proof.Machine
end

