-- ==== Sys2Proof/Laws/KeepsPools.lean ====
section
/-! SUPPORT. What each operation of Machine/Pools.lean keeps. -/

set_option Elab.async false
set_option linter.all false

namespace Sys2Proof.Machine

variable {m : Part → Bool} {s₀ : State}

theorem State.unblock_keeps (h_dis : m .dis = true) (a0) (s) (k : Keeps m s₀ s) :
    Keeps m s₀ (State.unblock a0 s) := by
  unfold State.unblock
  repeat' with_reducible first
    | exact k
    | assumption
    | intro _ _ _
    | intro _ _
    | apply State.updCtx_keeps h_dis
    | apply Keeps.ite
    | apply Keeps.foldl
    | split
    | dsimp only
    | intro _

theorem State.giveBack_keeps (h_dis : m .dis = true) (h_bpm : m .bpm = true) (h_out : m .out = true) (a0) (s) (k : Keeps m s₀ s) :
    Keeps m s₀ (State.giveBack a0 s) := by
  unfold State.giveBack
  repeat' with_reducible first
    | exact k
    | assumption
    | intro _ _ _
    | intro _ _
    | apply State.updPool_keeps h_bpm
    | apply State.updBpm_keeps h_bpm
    | apply State.send_keeps h_out
    | apply State.unblock_keeps h_dis
    | apply Keeps.ite
    | apply Keeps.foldl
    | split
    | dsimp only
    | intro _

theorem State.settle_keeps (h_dis : m .dis = true) (h_bpm : m .bpm = true) (h_out : m .out = true) (a0) (a1) (s) (k : Keeps m s₀ s) :
    Keeps m s₀ (State.settle a0 a1 s) := by
  unfold State.settle
  repeat' with_reducible first
    | exact k
    | assumption
    | intro _ _ _
    | intro _ _
    | apply State.giveBack_keeps h_dis h_bpm h_out
    | apply State.updBpm_keeps h_bpm
    | apply Keeps.ite
    | apply Keeps.foldl
    | split
    | dsimp only
    | intro _

theorem State.freeBuf_keeps (h_dis : m .dis = true) (h_bpm : m .bpm = true) (h_out : m .out = true) (a0) (s) (k : Keeps m s₀ s) :
    Keeps m s₀ (State.freeBuf a0 s) := by
  unfold State.freeBuf
  repeat' with_reducible first
    | exact k
    | assumption
    | intro _ _ _
    | intro _ _
    | apply State.settle_keeps h_dis h_bpm h_out
    | apply Keeps.ite
    | apply Keeps.foldl
    | split
    | dsimp only
    | intro _

theorem State.releaseBuf_keeps (h_dis : m .dis = true) (h_bpm : m .bpm = true) (h_out : m .out = true) (a0) (a1) (s) (k : Keeps m s₀ s) :
    Keeps m s₀ (State.releaseBuf a0 a1 s) := by
  unfold State.releaseBuf
  repeat' with_reducible first
    | exact k
    | assumption
    | intro _ _ _
    | intro _ _
    | apply State.settle_keeps h_dis h_bpm h_out
    | apply State.updBpm_keeps h_bpm
    | apply Keeps.ite
    | apply Keeps.foldl
    | split
    | dsimp only
    | intro _

theorem State.releaseAll_keeps (h_dis : m .dis = true) (h_bpm : m .bpm = true) (h_out : m .out = true) (a0) (a1) (s) (k : Keeps m s₀ s) :
    Keeps m s₀ (State.releaseAll a0 a1 s) := by
  unfold State.releaseAll
  repeat' with_reducible first
    | exact k
    | assumption
    | intro _ _ _
    | intro _ _
    | apply State.releaseBuf_keeps h_dis h_bpm h_out
    | apply Keeps.ite
    | apply Keeps.foldl
    | split
    | dsimp only
    | intro _

theorem State.dropAll_keeps (h_dis : m .dis = true) (h_bpm : m .bpm = true) (h_out : m .out = true) (a0) (s) (k : Keeps m s₀ s) :
    Keeps m s₀ (State.dropAll a0 s) := by
  unfold State.dropAll
  repeat' with_reducible first
    | exact k
    | assumption
    | intro _ _ _
    | intro _ _
    | apply State.releaseAll_keeps h_dis h_bpm h_out
    | apply State.freeBuf_keeps h_dis h_bpm h_out
    | apply Keeps.ite
    | apply Keeps.foldl
    | split
    | dsimp only
    | intro _

theorem State.dropWait_keeps (h_syn : m .syn = true) (a0) (s) (k : Keeps m s₀ s) :
    Keeps m s₀ (State.dropWait a0 s) := by
  unfold State.dropWait
  repeat' with_reducible first
    | exact k
    | assumption
    | intro _ _ _
    | intro _ _
    | apply State.updSyn_keeps h_syn
    | apply Keeps.ite
    | apply Keeps.foldl
    | split
    | dsimp only
    | intro _

theorem State.wakeWaiter_keeps (h_dis : m .dis = true) (a0) (s) (k : Keeps m s₀ s) :
    Keeps m s₀ (State.wakeWaiter a0 s) := by
  unfold State.wakeWaiter
  repeat' with_reducible first
    | exact k
    | assumption
    | intro _ _ _
    | intro _ _
    | apply State.unblock_keeps h_dis
    | apply Keeps.ite
    | apply Keeps.foldl
    | split
    | dsimp only
    | intro _

theorem State.wakeAll_keeps (h_dis : m .dis = true) (h_syn : m .syn = true) (a0) (s) (k : Keeps m s₀ s) :
    Keeps m s₀ (State.wakeAll a0 s) := by
  unfold State.wakeAll
  repeat' with_reducible first
    | exact k
    | assumption
    | intro _ _ _
    | intro _ _
    | apply State.updSyn_keeps h_syn
    | apply State.wakeWaiter_keeps h_dis
    | apply Keeps.ite
    | apply Keeps.foldl
    | split
    | dsimp only
    | intro _

theorem State.signal_keeps (h_dis : m .dis = true) (h_syn : m .syn = true) (a0) (a1) (s) (k : Keeps m s₀ s) :
    Keeps m s₀ (State.signal a0 a1 s) := by
  unfold State.signal
  repeat' with_reducible first
    | exact k
    | assumption
    | intro _ _ _
    | intro _ _
    | apply State.wakeAll_keeps h_dis h_syn
    | apply State.updSyn_keeps h_syn
    | apply Keeps.ite
    | apply Keeps.foldl
    | split
    | dsimp only
    | intro _

theorem State.synSet_keeps (h_dis : m .dis = true) (h_syn : m .syn = true) (a0) (a1) (s) (k : Keeps m s₀ s) :
    Keeps m s₀ (State.synSet a0 a1 s) := by
  unfold State.synSet
  repeat' with_reducible first
    | exact k
    | assumption
    | intro _ _ _
    | intro _ _
    | apply State.updSyn_keeps h_syn
    | apply State.wakeAll_keeps h_dis h_syn
    | apply Keeps.ite
    | apply Keeps.foldl
    | split
    | dsimp only
    | intro _

theorem State.poolError_keeps (h_bpm : m .bpm = true) (h_out : m .out = true) (a0) (a1) (a2) (s) (k : Keeps m s₀ s) :
    Keeps m s₀ (State.poolError a0 a1 a2 s) := by
  unfold State.poolError
  repeat' with_reducible first
    | exact k
    | assumption
    | intro _ _ _
    | intro _ _
    | apply State.send_keeps h_out
    | apply State.updBpm_keeps h_bpm
    | apply Keeps.ite
    | apply Keeps.foldl
    | split
    | dsimp only
    | intro _

theorem State.shareBuf_keeps (h_hif : m .hif = true) (h_link : m .link = true) (h_dev : m .dev = true) (h_dis : m .dis = true) (h_bpm : m .bpm = true) (h_ras : m .ras = true) (h_out : m .out = true) (a0) (a1) (a2) (s) (k : Keeps m s₀ s) :
    Keeps m s₀ (State.shareBuf a0 a1 a2 s) := by
  unfold State.shareBuf
  repeat' with_reducible first
    | exact k
    | assumption
    | intro _ _ _
    | intro _ _
    | apply State.attention_keeps h_hif h_link h_dev h_ras h_out
    | apply State.poolError_keeps h_bpm h_out
    | apply State.settle_keeps h_dis h_bpm h_out
    | apply State.updBpm_keeps h_bpm
    | apply Keeps.ite
    | apply Keeps.foldl
    | split
    | dsimp only
    | intro _

theorem State.take_keeps (h_bpm : m .bpm = true) (a0) (a1) (s) {t : State} {x : U32} (e : State.take a0 a1 s = some (x, t)) (k : Keeps m s₀ s) :
    Keeps m s₀ t := by
  revert e
  unfold State.take
  repeat' with_reducible first
    | exact k
    | assumption
    | intro _ _ _
    | intro _ _
    | (intro e; cases e)
    | apply State.updBpm_keeps h_bpm
    | apply State.updPool_keeps h_bpm
    | apply Keeps.ite
    | apply Keeps.foldl
    | split
    | dsimp only
    | intro _

end Sys2Proof.Machine
end

