-- ==== Sys2Proof/Laws/KeepsTrackOps.lean ====
section
/-! SUPPORT. What each operation of Machine/TrackOps.lean keeps. -/

set_option Elab.async false
set_option linter.all false

namespace Sys2Proof.Machine

variable {m : Part → Bool} {s₀ : State}

theorem State.trackState_keeps (h_hif : m .hif = true) (h_link : m .link = true) (h_out : m .out = true) (a0) (a1) (a2) (a3) (a4) (s) (k : Keeps m s₀ s) :
    Keeps m s₀ (State.trackState a0 a1 a2 a3 a4 s) := by
  unfold State.trackState
  repeat' with_reducible first
    | exact k
    | assumption
    | intro _ _ _
    | intro _ _
    | apply State.record_keeps h_hif h_link h_out
    | apply Keeps.ite
    | apply Keeps.foldl
    | split
    | dsimp only
    | intro _

theorem State.leaveZone_keeps (h_tke : m .tke = true) (a0) (a1) (s) (k : Keeps m s₀ s) :
    Keeps m s₀ (State.leaveZone a0 a1 s) := by
  unfold State.leaveZone
  repeat' with_reducible first
    | exact k
    | assumption
    | intro _ _ _
    | intro _ _
    | apply State.updTke_keeps h_tke
    | apply Keeps.ite
    | apply Keeps.foldl
    | split
    | dsimp only
    | intro _

theorem State.freeFrom_keeps (h_hif : m .hif = true) (h_link : m .link = true) (h_dis : m .dis = true) (h_bpm : m .bpm = true) (h_tke : m .tke = true) (h_out : m .out = true) (a0) (a1) (s) (k : Keeps m s₀ s) :
    Keeps m s₀ (State.freeFrom a0 a1 s) := by
  unfold State.freeFrom
  repeat' with_reducible first
    | exact k
    | assumption
    | intro _ _ _
    | intro _ _
    | apply State.trackState_keeps h_hif h_link h_out
    | apply State.freeBuf_keeps h_dis h_bpm h_out
    | apply State.updTke_keeps h_tke
    | apply Keeps.ite
    | apply Keeps.foldl
    | split
    | dsimp only
    | intro _

theorem State.freeTrack_keeps (h_hif : m .hif = true) (h_link : m .link = true) (h_dis : m .dis = true) (h_bpm : m .bpm = true) (h_tke : m .tke = true) (h_out : m .out = true) (a0) (s) (k : Keeps m s₀ s) :
    Keeps m s₀ (State.freeTrack a0 s) := by
  unfold State.freeTrack
  repeat' with_reducible first
    | exact k
    | assumption
    | intro _ _ _
    | intro _ _
    | apply State.freeFrom_keeps h_hif h_link h_dis h_bpm h_tke h_out
    | apply Keeps.ite
    | apply Keeps.foldl
    | split
    | dsimp only
    | intro _

theorem State.retire_keeps (h_hif : m .hif = true) (h_link : m .link = true) (h_dis : m .dis = true) (h_bpm : m .bpm = true) (h_tke : m .tke = true) (h_out : m .out = true) (a0) (a1) (s) (k : Keeps m s₀ s) :
    Keeps m s₀ (State.retire a0 a1 s) := by
  unfold State.retire
  repeat' with_reducible first
    | exact k
    | assumption
    | intro _ _ _
    | intro _ _
    | apply State.leaveZone_keeps h_tke
    | apply State.trackState_keeps h_hif h_link h_out
    | apply State.updTrack_keeps h_tke
    | apply State.freeTrack_keeps h_hif h_link h_dis h_bpm h_tke h_out
    | apply Keeps.ite
    | apply Keeps.foldl
    | split
    | dsimp only
    | intro _

theorem State.joinZone_keeps (h_hif : m .hif = true) (h_link : m .link = true) (h_dis : m .dis = true) (h_bpm : m .bpm = true) (h_tke : m .tke = true) (h_out : m .out = true) (a0) (s) (k : Keeps m s₀ s) :
    Keeps m s₀ (State.joinZone a0 s) := by
  unfold State.joinZone
  repeat' with_reducible first
    | exact k
    | assumption
    | intro _ _ _
    | intro _ _
    | apply State.retire_keeps h_hif h_link h_dis h_bpm h_tke h_out
    | apply State.updTke_keeps h_tke
    | apply Keeps.ite
    | apply Keeps.foldl
    | split
    | dsimp only
    | intro _

theorem State.handoffOut_keeps (h_hif : m .hif = true) (h_link : m .link = true) (h_dmc : m .dmc = true) (h_out : m .out = true) (a0) (s) (k : Keeps m s₀ s) :
    Keeps m s₀ (State.handoffOut a0 s) := by
  unfold State.handoffOut
  repeat' with_reducible first
    | exact k
    | assumption
    | intro _ _ _
    | intro _ _
    | apply State.notePoison_keeps h_dmc
    | apply State.pushRec_keeps h_hif h_link h_out
    | apply Keeps.ite
    | apply Keeps.foldl
    | split
    | dsimp only
    | intro _

theorem State.turnDormant_keeps (h_hif : m .hif = true) (h_link : m .link = true) (h_dis : m .dis = true) (h_bpm : m .bpm = true) (h_tke : m .tke = true) (h_dmc : m .dmc = true) (h_out : m .out = true) (a0) (a1) (s) (k : Keeps m s₀ s) :
    Keeps m s₀ (State.turnDormant a0 a1 s) := by
  unfold State.turnDormant
  repeat' with_reducible first
    | exact k
    | assumption
    | intro _ _ _
    | intro _ _
    | apply State.trackState_keeps h_hif h_link h_out
    | apply State.updTrack_keeps h_tke
    | apply State.joinZone_keeps h_hif h_link h_dis h_bpm h_tke h_out
    | apply State.handoffOut_keeps h_hif h_link h_dmc h_out
    | apply Keeps.ite
    | apply Keeps.foldl
    | split
    | dsimp only
    | intro _

theorem State.slotTracksDormant_keeps (h_hif : m .hif = true) (h_link : m .link = true) (h_dis : m .dis = true) (h_bpm : m .bpm = true) (h_tke : m .tke = true) (h_dmc : m .dmc = true) (h_out : m .out = true) (a0) (s) (k : Keeps m s₀ s) :
    Keeps m s₀ (State.slotTracksDormant a0 s) := by
  unfold State.slotTracksDormant
  repeat' with_reducible first
    | exact k
    | assumption
    | intro _ _ _
    | intro _ _
    | apply State.turnDormant_keeps h_hif h_link h_dis h_bpm h_tke h_dmc h_out
    | apply Keeps.ite
    | apply Keeps.foldl
    | split
    | dsimp only
    | intro _

theorem State.newTrack_keeps (h_bpm : m .bpm = true) (h_tke : m .tke = true) (s) {t : State} {x : Nat} {y : U32} (e : State.newTrack s = some (x, y, t)) (k : Keeps m s₀ s) :
    Keeps m s₀ t := by
  revert e
  unfold State.newTrack
  repeat' with_reducible first
    | exact k
    | assumption
    | intro _ _ _
    | intro _ _
    | (intro e; cases e)
    | apply State.updTke_keeps h_tke
    | apply State.take_keeps h_bpm _ _ _ (by assumption)
    | apply Keeps.ite
    | apply Keeps.foldl
    | split
    | dsimp only
    | intro _

end Sys2Proof.Machine
end

