-- ==== Sys2Proof/Laws/KeepsMediaOps.lean ====
section
/-! SUPPORT. What each operation of Machine/MediaOps.lean keeps. -/

set_option Elab.async false
set_option linter.all false

namespace Sys2Proof.Machine

variable {m : Part → Bool} {s₀ : State}

theorem State.dropScaled_keeps (h_cse : m .cse = true) (h_dis : m .dis = true) (h_bpm : m .bpm = true) (h_out : m .out = true) (a0) (s) (k : Keeps m s₀ s) :
    Keeps m s₀ (State.dropScaled a0 s) := by
  unfold State.dropScaled
  repeat' with_reducible first
    | exact k
    | assumption
    | intro _ _ _
    | intro _ _
    | apply State.updDis_keeps h_dis
    | apply State.updCse_keeps h_cse
    | apply State.freeBuf_keeps h_dis h_bpm h_out
    | apply Keeps.ite
    | apply Keeps.foldl
    | split
    | dsimp only
    | intro _

theorem State.dropQueued_keeps (h_cse : m .cse = true) (h_dis : m .dis = true) (h_bpm : m .bpm = true) (h_out : m .out = true) (a0) (s) (k : Keeps m s₀ s) :
    Keeps m s₀ (State.dropQueued a0 s) := by
  unfold State.dropQueued
  repeat' with_reducible first
    | exact k
    | assumption
    | intro _ _ _
    | intro _ _
    | apply State.dropScaled_keeps h_cse h_dis h_bpm h_out
    | apply Keeps.ite
    | apply Keeps.foldl
    | split
    | dsimp only
    | intro _

theorem State.freeSession_keeps (h_enc : m .enc = true) (h_cse : m .cse = true) (h_dis : m .dis = true) (h_bpm : m .bpm = true) (h_out : m .out = true) (a0) (s) (k : Keeps m s₀ s) :
    Keeps m s₀ (State.freeSession a0 s) := by
  unfold State.freeSession
  repeat' with_reducible first
    | exact k
    | assumption
    | intro _ _ _
    | intro _ _
    | apply State.dropAll_keeps h_dis h_bpm h_out
    | apply State.dropQueued_keeps h_cse h_dis h_bpm h_out
    | apply State.updEeng_keeps h_enc
    | apply State.updEnc_keeps h_enc
    | apply State.updSess_keeps h_enc
    | apply Keeps.ite
    | apply Keeps.foldl
    | split
    | dsimp only
    | intro _

theorem State.clipWrite_keeps (h_link : m .link = true) (h_enc : m .enc = true) (h_out : m .out = true) (a0) (a1) (a2) (s) (k : Keeps m s₀ s) :
    Keeps m s₀ (State.clipWrite a0 a1 a2 s) := by
  unfold State.clipWrite
  repeat' with_reducible first
    | exact k
    | assumption
    | intro _ _ _
    | intro _ _
    | apply State.send_keeps h_out
    | apply State.hostPut_keeps h_out
    | apply State.fire_keeps h_link h_out
    | apply State.updSess_keeps h_enc
    | apply Keeps.ite
    | apply Keeps.foldl
    | split
    | dsimp only
    | intro _

theorem State.tryEnd_keeps (h_link : m .link = true) (h_enc : m .enc = true) (h_cse : m .cse = true) (h_dis : m .dis = true) (h_bpm : m .bpm = true) (h_out : m .out = true) (a0) (s) (k : Keeps m s₀ s) :
    Keeps m s₀ (State.tryEnd a0 s) := by
  unfold State.tryEnd
  repeat' with_reducible first
    | exact k
    | assumption
    | intro _ _ _
    | intro _ _
    | apply State.freeSession_keeps h_enc h_cse h_dis h_bpm h_out
    | apply State.clipWrite_keeps h_link h_enc h_out
    | apply Keeps.ite
    | apply Keeps.foldl
    | split
    | dsimp only
    | intro _

theorem State.endSession_keeps (h_link : m .link = true) (h_enc : m .enc = true) (h_cse : m .cse = true) (h_dis : m .dis = true) (h_bpm : m .bpm = true) (h_out : m .out = true) (a0) (a1) (s) (k : Keeps m s₀ s) :
    Keeps m s₀ (State.endSession a0 a1 s) := by
  unfold State.endSession
  repeat' with_reducible first
    | exact k
    | assumption
    | intro _ _ _
    | intro _ _
    | apply State.updSess_keeps h_enc
    | apply State.dropQueued_keeps h_cse h_dis h_bpm h_out
    | apply State.tryEnd_keeps h_link h_enc h_cse h_dis h_bpm h_out
    | apply State.updProg_keeps h_enc
    | apply Keeps.ite
    | apply Keeps.foldl
    | split
    | dsimp only
    | intro _

theorem State.dropHeld_keeps (h_dec : m .dec = true) (h_dis : m .dis = true) (h_bpm : m .bpm = true) (h_out : m .out = true) (a0) (s) (k : Keeps m s₀ s) :
    Keeps m s₀ (State.dropHeld a0 s) := by
  unfold State.dropHeld
  repeat' with_reducible first
    | exact k
    | assumption
    | intro _ _ _
    | intro _ _
    | apply State.updSdec_keeps h_dec
    | apply State.releaseBuf_keeps h_dis h_bpm h_out
    | apply Keeps.ite
    | apply Keeps.foldl
    | split
    | dsimp only
    | intro _

theorem State.emptyDpb_keeps (h_dec : m .dec = true) (h_dis : m .dis = true) (h_bpm : m .bpm = true) (h_out : m .out = true) (a0) (s) (k : Keeps m s₀ s) :
    Keeps m s₀ (State.emptyDpb a0 s) := by
  unfold State.emptyDpb
  repeat' with_reducible first
    | exact k
    | assumption
    | intro _ _ _
    | intro _ _
    | apply State.updSdec_keeps h_dec
    | apply State.freeBuf_keeps h_dis h_bpm h_out
    | apply Keeps.ite
    | apply Keeps.foldl
    | split
    | dsimp only
    | intro _

theorem State.endIfDrained_keeps (h_link : m .link = true) (h_enc : m .enc = true) (h_cse : m .cse = true) (h_dis : m .dis = true) (h_bpm : m .bpm = true) (h_out : m .out = true) (a0) (s) (k : Keeps m s₀ s) :
    Keeps m s₀ (State.endIfDrained a0 s) := by
  unfold State.endIfDrained
  repeat' with_reducible first
    | exact k
    | assumption
    | intro _ _ _
    | intro _ _
    | apply State.updSess_keeps h_enc
    | apply State.endSession_keeps h_link h_enc h_cse h_dis h_bpm h_out
    | apply Keeps.ite
    | apply Keeps.foldl
    | split
    | dsimp only
    | intro _

theorem State.replyStarted_keeps (h_hif : m .hif = true) (h_link : m .link = true) (h_out : m .out = true) (a0) (a1) (a2) (a3) (s) (k : Keeps m s₀ s) :
    Keeps m s₀ (State.replyStarted a0 a1 a2 a3 s) := by
  unfold State.replyStarted
  repeat' with_reducible first
    | exact k
    | assumption
    | intro _ _ _
    | intro _ _
    | apply State.reply_keeps h_hif h_link h_out
    | apply State.updHif_keeps h_hif
    | apply Keeps.ite
    | apply Keeps.foldl
    | split
    | dsimp only
    | intro _

theorem State.finishClose_keeps (h_hif : m .hif = true) (h_link : m .link = true) (h_dec : m .dec = true) (h_enc : m .enc = true) (h_cse : m .cse = true) (h_dis : m .dis = true) (h_bpm : m .bpm = true) (h_tke : m .tke = true) (h_dmc : m .dmc = true) (h_out : m .out = true) (a0) (s) (k : Keeps m s₀ s) :
    Keeps m s₀ (State.finishClose a0 s) := by
  unfold State.finishClose
  repeat' with_reducible first
    | exact k
    | assumption
    | intro _ _ _
    | intro _ _
    | apply State.dropHeld_keeps h_dec h_dis h_bpm h_out
    | apply State.emptyDpb_keeps h_dec h_dis h_bpm h_out
    | apply State.updSlot_keeps h_dec
    | apply State.updDec_keeps h_dec
    | apply State.updSdec_keeps h_dec
    | apply State.slotTracksDormant_keeps h_hif h_link h_dis h_bpm h_tke h_dmc h_out
    | apply State.endIfDrained_keeps h_link h_enc h_cse h_dis h_bpm h_out
    | apply State.replyStarted_keeps h_hif h_link h_out
    | apply Keeps.ite
    | apply Keeps.foldl
    | split
    | dsimp only
    | intro _

theorem State.decEvent_keeps (h_hif : m .hif = true) (h_link : m .link = true) (h_dev : m .dev = true) (h_dec : m .dec = true) (h_ras : m .ras = true) (h_out : m .out = true) (a0) (a1) (a2) (a3) (a4) (s) (k : Keeps m s₀ s) :
    Keeps m s₀ (State.decEvent a0 a1 a2 a3 a4 s) := by
  unfold State.decEvent
  repeat' with_reducible first
    | exact k
    | assumption
    | intro _ _ _
    | intro _ _
    | apply State.updSlot_keeps h_dec
    | apply State.record_keeps h_hif h_link h_out
    | apply State.attention_keeps h_hif h_link h_dev h_ras h_out
    | apply Keeps.ite
    | apply Keeps.foldl
    | split
    | dsimp only
    | intro _

theorem State.decAuEvent_keeps (h_hif : m .hif = true) (h_link : m .link = true) (h_dev : m .dev = true) (h_dec : m .dec = true) (h_ras : m .ras = true) (h_out : m .out = true) (a0) (a1) (a2) (s) (k : Keeps m s₀ s) :
    Keeps m s₀ (State.decAuEvent a0 a1 a2 s) := by
  unfold State.decAuEvent
  repeat' with_reducible first
    | exact k
    | assumption
    | intro _ _ _
    | intro _ _
    | apply State.decEvent_keeps h_hif h_link h_dev h_dec h_ras h_out
    | apply Keeps.ite
    | apply Keeps.foldl
    | split
    | dsimp only
    | intro _

theorem State.dropSource_keeps (h_cse : m .cse = true) (h_dis : m .dis = true) (h_bpm : m .bpm = true) (h_out : m .out = true) (a0) (a1) (s) (k : Keeps m s₀ s) :
    Keeps m s₀ (State.dropSource a0 a1 s) := by
  unfold State.dropSource
  repeat' with_reducible first
    | exact k
    | assumption
    | intro _ _ _
    | intro _ _
    | apply State.dropScaled_keeps h_cse h_dis h_bpm h_out
    | apply State.releaseBuf_keeps h_dis h_bpm h_out
    | apply Keeps.ite
    | apply Keeps.foldl
    | split
    | dsimp only
    | intro _

theorem State.afterPicture_keeps (h_link : m .link = true) (h_enc : m .enc = true) (h_cse : m .cse = true) (h_dis : m .dis = true) (h_bpm : m .bpm = true) (h_out : m .out = true) (a0) (s) (k : Keeps m s₀ s) :
    Keeps m s₀ (State.afterPicture a0 s) := by
  unfold State.afterPicture
  repeat' with_reducible first
    | exact k
    | assumption
    | intro _ _ _
    | intro _ _
    | apply State.updSess_keeps h_enc
    | apply State.endSession_keeps h_link h_enc h_cse h_dis h_bpm h_out
    | apply State.tryEnd_keeps h_link h_enc h_cse h_dis h_bpm h_out
    | apply State.endIfDrained_keeps h_link h_enc h_cse h_dis h_bpm h_out
    | apply Keeps.ite
    | apply Keeps.foldl
    | split
    | dsimp only
    | intro _

theorem State.showWaitKey_keeps (h_dec : m .dec = true) (a0) (s) (k : Keeps m s₀ s) :
    Keeps m s₀ (State.showWaitKey a0 s) := by
  unfold State.showWaitKey
  repeat' with_reducible first
    | exact k
    | assumption
    | intro _ _ _
    | intro _ _
    | apply State.updSdec_keeps h_dec
    | apply State.updSlot_keeps h_dec
    | apply Keeps.ite
    | apply Keeps.foldl
    | split
    | dsimp only
    | intro _

theorem State.toWaitKey_keeps (h_dec : m .dec = true) (a0) (s) (k : Keeps m s₀ s) :
    Keeps m s₀ (State.toWaitKey a0 s) := by
  unfold State.toWaitKey
  repeat' with_reducible first
    | exact k
    | assumption
    | intro _ _ _
    | intro _ _
    | apply State.updSdec_keeps h_dec
    | apply State.showWaitKey_keeps h_dec
    | apply Keeps.ite
    | apply Keeps.foldl
    | split
    | dsimp only
    | intro _

theorem State.startPix_keeps (h_dec : m .dec = true) (h_dis : m .dis = true) (h_bpm : m .bpm = true) (h_out : m .out = true) (a0) (s) (k : Keeps m s₀ s) :
    Keeps m s₀ (State.startPix a0 s) := by
  unfold State.startPix
  repeat' with_reducible first
    | exact k
    | assumption
    | intro _ _ _
    | intro _ _
    | apply State.updDeng_keeps h_dec
    | apply State.emptyDpb_keeps h_dec h_dis h_bpm h_out
    | apply Keeps.ite
    | apply Keeps.foldl
    | split
    | dsimp only
    | intro _

theorem State.discardEntries_keeps (h_dec : m .dec = true) (a0) (s) (k : Keeps m s₀ s) :
    Keeps m s₀ (State.discardEntries a0 s) := by
  unfold State.discardEntries
  repeat' with_reducible first
    | exact k
    | assumption
    | intro _ _ _
    | intro _ _
    | apply State.updDeng_keeps h_dec
    | apply Keeps.ite
    | apply Keeps.foldl
    | split
    | dsimp only
    | intro _

theorem State.wrote_keeps (h_link : m .link = true) (h_enc : m .enc = true) (h_cse : m .cse = true) (h_dis : m .dis = true) (h_bpm : m .bpm = true) (h_dmc : m .dmc = true) (h_out : m .out = true) (a0) (a1) (s) (k : Keeps m s₀ s) :
    Keeps m s₀ (State.wrote a0 a1 s) := by
  unfold State.wrote
  repeat' with_reducible first
    | exact k
    | assumption
    | intro _ _ _
    | intro _ _
    | apply State.notePoison_keeps h_dmc
    | apply State.dropAll_keeps h_dis h_bpm h_out
    | apply State.clipWrite_keeps h_link h_enc h_out
    | apply State.updProg_keeps h_enc
    | apply State.updEeng_keeps h_enc
    | apply State.updSess_keeps h_enc
    | apply State.afterPicture_keeps h_link h_enc h_cse h_dis h_bpm h_out
    | apply Keeps.ite
    | apply Keeps.foldl
    | split
    | dsimp only
    | intro _

theorem State.clipRoom_keeps (h_link : m .link = true) (h_enc : m .enc = true) (h_cse : m .cse = true) (h_dis : m .dis = true) (h_bpm : m .bpm = true) (h_dmc : m .dmc = true) (h_out : m .out = true) (a0) (s) (k : Keeps m s₀ s) :
    Keeps m s₀ (State.clipRoom a0 s) := by
  unfold State.clipRoom
  repeat' with_reducible first
    | exact k
    | assumption
    | intro _ _ _
    | intro _ _
    | apply State.wrote_keeps h_link h_enc h_cse h_dis h_bpm h_dmc h_out
    | apply State.tryEnd_keeps h_link h_enc h_cse h_dis h_bpm h_out
    | apply Keeps.ite
    | apply Keeps.foldl
    | split
    | dsimp only
    | intro _

theorem State.decSlotEvent_keeps (h_hif : m .hif = true) (h_link : m .link = true) (h_dev : m .dev = true) (h_dec : m .dec = true) (h_ras : m .ras = true) (h_out : m .out = true) (a0) (a1) (s) (k : Keeps m s₀ s) :
    Keeps m s₀ (State.decSlotEvent a0 a1 s) := by
  unfold State.decSlotEvent
  repeat' with_reducible first
    | exact k
    | assumption
    | intro _ _ _
    | intro _ _
    | apply State.decEvent_keeps h_hif h_link h_dev h_dec h_ras h_out
    | apply Keeps.ite
    | apply Keeps.foldl
    | split
    | dsimp only
    | intro _

theorem State.advanceGet_keeps (h_dec : m .dec = true) (a0) (s) (k : Keeps m s₀ s) :
    Keeps m s₀ (State.advanceGet a0 s) := by
  unfold State.advanceGet
  repeat' with_reducible first
    | exact k
    | assumption
    | intro _ _ _
    | intro _ _
    | apply State.updSlot_keeps h_dec
    | apply Keeps.ite
    | apply Keeps.foldl
    | split
    | dsimp only
    | intro _

theorem State.keyFromNext_keeps (h_dec : m .dec = true) (a0) (s) (k : Keeps m s₀ s) :
    Keeps m s₀ (State.keyFromNext a0 s) := by
  unfold State.keyFromNext
  repeat' with_reducible first
    | exact k
    | assumption
    | intro _ _ _
    | intro _ _
    | apply State.updSlot_keeps h_dec
    | apply State.showWaitKey_keeps h_dec
    | apply Keeps.ite
    | apply Keeps.foldl
    | split
    | dsimp only
    | intro _

theorem State.countDrop_keeps (h_dec : m .dec = true) (a0) (a1) (s) (k : Keeps m s₀ s) :
    Keeps m s₀ (State.countDrop a0 a1 s) := by
  unfold State.countDrop
  repeat' with_reducible first
    | exact k
    | assumption
    | intro _ _ _
    | intro _ _
    | apply State.updSlot_keeps h_dec
    | apply Keeps.ite
    | apply Keeps.foldl
    | split
    | dsimp only
    | intro _

theorem State.auDone_keeps (h_dec : m .dec = true) (a0) (a1) (s) (k : Keeps m s₀ s) :
    Keeps m s₀ (State.auDone a0 a1 s) := by
  unfold State.auDone
  repeat' with_reducible first
    | exact k
    | assumption
    | intro _ _ _
    | intro _ _
    | apply State.advanceGet_keeps h_dec
    | apply State.updSlot_keeps h_dec
    | apply Keeps.ite
    | apply Keeps.foldl
    | split
    | dsimp only
    | intro _

theorem State.dropClip_keeps (h_link : m .link = true) (h_enc : m .enc = true) (h_cse : m .cse = true) (h_dis : m .dis = true) (h_bpm : m .bpm = true) (h_out : m .out = true) (a0) (s) (k : Keeps m s₀ s) :
    Keeps m s₀ (State.dropClip a0 s) := by
  unfold State.dropClip
  repeat' with_reducible first
    | exact k
    | assumption
    | intro _ _ _
    | intro _ _
    | apply State.dropAll_keeps h_dis h_bpm h_out
    | apply State.updProg_keeps h_enc
    | apply State.updSess_keeps h_enc
    | apply State.afterPicture_keeps h_link h_enc h_cse h_dis h_bpm h_out
    | apply Keeps.ite
    | apply Keeps.foldl
    | split
    | dsimp only
    | intro _

end Sys2Proof.Machine
end

