-- ==== Sys2Proof/Laws/KeepsSched.lean ====
section
/-! SUPPORT. What each operation of Machine/Sched.lean keeps. -/

set_option Elab.async false
set_option linter.all false

namespace Sys2Proof.Machine

variable {m : Part → Bool} {s₀ : State}

theorem State.clearGau_keeps (h_rgn : m .rgn = true) (a0) (a1) (s) (k : Keeps m s₀ s) :
    Keeps m s₀ (State.clearGau a0 a1 s) := by
  unfold State.clearGau
  repeat' with_reducible first
    | exact k
    | assumption
    | intro _ _ _
    | intro _ _
    | apply State.updGau_keeps h_rgn
    | apply Keeps.ite
    | apply Keeps.foldl
    | split
    | dsimp only
    | intro _

theorem State.clearCores_keeps (h_rgn : m .rgn = true) (h_rmem : m .rmem = true) (a0) (a1) (s) (k : Keeps m s₀ s) :
    Keeps m s₀ (State.clearCores a0 a1 s) := by
  unfold State.clearCores
  repeat' with_reducible first
    | exact k
    | assumption
    | intro _ _ _
    | intro _ _
    | apply State.updRegion_keeps h_rgn
    | apply State.updCore_keeps h_rgn
    | apply State.updVec_keeps h_rmem
    | apply Keeps.ite
    | apply Keeps.foldl
    | split
    | dsimp only
    | intro _

theorem State.beginInv_keeps (h_dis : m .dis = true) (a0) (s) (k : Keeps m s₀ s) :
    Keeps m s₀ (State.beginInv a0 s) := by
  unfold State.beginInv
  repeat' with_reducible first
    | exact k
    | assumption
    | intro _ _ _
    | intro _ _
    | apply State.updCtx_keeps h_dis
    | apply Keeps.ite
    | apply Keeps.foldl
    | split
    | dsimp only
    | intro _

theorem State.complete_keeps (h_dis : m .dis = true) (h_syn : m .syn = true) (h_out : m .out = true) (a0) (a1) (s) (k : Keeps m s₀ s) :
    Keeps m s₀ (State.complete a0 a1 s) := by
  unfold State.complete
  repeat' with_reducible first
    | exact k
    | assumption
    | intro _ _ _
    | intro _ _
    | apply State.send_keeps h_out
    | apply State.signal_keeps h_dis h_syn
    | apply Keeps.ite
    | apply Keeps.foldl
    | split
    | dsimp only
    | intro _

theorem State.skipPics_keeps (h_dis : m .dis = true) (a0) (s) (k : Keeps m s₀ s) :
    Keeps m s₀ (State.skipPics a0 s) := by
  unfold State.skipPics
  repeat' with_reducible first
    | exact k
    | assumption
    | intro _ _ _
    | intro _ _
    | apply State.updDis_keeps h_dis
    | apply Keeps.ite
    | apply Keeps.foldl
    | split
    | dsimp only
    | intro _

theorem State.releaseInv_keeps (h_dis : m .dis = true) (h_syn : m .syn = true) (h_out : m .out = true) (a0) (a1) (a2) (s) (k : Keeps m s₀ s) :
    Keeps m s₀ (State.releaseInv a0 a1 a2 s) := by
  unfold State.releaseInv
  repeat' with_reducible first
    | exact k
    | assumption
    | intro _ _ _
    | intro _ _
    | apply State.complete_keeps h_dis h_syn h_out
    | apply State.updCtx_keeps h_dis
    | apply State.skipPics_keeps h_dis
    | apply Keeps.ite
    | apply Keeps.foldl
    | split
    | dsimp only
    | intro _

theorem State.releaseNext_keeps (h_dis : m .dis = true) (h_syn : m .syn = true) (h_out : m .out = true) (a0) (s) (k : Keeps m s₀ s) :
    Keeps m s₀ (State.releaseNext a0 s).1 := by
  unfold State.releaseNext
  repeat' with_reducible first
    | exact k
    | assumption
    | intro _ _ _
    | intro _ _
    | apply State.updCtx_keeps h_dis
    | apply State.complete_keeps h_dis h_syn h_out
    | apply State.releaseInv_keeps h_dis h_syn h_out
    | apply Keeps.ite
    | apply Keeps.foldl
    | split
    | dsimp only
    | intro _

theorem State.releaseUnits_keeps (h_dis : m .dis = true) (h_syn : m .syn = true) (h_out : m .out = true) (a0) (a1) (s) (k : Keeps m s₀ s) :
    Keeps m s₀ (State.releaseUnits a0 a1 s).1 := by
  induction a1 generalizing s with
  | zero => exact k
  | succ n ih =>
    simp only [State.releaseUnits]
    split
    · exact k
    · exact ih _ (.foldl (fun t _ ht => State.updCtx_keeps h_dis _ _ _ ht) (State.releaseNext_keeps h_dis h_syn h_out _ _ k))

theorem State.releaseStep_keeps (h_dis : m .dis = true) (h_syn : m .syn = true) (h_out : m .out = true) (a0) (s) (k : Keeps m s₀ s) :
    Keeps m s₀ (State.releaseStep a0 s).1 := by
  unfold State.releaseStep
  dsimp only
  generalize s.releasedBy a0 = cs
  generalize cs.foldl (fun l c => insertN (s.ctx c).plan l) [] = plans
  suffices ∀ (plans : List Nat) (a : State × List U16), Keeps m s₀ a.1 → Keeps m s₀ (plans.foldl _ a).1 from this _ _ k
  intro plans
  induction plans with
  | nil => exact fun _ h => h
  | cons p r ih => exact fun a h => ih _ (State.releaseUnits_keeps h_dis h_syn h_out _ _ _ (.foldl (fun t _ ht => State.updCtx_keeps h_dis _ _ _ ht) h))

theorem State.releaseWave_keeps (h_dis : m .dis = true) (h_syn : m .syn = true) (h_out : m .out = true) (a0) (a1) (s) (k : Keeps m s₀ s) :
    Keeps m s₀ (State.releaseWave a0 a1 s) := by
  induction a0 generalizing a1 s with
  | zero => exact k
  | succ n ih =>
    cases a1 with
    | nil => exact k
    | cons o os =>
      simp only [State.releaseWave]
      exact ih _ _ (State.releaseStep_keeps h_dis h_syn h_out _ _ k)

theorem State.releaseOn_keeps (h_dis : m .dis = true) (h_syn : m .syn = true) (h_out : m .out = true) (a0) (s) (k : Keeps m s₀ s) :
    Keeps m s₀ (State.releaseOn a0 s) := by
  unfold State.releaseOn
  repeat' with_reducible first
    | exact k
    | assumption
    | intro _ _ _
    | intro _ _
    | apply State.releaseWave_keeps h_dis h_syn h_out
    | apply Keeps.ite
    | apply Keeps.foldl
    | split
    | dsimp only
    | intro _

theorem State.evict_keeps (h_rgn : m .rgn = true) (h_dis : m .dis = true) (a0) (a1) (s) (k : Keeps m s₀ s) :
    Keeps m s₀ (State.evict a0 a1 s) := by
  unfold State.evict
  repeat' with_reducible first
    | exact k
    | assumption
    | intro _ _ _
    | intro _ _
    | apply State.updDis_keeps h_dis
    | apply State.updRegion_keeps h_rgn
    | apply State.updCtx_keeps h_dis
    | apply Keeps.ite
    | apply Keeps.foldl
    | split
    | dsimp only
    | intro _

theorem State.reside_keeps (h_rgn : m .rgn = true) (h_dis : m .dis = true) (a0) (a1) (a2) (s) (k : Keeps m s₀ s) :
    Keeps m s₀ (State.reside a0 a1 a2 s) := by
  unfold State.reside
  repeat' with_reducible first
    | exact k
    | assumption
    | intro _ _ _
    | intro _ _
    | apply State.evict_keeps h_rgn h_dis
    | apply State.updRegion_keeps h_rgn
    | apply State.updDis_keeps h_dis
    | apply State.updCtx_keeps h_dis
    | apply Keeps.ite
    | apply Keeps.foldl
    | split
    | dsimp only
    | intro _

theorem State.startSwap_keeps (h_rgn : m .rgn = true) (h_dis : m .dis = true) (a0) (a1) (a2) (s) (k : Keeps m s₀ s) :
    Keeps m s₀ (State.startSwap a0 a1 a2 s) := by
  unfold State.startSwap
  repeat' with_reducible first
    | exact k
    | assumption
    | intro _ _ _
    | intro _ _
    | apply State.reside_keeps h_rgn h_dis
    | apply State.updCtx_keeps h_dis
    | apply State.updRegion_keeps h_rgn
    | apply Keeps.ite
    | apply Keeps.foldl
    | split
    | dsimp only
    | intro _

theorem State.dropGroup_keeps (h_rgn : m .rgn = true) (h_dis : m .dis = true) (a0) (a1) (a2) (s) (k : Keeps m s₀ s) :
    Keeps m s₀ (State.dropGroup a0 a1 a2 s) := by
  unfold State.dropGroup
  repeat' with_reducible first
    | exact k
    | assumption
    | intro _ _ _
    | intro _ _
    | apply State.updWc_keeps h_rgn
    | apply State.updRegion_keeps h_rgn
    | apply State.updCtx_keeps h_dis
    | apply Keeps.ite
    | apply Keeps.foldl
    | split
    | dsimp only
    | intro _

theorem State.leave_keeps (h_rgn : m .rgn = true) (h_rmem : m .rmem = true) (h_dis : m .dis = true) (a0) (a1) (a2) (a3) (s) (k : Keeps m s₀ s) :
    Keeps m s₀ (State.leave a0 a1 a2 a3 s) := by
  unfold State.leave
  repeat' with_reducible first
    | exact k
    | assumption
    | intro _ _ _
    | intro _ _
    | apply State.updWc_keeps h_rgn
    | apply State.clearGau_keeps h_rgn
    | apply State.dropGroup_keeps h_rgn h_dis
    | apply State.clearCores_keeps h_rgn h_rmem
    | apply State.updCtx_keeps h_dis
    | apply State.updRegion_keeps h_rgn
    | apply Keeps.ite
    | apply Keeps.foldl
    | split
    | dsimp only
    | intro _

theorem State.judge_keeps (h_rgn : m .rgn = true) (h_rmem : m .rmem = true) (h_dis : m .dis = true) (a0) (a1) (s) (k : Keeps m s₀ s) :
    Keeps m s₀ (State.judge a0 a1 s) := by
  unfold State.judge
  repeat' with_reducible first
    | exact k
    | assumption
    | intro _ _ _
    | intro _ _
    | apply State.startSwap_keeps h_rgn h_dis
    | apply State.leave_keeps h_rgn h_rmem h_dis
    | apply Keeps.ite
    | apply Keeps.foldl
    | split
    | dsimp only
    | intro _

theorem State.judgeAll_keeps (h_rgn : m .rgn = true) (h_rmem : m .rmem = true) (h_dis : m .dis = true) (s) (k : Keeps m s₀ s) :
    Keeps m s₀ (State.judgeAll s) := by
  unfold State.judgeAll
  repeat' with_reducible first
    | exact k
    | assumption
    | intro _ _ _
    | intro _ _
    | apply State.judge_keeps h_rgn h_rmem h_dis
    | apply Keeps.ite
    | apply Keeps.foldl
    | split
    | dsimp only
    | intro _

theorem State.signalAll_keeps (h_rgn : m .rgn = true) (h_rmem : m .rmem = true) (h_dis : m .dis = true) (h_syn : m .syn = true) (h_out : m .out = true) (a0) (a1) (s) (k : Keeps m s₀ s) :
    Keeps m s₀ (State.signalAll a0 a1 s) := by
  unfold State.signalAll
  repeat' with_reducible first
    | exact k
    | assumption
    | intro _ _ _
    | intro _ _
    | apply State.judgeAll_keeps h_rgn h_rmem h_dis
    | apply State.releaseOn_keeps h_dis h_syn h_out
    | apply State.signal_keeps h_dis h_syn
    | apply Keeps.ite
    | apply Keeps.foldl
    | split
    | dsimp only
    | intro _

theorem State.release_keeps (h_dis : m .dis = true) (h_syn : m .syn = true) (h_out : m .out = true) (a0) (a1) (a2) (s) (k : Keeps m s₀ s) :
    Keeps m s₀ (State.release a0 a1 a2 s) := by
  unfold State.release
  repeat' with_reducible first
    | exact k
    | assumption
    | intro _ _ _
    | intro _ _
    | apply State.releaseInv_keeps h_dis h_syn h_out
    | apply State.releaseOn_keeps h_dis h_syn h_out
    | apply Keeps.ite
    | apply Keeps.foldl
    | split
    | dsimp only
    | intro _

end Sys2Proof.Machine
end

