-- ==== Sys2Proof/Laws/KeepsClipOps.lean ====
section
/-! SUPPORT. What each operation of Machine/ClipOps.lean keeps. -/

set_option Elab.async false
set_option linter.all false

namespace Sys2Proof.Machine

variable {m : Part → Bool} {s₀ : State}

theorem State.startSession_keeps (h_link : m .link = true) (h_enc : m .enc = true) (h_cse : m .cse = true) (h_dis : m .dis = true) (h_bpm : m .bpm = true) (h_out : m .out = true) (a0) (a1) (a2) (a3) (a4) (a5) (a6) (a7) (a8) (s) (k : Keeps m s₀ s) :
    Keeps m s₀ (State.startSession a0 a1 a2 a3 a4 a5 a6 a7 a8 s) := by
  unfold State.startSession
  repeat' with_reducible first
    | exact k
    | assumption
    | intro _ _ _
    | intro _ _
    | apply State.updSess_keeps h_enc
    | apply State.updProg_keeps h_enc
    | apply State.updEnc_keeps h_enc
    | apply State.updEeng_keeps h_enc
    | apply State.endSession_keeps h_link h_enc h_cse h_dis h_bpm h_out
    | apply Keeps.ite
    | apply Keeps.foldl
    | split
    | dsimp only
    | intro _

theorem State.takeSession_keeps (h_link : m .link = true) (h_enc : m .enc = true) (h_cse : m .cse = true) (h_dis : m .dis = true) (h_bpm : m .bpm = true) (h_out : m .out = true) (a0) (a1) (a2) (a3) (a4) (a5) (a6) (s) {t : State} {x : Nat} (e : State.takeSession a0 a1 a2 a3 a4 a5 a6 s = .ok (x, t)) (k : Keeps m s₀ s) :
    Keeps m s₀ t := by
  revert e
  unfold State.takeSession
  repeat' with_reducible first
    | exact k
    | assumption
    | intro _ _ _
    | intro _ _
    | (intro e; cases e)
    | apply State.startSession_keeps h_link h_enc h_cse h_dis h_bpm h_out
    | apply Keeps.ite
    | apply Keeps.foldl
    | split
    | dsimp only
    | intro _

end Sys2Proof.Machine
end

