-- ==== Sys2Proof/Laws/KeepsTickOps.lean ====
section
/-! SUPPORT. What each operation of Machine/TickOps.lean keeps. -/

set_option Elab.async false
set_option linter.all false

namespace Sys2Proof.Machine

variable {m : Part → Bool} {s₀ : State}

theorem State.putSide_keeps (h_dram : m .dram = true) (a0) (s) (k : Keeps m s₀ s) :
    Keeps m s₀ (State.putSide a0 s) := by
  unfold State.putSide
  repeat' with_reducible first
    | exact k
    | assumption
    | intro _ _ _
    | intro _ _
    | apply State.dramPut_keeps h_dram
    | apply Keeps.ite
    | apply Keeps.foldl
    | split
    | dsimp only
    | intro _

theorem State.appendKv_keeps (h_dram : m .dram = true) (h_fresh : m .fresh = true) (a0) (a1) (a2) (s) (k : Keeps m s₀ s) :
    Keeps m s₀ (State.appendKv a0 a1 a2 s) := by
  unfold State.appendKv
  repeat' with_reducible first
    | exact k
    | assumption
    | intro _ _ _
    | intro _ _
    | apply State.dramForget_keeps h_dram h_fresh
    | apply Keeps.ite
    | apply Keeps.foldl
    | split
    | dsimp only
    | intro _

theorem State.advanceSeq_keeps (h_tke : m .tke = true) (h_dram : m .dram = true) (h_fresh : m .fresh = true) (a0) (s) (k : Keeps m s₀ s) :
    Keeps m s₀ (State.advanceSeq a0 s) := by
  unfold State.advanceSeq
  repeat' with_reducible first
    | exact k
    | assumption
    | intro _ _ _
    | intro _ _
    | apply State.appendKv_keeps h_dram h_fresh
    | apply State.updTrack_keeps h_tke
    | apply State.burn_keeps h_fresh
    | apply State.putSide_keeps h_dram
    | apply State.updTvec_keeps h_tke
    | apply Keeps.ite
    | apply Keeps.foldl
    | split
    | dsimp only
    | intro _

theorem State.eventClip_keeps (h_link : m .link = true) (h_enc : m .enc = true) (h_cse : m .cse = true) (h_dis : m .dis = true) (h_bpm : m .bpm = true) (h_out : m .out = true) (a0) (a1) (s) {t : State} {x : Nat} {y : Bool} (e : State.eventClip a0 a1 s = (x, y, t)) (k : Keeps m s₀ s) :
    Keeps m s₀ t := by
  revert e
  unfold State.eventClip
  repeat' with_reducible first
    | exact k
    | assumption
    | intro _ _ _
    | intro _ _
    | (intro e; cases e)
    | apply State.takeSession_keeps h_link h_enc h_cse h_dis h_bpm h_out _ _ _ _ _ _ _ _ (by assumption)
    | apply Keeps.ite
    | apply Keeps.foldl
    | split
    | dsimp only
    | intro _

theorem State.postEvent_keeps (h_hif : m .hif = true) (h_link : m .link = true) (h_enc : m .enc = true) (h_cse : m .cse = true) (h_dis : m .dis = true) (h_bpm : m .bpm = true) (h_out : m .out = true) (a0) (s) (k : Keeps m s₀ s) :
    Keeps m s₀ (State.postEvent a0 s) := by
  unfold State.postEvent
  repeat' with_reducible first
    | exact k
    | assumption
    | intro _ _ _
    | intro _ _
    | apply State.record_keeps h_hif h_link h_out
    | apply State.eventClip_keeps h_link h_enc h_cse h_dis h_bpm h_out _ _ _ (by assumption)
    | apply Keeps.ite
    | apply Keeps.foldl
    | split
    | dsimp only
    | intro _
  exact State.eventClip_keeps h_link h_enc h_cse h_dis h_bpm h_out _ _ _ rfl k

theorem State.endTick_keeps (h_hif : m .hif = true) (h_link : m .link = true) (h_enc : m .enc = true) (h_cse : m .cse = true) (h_dis : m .dis = true) (h_bpm : m .bpm = true) (h_tke : m .tke = true) (h_out : m .out = true) (s) (k : Keeps m s₀ s) :
    Keeps m s₀ (State.endTick s) := by
  unfold State.endTick
  repeat' with_reducible first
    | exact k
    | assumption
    | intro _ _ _
    | intro _ _
    | apply State.postEvent_keeps h_hif h_link h_enc h_cse h_dis h_bpm h_out
    | apply State.updTke_keeps h_tke
    | apply Keeps.ite
    | apply Keeps.foldl
    | split
    | dsimp only
    | intro _

theorem State.tickRan_keeps (h_hif : m .hif = true) (h_link : m .link = true) (h_enc : m .enc = true) (h_cse : m .cse = true) (h_dis : m .dis = true) (h_bpm : m .bpm = true) (h_tke : m .tke = true) (h_dram : m .dram = true) (h_out : m .out = true) (h_fresh : m .fresh = true) (a0) (a1) (s) (k : Keeps m s₀ s) :
    Keeps m s₀ (State.tickRan a0 a1 s) := by
  unfold State.tickRan
  repeat' with_reducible first
    | exact k
    | assumption
    | intro _ _ _
    | intro _ _
    | apply State.updTke_keeps h_tke
    | apply State.advanceSeq_keeps h_tke h_dram h_fresh
    | apply State.updTrack_keeps h_tke
    | apply State.endTick_keeps h_hif h_link h_enc h_cse h_dis h_bpm h_tke h_out
    | apply Keeps.ite
    | apply Keeps.foldl
    | split
    | dsimp only
    | intro _

end Sys2Proof.Machine
end

