-- ==== Sys2Proof/Laws/KeepsResets.lean ====
section
/-! SUPPORT. What each operation of Machine/Resets.lean keeps. -/

set_option Elab.async false
set_option linter.all false

namespace Sys2Proof.Machine

variable {m : Part → Bool} {s₀ : State}

theorem State.endRun_keeps (h_rst : m .rst = true) (a0) (s) (k : Keeps m s₀ s) :
    Keeps m s₀ (State.endRun a0 s) := by
  unfold State.endRun
  repeat' with_reducible first
    | exact k
    | assumption
    | intro _ _ _
    | intro _ _
    | apply State.updRst_keeps h_rst
    | apply Keeps.ite
    | apply Keeps.foldl
    | split
    | dsimp only
    | intro _

theorem State.dropHeadWait_keeps (h_syn : m .syn = true) (a0) (s) (k : Keeps m s₀ s) :
    Keeps m s₀ (State.dropHeadWait a0 s) := by
  unfold State.dropHeadWait
  repeat' with_reducible first
    | exact k
    | assumption
    | intro _ _ _
    | intro _ _
    | apply State.dropWait_keeps h_syn
    | apply Keeps.ite
    | apply Keeps.foldl
    | split
    | dsimp only
    | intro _

theorem State.failInv_keeps (h_hif : m .hif = true) (h_link : m .link = true) (h_enc : m .enc = true) (h_cse : m .cse = true) (h_dis : m .dis = true) (h_syn : m .syn = true) (h_bpm : m .bpm = true) (h_tke : m .tke = true) (h_dram : m .dram = true) (h_out : m .out = true) (h_fresh : m .fresh = true) (a0) (s) (k : Keeps m s₀ s) :
    Keeps m s₀ (State.failInv a0 s) := by
  unfold State.failInv
  repeat' with_reducible first
    | exact k
    | assumption
    | intro _ _ _
    | intro _ _
    | apply State.updCtx_keeps h_dis
    | apply State.complete_keeps h_dis h_syn h_out
    | apply State.skipPics_keeps h_dis
    | apply State.synSet_keeps h_dis h_syn
    | apply State.releaseOn_keeps h_dis h_syn h_out
    | apply State.tickRan_keeps h_hif h_link h_enc h_cse h_dis h_bpm h_tke h_dram h_out h_fresh
    | apply Keeps.ite
    | apply Keeps.foldl
    | split
    | dsimp only
    | intro _

theorem State.unwait_keeps (h_syn : m .syn = true) (h_bpm : m .bpm = true) (a0) (s) (k : Keeps m s₀ s) :
    Keeps m s₀ (State.unwait a0 s) := by
  unfold State.unwait
  repeat' with_reducible first
    | exact k
    | assumption
    | intro _ _ _
    | intro _ _
    | apply State.updSyn_keeps h_syn
    | apply State.updBpm_keeps h_bpm
    | apply Keeps.ite
    | apply Keeps.foldl
    | split
    | dsimp only
    | intro _

theorem State.discardEncode_keeps (h_link : m .link = true) (h_enc : m .enc = true) (h_cse : m .cse = true) (h_dis : m .dis = true) (h_bpm : m .bpm = true) (h_out : m .out = true) (a0) (s) (k : Keeps m s₀ s) :
    Keeps m s₀ (State.discardEncode a0 s) := by
  unfold State.discardEncode
  repeat' with_reducible first
    | exact k
    | assumption
    | intro _ _ _
    | intro _ _
    | apply State.updEeng_keeps h_enc
    | apply State.dropAll_keeps h_dis h_bpm h_out
    | apply State.dropSource_keeps h_cse h_dis h_bpm h_out
    | apply State.updSess_keeps h_enc
    | apply State.afterPicture_keeps h_link h_enc h_cse h_dis h_bpm h_out
    | apply Keeps.ite
    | apply Keeps.foldl
    | split
    | dsimp only
    | intro _

theorem State.enrEnc_keeps (h_link : m .link = true) (h_enc : m .enc = true) (h_cse : m .cse = true) (h_dis : m .dis = true) (h_bpm : m .bpm = true) (h_out : m .out = true) (a0) (s) (k : Keeps m s₀ s) :
    Keeps m s₀ (State.enrEnc a0 s) := by
  unfold State.enrEnc
  repeat' with_reducible first
    | exact k
    | assumption
    | intro _ _ _
    | intro _ _
    | apply State.updEnc_keeps h_enc
    | apply State.updEeng_keeps h_enc
    | apply State.discardEncode_keeps h_link h_enc h_cse h_dis h_bpm h_out
    | apply Keeps.ite
    | apply Keeps.foldl
    | split
    | dsimp only
    | intro _

theorem State.showParse_keeps (h_dec : m .dec = true) (a0) (s) (k : Keeps m s₀ s) :
    Keeps m s₀ (State.showParse a0 s) := by
  unfold State.showParse
  repeat' with_reducible first
    | exact k
    | assumption
    | intro _ _ _
    | intro _ _
    | apply State.updSlot_keeps h_dec
    | apply State.updSdec_keeps h_dec
    | apply State.toWaitKey_keeps h_dec
    | apply Keeps.ite
    | apply Keeps.foldl
    | split
    | dsimp only
    | intro _

theorem State.startCseEng_keeps (h_cse : m .cse = true) (a0) (s) (k : Keeps m s₀ s) :
    Keeps m s₀ (State.startCseEng a0 s) := by
  unfold State.startCseEng
  repeat' with_reducible first
    | exact k
    | assumption
    | intro _ _ _
    | intro _ _
    | apply State.updCseEng_keeps h_cse
    | apply Keeps.ite
    | apply Keeps.foldl
    | split
    | dsimp only
    | intro _

theorem State.enqueue_keeps (h_cse : m .cse = true) (a0) (a1) (s) (k : Keeps m s₀ s) :
    Keeps m s₀ (State.enqueue a0 a1 s) := by
  unfold State.enqueue
  repeat' with_reducible first
    | exact k
    | assumption
    | intro _ _ _
    | intro _ _
    | apply State.startCseEng_keeps h_cse
    | apply State.updCseEng_keeps h_cse
    | apply Keeps.ite
    | apply Keeps.foldl
    | split
    | dsimp only
    | intro _

theorem State.drainJobs_keeps (h_cse : m .cse = true) (h_dis : m .dis = true) (a0) (s) (k : Keeps m s₀ s) :
    Keeps m s₀ (State.drainJobs a0 s) := by
  induction a0 generalizing s with
  | zero =>
    simp only [State.drainJobs]
    repeat' with_reducible first
      | exact k
      | assumption
      | intro _ _ _
      | intro _ _
      | apply State.enqueue_keeps h_cse
      | apply State.updDis_keeps h_dis
      | apply Keeps.ite
      | apply Keeps.foldl
      | split
      | dsimp only
      | intro _
  | succ n ih =>
    simp only [State.drainJobs]
    repeat' with_reducible first
      | exact k
      | assumption
      | intro _ _ _
      | intro _ _
      | apply ih
      | apply State.enqueue_keeps h_cse
      | apply State.updDis_keeps h_dis
      | apply Keeps.ite
      | apply Keeps.foldl
      | split
      | dsimp only
      | intro _

theorem State.resubmit_keeps (h_cse : m .cse = true) (h_dis : m .dis = true) (a0) (s) (k : Keeps m s₀ s) :
    Keeps m s₀ (State.resubmit a0 s) := by
  unfold State.resubmit
  repeat' with_reducible first
    | exact k
    | assumption
    | intro _ _ _
    | intro _ _
    | apply State.updDis_keeps h_dis
    | apply State.drainJobs_keeps h_cse h_dis
    | apply Keeps.ite
    | apply Keeps.foldl
    | split
    | dsimp only
    | intro _

theorem State.enrCse_keeps (h_cse : m .cse = true) (h_dis : m .dis = true) (a0) (s) (k : Keeps m s₀ s) :
    Keeps m s₀ (State.enrCse a0 s) := by
  unfold State.enrCse
  repeat' with_reducible first
    | exact k
    | assumption
    | intro _ _ _
    | intro _ _
    | apply State.resubmit_keeps h_cse h_dis
    | apply State.updCseEng_keeps h_cse
    | apply Keeps.ite
    | apply Keeps.foldl
    | split
    | dsimp only
    | intro _

theorem State.powerCycle_keeps (h_aon : m .aon = true) (h_hif : m .hif = true) (h_link : m .link = true) (h_dev : m .dev = true) (h_ras : m .ras = true) (h_out : m .out = true) (a0) (a1) (s) (k : Keeps m s₀ s) :
    Keeps m s₀ (State.powerCycle a0 a1 s) := by
  unfold State.powerCycle
  repeat' with_reducible first
    | exact k
    | assumption
    | intro _ _ _
    | intro _ _
    | apply State.attention_keeps h_hif h_link h_dev h_ras h_out
    | apply State.record_keeps h_hif h_link h_out
    | apply State.updAon_keeps h_aon
    | apply Keeps.ite
    | apply Keeps.foldl
    | split
    | dsimp only
    | intro _

theorem State.dropSteps_keeps (h_rgn : m .rgn = true) (h_rmem : m .rmem = true) (a0) (a1) (a2) (s) (k : Keeps m s₀ s) :
    Keeps m s₀ (State.dropSteps a0 a1 a2 s) := by
  unfold State.dropSteps
  repeat' with_reducible first
    | exact k
    | assumption
    | intro _ _ _
    | intro _ _
    | apply State.updCore_keeps h_rgn
    | apply State.updVec_keeps h_rmem
    | apply Keeps.ite
    | apply Keeps.foldl
    | split
    | dsimp only
    | intro _

theorem State.restartGroup_keeps (h_rgn : m .rgn = true) (h_rmem : m .rmem = true) (h_dis : m .dis = true) (a0) (a1) (s) (k : Keeps m s₀ s) :
    Keeps m s₀ (State.restartGroup a0 a1 s) := by
  unfold State.restartGroup
  repeat' with_reducible first
    | exact k
    | assumption
    | intro _ _ _
    | intro _ _
    | apply State.dropGroup_keeps h_rgn h_dis
    | apply State.dropSteps_keeps h_rgn h_rmem
    | apply Keeps.ite
    | apply Keeps.foldl
    | split
    | dsimp only
    | intro _

theorem State.forgetCore_keeps (h_rmem : m .rmem = true) (h_fresh : m .fresh = true) (a0) (a1) (s) (k : Keeps m s₀ s) :
    Keeps m s₀ (State.forgetCore a0 a1 s) := by
  unfold State.forgetCore
  repeat' with_reducible first
    | exact k
    | assumption
    | intro _ _ _
    | intro _ _
    | apply State.updCoreMem_keeps h_rmem
    | apply State.burn_keeps h_fresh
    | apply Keeps.ite
    | apply Keeps.foldl
    | split
    | dsimp only
    | intro _
  rename_i hx
  simp only [CoreMem.wf, Bool.and_eq_true] at hx ⊢
  exact ⟨⟨⟨Mem.forget_wf _ _ _ _ hx.1.1.1, Mem.forget_wf _ _ _ _ hx.1.1.2⟩, Mem.forget_wf _ _ _ _ hx.1.2⟩, Mem.forget_wf _ _ _ _ hx.2⟩

theorem State.forgetRegion_keeps (h_rmem : m .rmem = true) (h_fresh : m .fresh = true) (a0) (s) (k : Keeps m s₀ s) :
    Keeps m s₀ (State.forgetRegion a0 s) := by
  unfold State.forgetRegion
  repeat' with_reducible first
    | exact k
    | assumption
    | intro _ _ _
    | intro _ _
    | apply State.updRb_keeps h_rmem
    | apply State.burn_keeps h_fresh
    | apply State.forgetCore_keeps h_rmem h_fresh
    | apply Keeps.ite
    | apply Keeps.foldl
    | split
    | dsimp only
    | intro _
  exact Mem.forget_wf _ _ _ _ ‹_›

theorem State.clearChip_keeps (h_hif : m .hif = true) (h_wins : m .wins = true) (h_link : m .link = true) (h_dev : m .dev = true) (h_crt : m .crt = true) (h_cal : m .cal = true) (h_adm : m .adm = true) (h_dec : m .dec = true) (h_enc : m .enc = true) (h_cse : m .cse = true) (h_rgn : m .rgn = true) (h_rmem : m .rmem = true) (h_dis : m .dis = true) (h_syn : m .syn = true) (h_bpm : m .bpm = true) (h_tke : m .tke = true) (h_dmc : m .dmc = true) (h_dram : m .dram = true) (h_pwr : m .pwr = true) (h_clk : m .clk = true) (h_ras : m .ras = true) (h_trc : m .trc = true) (h_dbg : m .dbg = true) (h_fresh : m .fresh = true) (s) (k : Keeps m s₀ s) :
    Keeps m s₀ (State.clearChip s) := by
  unfold State.clearChip
  repeat' with_reducible first
    | exact k
    | assumption
    | intro _ _ _
    | intro _ _
    | apply State.burn_keeps h_fresh
    | apply State.updHif_keeps h_hif
    | apply State.updWins_keeps h_wins
    | apply State.updLink_keeps h_link
    | apply State.updDev_keeps h_dev
    | apply State.updCrt_keeps h_crt
    | apply State.updCal_keeps h_cal
    | apply State.updAdm_keeps h_adm
    | apply State.updDec_keeps h_dec
    | apply State.updEnc_keeps h_enc
    | apply State.updCse_keeps h_cse
    | apply State.updRgn_keeps h_rgn
    | apply State.forgetRegion_keeps h_rmem h_fresh
    | apply State.updRegMem_keeps h_rmem
    | apply State.updDis_keeps h_dis
    | apply State.updSyn_keeps h_syn
    | apply State.updBpm_keeps h_bpm
    | apply State.updTke_keeps h_tke
    | apply State.updDmc_keeps h_dmc
    | apply State.updDram_keeps h_dram
    | apply State.updPwr_keeps h_pwr
    | apply State.updClk_keeps h_clk
    | apply State.updRas_keeps h_ras
    | apply State.updTrc_keeps h_trc
    | apply State.updDbg_keeps h_dbg
    | apply Keeps.ite
    | apply Keeps.foldl
    | split
    | dsimp only
    | intro _
  · rename_i h
    simp only [Dram.wf, Bool.and_eq_true] at h ⊢
    exact ⟨Mem.forget_wf _ _ _ _ h.1, rfl⟩
  · exact ‹RegionMem.wf _ = true›

theorem State.endNow_keeps (h_link : m .link = true) (h_enc : m .enc = true) (h_cse : m .cse = true) (h_dis : m .dis = true) (h_bpm : m .bpm = true) (h_out : m .out = true) (a0) (a1) (s) (k : Keeps m s₀ s) :
    Keeps m s₀ (State.endNow a0 a1 s) := by
  unfold State.endNow
  repeat' with_reducible first
    | exact k
    | assumption
    | intro _ _ _
    | intro _ _
    | apply State.updProg_keeps h_enc
    | apply State.dropQueued_keeps h_cse h_dis h_bpm h_out
    | apply State.updSess_keeps h_enc
    | apply State.tryEnd_keeps h_link h_enc h_cse h_dis h_bpm h_out
    | apply State.freeSession_keeps h_enc h_cse h_dis h_bpm h_out
    | apply Keeps.ite
    | apply Keeps.foldl
    | split
    | dsimp only
    | intro _

theorem State.endCal_keeps (h_crt : m .crt = true) (h_cal : m .cal = true) (s) (k : Keeps m s₀ s) :
    Keeps m s₀ (State.endCal s) := by
  unfold State.endCal
  repeat' with_reducible first
    | exact k
    | assumption
    | intro _ _ _
    | intro _ _
    | apply State.updCrt_keeps h_crt
    | apply State.kickWrite_keeps h_crt
    | apply State.updCal_keeps h_cal
    | apply Keeps.ite
    | apply Keeps.foldl
    | split
    | dsimp only
    | intro _

theorem State.ptrHost_keeps (h_hif : m .hif = true) (h_link : m .link = true) (h_crt : m .crt = true) (h_cal : m .cal = true) (h_dec : m .dec = true) (h_enc : m .enc = true) (h_cse : m .cse = true) (h_rgn : m .rgn = true) (h_rmem : m .rmem = true) (h_dis : m .dis = true) (h_syn : m .syn = true) (h_bpm : m .bpm = true) (h_tke : m .tke = true) (h_dram : m .dram = true) (h_out : m .out = true) (h_fresh : m .fresh = true) (s) (k : Keeps m s₀ s) :
    Keeps m s₀ (State.ptrHost s) := by
  unfold State.ptrHost
  repeat' with_reducible first
    | exact k
    | assumption
    | intro _ _ _
    | intro _ _
    | apply State.failInv_keeps h_hif h_link h_enc h_cse h_dis h_syn h_bpm h_tke h_dram h_out h_fresh
    | apply State.unwait_keeps h_syn h_bpm
    | apply State.leave_keeps h_rgn h_rmem h_dis
    | apply State.updRegion_keeps h_rgn
    | apply State.updCtx_keeps h_dis
    | apply State.updSdec_keeps h_dec
    | apply State.toWaitKey_keeps h_dec
    | apply State.updEnc_keeps h_enc
    | apply State.updCse_keeps h_cse
    | apply State.afterPicture_keeps h_link h_enc h_cse h_dis h_bpm h_out
    | apply State.updDis_keeps h_dis
    | apply State.updTke_keeps h_tke
    | apply State.updBpm_keeps h_bpm
    | apply State.updHif_keeps h_hif
    | apply State.reply_keeps h_hif h_link h_out
    | apply State.endCal_keeps h_crt h_cal
    | apply State.updCrt_keeps h_crt
    | apply Keeps.ite
    | apply Keeps.foldl
    | split
    | dsimp only
    | intro _

theorem State.keepEvent_keeps (h_ras : m .ras = true) (a0) (a1) (s) (k : Keeps m s₀ s) :
    Keeps m s₀ (State.keepEvent a0 a1 s) := by
  unfold State.keepEvent
  repeat' with_reducible first
    | exact k
    | assumption
    | intro _ _ _
    | intro _ _
    | apply State.updUnit_keeps h_ras
    | apply Keeps.ite
    | apply Keeps.foldl
    | split
    | dsimp only
    | intro _

theorem State.glaze_keeps (h_aon : m .aon = true) (h_dbg : m .dbg = true) (a0) (a1) (s) (k : Keeps m s₀ s) :
    Keeps m s₀ (State.glaze a0 a1 s) := by
  unfold State.glaze
  repeat' with_reducible first
    | exact k
    | assumption
    | intro _ _ _
    | intro _ _
    | apply State.updDbg_keeps h_dbg
    | apply State.updAon_keeps h_aon
    | apply Keeps.ite
    | apply Keeps.foldl
    | split
    | dsimp only
    | intro _

theorem State.errorGlaze_keeps (h_aon : m .aon = true) (h_dbg : m .dbg = true) (a0) (s) (k : Keeps m s₀ s) :
    Keeps m s₀ (State.errorGlaze a0 s) := by
  unfold State.errorGlaze
  repeat' with_reducible first
    | exact k
    | assumption
    | intro _ _ _
    | intro _ _
    | apply State.glaze_keeps h_aon h_dbg
    | apply Keeps.ite
    | apply Keeps.foldl
    | split
    | dsimp only
    | intro _

theorem State.freeze_keeps (h_dev : m .dev = true) (s) (k : Keeps m s₀ s) :
    Keeps m s₀ (State.freeze s) := by
  unfold State.freeze
  repeat' with_reducible first
    | exact k
    | assumption
    | intro _ _ _
    | intro _ _
    | apply State.updDev_keeps h_dev
    | apply Keeps.ite
    | apply Keeps.foldl
    | split
    | dsimp only
    | intro _

theorem State.countError_keeps (h_aon : m .aon = true) (h_dev : m .dev = true) (h_ras : m .ras = true) (h_dbg : m .dbg = true) (a0) (a1) (s) {t : State} {x : Bool} (e : State.countError a0 a1 s = (t, x)) (k : Keeps m s₀ s) :
    Keeps m s₀ t := by
  revert e
  unfold State.countError
  repeat' with_reducible first
    | exact k
    | assumption
    | intro _ _ _
    | intro _ _
    | (intro e; cases e)
    | apply State.keepEvent_keeps h_ras
    | apply State.errorGlaze_keeps h_aon h_dbg
    | apply State.freeze_keeps h_dev
    | apply Keeps.ite
    | apply Keeps.foldl
    | split
    | dsimp only
    | intro _

theorem State.countAsked_keeps (h_aon : m .aon = true) (h_dev : m .dev = true) (h_ras : m .ras = true) (h_dbg : m .dbg = true) (a0) (a1) (s) (k : Keeps m s₀ s) :
    Keeps m s₀ (State.countAsked a0 a1 s) := by
  unfold State.countAsked
  repeat' with_reducible first
    | exact k
    | assumption
    | intro _ _ _
    | intro _ _
    | apply State.countError_keeps h_aon h_dev h_ras h_dbg _ _ _ (by assumption)
    | apply State.countError_keeps h_aon h_dev h_ras h_dbg _ _ _ rfl
    | apply Keeps.ite
    | apply Keeps.foldl
    | split
    | dsimp only
    | intro _

theorem State.dropCoreTile_keeps (h_rgn : m .rgn = true) (a0) (a1) (s) (k : Keeps m s₀ s) :
    Keeps m s₀ (State.dropCoreTile a0 a1 s) := by
  unfold State.dropCoreTile
  repeat' with_reducible first
    | exact k
    | assumption
    | intro _ _ _
    | intro _ _
    | apply State.updWc_keeps h_rgn
    | apply Keeps.ite
    | apply Keeps.foldl
    | split
    | dsimp only
    | intro _

theorem State.enrCore_keeps (h_aon : m .aon = true) (h_dev : m .dev = true) (h_rgn : m .rgn = true) (h_rmem : m .rmem = true) (h_dis : m .dis = true) (h_syn : m .syn = true) (h_ras : m .ras = true) (h_dbg : m .dbg = true) (h_fresh : m .fresh = true) (a0) (a1) (s) (k : Keeps m s₀ s) :
    Keeps m s₀ (State.enrCore a0 a1 s) := by
  unfold State.enrCore
  repeat' with_reducible first
    | exact k
    | assumption
    | intro _ _ _
    | intro _ _
    | apply State.countAsked_keeps h_aon h_dev h_ras h_dbg
    | apply State.dropCoreTile_keeps h_rgn
    | apply State.restartGroup_keeps h_rgn h_rmem h_dis
    | apply State.updCore_keeps h_rgn
    | apply State.updVec_keeps h_rmem
    | apply State.dropHeadWait_keeps h_syn
    | apply State.forgetCore_keeps h_rmem h_fresh
    | apply Keeps.ite
    | apply Keeps.foldl
    | split
    | dsimp only
    | intro _

theorem State.enrGau_keeps (h_aon : m .aon = true) (h_dev : m .dev = true) (h_rgn : m .rgn = true) (h_ras : m .ras = true) (h_dbg : m .dbg = true) (a0) (s) (k : Keeps m s₀ s) :
    Keeps m s₀ (State.enrGau a0 s) := by
  unfold State.enrGau
  repeat' with_reducible first
    | exact k
    | assumption
    | intro _ _ _
    | intro _ _
    | apply State.updGau_keeps h_rgn
    | apply State.countAsked_keeps h_aon h_dev h_ras h_dbg
    | apply Keeps.ite
    | apply Keeps.foldl
    | split
    | dsimp only
    | intro _

theorem State.unparse_keeps (h_dec : m .dec = true) (a0) (a1) (a2) (s) (k : Keeps m s₀ s) :
    Keeps m s₀ (State.unparse a0 a1 a2 s) := by
  unfold State.unparse
  repeat' with_reducible first
    | exact k
    | assumption
    | intro _ _ _
    | intro _ _
    | apply State.updSlot_keeps h_dec
    | apply State.updSdec_keeps h_dec
    | apply State.showParse_keeps h_dec
    | apply Keeps.ite
    | apply Keeps.foldl
    | split
    | dsimp only
    | intro _

theorem State.discardEngine_keeps (h_hif : m .hif = true) (h_link : m .link = true) (h_dec : m .dec = true) (h_enc : m .enc = true) (h_cse : m .cse = true) (h_dis : m .dis = true) (h_bpm : m .bpm = true) (h_tke : m .tke = true) (h_dmc : m .dmc = true) (h_out : m .out = true) (a0) (s) (k : Keeps m s₀ s) :
    Keeps m s₀ (State.discardEngine a0 s) := by
  unfold State.discardEngine
  repeat' with_reducible first
    | exact k
    | assumption
    | intro _ _ _
    | intro _ _
    | apply State.updDeng_keeps h_dec
    | apply State.unparse_keeps h_dec
    | apply State.finishClose_keeps h_hif h_link h_dec h_enc h_cse h_dis h_bpm h_tke h_dmc h_out
    | apply Keeps.ite
    | apply Keeps.foldl
    | split
    | dsimp only
    | intro _

theorem State.enrDec_keeps (h_hif : m .hif = true) (h_link : m .link = true) (h_dec : m .dec = true) (h_enc : m .enc = true) (h_cse : m .cse = true) (h_dis : m .dis = true) (h_bpm : m .bpm = true) (h_tke : m .tke = true) (h_dmc : m .dmc = true) (h_out : m .out = true) (a0) (s) (k : Keeps m s₀ s) :
    Keeps m s₀ (State.enrDec a0 s) := by
  unfold State.enrDec
  repeat' with_reducible first
    | exact k
    | assumption
    | intro _ _ _
    | intro _ _
    | apply State.updDeng_keeps h_dec
    | apply State.discardEngine_keeps h_hif h_link h_dec h_enc h_cse h_dis h_bpm h_tke h_dmc h_out
    | apply Keeps.ite
    | apply Keeps.foldl
    | split
    | dsimp only
    | intro _

theorem State.enrChan_keeps (h_dmc : m .dmc = true) (a0) (s) (k : Keeps m s₀ s) :
    Keeps m s₀ (State.enrChan a0 s) := by
  unfold State.enrChan
  repeat' with_reducible first
    | exact k
    | assumption
    | intro _ _ _
    | intro _ _
    | apply State.updChan_keeps h_dmc
    | apply State.updTrn_keeps h_dmc
    | apply Keeps.ite
    | apply Keeps.foldl
    | split
    | dsimp only
    | intro _

theorem State.clearUnit_keeps (h_aon : m .aon = true) (h_hif : m .hif = true) (h_link : m .link = true) (h_dev : m .dev = true) (h_dec : m .dec = true) (h_enc : m .enc = true) (h_cse : m .cse = true) (h_rgn : m .rgn = true) (h_rmem : m .rmem = true) (h_dis : m .dis = true) (h_syn : m .syn = true) (h_bpm : m .bpm = true) (h_tke : m .tke = true) (h_dmc : m .dmc = true) (h_ras : m .ras = true) (h_dbg : m .dbg = true) (h_out : m .out = true) (h_fresh : m .fresh = true) (a0) (s) (k : Keeps m s₀ s) :
    Keeps m s₀ (State.clearUnit a0 s) := by
  unfold State.clearUnit
  repeat' with_reducible first
    | exact k
    | assumption
    | intro _ _ _
    | intro _ _
    | apply State.enrCore_keeps h_aon h_dev h_rgn h_rmem h_dis h_syn h_ras h_dbg h_fresh
    | apply State.enrGau_keeps h_aon h_dev h_rgn h_ras h_dbg
    | apply State.enrDec_keeps h_hif h_link h_dec h_enc h_cse h_dis h_bpm h_tke h_dmc h_out
    | apply State.enrEnc_keeps h_link h_enc h_cse h_dis h_bpm h_out
    | apply State.enrCse_keeps h_cse h_dis
    | apply State.enrChan_keeps h_dmc
    | apply Keeps.ite
    | apply Keeps.foldl
    | split
    | dsimp only
    | intro _

theorem State.joinRuns_keeps (h_rst : m .rst = true) (a0) (a1) (s) (k : Keeps m s₀ s) :
    Keeps m s₀ (State.joinRuns a0 a1 s) := by
  unfold State.joinRuns
  repeat' with_reducible first
    | exact k
    | assumption
    | intro _ _ _
    | intro _ _
    | apply State.updRst_keeps h_rst
    | apply Keeps.ite
    | apply Keeps.foldl
    | split
    | dsimp only
    | intro _

theorem State.countRas_keeps (h_ras : m .ras = true) (a0) (s) (k : Keeps m s₀ s) :
    Keeps m s₀ (State.countRas a0 s) := by
  unfold State.countRas
  repeat' with_reducible first
    | exact k
    | assumption
    | intro _ _ _
    | intro _ _
    | apply State.updRas_keeps h_ras
    | apply Keeps.ite
    | apply Keeps.foldl
    | split
    | dsimp only
    | intro _

theorem State.countReset_keeps (h_ep : m .ep = true) (h_aon : m .aon = true) (a0) (a1) (s) (k : Keeps m s₀ s) :
    Keeps m s₀ (State.countReset a0 a1 s) := by
  unfold State.countReset
  repeat' with_reducible first
    | exact k
    | assumption
    | intro _ _ _
    | intro _ _
    | apply State.updEp_keeps h_ep
    | apply State.updAon_keeps h_aon
    | apply Keeps.ite
    | apply Keeps.foldl
    | split
    | dsimp only
    | intro _
  exact Epoch.wf_succ _ ‹_›

theorem State.ptrRegion_keeps (h_hif : m .hif = true) (h_link : m .link = true) (h_enc : m .enc = true) (h_cse : m .cse = true) (h_rgn : m .rgn = true) (h_rmem : m .rmem = true) (h_dis : m .dis = true) (h_syn : m .syn = true) (h_bpm : m .bpm = true) (h_tke : m .tke = true) (h_dram : m .dram = true) (h_pwr : m .pwr = true) (h_out : m .out = true) (h_fresh : m .fresh = true) (a0) (s) (k : Keeps m s₀ s) :
    Keeps m s₀ (State.ptrRegion a0 s) := by
  unfold State.ptrRegion
  repeat' with_reducible first
    | exact k
    | assumption
    | intro _ _ _
    | intro _ _
    | apply State.failInv_keeps h_hif h_link h_enc h_cse h_dis h_syn h_bpm h_tke h_dram h_out h_fresh
    | apply State.dropAll_keeps h_dis h_bpm h_out
    | apply State.unwait_keeps h_syn h_bpm
    | apply State.updCtx_keeps h_dis
    | apply State.updDis_keeps h_dis
    | apply State.dropHeadWait_keeps h_syn
    | apply State.updRegMem_keeps h_rmem
    | apply State.updRegPwr_keeps h_pwr
    | apply State.updRegion_keeps h_rgn
    | apply State.forgetRegion_keeps h_rmem h_fresh
    | apply Keeps.ite
    | apply Keeps.foldl
    | split
    | dsimp only
    | intro _
  exact ‹RegionMem.wf _ = true›

theorem State.ptrMedia_keeps (h_link : m .link = true) (h_dec : m .dec = true) (h_enc : m .enc = true) (h_cse : m .cse = true) (h_dis : m .dis = true) (h_bpm : m .bpm = true) (h_out : m .out = true) (s) (k : Keeps m s₀ s) :
    Keeps m s₀ (State.ptrMedia s) := by
  unfold State.ptrMedia
  repeat' with_reducible first
    | exact k
    | assumption
    | intro _ _ _
    | intro _ _
    | apply State.updEeng_keeps h_enc
    | apply State.endNow_keeps h_link h_enc h_cse h_dis h_bpm h_out
    | apply State.dropHeld_keeps h_dec h_dis h_bpm h_out
    | apply State.emptyDpb_keeps h_dec h_dis h_bpm h_out
    | apply State.updSdec_keeps h_dec
    | apply State.dropAll_keeps h_dis h_bpm h_out
    | apply State.updDec_keeps h_dec
    | apply State.updCse_keeps h_cse
    | apply State.updEnc_keeps h_enc
    | apply Keeps.ite
    | apply Keeps.foldl
    | split
    | dsimp only
    | intro _

theorem State.clearScope_keeps (h_aon : m .aon = true) (h_hif : m .hif = true) (h_wins : m .wins = true) (h_link : m .link = true) (h_dev : m .dev = true) (h_crt : m .crt = true) (h_cal : m .cal = true) (h_adm : m .adm = true) (h_dec : m .dec = true) (h_enc : m .enc = true) (h_cse : m .cse = true) (h_rgn : m .rgn = true) (h_rmem : m .rmem = true) (h_dis : m .dis = true) (h_syn : m .syn = true) (h_bpm : m .bpm = true) (h_tke : m .tke = true) (h_dmc : m .dmc = true) (h_dram : m .dram = true) (h_pwr : m .pwr = true) (h_clk : m .clk = true) (h_ras : m .ras = true) (h_trc : m .trc = true) (h_dbg : m .dbg = true) (h_out : m .out = true) (h_fresh : m .fresh = true) (a0) (s) (k : Keeps m s₀ s) :
    Keeps m s₀ (State.clearScope a0 s) := by
  unfold State.clearScope
  repeat' with_reducible first
    | exact k
    | assumption
    | intro _ _ _
    | intro _ _
    | apply State.clearUnit_keeps h_aon h_hif h_link h_dev h_dec h_enc h_cse h_rgn h_rmem h_dis h_syn h_bpm h_tke h_dmc h_ras h_dbg h_out h_fresh
    | apply State.holdDomains_keeps h_pwr
    | apply State.ptrRegion_keeps h_hif h_link h_enc h_cse h_rgn h_rmem h_dis h_syn h_bpm h_tke h_dram h_pwr h_out h_fresh
    | apply State.ptrMedia_keeps h_link h_dec h_enc h_cse h_dis h_bpm h_out
    | apply State.ptrHost_keeps h_hif h_link h_crt h_cal h_dec h_enc h_cse h_rgn h_rmem h_dis h_syn h_bpm h_tke h_dram h_out h_fresh
    | apply State.clearChip_keeps h_hif h_wins h_link h_dev h_crt h_cal h_adm h_dec h_enc h_cse h_rgn h_rmem h_dis h_syn h_bpm h_tke h_dmc h_dram h_pwr h_clk h_ras h_trc h_dbg h_fresh
    | apply Keeps.ite
    | apply Keeps.foldl
    | split
    | dsimp only
    | intro _

theorem State.startReset_keeps (h_ep : m .ep = true) (h_aon : m .aon = true) (h_wires : m .wires = true) (h_hif : m .hif = true) (h_wins : m .wins = true) (h_link : m .link = true) (h_dev : m .dev = true) (h_crt : m .crt = true) (h_cal : m .cal = true) (h_adm : m .adm = true) (h_dec : m .dec = true) (h_enc : m .enc = true) (h_cse : m .cse = true) (h_rgn : m .rgn = true) (h_rmem : m .rmem = true) (h_dis : m .dis = true) (h_syn : m .syn = true) (h_bpm : m .bpm = true) (h_tke : m .tke = true) (h_dmc : m .dmc = true) (h_dram : m .dram = true) (h_pwr : m .pwr = true) (h_clk : m .clk = true) (h_ras : m .ras = true) (h_trc : m .trc = true) (h_rst : m .rst = true) (h_dbg : m .dbg = true) (h_out : m .out = true) (h_fresh : m .fresh = true) (a0) (a1) (a2) (s) (k : Keeps m s₀ s) :
    Keeps m s₀ (State.startReset a0 a1 a2 s) := by
  unfold State.startReset
  repeat' with_reducible first
    | exact k
    | assumption
    | intro _ _ _
    | intro _ _
    | apply State.glaze_keeps h_aon h_dbg
    | apply State.joinRuns_keeps h_rst
    | apply State.countRas_keeps h_ras
    | apply State.countReset_keeps h_ep h_aon
    | apply State.clearScope_keeps h_aon h_hif h_wins h_link h_dev h_crt h_cal h_adm h_dec h_enc h_cse h_rgn h_rmem h_dis h_syn h_bpm h_tke h_dmc h_dram h_pwr h_clk h_ras h_trc h_dbg h_out h_fresh
    | apply State.updAon_keeps h_aon
    | apply State.updWires_keeps h_wires
    | apply State.judgeAll_keeps h_rgn h_rmem h_dis
    | apply Keeps.ite
    | apply Keeps.foldl
    | split
    | dsimp only
    | intro _

theorem State.submitJob_keeps (h_cse : m .cse = true) (h_dis : m .dis = true) (a0) (a1) (s) (k : Keeps m s₀ s) :
    Keeps m s₀ (State.submitJob a0 a1 s) := by
  unfold State.submitJob
  repeat' with_reducible first
    | exact k
    | assumption
    | intro _ _ _
    | intro _ _
    | apply State.enqueue_keeps h_cse
    | apply State.updDis_keeps h_dis
    | apply Keeps.ite
    | apply Keeps.foldl
    | split
    | dsimp only
    | intro _

theorem State.chr_keeps (h_ep : m .ep = true) (h_aon : m .aon = true) (h_wires : m .wires = true) (h_hif : m .hif = true) (h_wins : m .wins = true) (h_link : m .link = true) (h_dev : m .dev = true) (h_crt : m .crt = true) (h_cal : m .cal = true) (h_adm : m .adm = true) (h_dec : m .dec = true) (h_enc : m .enc = true) (h_cse : m .cse = true) (h_rgn : m .rgn = true) (h_rmem : m .rmem = true) (h_dis : m .dis = true) (h_syn : m .syn = true) (h_bpm : m .bpm = true) (h_tke : m .tke = true) (h_dmc : m .dmc = true) (h_dram : m .dram = true) (h_pwr : m .pwr = true) (h_clk : m .clk = true) (h_ras : m .ras = true) (h_trc : m .trc = true) (h_rst : m .rst = true) (h_dbg : m .dbg = true) (h_out : m .out = true) (h_fresh : m .fresh = true) (a0) (s) (k : Keeps m s₀ s) :
    Keeps m s₀ (State.chr a0 s) := by
  unfold State.chr
  repeat' with_reducible first
    | exact k
    | assumption
    | intro _ _ _
    | intro _ _
    | apply State.startReset_keeps h_ep h_aon h_wires h_hif h_wins h_link h_dev h_crt h_cal h_adm h_dec h_enc h_cse h_rgn h_rmem h_dis h_syn h_bpm h_tke h_dmc h_dram h_pwr h_clk h_ras h_trc h_rst h_dbg h_out h_fresh
    | apply Keeps.ite
    | apply Keeps.foldl
    | split
    | dsimp only
    | intro _

theorem State.emptyPools_keeps (h_bpm : m .bpm = true) (s) (k : Keeps m s₀ s) :
    Keeps m s₀ (State.emptyPools s) := by
  unfold State.emptyPools
  repeat' with_reducible first
    | exact k
    | assumption
    | intro _ _ _
    | intro _ _
    | apply State.updBpm_keeps h_bpm
    | apply Keeps.ite
    | apply Keeps.foldl
    | split
    | dsimp only
    | intro _

theorem State.postRuns_keeps (h_hif : m .hif = true) (h_link : m .link = true) (h_dev : m .dev = true) (h_ras : m .ras = true) (h_rst : m .rst = true) (h_out : m .out = true) (a0) (s) (k : Keeps m s₀ s) :
    Keeps m s₀ (State.postRuns a0 s) := by
  induction a0 generalizing s with
  | nil => exact State.updRst_keeps h_rst k
  | cons r rest ih =>
    unfold State.postRuns
    exact .ite (ih _ (State.attention_keeps h_hif h_link h_dev h_ras h_out _ _ _ _ _ (State.record_keeps h_hif h_link h_out _ _ _ _ _ k)))
      (State.updRst_keeps h_rst k)

theorem State.postResets_keeps (h_hif : m .hif = true) (h_link : m .link = true) (h_dev : m .dev = true) (h_ras : m .ras = true) (h_rst : m .rst = true) (h_out : m .out = true) (s) (k : Keeps m s₀ s) :
    Keeps m s₀ (State.postResets s) := by
  unfold State.postResets
  repeat' with_reducible first
    | exact k
    | assumption
    | intro _ _ _
    | intro _ _
    | apply State.updRst_keeps h_rst
    | apply State.postRuns_keeps h_hif h_link h_dev h_ras h_rst h_out
    | apply Keeps.ite
    | apply Keeps.foldl
    | split
    | dsimp only
    | intro _

end Sys2Proof.Machine
end

