-- ==== Sys2Proof/Laws/KeepsErrors.lean ====
section
/-! SUPPORT. What each operation of Machine/Errors.lean keeps. -/

set_option Elab.async false
set_option linter.all false

namespace Sys2Proof.Machine

variable {m : Part → Bool} {s₀ : State}

theorem State.moveSession_keeps (h_link : m .link = true) (h_enc : m .enc = true) (h_cse : m .cse = true) (h_dis : m .dis = true) (h_bpm : m .bpm = true) (h_out : m .out = true) (a0) (a1) (s) (k : Keeps m s₀ s) :
    Keeps m s₀ (State.moveSession a0 a1 s) := by
  unfold State.moveSession
  repeat' with_reducible first
    | exact k
    | assumption
    | intro _ _ _
    | intro _ _
    | apply State.updSess_keeps h_enc
    | apply State.updEeng_keeps h_enc
    | apply State.endSession_keeps h_link h_enc h_cse h_dis h_bpm h_out
    | apply Keeps.ite
    | apply Keeps.foldl
    | split
    | dsimp only
    | intro _

theorem State.reloadEnc_keeps (h_enc : m .enc = true) (s) (k : Keeps m s₀ s) :
    Keeps m s₀ (State.reloadEnc s) := by
  unfold State.reloadEnc
  repeat' with_reducible first
    | exact k
    | assumption
    | intro _ _ _
    | intro _ _
    | apply State.updEnc_keeps h_enc
    | apply Keeps.ite
    | apply Keeps.foldl
    | split
    | dsimp only
    | intro _

theorem State.placeSlots_keeps (h_dec : m .dec = true) (s) (k : Keeps m s₀ s) :
    Keeps m s₀ (State.placeSlots s) := by
  unfold State.placeSlots
  repeat' with_reducible first
    | exact k
    | assumption
    | intro _ _ _
    | intro _ _
    | apply State.updDec_keeps h_dec
    | apply Keeps.ite
    | apply Keeps.foldl
    | split
    | dsimp only
    | intro _

theorem State.serveMedia_keeps (h_dec : m .dec = true) (h_enc : m .enc = true) (h_cse : m .cse = true) (h_ras : m .ras = true) (s) (k : Keeps m s₀ s) :
    Keeps m s₀ (State.serveMedia s) := by
  unfold State.serveMedia
  repeat' with_reducible first
    | exact k
    | assumption
    | intro _ _ _
    | intro _ _
    | apply State.updUnit_keeps h_ras
    | apply State.updDeng_keeps h_dec
    | apply State.updEeng_keeps h_enc
    | apply State.updCseEng_keeps h_cse
    | apply Keeps.ite
    | apply Keeps.foldl
    | split
    | dsimp only
    | intro _

theorem State.openSlot_keeps (h_dec : m .dec = true) (h_dis : m .dis = true) (h_bpm : m .bpm = true) (h_dram : m .dram = true) (h_out : m .out = true) (h_fresh : m .fresh = true) (a0) (a1) (a2) (s) (k : Keeps m s₀ s) :
    Keeps m s₀ (State.openSlot a0 a1 a2 s) := by
  unfold State.openSlot
  repeat' with_reducible first
    | exact k
    | assumption
    | intro _ _ _
    | intro _ _
    | apply State.dropHeld_keeps h_dec h_dis h_bpm h_out
    | apply State.emptyDpb_keeps h_dec h_dis h_bpm h_out
    | apply State.updSlot_keeps h_dec
    | apply State.updSdec_keeps h_dec
    | apply State.dramForget_keeps h_dram h_fresh
    | apply Keeps.ite
    | apply Keeps.foldl
    | split
    | dsimp only
    | intro _

theorem State.restoreMedia_keeps (h_hif : m .hif = true) (h_link : m .link = true) (h_dec : m .dec = true) (h_enc : m .enc = true) (h_cse : m .cse = true) (h_dis : m .dis = true) (h_bpm : m .bpm = true) (h_tke : m .tke = true) (h_dmc : m .dmc = true) (h_dram : m .dram = true) (h_ras : m .ras = true) (h_out : m .out = true) (h_fresh : m .fresh = true) (s) (k : Keeps m s₀ s) :
    Keeps m s₀ (State.restoreMedia s) := by
  unfold State.restoreMedia
  repeat' with_reducible first
    | exact k
    | assumption
    | intro _ _ _
    | intro _ _
    | apply State.reloadEnc_keeps h_enc
    | apply State.placeSlots_keeps h_dec
    | apply State.serveMedia_keeps h_dec h_enc h_cse h_ras
    | apply State.finishClose_keeps h_hif h_link h_dec h_enc h_cse h_dis h_bpm h_tke h_dmc h_out
    | apply State.openSlot_keeps h_dec h_dis h_bpm h_dram h_out h_fresh
    | apply Keeps.ite
    | apply Keeps.foldl
    | split
    | dsimp only
    | intro _

theorem State.startBoot_keeps (h_aon : m .aon = true) (h_wires : m .wires = true) (h_crt : m .crt = true) (h_out : m .out = true) (s) (k : Keeps m s₀ s) :
    Keeps m s₀ (State.startBoot s) := by
  unfold State.startBoot
  repeat' with_reducible first
    | exact k
    | assumption
    | intro _ _ _
    | intro _ _
    | apply State.updCrt_keeps h_crt
    | apply State.updWires_keeps h_wires
    | apply State.send_keeps h_out
    | apply State.updAon_keeps h_aon
    | apply Keeps.ite
    | apply Keeps.foldl
    | split
    | dsimp only
    | intro _

theorem State.dropCtxHeads_keeps (h_rmem : m .rmem = true) (h_syn : m .syn = true) (a0) (s) (k : Keeps m s₀ s) :
    Keeps m s₀ (State.dropCtxHeads a0 s) := by
  unfold State.dropCtxHeads
  repeat' with_reducible first
    | exact k
    | assumption
    | intro _ _ _
    | intro _ _
    | apply State.dropHeadWait_keeps h_syn
    | apply State.updVec_keeps h_rmem
    | apply Keeps.ite
    | apply Keeps.foldl
    | split
    | dsimp only
    | intro _

theorem State.countCtxAborts_keeps (h_rgn : m .rgn = true) (h_rmem : m .rmem = true) (a0) (s) (k : Keeps m s₀ s) :
    Keeps m s₀ (State.countCtxAborts a0 s) := by
  unfold State.countCtxAborts
  repeat' with_reducible first
    | exact k
    | assumption
    | intro _ _ _
    | intro _ _
    | apply State.updCore_keeps h_rgn
    | apply State.updVec_keeps h_rmem
    | apply State.updGau_keeps h_rgn
    | apply Keeps.ite
    | apply Keeps.foldl
    | split
    | dsimp only
    | intro _

theorem State.cxrNow_keeps (h_hif : m .hif = true) (h_link : m .link = true) (h_enc : m .enc = true) (h_cse : m .cse = true) (h_rgn : m .rgn = true) (h_rmem : m .rmem = true) (h_dis : m .dis = true) (h_syn : m .syn = true) (h_bpm : m .bpm = true) (h_tke : m .tke = true) (h_dram : m .dram = true) (h_ras : m .ras = true) (h_rst : m .rst = true) (h_out : m .out = true) (h_fresh : m .fresh = true) (a0) (a1) (a2) (a3) (a4) (s) (k : Keeps m s₀ s) :
    Keeps m s₀ (State.cxrNow a0 a1 a2 a3 a4 s) := by
  unfold State.cxrNow
  repeat' with_reducible first
    | exact k
    | assumption
    | intro _ _ _
    | intro _ _
    | apply State.updRst_keeps h_rst
    | apply State.dropCtxHeads_keeps h_rmem h_syn
    | apply State.countCtxAborts_keeps h_rgn h_rmem
    | apply State.clearGau_keeps h_rgn
    | apply State.clearCores_keeps h_rgn h_rmem
    | apply State.updRegion_keeps h_rgn
    | apply State.updDis_keeps h_dis
    | apply State.beginInv_keeps h_dis
    | apply State.failInv_keeps h_hif h_link h_enc h_cse h_dis h_syn h_bpm h_tke h_dram h_out h_fresh
    | apply State.dropAll_keeps h_dis h_bpm h_out
    | apply State.unwait_keeps h_syn h_bpm
    | apply State.updCtx_keeps h_dis
    | apply State.noteCode_keeps h_ras
    | apply State.record_keeps h_hif h_link h_out
    | apply State.judgeAll_keeps h_rgn h_rmem h_dis
    | apply Keeps.ite
    | apply Keeps.foldl
    | split
    | dsimp only
    | intro _

theorem State.cxr_keeps (h_hif : m .hif = true) (h_link : m .link = true) (h_enc : m .enc = true) (h_cse : m .cse = true) (h_rgn : m .rgn = true) (h_rmem : m .rmem = true) (h_dis : m .dis = true) (h_syn : m .syn = true) (h_bpm : m .bpm = true) (h_tke : m .tke = true) (h_dram : m .dram = true) (h_ras : m .ras = true) (h_rst : m .rst = true) (h_out : m .out = true) (h_fresh : m .fresh = true) (a0) (a1) (a2) (a3) (a4) (s) (k : Keeps m s₀ s) :
    Keeps m s₀ (State.cxr a0 a1 a2 a3 a4 s) := by
  unfold State.cxr
  repeat' with_reducible first
    | exact k
    | assumption
    | intro _ _ _
    | intro _ _
    | apply State.updRegion_keeps h_rgn
    | apply State.cxrNow_keeps h_hif h_link h_enc h_cse h_rgn h_rmem h_dis h_syn h_bpm h_tke h_dram h_ras h_rst h_out h_fresh
    | apply Keeps.ite
    | apply Keeps.foldl
    | split
    | dsimp only
    | intro _

theorem State.serveCores_keeps (h_rgn : m .rgn = true) (a0) (s) (k : Keeps m s₀ s) :
    Keeps m s₀ (State.serveCores a0 s) := by
  unfold State.serveCores
  repeat' with_reducible first
    | exact k
    | assumption
    | intro _ _ _
    | intro _ _
    | apply State.updCore_keeps h_rgn
    | apply State.updGau_keeps h_rgn
    | apply Keeps.ite
    | apply Keeps.foldl
    | split
    | dsimp only
    | intro _

theorem State.unmapCore_keeps (h_rgn : m .rgn = true) (a0) (a1) (a2) (s) (k : Keeps m s₀ s) :
    Keeps m s₀ (State.unmapCore a0 a1 a2 s) := by
  unfold State.unmapCore
  repeat' with_reducible first
    | exact k
    | assumption
    | intro _ _ _
    | intro _ _
    | apply State.serveCores_keeps h_rgn
    | apply State.updRegion_keeps h_rgn
    | apply Keeps.ite
    | apply Keeps.foldl
    | split
    | dsimp only
    | intro _

theorem State.loadCore_keeps (h_rgn : m .rgn = true) (h_rmem : m .rmem = true) (a0) (a1) (a2) (s) (k : Keeps m s₀ s) :
    Keeps m s₀ (State.loadCore a0 a1 a2 s) := by
  unfold State.loadCore
  repeat' with_reducible first
    | exact k
    | assumption
    | intro _ _ _
    | intro _ _
    | apply State.updCore_keeps h_rgn
    | apply State.updCoreMem_keeps h_rmem
    | apply Keeps.ite
    | apply Keeps.foldl
    | split
    | dsimp only
    | intro _
  rename_i hx
  simp only [CoreMem.wf, Bool.and_eq_true] at hx ⊢
  exact ⟨⟨⟨Mem.foldl_wf _ (fun _ _ => Mem.writeN_wf _ _ _) _ _ hx.1.1.1, Mem.writeN_wf _ _ _ hx.1.1.2⟩, hx.1.2⟩, hx.2⟩

theorem State.mapCore_keeps (h_rgn : m .rgn = true) (h_rmem : m .rmem = true) (a0) (a1) (a2) (s) (k : Keeps m s₀ s) :
    Keeps m s₀ (State.mapCore a0 a1 a2 s) := by
  unfold State.mapCore
  repeat' with_reducible first
    | exact k
    | assumption
    | intro _ _ _
    | intro _ _
    | apply State.updRegion_keeps h_rgn
    | apply State.loadCore_keeps h_rgn h_rmem
    | apply State.serveCores_keeps h_rgn
    | apply Keeps.ite
    | apply Keeps.foldl
    | split
    | dsimp only
    | intro _

theorem State.startGau_keeps (h_rgn : m .rgn = true) (a0) (s) (k : Keeps m s₀ s) :
    Keeps m s₀ (State.startGau a0 s) := by
  unfold State.startGau
  repeat' with_reducible first
    | exact k
    | assumption
    | intro _ _ _
    | intro _ _
    | apply State.updGau_keeps h_rgn
    | apply Keeps.ite
    | apply Keeps.foldl
    | split
    | dsimp only
    | intro _

theorem State.poolFault_keeps (h_hif : m .hif = true) (h_link : m .link = true) (h_dev : m .dev = true) (h_enc : m .enc = true) (h_cse : m .cse = true) (h_rgn : m .rgn = true) (h_rmem : m .rmem = true) (h_dis : m .dis = true) (h_syn : m .syn = true) (h_bpm : m .bpm = true) (h_tke : m .tke = true) (h_dram : m .dram = true) (h_ras : m .ras = true) (h_rst : m .rst = true) (h_out : m .out = true) (h_fresh : m .fresh = true) (a0) (a1) (a2) (s) (k : Keeps m s₀ s) :
    Keeps m s₀ (State.poolFault a0 a1 a2 s) := by
  unfold State.poolFault
  repeat' with_reducible first
    | exact k
    | assumption
    | intro _ _ _
    | intro _ _
    | apply State.poolError_keeps h_bpm h_out
    | apply State.cxr_keeps h_hif h_link h_enc h_cse h_rgn h_rmem h_dis h_syn h_bpm h_tke h_dram h_ras h_rst h_out h_fresh
    | apply State.attention_keeps h_hif h_link h_dev h_ras h_out
    | apply Keeps.ite
    | apply Keeps.foldl
    | split
    | dsimp only
    | intro _

theorem State.fenceAbort_keeps (h_rgn : m .rgn = true) (h_rmem : m .rmem = true) (a0) (a1) (s) (k : Keeps m s₀ s) :
    Keeps m s₀ (State.fenceAbort a0 a1 s) := by
  unfold State.fenceAbort
  repeat' with_reducible first
    | exact k
    | assumption
    | intro _ _ _
    | intro _ _
    | apply State.updCore_keeps h_rgn
    | apply State.updVec_keeps h_rmem
    | apply Keeps.ite
    | apply Keeps.foldl
    | split
    | dsimp only
    | intro _

theorem State.moveFused_keeps (h_rgn : m .rgn = true) (h_rmem : m .rmem = true) (a0) (a1) (a2) (s) (k : Keeps m s₀ s) :
    Keeps m s₀ (State.moveFused a0 a1 a2 s) := by
  unfold State.moveFused
  repeat' with_reducible first
    | exact k
    | assumption
    | intro _ _ _
    | intro _ _
    | apply State.updCore_keeps h_rgn
    | apply State.updRegMem_keeps h_rmem
    | apply Keeps.ite
    | apply Keeps.foldl
    | split
    | dsimp only
    | intro _
  have hx := ‹RegionMem.wf _ = true›
  simp only [RegionMem.wf, Bool.and_eq_true] at hx ⊢
  exact ⟨hx.1, tset_all hx.2 (tget_all hx.2 rfl _)⟩

theorem State.replaceCore_keeps (h_rgn : m .rgn = true) (h_rmem : m .rmem = true) (h_dis : m .dis = true) (a0) (a1) (a2) (a3) (s) (k : Keeps m s₀ s) :
    Keeps m s₀ (State.replaceCore a0 a1 a2 a3 s) := by
  unfold State.replaceCore
  repeat' with_reducible first
    | exact k
    | assumption
    | intro _ _ _
    | intro _ _
    | apply State.mapCore_keeps h_rgn h_rmem
    | apply State.fenceAbort_keeps h_rgn h_rmem
    | apply State.moveFused_keeps h_rgn h_rmem
    | apply State.unmapCore_keeps h_rgn
    | apply State.restartGroup_keeps h_rgn h_rmem h_dis
    | apply Keeps.ite
    | apply Keeps.foldl
    | split
    | dsimp only
    | intro _

theorem State.takeMode_keeps (h_rgn : m .rgn = true) (a0) (a1) (s) (k : Keeps m s₀ s) :
    Keeps m s₀ (State.takeMode a0 a1 s) := by
  unfold State.takeMode
  repeat' with_reducible first
    | exact k
    | assumption
    | intro _ _ _
    | intro _ _
    | apply State.updGau_keeps h_rgn
    | apply Keeps.ite
    | apply Keeps.foldl
    | split
    | dsimp only
    | intro _

theorem State.tilesChanged_keeps (h_rgn : m .rgn = true) (a0) (a1) (a2) (s) (k : Keeps m s₀ s) :
    Keeps m s₀ (State.tilesChanged a0 a1 a2 s) := by
  unfold State.tilesChanged
  repeat' with_reducible first
    | exact k
    | assumption
    | intro _ _ _
    | intro _ _
    | apply State.updGau_keeps h_rgn
    | apply State.serveCores_keeps h_rgn
    | apply State.takeMode_keeps h_rgn
    | apply State.startGau_keeps h_rgn
    | apply Keeps.ite
    | apply Keeps.foldl
    | split
    | dsimp only
    | intro _

theorem State.setMode_keeps (h_rgn : m .rgn = true) (a0) (a1) (s) (k : Keeps m s₀ s) :
    Keeps m s₀ (State.setMode a0 a1 s) := by
  unfold State.setMode
  repeat' with_reducible first
    | exact k
    | assumption
    | intro _ _ _
    | intro _ _
    | apply State.updGau_keeps h_rgn
    | apply State.takeMode_keeps h_rgn
    | apply Keeps.ite
    | apply Keeps.foldl
    | split
    | dsimp only
    | intro _

theorem State.moveIdle_keeps (h_enc : m .enc = true) (a0) (a1) (a2) (s) (k : Keeps m s₀ s) :
    Keeps m s₀ (State.moveIdle a0 a1 a2 s) := by
  unfold State.moveIdle
  repeat' with_reducible first
    | exact k
    | assumption
    | intro _ _ _
    | intro _ _
    | apply State.updEnc_keeps h_enc
    | apply State.updEeng_keeps h_enc
    | apply Keeps.ite
    | apply Keeps.foldl
    | split
    | dsimp only
    | intro _

theorem State.moveSessions_keeps (h_link : m .link = true) (h_enc : m .enc = true) (h_cse : m .cse = true) (h_dis : m .dis = true) (h_bpm : m .bpm = true) (h_out : m .out = true) (a0) (a1) (s) (k : Keeps m s₀ s) :
    Keeps m s₀ (State.moveSessions a0 a1 s) := by
  unfold State.moveSessions
  repeat' with_reducible first
    | exact k
    | assumption
    | intro _ _ _
    | intro _ _
    | apply State.updEeng_keeps h_enc
    | apply State.moveSession_keeps h_link h_enc h_cse h_dis h_bpm h_out
    | apply State.moveIdle_keeps h_enc
    | apply Keeps.ite
    | apply Keeps.foldl
    | split
    | dsimp only
    | intro _

theorem State.fenceEnc_keeps (h_link : m .link = true) (h_enc : m .enc = true) (h_cse : m .cse = true) (h_dis : m .dis = true) (h_bpm : m .bpm = true) (h_ras : m .ras = true) (h_out : m .out = true) (a0) (s) {t : State} {x : Bool} (e : State.fenceEnc a0 s = (t, x)) (k : Keeps m s₀ s) :
    Keeps m s₀ t := by
  revert e
  unfold State.fenceEnc
  repeat' with_reducible first
    | exact k
    | assumption
    | intro _ _ _
    | intro _ _
    | (intro e; cases e)
    | apply State.updEeng_keeps h_enc
    | apply State.discardEncode_keeps h_link h_enc h_cse h_dis h_bpm h_out
    | apply State.moveSessions_keeps h_link h_enc h_cse h_dis h_bpm h_out
    | apply State.updUnit_keeps h_ras
    | apply Keeps.ite
    | apply Keeps.foldl
    | split
    | dsimp only
    | intro _

theorem State.serveRegion_keeps (h_rgn : m .rgn = true) (h_ras : m .ras = true) (a0) (s) (k : Keeps m s₀ s) :
    Keeps m s₀ (State.serveRegion a0 s) := by
  unfold State.serveRegion
  repeat' with_reducible first
    | exact k
    | assumption
    | intro _ _ _
    | intro _ _
    | apply State.updRegion_keeps h_rgn
    | apply State.updGau_keeps h_rgn
    | apply State.updUnit_keeps h_ras
    | apply State.serveCores_keeps h_rgn
    | apply Keeps.ite
    | apply Keeps.foldl
    | split
    | dsimp only
    | intro _

theorem State.countLasting_keeps (h_ras : m .ras = true) (s) (k : Keeps m s₀ s) :
    Keeps m s₀ (State.countLasting s) := by
  unfold State.countLasting
  repeat' with_reducible first
    | exact k
    | assumption
    | intro _ _ _
    | intro _ _
    | apply State.updRas_keeps h_ras
    | apply Keeps.ite
    | apply Keeps.foldl
    | split
    | dsimp only
    | intro _

theorem State.lastChannel_keeps (h_hif : m .hif = true) (h_link : m .link = true) (h_dev : m .dev = true) (h_crt : m .crt = true) (h_dmc : m .dmc = true) (h_ras : m .ras = true) (h_out : m .out = true) (a0) (a1) (s) (k : Keeps m s₀ s) :
    Keeps m s₀ (State.lastChannel a0 a1 s) := by
  unfold State.lastChannel
  repeat' with_reducible first
    | exact k
    | assumption
    | intro _ _ _
    | intro _ _
    | apply State.updChan_keeps h_dmc
    | apply State.attention_keeps h_hif h_link h_dev h_ras h_out
    | apply State.addRepair_keeps h_hif h_link h_dev h_crt h_ras h_out
    | apply Keeps.ite
    | apply Keeps.foldl
    | split
    | dsimp only
    | intro _

theorem State.markFenced_keeps (h_rgn : m .rgn = true) (a0) (a1) (s) (k : Keeps m s₀ s) :
    Keeps m s₀ (State.markFenced a0 a1 s) := by
  unfold State.markFenced
  repeat' with_reducible first
    | exact k
    | assumption
    | intro _ _ _
    | intro _ _
    | apply State.updRegion_keeps h_rgn
    | apply Keeps.ite
    | apply Keeps.foldl
    | split
    | dsimp only
    | intro _

theorem State.fenceCore_keeps (h_rgn : m .rgn = true) (h_rmem : m .rmem = true) (h_dis : m .dis = true) (h_syn : m .syn = true) (h_ras : m .ras = true) (a0) (a1) (s) {t : State} {x : Bool} (e : State.fenceCore a0 a1 s = (t, x)) (k : Keeps m s₀ s) :
    Keeps m s₀ t := by
  revert e
  unfold State.fenceCore
  repeat' with_reducible first
    | exact k
    | assumption
    | intro _ _ _
    | intro _ _
    | (intro e; cases e)
    | apply State.moveFused_keeps h_rgn h_rmem
    | apply State.restartGroup_keeps h_rgn h_rmem h_dis
    | apply State.markFenced_keeps h_rgn
    | apply State.dropHeadWait_keeps h_syn
    | apply State.fenceAbort_keeps h_rgn h_rmem
    | apply State.dropCoreTile_keeps h_rgn
    | apply State.serveCores_keeps h_rgn
    | apply State.updUnit_keeps h_ras
    | apply State.mapCore_keeps h_rgn h_rmem
    | apply State.unmapCore_keeps h_rgn
    | apply Keeps.ite
    | apply Keeps.foldl
    | split
    | dsimp only
    | intro _

theorem State.fenceTile_keeps (h_rgn : m .rgn = true) (h_ras : m .ras = true) (a0) (a1) (s) {t : State} {x : Bool} (e : State.fenceTile a0 a1 s = (t, x)) (k : Keeps m s₀ s) :
    Keeps m s₀ t := by
  revert e
  unfold State.fenceTile
  repeat' with_reducible first
    | exact k
    | assumption
    | intro _ _ _
    | intro _ _
    | (intro e; cases e)
    | apply State.updGau_keeps h_rgn
    | apply State.updUnit_keeps h_ras
    | apply State.tilesChanged_keeps h_rgn
    | apply Keeps.ite
    | apply Keeps.foldl
    | split
    | dsimp only
    | intro _

theorem State.showHomes_keeps (h_dec : m .dec = true) (s) (k : Keeps m s₀ s) :
    Keeps m s₀ (State.showHomes s) := by
  unfold State.showHomes
  repeat' with_reducible first
    | exact k
    | assumption
    | intro _ _ _
    | intro _ _
    | apply State.updDec_keeps h_dec
    | apply Keeps.ite
    | apply Keeps.foldl
    | split
    | dsimp only
    | intro _

theorem State.moveHomes_keeps (h_adm : m .adm = true) (h_dec : m .dec = true) (a0) (a1) (s) (k : Keeps m s₀ s) :
    Keeps m s₀ (State.moveHomes a0 a1 s) := by
  unfold State.moveHomes
  repeat' with_reducible first
    | exact k
    | assumption
    | intro _ _ _
    | intro _ _
    | apply State.showHomes_keeps h_dec
    | apply State.updAdm_keeps h_adm
    | apply Keeps.ite
    | apply Keeps.foldl
    | split
    | dsimp only
    | intro _

theorem State.fenceDec_keeps (h_hif : m .hif = true) (h_link : m .link = true) (h_adm : m .adm = true) (h_dec : m .dec = true) (h_enc : m .enc = true) (h_cse : m .cse = true) (h_dis : m .dis = true) (h_bpm : m .bpm = true) (h_tke : m .tke = true) (h_dmc : m .dmc = true) (h_ras : m .ras = true) (h_out : m .out = true) (a0) (s) {t : State} {x : Bool} (e : State.fenceDec a0 s = (t, x)) (k : Keeps m s₀ s) :
    Keeps m s₀ t := by
  revert e
  unfold State.fenceDec
  repeat' with_reducible first
    | exact k
    | assumption
    | intro _ _ _
    | intro _ _
    | (intro e; cases e)
    | apply State.updDeng_keeps h_dec
    | apply State.discardEngine_keeps h_hif h_link h_dec h_enc h_cse h_dis h_bpm h_tke h_dmc h_out
    | apply State.moveHomes_keeps h_adm h_dec
    | apply State.updUnit_keeps h_ras
    | apply Keeps.ite
    | apply Keeps.foldl
    | split
    | dsimp only
    | intro _

theorem State.fenceCse_keeps (h_cse : m .cse = true) (h_dis : m .dis = true) (a0) (s) {t : State} {x : Bool} (e : State.fenceCse a0 s = (t, x)) (k : Keeps m s₀ s) :
    Keeps m s₀ t := by
  revert e
  unfold State.fenceCse
  repeat' with_reducible first
    | exact k
    | assumption
    | intro _ _ _
    | intro _ _
    | (intro e; cases e)
    | apply State.updCseEng_keeps h_cse
    | apply State.resubmit_keeps h_cse h_dis
    | apply Keeps.ite
    | apply Keeps.foldl
    | split
    | dsimp only
    | intro _

theorem State.fence_keeps (h_aon : m .aon = true) (h_hif : m .hif = true) (h_link : m .link = true) (h_dev : m .dev = true) (h_crt : m .crt = true) (h_adm : m .adm = true) (h_dec : m .dec = true) (h_enc : m .enc = true) (h_cse : m .cse = true) (h_rgn : m .rgn = true) (h_rmem : m .rmem = true) (h_dis : m .dis = true) (h_syn : m .syn = true) (h_bpm : m .bpm = true) (h_tke : m .tke = true) (h_dmc : m .dmc = true) (h_pwr : m .pwr = true) (h_clk : m .clk = true) (h_ras : m .ras = true) (h_dbg : m .dbg = true) (h_out : m .out = true) (a0) (a1) (s) (k : Keeps m s₀ s) :
    Keeps m s₀ (State.fence a0 a1 s) := by
  unfold State.fence
  repeat' with_reducible first
    | exact k
    | assumption
    | intro _ _ _
    | intro _ _
    | apply State.updRas_keeps h_ras
    | apply State.countAsked_keeps h_aon h_dev h_ras h_dbg
    | apply State.updUnit_keeps h_ras
    | apply State.countLasting_keeps h_ras
    | apply State.lastChannel_keeps h_hif h_link h_dev h_crt h_dmc h_ras h_out
    | apply State.addRepair_keeps h_hif h_link h_dev h_crt h_ras h_out
    | apply State.judgeAll_keeps h_rgn h_rmem h_dis
    | apply State.attention_keeps h_hif h_link h_dev h_ras h_out
    | apply State.readmitFor_keeps h_hif h_link h_dev h_adm h_dec h_enc h_rgn h_dis h_pwr h_clk h_ras h_out
    | apply State.fenceCore_keeps h_rgn h_rmem h_dis h_syn h_ras _ _ _ (by assumption)
    | apply State.fenceCore_keeps h_rgn h_rmem h_dis h_syn h_ras _ _ _ rfl
    | apply State.fenceTile_keeps h_rgn h_ras _ _ _ (by assumption)
    | apply State.fenceTile_keeps h_rgn h_ras _ _ _ rfl
    | apply State.fenceDec_keeps h_hif h_link h_adm h_dec h_enc h_cse h_dis h_bpm h_tke h_dmc h_ras h_out _ _ (by assumption)
    | apply State.fenceDec_keeps h_hif h_link h_adm h_dec h_enc h_cse h_dis h_bpm h_tke h_dmc h_ras h_out _ _ rfl
    | apply State.fenceEnc_keeps h_link h_enc h_cse h_dis h_bpm h_ras h_out _ _ (by assumption)
    | apply State.fenceEnc_keeps h_link h_enc h_cse h_dis h_bpm h_ras h_out _ _ rfl
    | apply State.fenceCse_keeps h_cse h_dis _ _ (by assumption)
    | apply State.fenceCse_keeps h_cse h_dis _ _ rfl
    | apply Keeps.ite
    | apply Keeps.foldl
    | split
    | dsimp only
    | intro _

theorem State.standIn_keeps (h_aon : m .aon = true) (h_hif : m .hif = true) (h_link : m .link = true) (h_dev : m .dev = true) (h_crt : m .crt = true) (h_adm : m .adm = true) (h_dec : m .dec = true) (h_enc : m .enc = true) (h_cse : m .cse = true) (h_rgn : m .rgn = true) (h_rmem : m .rmem = true) (h_dis : m .dis = true) (h_syn : m .syn = true) (h_bpm : m .bpm = true) (h_tke : m .tke = true) (h_dmc : m .dmc = true) (h_pwr : m .pwr = true) (h_clk : m .clk = true) (h_ras : m .ras = true) (h_dbg : m .dbg = true) (h_out : m .out = true) (a0) (a1) (a2) (a3) (s) (k : Keeps m s₀ s) :
    Keeps m s₀ (State.standIn a0 a1 a2 a3 s) := by
  unfold State.standIn
  repeat' with_reducible first
    | exact k
    | assumption
    | intro _ _ _
    | intro _ _
    | apply State.fence_keeps h_aon h_hif h_link h_dev h_crt h_adm h_dec h_enc h_cse h_rgn h_rmem h_dis h_syn h_bpm h_tke h_dmc h_pwr h_clk h_ras h_dbg h_out
    | apply State.updChan_keeps h_dmc
    | apply Keeps.ite
    | apply Keeps.foldl
    | split
    | dsimp only
    | intro _

theorem State.dramRowFault_keeps (h_aon : m .aon = true) (h_hif : m .hif = true) (h_link : m .link = true) (h_dev : m .dev = true) (h_crt : m .crt = true) (h_adm : m .adm = true) (h_dec : m .dec = true) (h_enc : m .enc = true) (h_cse : m .cse = true) (h_rgn : m .rgn = true) (h_rmem : m .rmem = true) (h_dis : m .dis = true) (h_syn : m .syn = true) (h_bpm : m .bpm = true) (h_tke : m .tke = true) (h_dmc : m .dmc = true) (h_pwr : m .pwr = true) (h_clk : m .clk = true) (h_ras : m .ras = true) (h_dbg : m .dbg = true) (h_out : m .out = true) (a0) (a1) (a2) (a3) (s) (k : Keeps m s₀ s) :
    Keeps m s₀ (State.dramRowFault a0 a1 a2 a3 s) := by
  unfold State.dramRowFault
  repeat' with_reducible first
    | exact k
    | assumption
    | intro _ _ _
    | intro _ _
    | apply State.addRepair_keeps h_hif h_link h_dev h_crt h_ras h_out
    | apply State.standIn_keeps h_aon h_hif h_link h_dev h_crt h_adm h_dec h_enc h_cse h_rgn h_rmem h_dis h_syn h_bpm h_tke h_dmc h_pwr h_clk h_ras h_dbg h_out
    | apply Keeps.ite
    | apply Keeps.foldl
    | split
    | dsimp only
    | intro _

theorem State.checkHalf_keeps (h_aon : m .aon = true) (h_hif : m .hif = true) (h_link : m .link = true) (h_dev : m .dev = true) (h_crt : m .crt = true) (h_adm : m .adm = true) (h_dec : m .dec = true) (h_enc : m .enc = true) (h_cse : m .cse = true) (h_rgn : m .rgn = true) (h_rmem : m .rmem = true) (h_dis : m .dis = true) (h_syn : m .syn = true) (h_bpm : m .bpm = true) (h_tke : m .tke = true) (h_dmc : m .dmc = true) (h_dram : m .dram = true) (h_pwr : m .pwr = true) (h_clk : m .clk = true) (h_ras : m .ras = true) (h_dbg : m .dbg = true) (h_out : m .out = true) (a0) (a1) (a2) (s) {t : State} {x : Bool} (e : State.checkHalf a0 a1 a2 s = (t, x)) (k : Keeps m s₀ s) :
    Keeps m s₀ t := by
  revert e
  unfold State.checkHalf
  repeat' with_reducible first
    | exact k
    | assumption
    | intro _ _ _
    | intro _ _
    | (intro e; cases e)
    | apply State.updChan_keeps h_dmc
    | apply State.dramRowFault_keeps h_aon h_hif h_link h_dev h_crt h_adm h_dec h_enc h_cse h_rgn h_rmem h_dis h_syn h_bpm h_tke h_dmc h_pwr h_clk h_ras h_dbg h_out
    | apply State.updDram_keeps h_dram
    | apply State.freeze_keeps h_dev
    | apply Keeps.ite
    | apply Keeps.foldl
    | split
    | dsimp only
    | intro _
  rename_i h
  simp only [Dram.wf, Bool.and_eq_true] at h ⊢
  exact ⟨h.1, rising_insertN _ h.2⟩

theorem State.checkBlock_keeps (h_aon : m .aon = true) (h_hif : m .hif = true) (h_link : m .link = true) (h_dev : m .dev = true) (h_crt : m .crt = true) (h_adm : m .adm = true) (h_dec : m .dec = true) (h_enc : m .enc = true) (h_cse : m .cse = true) (h_rgn : m .rgn = true) (h_rmem : m .rmem = true) (h_dis : m .dis = true) (h_syn : m .syn = true) (h_bpm : m .bpm = true) (h_tke : m .tke = true) (h_dmc : m .dmc = true) (h_dram : m .dram = true) (h_pwr : m .pwr = true) (h_clk : m .clk = true) (h_ras : m .ras = true) (h_dbg : m .dbg = true) (h_out : m .out = true) (a0) (a1) (a2) (s) {t : State} {x y : Bool} (e : State.checkBlock a0 a1 a2 s = (t, x, y)) (k : Keeps m s₀ s) :
    Keeps m s₀ t := by
  revert e
  unfold State.checkBlock
  repeat' with_reducible first
    | exact k
    | assumption
    | intro _ _ _
    | intro _ _
    | (intro e; cases e)
    | apply State.checkHalf_keeps h_aon h_hif h_link h_dev h_crt h_adm h_dec h_enc h_cse h_rgn h_rmem h_dis h_syn h_bpm h_tke h_dmc h_dram h_pwr h_clk h_ras h_dbg h_out _ _ _ _ (by assumption)
    | apply State.checkHalf_keeps h_aon h_hif h_link h_dev h_crt h_adm h_dec h_enc h_cse h_rgn h_rmem h_dis h_syn h_bpm h_tke h_dmc h_dram h_pwr h_clk h_ras h_dbg h_out _ _ _ _ rfl
    | apply Keeps.ite
    | apply Keeps.foldl
    | split
    | dsimp only
    | intro _

theorem State.readReq_keeps (h_aon : m .aon = true) (h_hif : m .hif = true) (h_link : m .link = true) (h_dev : m .dev = true) (h_crt : m .crt = true) (h_adm : m .adm = true) (h_dec : m .dec = true) (h_enc : m .enc = true) (h_cse : m .cse = true) (h_rgn : m .rgn = true) (h_rmem : m .rmem = true) (h_dis : m .dis = true) (h_syn : m .syn = true) (h_bpm : m .bpm = true) (h_tke : m .tke = true) (h_dmc : m .dmc = true) (h_dram : m .dram = true) (h_pwr : m .pwr = true) (h_clk : m .clk = true) (h_ras : m .ras = true) (h_dbg : m .dbg = true) (h_out : m .out = true) (a0) (a1) (a2) (a3) (s) (k : Keeps m s₀ s) :
    Keeps m s₀ (State.readReq a0 a1 a2 a3 s) := by
  unfold State.readReq
  repeat' with_reducible first
    | exact k
    | assumption
    | intro _ _ _
    | intro _ _
    | apply State.send_keeps h_out
    | apply State.checkBlock_keeps h_aon h_hif h_link h_dev h_crt h_adm h_dec h_enc h_cse h_rgn h_rmem h_dis h_syn h_bpm h_tke h_dmc h_dram h_pwr h_clk h_ras h_dbg h_out _ _ _ _ (by assumption)
    | apply State.checkBlock_keeps h_aon h_hif h_link h_dev h_crt h_adm h_dec h_enc h_cse h_rgn h_rmem h_dis h_syn h_bpm h_tke h_dmc h_dram h_pwr h_clk h_ras h_dbg h_out _ _ _ _ rfl
    | apply Keeps.ite
    | apply Keeps.foldl
    | split
    | dsimp only
    | intro _

theorem State.writeReq_keeps (h_aon : m .aon = true) (h_hif : m .hif = true) (h_link : m .link = true) (h_dev : m .dev = true) (h_crt : m .crt = true) (h_adm : m .adm = true) (h_dec : m .dec = true) (h_enc : m .enc = true) (h_cse : m .cse = true) (h_rgn : m .rgn = true) (h_rmem : m .rmem = true) (h_dis : m .dis = true) (h_syn : m .syn = true) (h_bpm : m .bpm = true) (h_tke : m .tke = true) (h_dmc : m .dmc = true) (h_dram : m .dram = true) (h_pwr : m .pwr = true) (h_clk : m .clk = true) (h_ras : m .ras = true) (h_dbg : m .dbg = true) (h_out : m .out = true) (a0) (a1) (a2) (a3) (a4) (s) (k : Keeps m s₀ s) :
    Keeps m s₀ (State.writeReq a0 a1 a2 a3 a4 s) := by
  unfold State.writeReq
  repeat' with_reducible first
    | exact k
    | assumption
    | intro _ _ _
    | intro _ _
    | apply State.dramPut_keeps h_dram
    | apply State.updDram_keeps h_dram
    | apply State.checkBlock_keeps h_aon h_hif h_link h_dev h_crt h_adm h_dec h_enc h_cse h_rgn h_rmem h_dis h_syn h_bpm h_tke h_dmc h_dram h_pwr h_clk h_ras h_dbg h_out _ _ _ _ (by assumption)
    | apply State.checkBlock_keeps h_aon h_hif h_link h_dev h_crt h_adm h_dec h_enc h_cse h_rgn h_rmem h_dis h_syn h_bpm h_tke h_dmc h_dram h_pwr h_clk h_ras h_dbg h_out _ _ _ _ rfl
    | apply Keeps.ite
    | apply Keeps.foldl
    | split
    | dsimp only
    | intro _
  have h := ‹Dram.wf _ = true›
  simp only [Dram.wf, Bool.and_eq_true] at h ⊢
  exact ⟨h.1, rising_insertN _ (rising_insertN _ h.2)⟩

theorem State.serveReq_keeps (h_aon : m .aon = true) (h_hif : m .hif = true) (h_link : m .link = true) (h_dev : m .dev = true) (h_crt : m .crt = true) (h_adm : m .adm = true) (h_dec : m .dec = true) (h_enc : m .enc = true) (h_cse : m .cse = true) (h_rgn : m .rgn = true) (h_rmem : m .rmem = true) (h_dis : m .dis = true) (h_syn : m .syn = true) (h_bpm : m .bpm = true) (h_tke : m .tke = true) (h_dmc : m .dmc = true) (h_dram : m .dram = true) (h_pwr : m .pwr = true) (h_clk : m .clk = true) (h_ras : m .ras = true) (h_dbg : m .dbg = true) (h_out : m .out = true) (a0) (s) (k : Keeps m s₀ s) :
    Keeps m s₀ (State.serveReq a0 s) := by
  unfold State.serveReq
  repeat' with_reducible first
    | exact k
    | assumption
    | intro _ _ _
    | intro _ _
    | apply State.readReq_keeps h_aon h_hif h_link h_dev h_crt h_adm h_dec h_enc h_cse h_rgn h_rmem h_dis h_syn h_bpm h_tke h_dmc h_dram h_pwr h_clk h_ras h_dbg h_out
    | apply State.writeReq_keeps h_aon h_hif h_link h_dev h_crt h_adm h_dec h_enc h_cse h_rgn h_rmem h_dis h_syn h_bpm h_tke h_dmc h_dram h_pwr h_clk h_ras h_dbg h_out
    | apply Keeps.ite
    | apply Keeps.foldl
    | split
    | dsimp only
    | intro _

theorem State.releaseChan_keeps (h_aon : m .aon = true) (h_hif : m .hif = true) (h_link : m .link = true) (h_dev : m .dev = true) (h_crt : m .crt = true) (h_adm : m .adm = true) (h_dec : m .dec = true) (h_enc : m .enc = true) (h_cse : m .cse = true) (h_rgn : m .rgn = true) (h_rmem : m .rmem = true) (h_dis : m .dis = true) (h_syn : m .syn = true) (h_bpm : m .bpm = true) (h_tke : m .tke = true) (h_dmc : m .dmc = true) (h_dram : m .dram = true) (h_pwr : m .pwr = true) (h_clk : m .clk = true) (h_ras : m .ras = true) (h_dbg : m .dbg = true) (h_out : m .out = true) (a0) (s) (k : Keeps m s₀ s) :
    Keeps m s₀ (State.releaseChan a0 s) := by
  unfold State.releaseChan
  repeat' with_reducible first
    | exact k
    | assumption
    | intro _ _ _
    | intro _ _
    | apply State.serveReq_keeps h_aon h_hif h_link h_dev h_crt h_adm h_dec h_enc h_cse h_rgn h_rmem h_dis h_syn h_bpm h_tke h_dmc h_dram h_pwr h_clk h_ras h_dbg h_out
    | apply State.updChan_keeps h_dmc
    | apply Keeps.ite
    | apply Keeps.foldl
    | split
    | dsimp only
    | intro _

theorem State.unitEvent_keeps (h_ep : m .ep = true) (h_aon : m .aon = true) (h_wires : m .wires = true) (h_hif : m .hif = true) (h_wins : m .wins = true) (h_link : m .link = true) (h_dev : m .dev = true) (h_crt : m .crt = true) (h_cal : m .cal = true) (h_adm : m .adm = true) (h_dec : m .dec = true) (h_enc : m .enc = true) (h_cse : m .cse = true) (h_rgn : m .rgn = true) (h_rmem : m .rmem = true) (h_dis : m .dis = true) (h_syn : m .syn = true) (h_bpm : m .bpm = true) (h_tke : m .tke = true) (h_dmc : m .dmc = true) (h_dram : m .dram = true) (h_pwr : m .pwr = true) (h_clk : m .clk = true) (h_ras : m .ras = true) (h_trc : m .trc = true) (h_rst : m .rst = true) (h_dbg : m .dbg = true) (h_out : m .out = true) (h_fresh : m .fresh = true) (a0) (a1) (a2) (a3) (s) (k : Keeps m s₀ s) :
    Keeps m s₀ (State.unitEvent a0 a1 a2 a3 s) := by
  unfold State.unitEvent
  repeat' with_reducible first
    | exact k
    | assumption
    | intro _ _ _
    | intro _ _
    | apply State.fence_keeps h_aon h_hif h_link h_dev h_crt h_adm h_dec h_enc h_cse h_rgn h_rmem h_dis h_syn h_bpm h_tke h_dmc h_pwr h_clk h_ras h_dbg h_out
    | apply State.startReset_keeps h_ep h_aon h_wires h_hif h_wins h_link h_dev h_crt h_cal h_adm h_dec h_enc h_cse h_rgn h_rmem h_dis h_syn h_bpm h_tke h_dmc h_dram h_pwr h_clk h_ras h_trc h_rst h_dbg h_out h_fresh
    | apply State.countError_keeps h_aon h_dev h_ras h_dbg _ _ _ (by assumption)
    | apply State.countError_keeps h_aon h_dev h_ras h_dbg _ _ _ rfl
    | apply Keeps.ite
    | apply Keeps.foldl
    | split
    | dsimp only
    | intro _

theorem State.rowFault_keeps (h_aon : m .aon = true) (h_hif : m .hif = true) (h_link : m .link = true) (h_dev : m .dev = true) (h_crt : m .crt = true) (h_adm : m .adm = true) (h_dec : m .dec = true) (h_enc : m .enc = true) (h_cse : m .cse = true) (h_rgn : m .rgn = true) (h_rmem : m .rmem = true) (h_dis : m .dis = true) (h_syn : m .syn = true) (h_bpm : m .bpm = true) (h_tke : m .tke = true) (h_dmc : m .dmc = true) (h_pwr : m .pwr = true) (h_clk : m .clk = true) (h_ras : m .ras = true) (h_dbg : m .dbg = true) (h_out : m .out = true) (a0) (a1) (a2) (s) (k : Keeps m s₀ s) :
    Keeps m s₀ (State.rowFault a0 a1 a2 s) := by
  unfold State.rowFault
  repeat' with_reducible first
    | exact k
    | assumption
    | intro _ _ _
    | intro _ _
    | apply State.addRepair_keeps h_hif h_link h_dev h_crt h_ras h_out
    | apply State.fence_keeps h_aon h_hif h_link h_dev h_crt h_adm h_dec h_enc h_cse h_rgn h_rmem h_dis h_syn h_bpm h_tke h_dmc h_pwr h_clk h_ras h_dbg h_out
    | apply State.attention_keeps h_hif h_link h_dev h_ras h_out
    | apply Keeps.ite
    | apply Keeps.foldl
    | split
    | dsimp only
    | intro _

theorem State.restoreHost_keeps (h_bpm : m .bpm = true) (h_tke : m .tke = true) (s) (k : Keeps m s₀ s) :
    Keeps m s₀ (State.restoreHost s) := by
  unfold State.restoreHost
  repeat' with_reducible first
    | exact k
    | assumption
    | intro _ _ _
    | intro _ _
    | apply State.updBpm_keeps h_bpm
    | apply State.emptyPools_keeps h_bpm
    | apply State.updTke_keeps h_tke
    | apply Keeps.ite
    | apply Keeps.foldl
    | split
    | dsimp only
    | intro _

theorem State.lateFences_keeps (h_aon : m .aon = true) (h_hif : m .hif = true) (h_link : m .link = true) (h_dev : m .dev = true) (h_crt : m .crt = true) (h_adm : m .adm = true) (h_dec : m .dec = true) (h_enc : m .enc = true) (h_cse : m .cse = true) (h_rgn : m .rgn = true) (h_rmem : m .rmem = true) (h_dis : m .dis = true) (h_syn : m .syn = true) (h_bpm : m .bpm = true) (h_tke : m .tke = true) (h_dmc : m .dmc = true) (h_pwr : m .pwr = true) (h_clk : m .clk = true) (h_ras : m .ras = true) (h_dbg : m .dbg = true) (h_out : m .out = true) (s) (k : Keeps m s₀ s) :
    Keeps m s₀ (State.lateFences s) := by
  unfold State.lateFences
  repeat' with_reducible first
    | exact k
    | assumption
    | intro _ _ _
    | intro _ _
    | apply State.updRas_keeps h_ras
    | apply State.fence_keeps h_aon h_hif h_link h_dev h_crt h_adm h_dec h_enc h_cse h_rgn h_rmem h_dis h_syn h_bpm h_tke h_dmc h_pwr h_clk h_ras h_dbg h_out
    | apply Keeps.ite
    | apply Keeps.foldl
    | split
    | dsimp only
    | intro _

theorem State.spareRows_keeps (h_ras : m .ras = true) (a0) (s) (k : Keeps m s₀ s) :
    Keeps m s₀ (State.spareRows a0 s) := by
  unfold State.spareRows
  repeat' with_reducible first
    | exact k
    | assumption
    | intro _ _ _
    | intro _ _
    | apply State.updRas_keeps h_ras
    | apply Keeps.ite
    | apply Keeps.foldl
    | split
    | dsimp only
    | intro _

theorem State.restoreScope_keeps (h_aon : m .aon = true) (h_wires : m .wires = true) (h_hif : m .hif = true) (h_link : m .link = true) (h_dev : m .dev = true) (h_crt : m .crt = true) (h_adm : m .adm = true) (h_dec : m .dec = true) (h_enc : m .enc = true) (h_cse : m .cse = true) (h_rgn : m .rgn = true) (h_rmem : m .rmem = true) (h_dis : m .dis = true) (h_syn : m .syn = true) (h_bpm : m .bpm = true) (h_tke : m .tke = true) (h_dmc : m .dmc = true) (h_dram : m .dram = true) (h_pwr : m .pwr = true) (h_clk : m .clk = true) (h_ras : m .ras = true) (h_dbg : m .dbg = true) (h_out : m .out = true) (h_fresh : m .fresh = true) (a0) (s) (k : Keeps m s₀ s) :
    Keeps m s₀ (State.restoreScope a0 s) := by
  unfold State.restoreScope
  repeat' with_reducible first
    | exact k
    | assumption
    | intro _ _ _
    | intro _ _
    | apply State.spareRows_keeps h_ras
    | apply State.loadCore_keeps h_rgn h_rmem
    | apply State.setMode_keeps h_rgn
    | apply State.releaseChan_keeps h_aon h_hif h_link h_dev h_crt h_adm h_dec h_enc h_cse h_rgn h_rmem h_dis h_syn h_bpm h_tke h_dmc h_dram h_pwr h_clk h_ras h_dbg h_out
    | apply State.serveRegion_keeps h_rgn h_ras
    | apply State.updRegPwr_keeps h_pwr
    | apply State.updClk_keeps h_clk
    | apply State.letDomains_keeps h_pwr
    | apply State.freqSettled_keeps h_dec
    | apply State.updCtx_keeps h_dis
    | apply State.restoreMedia_keeps h_hif h_link h_dec h_enc h_cse h_dis h_bpm h_tke h_dmc h_dram h_ras h_out h_fresh
    | apply State.restoreHost_keeps h_bpm h_tke
    | apply State.startBoot_keeps h_aon h_wires h_crt h_out
    | apply Keeps.ite
    | apply Keeps.foldl
    | split
    | dsimp only
    | intro _

theorem State.request_keeps (h_aon : m .aon = true) (h_hif : m .hif = true) (h_link : m .link = true) (h_dev : m .dev = true) (h_crt : m .crt = true) (h_adm : m .adm = true) (h_dec : m .dec = true) (h_enc : m .enc = true) (h_cse : m .cse = true) (h_rgn : m .rgn = true) (h_rmem : m .rmem = true) (h_dis : m .dis = true) (h_syn : m .syn = true) (h_bpm : m .bpm = true) (h_tke : m .tke = true) (h_dmc : m .dmc = true) (h_dram : m .dram = true) (h_pwr : m .pwr = true) (h_clk : m .clk = true) (h_ras : m .ras = true) (h_dbg : m .dbg = true) (h_out : m .out = true) (a0) (a1) (s) (k : Keeps m s₀ s) :
    Keeps m s₀ (State.request a0 a1 s) := by
  unfold State.request
  repeat' with_reducible first
    | exact k
    | assumption
    | intro _ _ _
    | intro _ _
    | apply State.updChan_keeps h_dmc
    | apply State.serveReq_keeps h_aon h_hif h_link h_dev h_crt h_adm h_dec h_enc h_cse h_rgn h_rmem h_dis h_syn h_bpm h_tke h_dmc h_dram h_pwr h_clk h_ras h_dbg h_out
    | apply Keeps.ite
    | apply Keeps.foldl
    | split
    | dsimp only
    | intro _

theorem State.rowError_keeps (h_ras : m .ras = true) (a0) (a1) (a2) (s) {t : State} {x : Bool} (e : State.rowError a0 a1 a2 s = (t, x)) (k : Keeps m s₀ s) :
    Keeps m s₀ t := by
  revert e
  unfold State.rowError
  repeat' with_reducible first
    | exact k
    | assumption
    | intro _ _ _
    | intro _ _
    | (intro e; cases e)
    | apply State.updRas_keeps h_ras
    | apply Keeps.ite
    | apply Keeps.foldl
    | split
    | dsimp only
    | intro _

end Sys2Proof.Machine
end

