-- ==== Sys2Proof/Laws/KeepsTileOps.lean ====
section
/-! SUPPORT. What each operation of Machine/TileOps.lean keeps. -/

set_option Elab.async false
set_option linter.all false

namespace Sys2Proof.Machine

variable {m : Part → Bool} {s₀ : State}

theorem State.startVec_keeps (h_rmem : m .rmem = true) (a0) (a1) (s) (k : Keeps m s₀ s) :
    Keeps m s₀ (State.startVec a0 a1 s) := by
  unfold State.startVec
  repeat' with_reducible first
    | exact k
    | assumption
    | intro _ _ _
    | intro _ _
    | apply State.updVec_keeps h_rmem
    | apply Keeps.ite
    | apply Keeps.foldl
    | split
    | dsimp only
    | intro _

theorem State.loadShadow_keeps (h_rgn : m .rgn = true) (h_rmem : m .rmem = true) (a0) (a1) (s) (k : Keeps m s₀ s) :
    Keeps m s₀ (State.loadShadow a0 a1 s) := by
  unfold State.loadShadow
  repeat' with_reducible first
    | exact k
    | assumption
    | intro _ _ _
    | intro _ _
    | apply State.updCore_keeps h_rgn
    | apply State.updCoreMem_keeps h_rmem
    | apply Keeps.ite
    | apply Keeps.foldl
    | split
    | dsimp only
    | intro _
  all_goals
    have hx := ‹CoreMem.wf _ = true›
    simp only [CoreMem.wf] at hx ⊢
    exact hx

theorem State.startPass_keeps (h_rgn : m .rgn = true) (h_rmem : m .rmem = true) (a0) (a1) (s) (k : Keeps m s₀ s) :
    Keeps m s₀ (State.startPass a0 a1 s) := by
  unfold State.startPass
  repeat' with_reducible first
    | exact k
    | assumption
    | intro _ _ _
    | intro _ _
    | apply State.updCoreMem_keeps h_rmem
    | apply State.updCore_keeps h_rgn
    | apply State.loadShadow_keeps h_rgn h_rmem
    | apply Keeps.ite
    | apply Keeps.foldl
    | split
    | dsimp only
    | intro _
  all_goals
    have hx := ‹CoreMem.wf _ = true›
    simp only [CoreMem.wf] at hx ⊢
    exact hx

theorem State.stageTile_keeps (h_rgn : m .rgn = true) (h_rmem : m .rmem = true) (a0) (a1) (a2) (a3) (a4) (s) (k : Keeps m s₀ s) :
    Keeps m s₀ (State.stageTile a0 a1 a2 a3 a4 s) := by
  unfold State.stageTile
  repeat' with_reducible first
    | exact k
    | assumption
    | intro _ _ _
    | intro _ _
    | apply State.updCore_keeps h_rgn
    | apply State.updCoreMem_keeps h_rmem
    | apply Keeps.ite
    | apply Keeps.foldl
    | split
    | dsimp only
    | intro _
  all_goals
    have hx := ‹CoreMem.wf _ = true›
    simp only [CoreMem.wf, Bool.and_eq_true] at hx ⊢
    exact ⟨⟨⟨Mem.foldl_wf _ (fun _ _ h => Mem.foldl_wf _ (fun _ _ => Mem.writeN_wf _ _ _) _ _ h) _ _ hx.1.1.1, hx.1.1.2⟩, hx.1.2⟩, hx.2⟩

theorem State.putWeights_keeps (h_rgn : m .rgn = true) (h_rmem : m .rmem = true) (a0) (a1) (a2) (a3) (a4) (a5) (s) (k : Keeps m s₀ s) :
    Keeps m s₀ (State.putWeights a0 a1 a2 a3 a4 a5 s) := by
  unfold State.putWeights
  repeat' with_reducible first
    | exact k
    | assumption
    | intro _ _ _
    | intro _ _
    | apply State.updCore_keeps h_rgn
    | apply State.updCoreMem_keeps h_rmem
    | apply Keeps.ite
    | apply Keeps.foldl
    | split
    | dsimp only
    | intro _
  have hx := ‹CoreMem.wf _ = true›
  simp only [CoreMem.wf, Bool.and_eq_true] at hx ⊢
  exact ⟨⟨⟨Mem.foldl_wf _ (fun _ _ => Mem.writeN_wf _ _ _) _ _ hx.1.1.1, hx.1.1.2⟩, hx.1.2⟩, hx.2⟩

theorem State.loadWeights_keeps (h_rgn : m .rgn = true) (h_rmem : m .rmem = true) (a0) (a1) (a2) (a3) (a4) (s) (k : Keeps m s₀ s) :
    Keeps m s₀ (State.loadWeights a0 a1 a2 a3 a4 s) := by
  unfold State.loadWeights
  repeat' with_reducible first
    | exact k
    | assumption
    | intro _ _ _
    | intro _ _
    | apply State.putWeights_keeps h_rgn h_rmem
    | apply Keeps.ite
    | apply Keeps.foldl
    | split
    | dsimp only
    | intro _

theorem State.beginTile_keeps (h_rgn : m .rgn = true) (h_rmem : m .rmem = true) (a0) (a1) (a2) (a3) (a4) (a5) (s) (k : Keeps m s₀ s) :
    Keeps m s₀ (State.beginTile a0 a1 a2 a3 a4 a5 s) := by
  unfold State.beginTile
  repeat' with_reducible first
    | exact k
    | assumption
    | intro _ _ _
    | intro _ _
    | apply State.loadWeights_keeps h_rgn h_rmem
    | apply State.updWc_keeps h_rgn
    | apply Keeps.ite
    | apply Keeps.foldl
    | split
    | dsimp only
    | intro _

theorem State.writeBack_keeps (h_rmem : m .rmem = true) (h_dram : m .dram = true) (h_fresh : m .fresh = true) (a0) (a1) (a2) (a3) (a4) (s) (k : Keeps m s₀ s) :
    Keeps m s₀ (State.writeBack a0 a1 a2 a3 a4 s) := by
  unfold State.writeBack
  repeat' with_reducible first
    | exact k
    | assumption
    | intro _ _ _
    | intro _ _
    | apply State.updRb_keeps h_rmem
    | apply State.burn_keeps h_fresh
    | apply State.dramPut_keeps h_dram
    | apply State.updDram_keeps h_dram
    | apply State.updCoreMem_keeps h_rmem
    | apply Keeps.ite
    | apply Keeps.foldl
    | split
    | dsimp only
    | intro _
  · exact Mem.foldl_wf _ (fun _ _ => Mem.forget_wf _ _ _ _) _ _ (Mem.foldl_wf _ (fun _ _ => Mem.writeN_wf _ _ _) _ _ ‹_›)
  · have h := ‹Dram.wf _ = true›
    simp only [Dram.wf, Bool.and_eq_true] at h ⊢
    exact ⟨Mem.foldl_wf _ (fun _ _ => Mem.forget_wf _ _ _ _) _ _ h.1, h.2⟩
  · have hx := ‹CoreMem.wf _ = true›
    simp only [CoreMem.wf, Bool.and_eq_true] at hx ⊢
    exact ⟨⟨⟨Mem.foldl_wf _ (fun _ _ => Mem.forget_wf _ _ _ _) _ _ (Mem.foldl_wf _ (fun _ _ => Mem.writeN_wf _ _ _) _ _ hx.1.1.1), hx.1.1.2⟩, hx.1.2⟩, hx.2⟩

theorem State.completeInv_keeps (h_hif : m .hif = true) (h_link : m .link = true) (h_enc : m .enc = true) (h_cse : m .cse = true) (h_rgn : m .rgn = true) (h_rmem : m .rmem = true) (h_dis : m .dis = true) (h_syn : m .syn = true) (h_bpm : m .bpm = true) (h_tke : m .tke = true) (h_dram : m .dram = true) (h_out : m .out = true) (h_fresh : m .fresh = true) (a0) (s) (k : Keeps m s₀ s) :
    Keeps m s₀ (State.completeInv a0 s) := by
  unfold State.completeInv
  repeat' with_reducible first
    | exact k
    | assumption
    | intro _ _ _
    | intro _ _
    | apply State.updCtx_keeps h_dis
    | apply State.updRegion_keeps h_rgn
    | apply State.complete_keeps h_dis h_syn h_out
    | apply State.releaseOn_keeps h_dis h_syn h_out
    | apply State.tickRan_keeps h_hif h_link h_enc h_cse h_dis h_bpm h_tke h_dram h_out h_fresh
    | apply State.judgeAll_keeps h_rgn h_rmem h_dis
    | apply Keeps.ite
    | apply Keeps.foldl
    | split
    | dsimp only
    | intro _

theorem State.applyMaps_keeps (h_rgn : m .rgn = true) (h_rmem : m .rmem = true) (a0) (a1) (s) (k : Keeps m s₀ s) :
    Keeps m s₀ (State.applyMaps a0 a1 s) := by
  unfold State.applyMaps
  repeat' with_reducible first
    | exact k
    | assumption
    | intro _ _ _
    | intro _ _
    | apply State.unmapCore_keeps h_rgn
    | apply State.updRegion_keeps h_rgn
    | apply State.mapCore_keeps h_rgn h_rmem
    | apply Keeps.ite
    | apply Keeps.foldl
    | split
    | dsimp only
    | intro _

theorem State.sendWeights_keeps (h_rgn : m .rgn = true) (h_rmem : m .rmem = true) (a0) (a1) (a2) (a3) (s) (k : Keeps m s₀ s) :
    Keeps m s₀ (State.sendWeights a0 a1 a2 a3 s) := by
  unfold State.sendWeights
  repeat' with_reducible first
    | exact k
    | assumption
    | intro _ _ _
    | intro _ _
    | apply State.putWeights_keeps h_rgn h_rmem
    | apply Keeps.ite
    | apply Keeps.foldl
    | split
    | dsimp only
    | intro _

theorem State.dispatchFused_keeps (h_rgn : m .rgn = true) (h_rmem : m .rmem = true) (a0) (a1) (a2) (a3) (s) (k : Keeps m s₀ s) :
    Keeps m s₀ (State.dispatchFused a0 a1 a2 a3 s) := by
  unfold State.dispatchFused
  repeat' with_reducible first
    | exact k
    | assumption
    | intro _ _ _
    | intro _ _
    | apply State.sendWeights_keeps h_rgn h_rmem
    | apply State.updCore_keeps h_rgn
    | apply Keeps.ite
    | apply Keeps.foldl
    | split
    | dsimp only
    | intro _

theorem State.takeCounters_keeps (h_rgn : m .rgn = true) (h_dis : m .dis = true) (a0) (a1) (a2) (s) (k : Keeps m s₀ s) :
    Keeps m s₀ (State.takeCounters a0 a1 a2 s) := by
  unfold State.takeCounters
  repeat' with_reducible first
    | exact k
    | assumption
    | intro _ _ _
    | intro _ _
    | apply State.updCtx_keeps h_dis
    | apply State.updWc_keeps h_rgn
    | apply Keeps.ite
    | apply Keeps.foldl
    | split
    | dsimp only
    | intro _

theorem State.startGroup_keeps (h_rgn : m .rgn = true) (h_rmem : m .rmem = true) (h_dis : m .dis = true) (a0) (a1) (a2) (s) (k : Keeps m s₀ s) :
    Keeps m s₀ (State.startGroup a0 a1 a2 s) := by
  unfold State.startGroup
  repeat' with_reducible first
    | exact k
    | assumption
    | intro _ _ _
    | intro _ _
    | apply State.applyMaps_keeps h_rgn h_rmem
    | apply State.dispatchFused_keeps h_rgn h_rmem
    | apply State.takeCounters_keeps h_rgn h_dis
    | apply Keeps.ite
    | apply Keeps.foldl
    | split
    | dsimp only
    | intro _

theorem State.dispatchGau_keeps (h_rgn : m .rgn = true) (a0) (a1) (a2) (a3) (s) (k : Keeps m s₀ s) :
    Keeps m s₀ (State.dispatchGau a0 a1 a2 a3 s) := by
  unfold State.dispatchGau
  repeat' with_reducible first
    | exact k
    | assumption
    | intro _ _ _
    | intro _ _
    | apply State.updWc_keeps h_rgn
    | apply State.updGau_keeps h_rgn
    | apply Keeps.ite
    | apply Keeps.foldl
    | split
    | dsimp only
    | intro _

theorem State.startLayer_keeps (h_rgn : m .rgn = true) (h_rmem : m .rmem = true) (h_dis : m .dis = true) (a0) (a1) (a2) (s) (k : Keeps m s₀ s) :
    Keeps m s₀ (State.startLayer a0 a1 a2 s) := by
  unfold State.startLayer
  repeat' with_reducible first
    | exact k
    | assumption
    | intro _ _ _
    | intro _ _
    | apply State.startGroup_keeps h_rgn h_rmem h_dis
    | apply State.takeCounters_keeps h_rgn h_dis
    | apply State.dispatchGau_keeps h_rgn
    | apply State.sendWeights_keeps h_rgn h_rmem
    | apply Keeps.ite
    | apply Keeps.foldl
    | split
    | dsimp only
    | intro _

theorem State.startLayers_keeps (h_rgn : m .rgn = true) (h_rmem : m .rmem = true) (h_dis : m .dis = true) (a0) (a1) (s) (k : Keeps m s₀ s) :
    Keeps m s₀ (State.startLayers a0 a1 s) := by
  unfold State.startLayers
  repeat' with_reducible first
    | exact k
    | assumption
    | intro _ _ _
    | intro _ _
    | apply State.startLayer_keeps h_rgn h_rmem h_dis
    | apply Keeps.ite
    | apply Keeps.foldl
    | split
    | dsimp only
    | intro _

theorem State.layerDone_keeps (h_hif : m .hif = true) (h_link : m .link = true) (h_enc : m .enc = true) (h_cse : m .cse = true) (h_rgn : m .rgn = true) (h_rmem : m .rmem = true) (h_dis : m .dis = true) (h_syn : m .syn = true) (h_bpm : m .bpm = true) (h_tke : m .tke = true) (h_dram : m .dram = true) (h_out : m .out = true) (h_fresh : m .fresh = true) (a0) (a1) (a2) (a3) (s) (k : Keeps m s₀ s) :
    Keeps m s₀ (State.layerDone a0 a1 a2 a3 s) := by
  unfold State.layerDone
  repeat' with_reducible first
    | exact k
    | assumption
    | intro _ _ _
    | intro _ _
    | apply State.updWc_keeps h_rgn
    | apply State.updCtx_keeps h_dis
    | apply State.completeInv_keeps h_hif h_link h_enc h_cse h_rgn h_rmem h_dis h_syn h_bpm h_tke h_dram h_out h_fresh
    | apply State.startLayers_keeps h_rgn h_rmem h_dis
    | apply Keeps.ite
    | apply Keeps.foldl
    | split
    | dsimp only
    | intro _

theorem State.tileDone_keeps (h_hif : m .hif = true) (h_link : m .link = true) (h_enc : m .enc = true) (h_cse : m .cse = true) (h_rgn : m .rgn = true) (h_rmem : m .rmem = true) (h_dis : m .dis = true) (h_syn : m .syn = true) (h_bpm : m .bpm = true) (h_tke : m .tke = true) (h_dram : m .dram = true) (h_out : m .out = true) (h_fresh : m .fresh = true) (a0) (a1) (a2) (a3) (a4) (s) (k : Keeps m s₀ s) :
    Keeps m s₀ (State.tileDone a0 a1 a2 a3 a4 s) := by
  unfold State.tileDone
  repeat' with_reducible first
    | exact k
    | assumption
    | intro _ _ _
    | intro _ _
    | apply State.updWc_keeps h_rgn
    | apply State.progressed_keeps h_dis
    | apply State.layerDone_keeps h_hif h_link h_enc h_cse h_rgn h_rmem h_dis h_syn h_bpm h_tke h_dram h_out h_fresh
    | apply Keeps.ite
    | apply Keeps.foldl
    | split
    | dsimp only
    | intro _

theorem State.finishFused_keeps (h_hif : m .hif = true) (h_link : m .link = true) (h_enc : m .enc = true) (h_cse : m .cse = true) (h_rgn : m .rgn = true) (h_rmem : m .rmem = true) (h_dis : m .dis = true) (h_syn : m .syn = true) (h_bpm : m .bpm = true) (h_tke : m .tke = true) (h_dram : m .dram = true) (h_out : m .out = true) (h_fresh : m .fresh = true) (a0) (a1) (a2) (a3) (a4) (a5) (s) (k : Keeps m s₀ s) :
    Keeps m s₀ (State.finishFused a0 a1 a2 a3 a4 a5 s) := by
  unfold State.finishFused
  repeat' with_reducible first
    | exact k
    | assumption
    | intro _ _ _
    | intro _ _
    | apply State.writeBack_keeps h_rmem h_dram h_fresh
    | apply State.tileDone_keeps h_hif h_link h_enc h_cse h_rgn h_rmem h_dis h_syn h_bpm h_tke h_dram h_out h_fresh
    | apply State.updWc_keeps h_rgn
    | apply Keeps.ite
    | apply Keeps.foldl
    | split
    | dsimp only
    | intro _

theorem State.feedCore_keeps (h_hif : m .hif = true) (h_link : m .link = true) (h_enc : m .enc = true) (h_cse : m .cse = true) (h_rgn : m .rgn = true) (h_rmem : m .rmem = true) (h_dis : m .dis = true) (h_syn : m .syn = true) (h_bpm : m .bpm = true) (h_tke : m .tke = true) (h_dram : m .dram = true) (h_out : m .out = true) (h_fresh : m .fresh = true) (a0) (a1) (a2) (s) (k : Keeps m s₀ s) :
    Keeps m s₀ (State.feedCore a0 a1 a2 s) := by
  induction a2 generalizing s with
  | zero =>
    simp only [State.feedCore]
    repeat' with_reducible first
      | exact k
      | assumption
      | intro _ _ _
      | intro _ _
      | apply State.startVec_keeps h_rmem
      | apply State.startPass_keeps h_rgn h_rmem
      | apply State.updCore_keeps h_rgn
      | apply State.stageTile_keeps h_rgn h_rmem
      | apply State.beginTile_keeps h_rgn h_rmem
      | apply State.loadShadow_keeps h_rgn h_rmem
      | apply State.updVec_keeps h_rmem
      | apply State.updRegion_keeps h_rgn
      | apply State.finishFused_keeps h_hif h_link h_enc h_cse h_rgn h_rmem h_dis h_syn h_bpm h_tke h_dram h_out h_fresh
      | apply Keeps.ite
      | apply Keeps.foldl
      | split
      | dsimp only
      | intro _
  | succ n ih =>
    simp only [State.feedCore]
    repeat' with_reducible first
      | exact k
      | assumption
      | intro _ _ _
      | intro _ _
      | apply ih
      | apply State.startVec_keeps h_rmem
      | apply State.startPass_keeps h_rgn h_rmem
      | apply State.updCore_keeps h_rgn
      | apply State.stageTile_keeps h_rgn h_rmem
      | apply State.beginTile_keeps h_rgn h_rmem
      | apply State.loadShadow_keeps h_rgn h_rmem
      | apply State.updVec_keeps h_rmem
      | apply State.updRegion_keeps h_rgn
      | apply State.finishFused_keeps h_hif h_link h_enc h_cse h_rgn h_rmem h_dis h_syn h_bpm h_tke h_dram h_out h_fresh
      | apply Keeps.ite
      | apply Keeps.foldl
      | split
      | dsimp only
      | intro _

theorem State.feed_keeps (h_hif : m .hif = true) (h_link : m .link = true) (h_enc : m .enc = true) (h_cse : m .cse = true) (h_rgn : m .rgn = true) (h_rmem : m .rmem = true) (h_dis : m .dis = true) (h_syn : m .syn = true) (h_bpm : m .bpm = true) (h_tke : m .tke = true) (h_dram : m .dram = true) (h_out : m .out = true) (h_fresh : m .fresh = true) (a0) (a1) (s) (k : Keeps m s₀ s) :
    Keeps m s₀ (State.feed a0 a1 s) := by
  unfold State.feed
  repeat' with_reducible first
    | exact k
    | assumption
    | intro _ _ _
    | intro _ _
    | apply State.feedCore_keeps h_hif h_link h_enc h_cse h_rgn h_rmem h_dis h_syn h_bpm h_tke h_dram h_out h_fresh
    | apply Keeps.ite
    | apply Keeps.foldl
    | split
    | dsimp only
    | intro _

theorem State.feedRegion_keeps (h_hif : m .hif = true) (h_link : m .link = true) (h_enc : m .enc = true) (h_cse : m .cse = true) (h_rgn : m .rgn = true) (h_rmem : m .rmem = true) (h_dis : m .dis = true) (h_syn : m .syn = true) (h_bpm : m .bpm = true) (h_tke : m .tke = true) (h_dram : m .dram = true) (h_out : m .out = true) (h_fresh : m .fresh = true) (a0) (s) (k : Keeps m s₀ s) :
    Keeps m s₀ (State.feedRegion a0 s) := by
  unfold State.feedRegion
  repeat' with_reducible first
    | exact k
    | assumption
    | intro _ _ _
    | intro _ _
    | apply State.feed_keeps h_hif h_link h_enc h_cse h_rgn h_rmem h_dis h_syn h_bpm h_tke h_dram h_out h_fresh
    | apply Keeps.ite
    | apply Keeps.foldl
    | split
    | dsimp only
    | intro _

theorem State.resumeRegion_keeps (h_hif : m .hif = true) (h_link : m .link = true) (h_enc : m .enc = true) (h_cse : m .cse = true) (h_rgn : m .rgn = true) (h_rmem : m .rmem = true) (h_dis : m .dis = true) (h_syn : m .syn = true) (h_bpm : m .bpm = true) (h_tke : m .tke = true) (h_dram : m .dram = true) (h_out : m .out = true) (h_fresh : m .fresh = true) (a0) (s) (k : Keeps m s₀ s) :
    Keeps m s₀ (State.resumeRegion a0 s) := by
  unfold State.resumeRegion
  repeat' with_reducible first
    | exact k
    | assumption
    | intro _ _ _
    | intro _ _
    | apply State.feedRegion_keeps h_hif h_link h_enc h_cse h_rgn h_rmem h_dis h_syn h_bpm h_tke h_dram h_out h_fresh
    | apply State.startLayers_keeps h_rgn h_rmem h_dis
    | apply State.startGau_keeps h_rgn
    | apply Keeps.ite
    | apply Keeps.foldl
    | split
    | dsimp only
    | intro _

theorem State.resumeMedia_keeps (h_dec : m .dec = true) (h_cse : m .cse = true) (h_dis : m .dis = true) (h_bpm : m .bpm = true) (h_out : m .out = true) (s) (k : Keeps m s₀ s) :
    Keeps m s₀ (State.resumeMedia s) := by
  unfold State.resumeMedia
  repeat' with_reducible first
    | exact k
    | assumption
    | intro _ _ _
    | intro _ _
    | apply State.startPix_keeps h_dec h_dis h_bpm h_out
    | apply State.startCseEng_keeps h_cse
    | apply Keeps.ite
    | apply Keeps.foldl
    | split
    | dsimp only
    | intro _

theorem State.resumeAll_keeps (h_hif : m .hif = true) (h_link : m .link = true) (h_dec : m .dec = true) (h_enc : m .enc = true) (h_cse : m .cse = true) (h_rgn : m .rgn = true) (h_rmem : m .rmem = true) (h_dis : m .dis = true) (h_syn : m .syn = true) (h_bpm : m .bpm = true) (h_tke : m .tke = true) (h_dram : m .dram = true) (h_out : m .out = true) (h_fresh : m .fresh = true) (s) (k : Keeps m s₀ s) :
    Keeps m s₀ (State.resumeAll s) := by
  unfold State.resumeAll
  repeat' with_reducible first
    | exact k
    | assumption
    | intro _ _ _
    | intro _ _
    | apply State.resumeMedia_keeps h_dec h_cse h_dis h_bpm h_out
    | apply State.resumeRegion_keeps h_hif h_link h_enc h_cse h_rgn h_rmem h_dis h_syn h_bpm h_tke h_dram h_out h_fresh
    | apply State.judgeAll_keeps h_rgn h_rmem h_dis
    | apply Keeps.ite
    | apply Keeps.foldl
    | split
    | dsimp only
    | intro _

theorem State.updClock_keeps (h_rgn : m .rgn = true) (h_rmem : m .rmem = true) (a0) (a1) (a2) (s) (k : Keeps m s₀ s) :
    Keeps m s₀ (State.updClock a0 a1 a2 s) := by
  unfold State.updClock
  repeat' with_reducible first
    | exact k
    | assumption
    | intro _ _ _
    | intro _ _
    | apply State.updCore_keeps h_rgn
    | apply State.updVec_keeps h_rmem
    | apply State.updGau_keeps h_rgn
    | apply Keeps.ite
    | apply Keeps.foldl
    | split
    | dsimp only
    | intro _

theorem State.abortPreempt_keeps (h_hif : m .hif = true) (h_link : m .link = true) (h_enc : m .enc = true) (h_cse : m .cse = true) (h_rgn : m .rgn = true) (h_rmem : m .rmem = true) (h_dis : m .dis = true) (h_syn : m .syn = true) (h_bpm : m .bpm = true) (h_tke : m .tke = true) (h_dram : m .dram = true) (h_out : m .out = true) (h_fresh : m .fresh = true) (a0) (a1) (s) (k : Keeps m s₀ s) :
    Keeps m s₀ (State.abortPreempt a0 a1 s) := by
  unfold State.abortPreempt
  repeat' with_reducible first
    | exact k
    | assumption
    | intro _ _ _
    | intro _ _
    | apply State.feed_keeps h_hif h_link h_enc h_cse h_rgn h_rmem h_dis h_syn h_bpm h_tke h_dram h_out h_fresh
    | apply State.judgeAll_keeps h_rgn h_rmem h_dis
    | apply State.updCore_keeps h_rgn
    | apply State.updVec_keeps h_rmem
    | apply State.startGau_keeps h_rgn
    | apply State.updGau_keeps h_rgn
    | apply Keeps.ite
    | apply Keeps.foldl
    | split
    | dsimp only
    | intro _

theorem State.abortUnit_keeps (h_ep : m .ep = true) (h_aon : m .aon = true) (h_wires : m .wires = true) (h_hif : m .hif = true) (h_wins : m .wins = true) (h_link : m .link = true) (h_dev : m .dev = true) (h_crt : m .crt = true) (h_cal : m .cal = true) (h_adm : m .adm = true) (h_dec : m .dec = true) (h_enc : m .enc = true) (h_cse : m .cse = true) (h_rgn : m .rgn = true) (h_rmem : m .rmem = true) (h_dis : m .dis = true) (h_syn : m .syn = true) (h_bpm : m .bpm = true) (h_tke : m .tke = true) (h_dmc : m .dmc = true) (h_dram : m .dram = true) (h_pwr : m .pwr = true) (h_clk : m .clk = true) (h_ras : m .ras = true) (h_trc : m .trc = true) (h_rst : m .rst = true) (h_dbg : m .dbg = true) (h_out : m .out = true) (h_fresh : m .fresh = true) (a0) (a1) (s) (k : Keeps m s₀ s) :
    Keeps m s₀ (State.abortUnit a0 a1 s) := by
  unfold State.abortUnit
  repeat' with_reducible first
    | exact k
    | assumption
    | intro _ _ _
    | intro _ _
    | apply State.updCore_keeps h_rgn
    | apply State.updVec_keeps h_rmem
    | apply State.updGau_keeps h_rgn
    | apply State.unitEvent_keeps h_ep h_aon h_wires h_hif h_wins h_link h_dev h_crt h_cal h_adm h_dec h_enc h_cse h_rgn h_rmem h_dis h_syn h_bpm h_tke h_dmc h_dram h_pwr h_clk h_ras h_trc h_rst h_dbg h_out h_fresh
    | apply Keeps.ite
    | apply Keeps.foldl
    | split
    | dsimp only
    | intro _

theorem State.abortCore_keeps (h_hif : m .hif = true) (h_link : m .link = true) (h_enc : m .enc = true) (h_cse : m .cse = true) (h_rgn : m .rgn = true) (h_rmem : m .rmem = true) (h_dis : m .dis = true) (h_syn : m .syn = true) (h_bpm : m .bpm = true) (h_tke : m .tke = true) (h_dram : m .dram = true) (h_out : m .out = true) (h_fresh : m .fresh = true) (a0) (a1) (s) (k : Keeps m s₀ s) :
    Keeps m s₀ (State.abortCore a0 a1 s) := by
  unfold State.abortCore
  repeat' with_reducible first
    | exact k
    | assumption
    | intro _ _ _
    | intro _ _
    | apply State.feed_keeps h_hif h_link h_enc h_cse h_rgn h_rmem h_dis h_syn h_bpm h_tke h_dram h_out h_fresh
    | apply State.updCore_keeps h_rgn
    | apply State.fenceAbort_keeps h_rgn h_rmem
    | apply State.judgeAll_keeps h_rgn h_rmem h_dis
    | apply State.dropCoreTile_keeps h_rgn
    | apply Keeps.ite
    | apply Keeps.foldl
    | split
    | dsimp only
    | intro _

theorem State.abortFence_keeps (h_hif : m .hif = true) (h_link : m .link = true) (h_enc : m .enc = true) (h_cse : m .cse = true) (h_rgn : m .rgn = true) (h_rmem : m .rmem = true) (h_dis : m .dis = true) (h_syn : m .syn = true) (h_bpm : m .bpm = true) (h_tke : m .tke = true) (h_dram : m .dram = true) (h_out : m .out = true) (h_fresh : m .fresh = true) (a0) (a1) (s) (k : Keeps m s₀ s) :
    Keeps m s₀ (State.abortFence a0 a1 s) := by
  unfold State.abortFence
  repeat' with_reducible first
    | exact k
    | assumption
    | intro _ _ _
    | intro _ _
    | apply State.abortCore_keeps h_hif h_link h_enc h_cse h_rgn h_rmem h_dis h_syn h_bpm h_tke h_dram h_out h_fresh
    | apply State.startGau_keeps h_rgn
    | apply State.updGau_keeps h_rgn
    | apply Keeps.ite
    | apply Keeps.foldl
    | split
    | dsimp only
    | intro _

theorem State.abortPass_keeps (h_ep : m .ep = true) (h_aon : m .aon = true) (h_wires : m .wires = true) (h_hif : m .hif = true) (h_wins : m .wins = true) (h_link : m .link = true) (h_dev : m .dev = true) (h_crt : m .crt = true) (h_cal : m .cal = true) (h_adm : m .adm = true) (h_dec : m .dec = true) (h_enc : m .enc = true) (h_cse : m .cse = true) (h_rgn : m .rgn = true) (h_rmem : m .rmem = true) (h_dis : m .dis = true) (h_syn : m .syn = true) (h_bpm : m .bpm = true) (h_tke : m .tke = true) (h_dmc : m .dmc = true) (h_dram : m .dram = true) (h_pwr : m .pwr = true) (h_clk : m .clk = true) (h_ras : m .ras = true) (h_trc : m .trc = true) (h_rst : m .rst = true) (h_dbg : m .dbg = true) (h_out : m .out = true) (h_fresh : m .fresh = true) (a0) (a1) (a2) (s) (k : Keeps m s₀ s) :
    Keeps m s₀ (State.abortPass a0 a1 a2 s) := by
  unfold State.abortPass
  repeat' with_reducible first
    | exact k
    | assumption
    | intro _ _ _
    | intro _ _
    | apply State.abortPreempt_keeps h_hif h_link h_enc h_cse h_rgn h_rmem h_dis h_syn h_bpm h_tke h_dram h_out h_fresh
    | apply State.abortUnit_keeps h_ep h_aon h_wires h_hif h_wins h_link h_dev h_crt h_cal h_adm h_dec h_enc h_cse h_rgn h_rmem h_dis h_syn h_bpm h_tke h_dmc h_dram h_pwr h_clk h_ras h_trc h_rst h_dbg h_out h_fresh
    | apply State.cxr_keeps h_hif h_link h_enc h_cse h_rgn h_rmem h_dis h_syn h_bpm h_tke h_dram h_ras h_rst h_out h_fresh
    | apply State.abortFence_keeps h_hif h_link h_enc h_cse h_rgn h_rmem h_dis h_syn h_bpm h_tke h_dram h_out h_fresh
    | apply Keeps.ite
    | apply Keeps.foldl
    | split
    | dsimp only
    | intro _

theorem State.startTile_keeps (h_hif : m .hif = true) (h_link : m .link = true) (h_enc : m .enc = true) (h_cse : m .cse = true) (h_rgn : m .rgn = true) (h_rmem : m .rmem = true) (h_dis : m .dis = true) (h_syn : m .syn = true) (h_bpm : m .bpm = true) (h_tke : m .tke = true) (h_dram : m .dram = true) (h_out : m .out = true) (h_fresh : m .fresh = true) (a0) (a1) (a2) (a3) (a4) (a5) (s) (k : Keeps m s₀ s) :
    Keeps m s₀ (State.startTile a0 a1 a2 a3 a4 a5 s) := by
  unfold State.startTile
  repeat' with_reducible first
    | exact k
    | assumption
    | intro _ _ _
    | intro _ _
    | apply State.beginTile_keeps h_rgn h_rmem
    | apply State.feed_keeps h_hif h_link h_enc h_cse h_rgn h_rmem h_dis h_syn h_bpm h_tke h_dram h_out h_fresh
    | apply State.updCore_keeps h_rgn
    | apply Keeps.ite
    | apply Keeps.foldl
    | split
    | dsimp only
    | intro _

theorem State.takeAbort_keeps (h_ep : m .ep = true) (h_aon : m .aon = true) (h_wires : m .wires = true) (h_hif : m .hif = true) (h_wins : m .wins = true) (h_link : m .link = true) (h_dev : m .dev = true) (h_crt : m .crt = true) (h_cal : m .cal = true) (h_adm : m .adm = true) (h_dec : m .dec = true) (h_enc : m .enc = true) (h_cse : m .cse = true) (h_rgn : m .rgn = true) (h_rmem : m .rmem = true) (h_dis : m .dis = true) (h_syn : m .syn = true) (h_bpm : m .bpm = true) (h_tke : m .tke = true) (h_dmc : m .dmc = true) (h_dram : m .dram = true) (h_pwr : m .pwr = true) (h_clk : m .clk = true) (h_ras : m .ras = true) (h_trc : m .trc = true) (h_rst : m .rst = true) (h_dbg : m .dbg = true) (h_out : m .out = true) (h_fresh : m .fresh = true) (a0) (a1) (a2) (s) (k : Keeps m s₀ s) :
    Keeps m s₀ (State.takeAbort a0 a1 a2 s) := by
  unfold State.takeAbort
  repeat' with_reducible first
    | exact k
    | assumption
    | intro _ _ _
    | intro _ _
    | apply State.updClock_keeps h_rgn h_rmem
    | apply State.abortPass_keeps h_ep h_aon h_wires h_hif h_wins h_link h_dev h_crt h_cal h_adm h_dec h_enc h_cse h_rgn h_rmem h_dis h_syn h_bpm h_tke h_dmc h_dram h_pwr h_clk h_ras h_trc h_rst h_dbg h_out h_fresh
    | apply State.countAsked_keeps h_aon h_dev h_ras h_dbg
    | apply Keeps.ite
    | apply Keeps.foldl
    | split
    | dsimp only
    | intro _

theorem State.takeCxrs_keeps (h_hif : m .hif = true) (h_link : m .link = true) (h_enc : m .enc = true) (h_cse : m .cse = true) (h_rgn : m .rgn = true) (h_rmem : m .rmem = true) (h_dis : m .dis = true) (h_syn : m .syn = true) (h_bpm : m .bpm = true) (h_tke : m .tke = true) (h_dram : m .dram = true) (h_ras : m .ras = true) (h_rst : m .rst = true) (h_out : m .out = true) (h_fresh : m .fresh = true) (a0) (s) (k : Keeps m s₀ s) :
    Keeps m s₀ (State.takeCxrs a0 s) := by
  unfold State.takeCxrs
  repeat' with_reducible first
    | exact k
    | assumption
    | intro _ _ _
    | intro _ _
    | apply State.cxrNow_keeps h_hif h_link h_enc h_cse h_rgn h_rmem h_dis h_syn h_bpm h_tke h_dram h_ras h_rst h_out h_fresh
    | apply State.updRegion_keeps h_rgn
    | apply Keeps.ite
    | apply Keeps.foldl
    | split
    | dsimp only
    | intro _

theorem State.takeAborts_keeps (h_ep : m .ep = true) (h_aon : m .aon = true) (h_wires : m .wires = true) (h_hif : m .hif = true) (h_wins : m .wins = true) (h_link : m .link = true) (h_dev : m .dev = true) (h_crt : m .crt = true) (h_cal : m .cal = true) (h_adm : m .adm = true) (h_dec : m .dec = true) (h_enc : m .enc = true) (h_cse : m .cse = true) (h_rgn : m .rgn = true) (h_rmem : m .rmem = true) (h_dis : m .dis = true) (h_syn : m .syn = true) (h_bpm : m .bpm = true) (h_tke : m .tke = true) (h_dmc : m .dmc = true) (h_dram : m .dram = true) (h_pwr : m .pwr = true) (h_clk : m .clk = true) (h_ras : m .ras = true) (h_trc : m .trc = true) (h_rst : m .rst = true) (h_dbg : m .dbg = true) (h_out : m .out = true) (h_fresh : m .fresh = true) (a0) (s) (k : Keeps m s₀ s) :
    Keeps m s₀ (State.takeAborts a0 s) := by
  unfold State.takeAborts
  repeat' with_reducible first
    | exact k
    | assumption
    | intro _ _ _
    | intro _ _
    | apply State.takeAbort_keeps h_ep h_aon h_wires h_hif h_wins h_link h_dev h_crt h_cal h_adm h_dec h_enc h_cse h_rgn h_rmem h_dis h_syn h_bpm h_tke h_dmc h_dram h_pwr h_clk h_ras h_trc h_rst h_dbg h_out h_fresh
    | apply State.takeCxrs_keeps h_hif h_link h_enc h_cse h_rgn h_rmem h_dis h_syn h_bpm h_tke h_dram h_ras h_rst h_out h_fresh
    | apply Keeps.ite
    | apply Keeps.foldl
    | split
    | dsimp only
    | intro _

theorem State.restartAclk_keeps (h_ep : m .ep = true) (h_aon : m .aon = true) (h_wires : m .wires = true) (h_hif : m .hif = true) (h_wins : m .wins = true) (h_link : m .link = true) (h_dev : m .dev = true) (h_crt : m .crt = true) (h_cal : m .cal = true) (h_adm : m .adm = true) (h_dec : m .dec = true) (h_enc : m .enc = true) (h_cse : m .cse = true) (h_rgn : m .rgn = true) (h_rmem : m .rmem = true) (h_dis : m .dis = true) (h_syn : m .syn = true) (h_bpm : m .bpm = true) (h_tke : m .tke = true) (h_dmc : m .dmc = true) (h_dram : m .dram = true) (h_pwr : m .pwr = true) (h_clk : m .clk = true) (h_ras : m .ras = true) (h_trc : m .trc = true) (h_rst : m .rst = true) (h_dbg : m .dbg = true) (h_out : m .out = true) (h_fresh : m .fresh = true) (a0) (s) (k : Keeps m s₀ s) :
    Keeps m s₀ (State.restartAclk a0 s) := by
  unfold State.restartAclk
  repeat' with_reducible first
    | exact k
    | assumption
    | intro _ _ _
    | intro _ _
    | apply State.resumeRegion_keeps h_hif h_link h_enc h_cse h_rgn h_rmem h_dis h_syn h_bpm h_tke h_dram h_out h_fresh
    | apply State.takeAborts_keeps h_ep h_aon h_wires h_hif h_wins h_link h_dev h_crt h_cal h_adm h_dec h_enc h_cse h_rgn h_rmem h_dis h_syn h_bpm h_tke h_dmc h_dram h_pwr h_clk h_ras h_trc h_rst h_dbg h_out h_fresh
    | apply Keeps.ite
    | apply Keeps.foldl
    | split
    | dsimp only
    | intro _

theorem State.restartAll_keeps (h_ep : m .ep = true) (h_aon : m .aon = true) (h_wires : m .wires = true) (h_hif : m .hif = true) (h_wins : m .wins = true) (h_link : m .link = true) (h_dev : m .dev = true) (h_crt : m .crt = true) (h_cal : m .cal = true) (h_adm : m .adm = true) (h_dec : m .dec = true) (h_enc : m .enc = true) (h_cse : m .cse = true) (h_rgn : m .rgn = true) (h_rmem : m .rmem = true) (h_dis : m .dis = true) (h_syn : m .syn = true) (h_bpm : m .bpm = true) (h_tke : m .tke = true) (h_dmc : m .dmc = true) (h_dram : m .dram = true) (h_pwr : m .pwr = true) (h_clk : m .clk = true) (h_ras : m .ras = true) (h_trc : m .trc = true) (h_rst : m .rst = true) (h_dbg : m .dbg = true) (h_out : m .out = true) (h_fresh : m .fresh = true) (s) (k : Keeps m s₀ s) :
    Keeps m s₀ (State.restartAll s) := by
  unfold State.restartAll
  repeat' with_reducible first
    | exact k
    | assumption
    | intro _ _ _
    | intro _ _
    | apply State.restartAclk_keeps h_ep h_aon h_wires h_hif h_wins h_link h_dev h_crt h_cal h_adm h_dec h_enc h_cse h_rgn h_rmem h_dis h_syn h_bpm h_tke h_dmc h_dram h_pwr h_clk h_ras h_trc h_rst h_dbg h_out h_fresh
    | apply State.judgeAll_keeps h_rgn h_rmem h_dis
    | apply Keeps.ite
    | apply Keeps.foldl
    | split
    | dsimp only
    | intro _

end Sys2Proof.Machine
end

