-- ==== Sys2Proof/Laws/KeepsHostOps.lean ====
section
/-! SUPPORT. What each operation of Machine/HostOps.lean keeps. -/

set_option Elab.async false
set_option linter.all false

namespace Sys2Proof.Machine

variable {m : Part → Bool} {s₀ : State}

theorem State.bar2Put_keeps (h_wins : m .wins = true) (h_dram : m .dram = true) (a0) (a1) (a2) (s) (k : Keeps m s₀ s) :
    Keeps m s₀ (State.bar2Put a0 a1 a2 s) := by
  unfold State.bar2Put
  repeat' with_reducible first
    | exact k
    | assumption
    | intro _ _ _
    | intro _ _
    | apply State.updWins_keeps h_wins
    | apply State.dramPut_keeps h_dram
    | apply Keeps.ite
    | apply Keeps.foldl
    | split
    | dsimp only
    | intro _

theorem State.takeRead_keeps (h_hif : m .hif = true) (h_link : m .link = true) (s) (k : Keeps m s₀ s) :
    Keeps m s₀ (State.takeRead s) := by
  unfold State.takeRead
  repeat' with_reducible first
    | exact k
    | assumption
    | intro _ _ _
    | intro _ _
    | apply State.updHif_keeps h_hif
    | apply State.updLink_keeps h_link
    | apply Keeps.ite
    | apply Keeps.foldl
    | split
    | dsimp only
    | intro _

theorem State.reportLtr_keeps (h_link : m .link = true) (h_out : m .out = true) (s) (k : Keeps m s₀ s) :
    Keeps m s₀ (State.reportLtr s) := by
  unfold State.reportLtr
  repeat' with_reducible first
    | exact k
    | assumption
    | intro _ _ _
    | intro _ _
    | apply State.send_keeps h_out
    | apply State.updLink_keeps h_link
    | apply Keeps.ite
    | apply Keeps.foldl
    | split
    | dsimp only
    | intro _

theorem State.command_keeps (h_hif : m .hif = true) (h_link : m .link = true) (h_out : m .out = true) (a0) (a1) (a2) (a3) (s) (h3 : ∀ t, Keeps m s₀ t → Keeps m s₀ (a3 t)) (k : Keeps m s₀ s) :
    Keeps m s₀ (State.command a0 a1 a2 a3 s) := by
  unfold State.command
  repeat' with_reducible first
    | exact k
    | assumption
    | intro _ _ _
    | intro _ _
    | apply h3
    | apply State.takeRead_keeps h_hif h_link
    | apply State.reply_keeps h_hif h_link h_out
    | apply State.reportLtr_keeps h_link h_out
    | apply Keeps.ite
    | apply Keeps.foldl
    | split
    | dsimp only
    | intro _

theorem State.startCommand_keeps (h_hif : m .hif = true) (a0) (a1) (a2) (s) (k : Keeps m s₀ s) :
    Keeps m s₀ (State.startCommand a0 a1 a2 s) := by
  unfold State.startCommand
  repeat' with_reducible first
    | exact k
    | assumption
    | intro _ _ _
    | intro _ _
    | apply State.updHif_keeps h_hif
    | apply Keeps.ite
    | apply Keeps.foldl
    | split
    | dsimp only
    | intro _

theorem State.readmitRun_keeps (h_dev : m .dev = true) (h_adm : m .adm = true) (h_dec : m .dec = true) (h_enc : m .enc = true) (h_rgn : m .rgn = true) (h_dis : m .dis = true) (h_pwr : m .pwr = true) (h_clk : m .clk = true) (s) (k : Keeps m s₀ s) :
    Keeps m s₀ (State.readmitRun s) := by
  unfold State.readmitRun
  repeat' with_reducible first
    | exact k
    | assumption
    | intro _ _ _
    | intro _ _
    | apply State.readmit_keeps h_dev h_adm h_dec h_enc h_rgn h_dis h_pwr h_clk _ (by assumption)
    | apply State.readmit_keeps h_dev h_adm h_dec h_enc h_rgn h_dis h_pwr h_clk _ rfl
    | apply Keeps.ite
    | apply Keeps.foldl
    | split
    | dsimp only
    | intro _

theorem State.dropReservations_keeps (h_dev : m .dev = true) (h_adm : m .adm = true) (h_dec : m .dec = true) (h_enc : m .enc = true) (h_rgn : m .rgn = true) (h_dis : m .dis = true) (h_pwr : m .pwr = true) (h_clk : m .clk = true) (s) (k : Keeps m s₀ s) :
    Keeps m s₀ (State.dropReservations s) := by
  unfold State.dropReservations
  repeat' with_reducible first
    | exact k
    | assumption
    | intro _ _ _
    | intro _ _
    | apply State.setSlack_keeps h_pwr
    | apply State.updDec_keeps h_dec
    | apply State.updAdm_keeps h_adm
    | apply State.readmitRun_keeps h_dev h_adm h_dec h_enc h_rgn h_dis h_pwr h_clk
    | apply State.readmit_keeps h_dev h_adm h_dec h_enc h_rgn h_dis h_pwr h_clk _ (by assumption)
    | apply State.readmit_keeps h_dev h_adm h_dec h_enc h_rgn h_dis h_pwr h_clk _ rfl
    | apply Keeps.ite
    | apply Keeps.foldl
    | split
    | dsimp only
    | intro _

theorem State.writeAll_keeps (h_crt : m .crt = true) (s) (k : Keeps m s₀ s) :
    Keeps m s₀ (State.writeAll s) := by
  unfold State.writeAll
  repeat' with_reducible first
    | exact k
    | assumption
    | intro _ _ _
    | intro _ _
    | apply State.storeRecord_keeps h_crt
    | apply State.reclaim_keeps h_crt
    | apply Keeps.ite
    | apply Keeps.foldl
    | split
    | dsimp only
    | intro _

theorem State.enterOff_keeps (h_aon : m .aon = true) (h_wires : m .wires = true) (h_hif : m .hif = true) (h_wins : m .wins = true) (h_link : m .link = true) (h_dev : m .dev = true) (h_crt : m .crt = true) (h_cal : m .cal = true) (h_adm : m .adm = true) (h_dec : m .dec = true) (h_enc : m .enc = true) (h_cse : m .cse = true) (h_rgn : m .rgn = true) (h_rmem : m .rmem = true) (h_dis : m .dis = true) (h_syn : m .syn = true) (h_bpm : m .bpm = true) (h_tke : m .tke = true) (h_dmc : m .dmc = true) (h_dram : m .dram = true) (h_pwr : m .pwr = true) (h_clk : m .clk = true) (h_ras : m .ras = true) (h_trc : m .trc = true) (h_rst : m .rst = true) (h_dbg : m .dbg = true) (h_fresh : m .fresh = true) (s) (k : Keeps m s₀ s) :
    Keeps m s₀ (State.enterOff s) := by
  unfold State.enterOff
  repeat' with_reducible first
    | exact k
    | assumption
    | intro _ _ _
    | intro _ _
    | apply State.writeAll_keeps h_crt
    | apply State.clearChip_keeps h_hif h_wins h_link h_dev h_crt h_cal h_adm h_dec h_enc h_cse h_rgn h_rmem h_dis h_syn h_bpm h_tke h_dmc h_dram h_pwr h_clk h_ras h_trc h_dbg h_fresh
    | apply State.updDev_keeps h_dev
    | apply State.updRst_keeps h_rst
    | apply State.updDbg_keeps h_dbg
    | apply State.updWires_keeps h_wires
    | apply State.updPwr_keeps h_pwr
    | apply State.updAon_keeps h_aon
    | apply Keeps.ite
    | apply Keeps.foldl
    | split
    | dsimp only
    | intro _

theorem State.tryOff_keeps (h_aon : m .aon = true) (h_wires : m .wires = true) (h_hif : m .hif = true) (h_wins : m .wins = true) (h_link : m .link = true) (h_dev : m .dev = true) (h_crt : m .crt = true) (h_cal : m .cal = true) (h_adm : m .adm = true) (h_dec : m .dec = true) (h_enc : m .enc = true) (h_cse : m .cse = true) (h_rgn : m .rgn = true) (h_rmem : m .rmem = true) (h_dis : m .dis = true) (h_syn : m .syn = true) (h_bpm : m .bpm = true) (h_tke : m .tke = true) (h_dmc : m .dmc = true) (h_dram : m .dram = true) (h_pwr : m .pwr = true) (h_clk : m .clk = true) (h_ras : m .ras = true) (h_trc : m .trc = true) (h_rst : m .rst = true) (h_dbg : m .dbg = true) (h_fresh : m .fresh = true) (s) (k : Keeps m s₀ s) :
    Keeps m s₀ (State.tryOff s) := by
  unfold State.tryOff
  repeat' with_reducible first
    | exact k
    | assumption
    | intro _ _ _
    | intro _ _
    | apply State.enterOff_keeps h_aon h_wires h_hif h_wins h_link h_dev h_crt h_cal h_adm h_dec h_enc h_cse h_rgn h_rmem h_dis h_syn h_bpm h_tke h_dmc h_dram h_pwr h_clk h_ras h_trc h_rst h_dbg h_fresh
    | apply Keeps.ite
    | apply Keeps.foldl
    | split
    | dsimp only
    | intro _

theorem State.park_keeps (h_hif : m .hif = true) (h_link : m .link = true) (h_dev : m .dev = true) (h_cal : m .cal = true) (h_enc : m .enc = true) (h_cse : m .cse = true) (h_dis : m .dis = true) (h_bpm : m .bpm = true) (h_tke : m .tke = true) (h_dmc : m .dmc = true) (h_out : m .out = true) (s) (k : Keeps m s₀ s) :
    Keeps m s₀ (State.park s) := by
  unfold State.park
  repeat' with_reducible first
    | exact k
    | assumption
    | intro _ _ _
    | intro _ _
    | apply State.endNow_keeps h_link h_enc h_cse h_dis h_bpm h_out
    | apply State.updHif_keeps h_hif
    | apply State.reply_keeps h_hif h_link h_out
    | apply State.updCal_keeps h_cal
    | apply State.updCse_keeps h_cse
    | apply State.updTke_keeps h_tke
    | apply State.updBpm_keeps h_bpm
    | apply State.updDis_keeps h_dis
    | apply State.updChan_keeps h_dmc
    | apply State.reportLtr_keeps h_link h_out
    | apply State.updDev_keeps h_dev
    | apply Keeps.ite
    | apply Keeps.foldl
    | split
    | dsimp only
    | intro _

theorem State.tryPark_keeps (h_hif : m .hif = true) (h_link : m .link = true) (h_dev : m .dev = true) (h_cal : m .cal = true) (h_enc : m .enc = true) (h_cse : m .cse = true) (h_dis : m .dis = true) (h_bpm : m .bpm = true) (h_tke : m .tke = true) (h_dmc : m .dmc = true) (h_out : m .out = true) (s) (k : Keeps m s₀ s) :
    Keeps m s₀ (State.tryPark s) := by
  unfold State.tryPark
  repeat' with_reducible first
    | exact k
    | assumption
    | intro _ _ _
    | intro _ _
    | apply State.park_keeps h_hif h_link h_dev h_cal h_enc h_cse h_dis h_bpm h_tke h_dmc h_out
    | apply Keeps.ite
    | apply Keeps.foldl
    | split
    | dsimp only
    | intro _

theorem State.rest_keeps (h_aon : m .aon = true) (h_wires : m .wires = true) (h_hif : m .hif = true) (h_wins : m .wins = true) (h_link : m .link = true) (h_dev : m .dev = true) (h_crt : m .crt = true) (h_cal : m .cal = true) (h_adm : m .adm = true) (h_dec : m .dec = true) (h_enc : m .enc = true) (h_cse : m .cse = true) (h_rgn : m .rgn = true) (h_rmem : m .rmem = true) (h_dis : m .dis = true) (h_syn : m .syn = true) (h_bpm : m .bpm = true) (h_tke : m .tke = true) (h_dmc : m .dmc = true) (h_dram : m .dram = true) (h_pwr : m .pwr = true) (h_clk : m .clk = true) (h_ras : m .ras = true) (h_trc : m .trc = true) (h_rst : m .rst = true) (h_dbg : m .dbg = true) (h_out : m .out = true) (h_fresh : m .fresh = true) (s) (k : Keeps m s₀ s) :
    Keeps m s₀ (State.rest s) := by
  unfold State.rest
  repeat' with_reducible first
    | exact k
    | assumption
    | intro _ _ _
    | intro _ _
    | apply State.tryOff_keeps h_aon h_wires h_hif h_wins h_link h_dev h_crt h_cal h_adm h_dec h_enc h_cse h_rgn h_rmem h_dis h_syn h_bpm h_tke h_dmc h_dram h_pwr h_clk h_ras h_trc h_rst h_dbg h_fresh
    | apply State.tryPark_keeps h_hif h_link h_dev h_cal h_enc h_cse h_dis h_bpm h_tke h_dmc h_out
    | apply Keeps.ite
    | apply Keeps.foldl
    | split
    | dsimp only
    | intro _

theorem State.openWith_keeps (h_hif : m .hif = true) (h_link : m .link = true) (h_dec : m .dec = true) (h_dis : m .dis = true) (h_bpm : m .bpm = true) (h_dram : m .dram = true) (h_pwr : m .pwr = true) (h_out : m .out = true) (h_fresh : m .fresh = true) (a0) (a1) (s) (k : Keeps m s₀ s) :
    Keeps m s₀ (State.openWith a0 a1 s) := by
  unfold State.openWith
  repeat' with_reducible first
    | exact k
    | assumption
    | intro _ _ _
    | intro _ _
    | apply State.openSlot_keeps h_dec h_dis h_bpm h_dram h_out h_fresh
    | apply State.reply_keeps h_hif h_link h_out
    | apply State.setSlack_keeps h_pwr
    | apply Keeps.ite
    | apply Keeps.foldl
    | split
    | dsimp only
    | intro _

theorem State.doOpen_keeps (h_hif : m .hif = true) (h_link : m .link = true) (h_adm : m .adm = true) (h_dec : m .dec = true) (h_enc : m .enc = true) (h_rgn : m .rgn = true) (h_dis : m .dis = true) (h_bpm : m .bpm = true) (h_dram : m .dram = true) (h_pwr : m .pwr = true) (h_clk : m .clk = true) (h_out : m .out = true) (h_fresh : m .fresh = true) (a0) (s) (k : Keeps m s₀ s) :
    Keeps m s₀ (State.doOpen a0 s) := by
  unfold State.doOpen
  repeat' with_reducible first
    | exact k
    | assumption
    | intro _ _ _
    | intro _ _
    | apply State.reply_keeps h_hif h_link h_out
    | apply State.openWith_keeps h_hif h_link h_dec h_dis h_bpm h_dram h_pwr h_out h_fresh
    | apply State.applyAdm_keeps h_adm h_dec h_enc h_rgn h_dis h_pwr h_clk
    | apply State.updSdec_keeps h_dec
    | apply Keeps.ite
    | apply Keeps.foldl
    | split
    | dsimp only
    | intro _

theorem State.drainSlot_keeps (h_hif : m .hif = true) (h_link : m .link = true) (h_dec : m .dec = true) (h_enc : m .enc = true) (h_cse : m .cse = true) (h_dis : m .dis = true) (h_bpm : m .bpm = true) (h_tke : m .tke = true) (h_dmc : m .dmc = true) (h_out : m .out = true) (a0) (s) (k : Keeps m s₀ s) :
    Keeps m s₀ (State.drainSlot a0 s) := by
  unfold State.drainSlot
  repeat' with_reducible first
    | exact k
    | assumption
    | intro _ _ _
    | intro _ _
    | apply State.updSlot_keeps h_dec
    | apply State.updSdec_keeps h_dec
    | apply State.discardEntries_keeps h_dec
    | apply State.finishClose_keeps h_hif h_link h_dec h_enc h_cse h_dis h_bpm h_tke h_dmc h_out
    | apply Keeps.ite
    | apply Keeps.foldl
    | split
    | dsimp only
    | intro _

theorem State.doClose_keeps (h_hif : m .hif = true) (h_link : m .link = true) (h_dec : m .dec = true) (h_enc : m .enc = true) (h_cse : m .cse = true) (h_dis : m .dis = true) (h_bpm : m .bpm = true) (h_tke : m .tke = true) (h_dmc : m .dmc = true) (h_out : m .out = true) (a0) (s) (k : Keeps m s₀ s) :
    Keeps m s₀ (State.doClose a0 s) := by
  unfold State.doClose
  repeat' with_reducible first
    | exact k
    | assumption
    | intro _ _ _
    | intro _ _
    | apply State.reply_keeps h_hif h_link h_out
    | apply State.drainSlot_keeps h_hif h_link h_dec h_enc h_cse h_dis h_bpm h_tke h_dmc h_out
    | apply State.startCommand_keeps h_hif
    | apply Keeps.ite
    | apply Keeps.foldl
    | split
    | dsimp only
    | intro _

theorem State.serveStreams_keeps (h_hif : m .hif = true) (h_link : m .link = true) (h_dev : m .dev = true) (h_adm : m .adm = true) (h_dec : m .dec = true) (h_enc : m .enc = true) (h_cse : m .cse = true) (h_rgn : m .rgn = true) (h_dis : m .dis = true) (h_bpm : m .bpm = true) (h_tke : m .tke = true) (h_dmc : m .dmc = true) (h_dram : m .dram = true) (h_pwr : m .pwr = true) (h_clk : m .clk = true) (h_out : m .out = true) (h_fresh : m .fresh = true) (a0) (s) (k : Keeps m s₀ s) :
    Keeps m s₀ (State.serveStreams a0 s) := by
  induction a0 generalizing s with
  | zero =>
    simp only [State.serveStreams]
    repeat' with_reducible first
      | exact k
      | assumption
      | intro _ _ _
      | intro _ _
      | apply State.updHif_keeps h_hif
      | apply State.doOpen_keeps h_hif h_link h_adm h_dec h_enc h_rgn h_dis h_bpm h_dram h_pwr h_clk h_out h_fresh
      | apply State.doClose_keeps h_hif h_link h_dec h_enc h_cse h_dis h_bpm h_tke h_dmc h_out
      | apply State.dropReservations_keeps h_dev h_adm h_dec h_enc h_rgn h_dis h_pwr h_clk
      | apply Keeps.ite
      | apply Keeps.foldl
      | split
      | dsimp only
      | intro _
  | succ n ih =>
    simp only [State.serveStreams]
    repeat' with_reducible first
      | exact k
      | assumption
      | intro _ _ _
      | intro _ _
      | apply ih
      | apply State.updHif_keeps h_hif
      | apply State.doOpen_keeps h_hif h_link h_adm h_dec h_enc h_rgn h_dis h_bpm h_dram h_pwr h_clk h_out h_fresh
      | apply State.doClose_keeps h_hif h_link h_dec h_enc h_cse h_dis h_bpm h_tke h_dmc h_out
      | apply State.dropReservations_keeps h_dev h_adm h_dec h_enc h_rgn h_dis h_pwr h_clk
      | apply Keeps.ite
      | apply Keeps.foldl
      | split
      | dsimp only
      | intro _

theorem State.afterClose_keeps (h_aon : m .aon = true) (h_wires : m .wires = true) (h_hif : m .hif = true) (h_wins : m .wins = true) (h_link : m .link = true) (h_dev : m .dev = true) (h_crt : m .crt = true) (h_cal : m .cal = true) (h_adm : m .adm = true) (h_dec : m .dec = true) (h_enc : m .enc = true) (h_cse : m .cse = true) (h_rgn : m .rgn = true) (h_rmem : m .rmem = true) (h_dis : m .dis = true) (h_syn : m .syn = true) (h_bpm : m .bpm = true) (h_tke : m .tke = true) (h_dmc : m .dmc = true) (h_dram : m .dram = true) (h_pwr : m .pwr = true) (h_clk : m .clk = true) (h_ras : m .ras = true) (h_trc : m .trc = true) (h_rst : m .rst = true) (h_dbg : m .dbg = true) (h_out : m .out = true) (h_fresh : m .fresh = true) (s) (k : Keeps m s₀ s) :
    Keeps m s₀ (State.afterClose s) := by
  unfold State.afterClose
  repeat' with_reducible first
    | exact k
    | assumption
    | intro _ _ _
    | intro _ _
    | apply State.dropReservations_keeps h_dev h_adm h_dec h_enc h_rgn h_dis h_pwr h_clk
    | apply State.rest_keeps h_aon h_wires h_hif h_wins h_link h_dev h_crt h_cal h_adm h_dec h_enc h_cse h_rgn h_rmem h_dis h_syn h_bpm h_tke h_dmc h_dram h_pwr h_clk h_ras h_trc h_rst h_dbg h_out h_fresh
    | apply State.reportLtr_keeps h_link h_out
    | apply State.serveStreams_keeps h_hif h_link h_dev h_adm h_dec h_enc h_cse h_rgn h_dis h_bpm h_tke h_dmc h_dram h_pwr h_clk h_out h_fresh
    | apply Keeps.ite
    | apply Keeps.foldl
    | split
    | dsimp only
    | intro _

theorem State.streamCommand_keeps (h_aon : m .aon = true) (h_wires : m .wires = true) (h_hif : m .hif = true) (h_wins : m .wins = true) (h_link : m .link = true) (h_dev : m .dev = true) (h_crt : m .crt = true) (h_cal : m .cal = true) (h_adm : m .adm = true) (h_dec : m .dec = true) (h_enc : m .enc = true) (h_cse : m .cse = true) (h_rgn : m .rgn = true) (h_rmem : m .rmem = true) (h_dis : m .dis = true) (h_syn : m .syn = true) (h_bpm : m .bpm = true) (h_tke : m .tke = true) (h_dmc : m .dmc = true) (h_dram : m .dram = true) (h_pwr : m .pwr = true) (h_clk : m .clk = true) (h_ras : m .ras = true) (h_trc : m .trc = true) (h_rst : m .rst = true) (h_dbg : m .dbg = true) (h_out : m .out = true) (h_fresh : m .fresh = true) (a0) (a1) (s) (k : Keeps m s₀ s) :
    Keeps m s₀ (State.streamCommand a0 a1 s) := by
  unfold State.streamCommand
  repeat' with_reducible first
    | exact k
    | assumption
    | intro _ _ _
    | intro _ _
    | apply State.updHif_keeps h_hif
    | apply State.startCommand_keeps h_hif
    | apply State.afterClose_keeps h_aon h_wires h_hif h_wins h_link h_dev h_crt h_cal h_adm h_dec h_enc h_cse h_rgn h_rmem h_dis h_syn h_bpm h_tke h_dmc h_dram h_pwr h_clk h_ras h_trc h_rst h_dbg h_out h_fresh
    | apply Keeps.ite
    | apply Keeps.foldl
    | split
    | dsimp only
    | intro _

theorem State.countPoison_keeps (h_link : m .link = true) (a0) (s) (k : Keeps m s₀ s) :
    Keeps m s₀ (State.countPoison a0 s) := by
  unfold State.countPoison
  repeat' with_reducible first
    | exact k
    | assumption
    | intro _ _ _
    | intro _ _
    | apply State.updLink_keeps h_link
    | apply Keeps.ite
    | apply Keeps.foldl
    | split
    | dsimp only
    | intro _

theorem State.bar2Take_keeps (h_wins : m .wins = true) (h_link : m .link = true) (h_dev : m .dev = true) (h_dram : m .dram = true) (a0) (a1) (a2) (s) (k : Keeps m s₀ s) :
    Keeps m s₀ (State.bar2Take a0 a1 a2 s) := by
  unfold State.bar2Take
  repeat' with_reducible first
    | exact k
    | assumption
    | intro _ _ _
    | intro _ _
    | apply State.bar2Put_keeps h_wins h_dram
    | apply State.freeze_keeps h_dev
    | apply State.countPoison_keeps h_link
    | apply Keeps.ite
    | apply Keeps.foldl
    | split
    | dsimp only
    | intro _

theorem State.bar2Get_keeps (h_dmc : m .dmc = true) (h_out : m .out = true) (a0) (a1) (s) (k : Keeps m s₀ s) :
    Keeps m s₀ (State.bar2Get a0 a1 s) := by
  unfold State.bar2Get
  repeat' with_reducible first
    | exact k
    | assumption
    | intro _ _ _
    | intro _ _
    | apply State.send_keeps h_out
    | apply State.answer_keeps h_out
    | apply State.notePoison_keeps h_dmc
    | apply Keeps.ite
    | apply Keeps.foldl
    | split
    | dsimp only
    | intro _

theorem State.runTlp_keeps (h_wins : m .wins = true) (h_link : m .link = true) (h_dev : m .dev = true) (h_dmc : m .dmc = true) (h_dram : m .dram = true) (h_out : m .out = true) (a0) (s) (k : Keeps m s₀ s) :
    Keeps m s₀ (State.runTlp a0 s) := by
  unfold State.runTlp
  repeat' with_reducible first
    | exact k
    | assumption
    | intro _ _ _
    | intro _ _
    | apply State.bar2Take_keeps h_wins h_link h_dev h_dram
    | apply State.bar2Get_keeps h_dmc h_out
    | apply Keeps.ite
    | apply Keeps.foldl
    | split
    | dsimp only
    | intro _

theorem State.commitDone_keeps (h_wins : m .wins = true) (h_link : m .link = true) (h_dev : m .dev = true) (h_dmc : m .dmc = true) (h_dram : m .dram = true) (h_out : m .out = true) (s) (k : Keeps m s₀ s) :
    Keeps m s₀ (State.commitDone s) := by
  unfold State.commitDone
  repeat' with_reducible first
    | exact k
    | assumption
    | intro _ _ _
    | intro _ _
    | apply State.updWins_keeps h_wins
    | apply State.runTlp_keeps h_wins h_link h_dev h_dmc h_dram h_out
    | apply Keeps.ite
    | apply Keeps.foldl
    | split
    | dsimp only
    | intro _

theorem State.leaveNap_keeps (h_hif : m .hif = true) (h_link : m .link = true) (h_dec : m .dec = true) (h_enc : m .enc = true) (h_cse : m .cse = true) (h_rgn : m .rgn = true) (h_rmem : m .rmem = true) (h_dis : m .dis = true) (h_syn : m .syn = true) (h_bpm : m .bpm = true) (h_tke : m .tke = true) (h_dram : m .dram = true) (h_pwr : m .pwr = true) (h_out : m .out = true) (h_fresh : m .fresh = true) (s) (k : Keeps m s₀ s) :
    Keeps m s₀ (State.leaveNap s) := by
  unfold State.leaveNap
  repeat' with_reducible first
    | exact k
    | assumption
    | intro _ _ _
    | intro _ _
    | apply State.resumeAll_keeps h_hif h_link h_dec h_enc h_cse h_rgn h_rmem h_dis h_syn h_bpm h_tke h_dram h_out h_fresh
    | apply State.updPwr_keeps h_pwr
    | apply Keeps.ite
    | apply Keeps.foldl
    | split
    | dsimp only
    | intro _

theorem State.swapBack_keeps (h_rgn : m .rgn = true) (h_rmem : m .rmem = true) (h_dis : m .dis = true) (a0) (s) (k : Keeps m s₀ s) :
    Keeps m s₀ (State.swapBack a0 s) := by
  unfold State.swapBack
  repeat' with_reducible first
    | exact k
    | assumption
    | intro _ _ _
    | intro _ _
    | apply State.updDis_keeps h_dis
    | apply State.loadCore_keeps h_rgn h_rmem
    | apply Keeps.ite
    | apply Keeps.foldl
    | split
    | dsimp only
    | intro _

theorem State.leaveSlumber_keeps (h_hif : m .hif = true) (h_link : m .link = true) (h_dec : m .dec = true) (h_enc : m .enc = true) (h_cse : m .cse = true) (h_rgn : m .rgn = true) (h_rmem : m .rmem = true) (h_dis : m .dis = true) (h_syn : m .syn = true) (h_bpm : m .bpm = true) (h_tke : m .tke = true) (h_dmc : m .dmc = true) (h_dram : m .dram = true) (h_pwr : m .pwr = true) (h_clk : m .clk = true) (h_ras : m .ras = true) (h_out : m .out = true) (h_fresh : m .fresh = true) (s) (k : Keeps m s₀ s) :
    Keeps m s₀ (State.leaveSlumber s) := by
  unfold State.leaveSlumber
  repeat' with_reducible first
    | exact k
    | assumption
    | intro _ _ _
    | intro _ _
    | apply State.updClk_keeps h_clk
    | apply State.updChan_keeps h_dmc
    | apply State.serveRegion_keeps h_rgn h_ras
    | apply State.swapBack_keeps h_rgn h_rmem h_dis
    | apply State.updDis_keeps h_dis
    | apply State.reportLtr_keeps h_link h_out
    | apply State.resumeAll_keeps h_hif h_link h_dec h_enc h_cse h_rgn h_rmem h_dis h_syn h_bpm h_tke h_dram h_out h_fresh
    | apply State.updPwr_keeps h_pwr
    | apply Keeps.ite
    | apply Keeps.foldl
    | split
    | dsimp only
    | intro _

theorem State.awake_keeps (h_hif : m .hif = true) (h_link : m .link = true) (h_dec : m .dec = true) (h_enc : m .enc = true) (h_cse : m .cse = true) (h_rgn : m .rgn = true) (h_rmem : m .rmem = true) (h_dis : m .dis = true) (h_syn : m .syn = true) (h_bpm : m .bpm = true) (h_tke : m .tke = true) (h_dmc : m .dmc = true) (h_dram : m .dram = true) (h_pwr : m .pwr = true) (h_clk : m .clk = true) (h_ras : m .ras = true) (h_out : m .out = true) (h_fresh : m .fresh = true) (s) (k : Keeps m s₀ s) :
    Keeps m s₀ (State.awake s) := by
  unfold State.awake
  repeat' with_reducible first
    | exact k
    | assumption
    | intro _ _ _
    | intro _ _
    | apply State.leaveNap_keeps h_hif h_link h_dec h_enc h_cse h_rgn h_rmem h_dis h_syn h_bpm h_tke h_dram h_pwr h_out h_fresh
    | apply State.leaveSlumber_keeps h_hif h_link h_dec h_enc h_cse h_rgn h_rmem h_dis h_syn h_bpm h_tke h_dmc h_dram h_pwr h_clk h_ras h_out h_fresh
    | apply Keeps.ite
    | apply Keeps.foldl
    | split
    | dsimp only
    | intro _

theorem State.taken_keeps (h_hif : m .hif = true) (h_wins : m .wins = true) (h_link : m .link = true) (h_dev : m .dev = true) (h_dec : m .dec = true) (h_enc : m .enc = true) (h_cse : m .cse = true) (h_rgn : m .rgn = true) (h_rmem : m .rmem = true) (h_dis : m .dis = true) (h_syn : m .syn = true) (h_bpm : m .bpm = true) (h_tke : m .tke = true) (h_dmc : m .dmc = true) (h_dram : m .dram = true) (h_pwr : m .pwr = true) (h_clk : m .clk = true) (h_ras : m .ras = true) (h_out : m .out = true) (h_fresh : m .fresh = true) (s) (k : Keeps m s₀ s) :
    Keeps m s₀ (State.taken s) := by
  unfold State.taken
  repeat' with_reducible first
    | exact k
    | assumption
    | intro _ _ _
    | intro _ _
    | apply State.commitDone_keeps h_wins h_link h_dev h_dmc h_dram h_out
    | apply State.awake_keeps h_hif h_link h_dec h_enc h_cse h_rgn h_rmem h_dis h_syn h_bpm h_tke h_dmc h_dram h_pwr h_clk h_ras h_out h_fresh
    | apply Keeps.ite
    | apply Keeps.foldl
    | split
    | dsimp only
    | intro _

theorem State.onMmio_keeps (h_hif : m .hif = true) (h_wins : m .wins = true) (h_link : m .link = true) (h_dev : m .dev = true) (h_dec : m .dec = true) (h_enc : m .enc = true) (h_cse : m .cse = true) (h_rgn : m .rgn = true) (h_rmem : m .rmem = true) (h_dis : m .dis = true) (h_syn : m .syn = true) (h_bpm : m .bpm = true) (h_tke : m .tke = true) (h_dmc : m .dmc = true) (h_dram : m .dram = true) (h_pwr : m .pwr = true) (h_clk : m .clk = true) (h_ras : m .ras = true) (h_out : m .out = true) (h_fresh : m .fresh = true) (a0) (s) (h0 : ∀ t, Keeps m s₀ t → Keeps m s₀ (a0 t)) (k : Keeps m s₀ s) :
    Keeps m s₀ (State.onMmio a0 s) := by
  unfold State.onMmio
  repeat' with_reducible first
    | exact k
    | assumption
    | intro _ _ _
    | intro _ _
    | apply h0
    | apply State.taken_keeps h_hif h_wins h_link h_dev h_dec h_enc h_cse h_rgn h_rmem h_dis h_syn h_bpm h_tke h_dmc h_dram h_pwr h_clk h_ras h_out h_fresh
    | apply Keeps.ite
    | apply Keeps.foldl
    | split
    | dsimp only
    | intro _

theorem State.issueRead_keeps (h_link : m .link = true) (h_out : m .out = true) (a0) (a1) (a2) (a3) (s) (k : Keeps m s₀ s) :
    Keeps m s₀ (State.issueRead a0 a1 a2 a3 s) := by
  unfold State.issueRead
  repeat' with_reducible first
    | exact k
    | assumption
    | intro _ _ _
    | intro _ _
    | apply State.send_keeps h_out
    | apply State.updLink_keeps h_link
    | apply Keeps.ite
    | apply Keeps.foldl
    | split
    | dsimp only
    | intro _

theorem State.noteDump_keeps (h_dmc : m .dmc = true) (a0) (a1) (a2) (s) (k : Keeps m s₀ s) :
    Keeps m s₀ (State.noteDump a0 a1 a2 s) := by
  unfold State.noteDump
  repeat' with_reducible first
    | exact k
    | assumption
    | intro _ _ _
    | intro _ _
    | apply State.notePoison_keeps h_dmc
    | apply Keeps.ite
    | apply Keeps.foldl
    | split
    | dsimp only
    | intro _

theorem State.onMmioNow_keeps (h_hif : m .hif = true) (h_link : m .link = true) (h_dec : m .dec = true) (h_enc : m .enc = true) (h_cse : m .cse = true) (h_rgn : m .rgn = true) (h_rmem : m .rmem = true) (h_dis : m .dis = true) (h_syn : m .syn = true) (h_bpm : m .bpm = true) (h_tke : m .tke = true) (h_dmc : m .dmc = true) (h_dram : m .dram = true) (h_pwr : m .pwr = true) (h_clk : m .clk = true) (h_ras : m .ras = true) (h_out : m .out = true) (h_fresh : m .fresh = true) (a0) (s) (h0 : ∀ t, Keeps m s₀ t → Keeps m s₀ (a0 t)) (k : Keeps m s₀ s) :
    Keeps m s₀ (State.onMmioNow a0 s) := by
  unfold State.onMmioNow
  repeat' with_reducible first
    | exact k
    | assumption
    | intro _ _ _
    | intro _ _
    | apply h0
    | apply State.awake_keeps h_hif h_link h_dec h_enc h_cse h_rgn h_rmem h_dis h_syn h_bpm h_tke h_dmc h_dram h_pwr h_clk h_ras h_out h_fresh
    | apply Keeps.ite
    | apply Keeps.foldl
    | split
    | dsimp only
    | intro _

end Sys2Proof.Machine
end

