-- ==== Sys2Proof/Laws/State.lean ====
section
/-! SUPPORT. What each update leaves and what it sets: one lemma per part per update, true by unfolding. -/

set_option Elab.async false

namespace Sys2Proof.Machine

@[simp] theorem State.updPending_pending (g s) : (State.updPending g s).pending = g s.pending := rfl
@[simp] theorem State.updPending_ep (g s) : (State.updPending g s).ep = s.ep := rfl
@[simp] theorem State.updPending_aon (g s) : (State.updPending g s).aon = s.aon := rfl
@[simp] theorem State.updPending_wires (g s) : (State.updPending g s).wires = s.wires := rfl
@[simp] theorem State.updPending_jtag (g s) : (State.updPending g s).jtag = s.jtag := rfl
@[simp] theorem State.updPending_fuses (g s) : (State.updPending g s).fuses = s.fuses := rfl
@[simp] theorem State.updPending_hif (g s) : (State.updPending g s).hif = s.hif := rfl
@[simp] theorem State.updPending_wins (g s) : (State.updPending g s).wins = s.wins := rfl
@[simp] theorem State.updPending_link (g s) : (State.updPending g s).link = s.link := rfl
@[simp] theorem State.updPending_dev (g s) : (State.updPending g s).dev = s.dev := rfl
@[simp] theorem State.updPending_crt (g s) : (State.updPending g s).crt = s.crt := rfl
@[simp] theorem State.updPending_cal (g s) : (State.updPending g s).cal = s.cal := rfl
@[simp] theorem State.updPending_adm (g s) : (State.updPending g s).adm = s.adm := rfl
@[simp] theorem State.updPending_dec (g s) : (State.updPending g s).dec = s.dec := rfl
@[simp] theorem State.updPending_enc (g s) : (State.updPending g s).enc = s.enc := rfl
@[simp] theorem State.updPending_cse (g s) : (State.updPending g s).cse = s.cse := rfl
@[simp] theorem State.updPending_rgn (g s) : (State.updPending g s).rgn = s.rgn := rfl
@[simp] theorem State.updPending_rmem (g s) : (State.updPending g s).rmem = s.rmem := rfl
@[simp] theorem State.updPending_dis (g s) : (State.updPending g s).dis = s.dis := rfl
@[simp] theorem State.updPending_syn (g s) : (State.updPending g s).syn = s.syn := rfl
@[simp] theorem State.updPending_bpm (g s) : (State.updPending g s).bpm = s.bpm := rfl
@[simp] theorem State.updPending_tke (g s) : (State.updPending g s).tke = s.tke := rfl
@[simp] theorem State.updPending_dmc (g s) : (State.updPending g s).dmc = s.dmc := rfl
@[simp] theorem State.updPending_dram (g s) : (State.updPending g s).dram = s.dram := rfl
@[simp] theorem State.updPending_pwr (g s) : (State.updPending g s).pwr = s.pwr := rfl
@[simp] theorem State.updPending_clk (g s) : (State.updPending g s).clk = s.clk := rfl
@[simp] theorem State.updPending_ras (g s) : (State.updPending g s).ras = s.ras := rfl
@[simp] theorem State.updPending_trc (g s) : (State.updPending g s).trc = s.trc := rfl
@[simp] theorem State.updPending_rst (g s) : (State.updPending g s).rst = s.rst := rfl
@[simp] theorem State.updPending_dbg (g s) : (State.updPending g s).dbg = s.dbg := rfl
@[simp] theorem State.updPending_out (g s) : (State.updPending g s).out = s.out := rfl
@[simp] theorem State.updPending_fresh (g s) : (State.updPending g s).fresh = s.fresh := rfl
@[simp] theorem State.updEp_pending (g s) : (State.updEp g s).pending = s.pending := rfl
@[simp] theorem State.updEp_ep (g s) : (State.updEp g s).ep = g s.ep := rfl
@[simp] theorem State.updEp_aon (g s) : (State.updEp g s).aon = s.aon := rfl
@[simp] theorem State.updEp_wires (g s) : (State.updEp g s).wires = s.wires := rfl
@[simp] theorem State.updEp_jtag (g s) : (State.updEp g s).jtag = s.jtag := rfl
@[simp] theorem State.updEp_fuses (g s) : (State.updEp g s).fuses = s.fuses := rfl
@[simp] theorem State.updEp_hif (g s) : (State.updEp g s).hif = s.hif := rfl
@[simp] theorem State.updEp_wins (g s) : (State.updEp g s).wins = s.wins := rfl
@[simp] theorem State.updEp_link (g s) : (State.updEp g s).link = s.link := rfl
@[simp] theorem State.updEp_dev (g s) : (State.updEp g s).dev = s.dev := rfl
@[simp] theorem State.updEp_crt (g s) : (State.updEp g s).crt = s.crt := rfl
@[simp] theorem State.updEp_cal (g s) : (State.updEp g s).cal = s.cal := rfl
@[simp] theorem State.updEp_adm (g s) : (State.updEp g s).adm = s.adm := rfl
@[simp] theorem State.updEp_dec (g s) : (State.updEp g s).dec = s.dec := rfl
@[simp] theorem State.updEp_enc (g s) : (State.updEp g s).enc = s.enc := rfl
@[simp] theorem State.updEp_cse (g s) : (State.updEp g s).cse = s.cse := rfl
@[simp] theorem State.updEp_rgn (g s) : (State.updEp g s).rgn = s.rgn := rfl
@[simp] theorem State.updEp_rmem (g s) : (State.updEp g s).rmem = s.rmem := rfl
@[simp] theorem State.updEp_dis (g s) : (State.updEp g s).dis = s.dis := rfl
@[simp] theorem State.updEp_syn (g s) : (State.updEp g s).syn = s.syn := rfl
@[simp] theorem State.updEp_bpm (g s) : (State.updEp g s).bpm = s.bpm := rfl
@[simp] theorem State.updEp_tke (g s) : (State.updEp g s).tke = s.tke := rfl
@[simp] theorem State.updEp_dmc (g s) : (State.updEp g s).dmc = s.dmc := rfl
@[simp] theorem State.updEp_dram (g s) : (State.updEp g s).dram = s.dram := rfl
@[simp] theorem State.updEp_pwr (g s) : (State.updEp g s).pwr = s.pwr := rfl
@[simp] theorem State.updEp_clk (g s) : (State.updEp g s).clk = s.clk := rfl
@[simp] theorem State.updEp_ras (g s) : (State.updEp g s).ras = s.ras := rfl
@[simp] theorem State.updEp_trc (g s) : (State.updEp g s).trc = s.trc := rfl
@[simp] theorem State.updEp_rst (g s) : (State.updEp g s).rst = s.rst := rfl
@[simp] theorem State.updEp_dbg (g s) : (State.updEp g s).dbg = s.dbg := rfl
@[simp] theorem State.updEp_out (g s) : (State.updEp g s).out = s.out := rfl
@[simp] theorem State.updEp_fresh (g s) : (State.updEp g s).fresh = s.fresh := rfl
@[simp] theorem State.updAon_pending (g s) : (State.updAon g s).pending = s.pending := rfl
@[simp] theorem State.updAon_ep (g s) : (State.updAon g s).ep = s.ep := rfl
@[simp] theorem State.updAon_aon (g s) : (State.updAon g s).aon = g s.aon := rfl
@[simp] theorem State.updAon_wires (g s) : (State.updAon g s).wires = s.wires := rfl
@[simp] theorem State.updAon_jtag (g s) : (State.updAon g s).jtag = s.jtag := rfl
@[simp] theorem State.updAon_fuses (g s) : (State.updAon g s).fuses = s.fuses := rfl
@[simp] theorem State.updAon_hif (g s) : (State.updAon g s).hif = s.hif := rfl
@[simp] theorem State.updAon_wins (g s) : (State.updAon g s).wins = s.wins := rfl
@[simp] theorem State.updAon_link (g s) : (State.updAon g s).link = s.link := rfl
@[simp] theorem State.updAon_dev (g s) : (State.updAon g s).dev = s.dev := rfl
@[simp] theorem State.updAon_crt (g s) : (State.updAon g s).crt = s.crt := rfl
@[simp] theorem State.updAon_cal (g s) : (State.updAon g s).cal = s.cal := rfl
@[simp] theorem State.updAon_adm (g s) : (State.updAon g s).adm = s.adm := rfl
@[simp] theorem State.updAon_dec (g s) : (State.updAon g s).dec = s.dec := rfl
@[simp] theorem State.updAon_enc (g s) : (State.updAon g s).enc = s.enc := rfl
@[simp] theorem State.updAon_cse (g s) : (State.updAon g s).cse = s.cse := rfl
@[simp] theorem State.updAon_rgn (g s) : (State.updAon g s).rgn = s.rgn := rfl
@[simp] theorem State.updAon_rmem (g s) : (State.updAon g s).rmem = s.rmem := rfl
@[simp] theorem State.updAon_dis (g s) : (State.updAon g s).dis = s.dis := rfl
@[simp] theorem State.updAon_syn (g s) : (State.updAon g s).syn = s.syn := rfl
@[simp] theorem State.updAon_bpm (g s) : (State.updAon g s).bpm = s.bpm := rfl
@[simp] theorem State.updAon_tke (g s) : (State.updAon g s).tke = s.tke := rfl
@[simp] theorem State.updAon_dmc (g s) : (State.updAon g s).dmc = s.dmc := rfl
@[simp] theorem State.updAon_dram (g s) : (State.updAon g s).dram = s.dram := rfl
@[simp] theorem State.updAon_pwr (g s) : (State.updAon g s).pwr = s.pwr := rfl
@[simp] theorem State.updAon_clk (g s) : (State.updAon g s).clk = s.clk := rfl
@[simp] theorem State.updAon_ras (g s) : (State.updAon g s).ras = s.ras := rfl
@[simp] theorem State.updAon_trc (g s) : (State.updAon g s).trc = s.trc := rfl
@[simp] theorem State.updAon_rst (g s) : (State.updAon g s).rst = s.rst := rfl
@[simp] theorem State.updAon_dbg (g s) : (State.updAon g s).dbg = s.dbg := rfl
@[simp] theorem State.updAon_out (g s) : (State.updAon g s).out = s.out := rfl
@[simp] theorem State.updAon_fresh (g s) : (State.updAon g s).fresh = s.fresh := rfl
@[simp] theorem State.updWires_pending (g s) : (State.updWires g s).pending = s.pending := rfl
@[simp] theorem State.updWires_ep (g s) : (State.updWires g s).ep = s.ep := rfl
@[simp] theorem State.updWires_aon (g s) : (State.updWires g s).aon = s.aon := rfl
@[simp] theorem State.updWires_wires (g s) : (State.updWires g s).wires = g s.wires := rfl
@[simp] theorem State.updWires_jtag (g s) : (State.updWires g s).jtag = s.jtag := rfl
@[simp] theorem State.updWires_fuses (g s) : (State.updWires g s).fuses = s.fuses := rfl
@[simp] theorem State.updWires_hif (g s) : (State.updWires g s).hif = s.hif := rfl
@[simp] theorem State.updWires_wins (g s) : (State.updWires g s).wins = s.wins := rfl
@[simp] theorem State.updWires_link (g s) : (State.updWires g s).link = s.link := rfl
@[simp] theorem State.updWires_dev (g s) : (State.updWires g s).dev = s.dev := rfl
@[simp] theorem State.updWires_crt (g s) : (State.updWires g s).crt = s.crt := rfl
@[simp] theorem State.updWires_cal (g s) : (State.updWires g s).cal = s.cal := rfl
@[simp] theorem State.updWires_adm (g s) : (State.updWires g s).adm = s.adm := rfl
@[simp] theorem State.updWires_dec (g s) : (State.updWires g s).dec = s.dec := rfl
@[simp] theorem State.updWires_enc (g s) : (State.updWires g s).enc = s.enc := rfl
@[simp] theorem State.updWires_cse (g s) : (State.updWires g s).cse = s.cse := rfl
@[simp] theorem State.updWires_rgn (g s) : (State.updWires g s).rgn = s.rgn := rfl
@[simp] theorem State.updWires_rmem (g s) : (State.updWires g s).rmem = s.rmem := rfl
@[simp] theorem State.updWires_dis (g s) : (State.updWires g s).dis = s.dis := rfl
@[simp] theorem State.updWires_syn (g s) : (State.updWires g s).syn = s.syn := rfl
@[simp] theorem State.updWires_bpm (g s) : (State.updWires g s).bpm = s.bpm := rfl
@[simp] theorem State.updWires_tke (g s) : (State.updWires g s).tke = s.tke := rfl
@[simp] theorem State.updWires_dmc (g s) : (State.updWires g s).dmc = s.dmc := rfl
@[simp] theorem State.updWires_dram (g s) : (State.updWires g s).dram = s.dram := rfl
@[simp] theorem State.updWires_pwr (g s) : (State.updWires g s).pwr = s.pwr := rfl
@[simp] theorem State.updWires_clk (g s) : (State.updWires g s).clk = s.clk := rfl
@[simp] theorem State.updWires_ras (g s) : (State.updWires g s).ras = s.ras := rfl
@[simp] theorem State.updWires_trc (g s) : (State.updWires g s).trc = s.trc := rfl
@[simp] theorem State.updWires_rst (g s) : (State.updWires g s).rst = s.rst := rfl
@[simp] theorem State.updWires_dbg (g s) : (State.updWires g s).dbg = s.dbg := rfl
@[simp] theorem State.updWires_out (g s) : (State.updWires g s).out = s.out := rfl
@[simp] theorem State.updWires_fresh (g s) : (State.updWires g s).fresh = s.fresh := rfl
@[simp] theorem State.updJtag_pending (g s) : (State.updJtag g s).pending = s.pending := rfl
@[simp] theorem State.updJtag_ep (g s) : (State.updJtag g s).ep = s.ep := rfl
@[simp] theorem State.updJtag_aon (g s) : (State.updJtag g s).aon = s.aon := rfl
@[simp] theorem State.updJtag_wires (g s) : (State.updJtag g s).wires = s.wires := rfl
@[simp] theorem State.updJtag_jtag (g s) : (State.updJtag g s).jtag = g s.jtag := rfl
@[simp] theorem State.updJtag_fuses (g s) : (State.updJtag g s).fuses = s.fuses := rfl
@[simp] theorem State.updJtag_hif (g s) : (State.updJtag g s).hif = s.hif := rfl
@[simp] theorem State.updJtag_wins (g s) : (State.updJtag g s).wins = s.wins := rfl
@[simp] theorem State.updJtag_link (g s) : (State.updJtag g s).link = s.link := rfl
@[simp] theorem State.updJtag_dev (g s) : (State.updJtag g s).dev = s.dev := rfl
@[simp] theorem State.updJtag_crt (g s) : (State.updJtag g s).crt = s.crt := rfl
@[simp] theorem State.updJtag_cal (g s) : (State.updJtag g s).cal = s.cal := rfl
@[simp] theorem State.updJtag_adm (g s) : (State.updJtag g s).adm = s.adm := rfl
@[simp] theorem State.updJtag_dec (g s) : (State.updJtag g s).dec = s.dec := rfl
@[simp] theorem State.updJtag_enc (g s) : (State.updJtag g s).enc = s.enc := rfl
@[simp] theorem State.updJtag_cse (g s) : (State.updJtag g s).cse = s.cse := rfl
@[simp] theorem State.updJtag_rgn (g s) : (State.updJtag g s).rgn = s.rgn := rfl
@[simp] theorem State.updJtag_rmem (g s) : (State.updJtag g s).rmem = s.rmem := rfl
@[simp] theorem State.updJtag_dis (g s) : (State.updJtag g s).dis = s.dis := rfl
@[simp] theorem State.updJtag_syn (g s) : (State.updJtag g s).syn = s.syn := rfl
@[simp] theorem State.updJtag_bpm (g s) : (State.updJtag g s).bpm = s.bpm := rfl
@[simp] theorem State.updJtag_tke (g s) : (State.updJtag g s).tke = s.tke := rfl
@[simp] theorem State.updJtag_dmc (g s) : (State.updJtag g s).dmc = s.dmc := rfl
@[simp] theorem State.updJtag_dram (g s) : (State.updJtag g s).dram = s.dram := rfl
@[simp] theorem State.updJtag_pwr (g s) : (State.updJtag g s).pwr = s.pwr := rfl
@[simp] theorem State.updJtag_clk (g s) : (State.updJtag g s).clk = s.clk := rfl
@[simp] theorem State.updJtag_ras (g s) : (State.updJtag g s).ras = s.ras := rfl
@[simp] theorem State.updJtag_trc (g s) : (State.updJtag g s).trc = s.trc := rfl
@[simp] theorem State.updJtag_rst (g s) : (State.updJtag g s).rst = s.rst := rfl
@[simp] theorem State.updJtag_dbg (g s) : (State.updJtag g s).dbg = s.dbg := rfl
@[simp] theorem State.updJtag_out (g s) : (State.updJtag g s).out = s.out := rfl
@[simp] theorem State.updJtag_fresh (g s) : (State.updJtag g s).fresh = s.fresh := rfl
@[simp] theorem State.updFuses_pending (g s) : (State.updFuses g s).pending = s.pending := rfl
@[simp] theorem State.updFuses_ep (g s) : (State.updFuses g s).ep = s.ep := rfl
@[simp] theorem State.updFuses_aon (g s) : (State.updFuses g s).aon = s.aon := rfl
@[simp] theorem State.updFuses_wires (g s) : (State.updFuses g s).wires = s.wires := rfl
@[simp] theorem State.updFuses_jtag (g s) : (State.updFuses g s).jtag = s.jtag := rfl
@[simp] theorem State.updFuses_fuses (g s) : (State.updFuses g s).fuses = g s.fuses := rfl
@[simp] theorem State.updFuses_hif (g s) : (State.updFuses g s).hif = s.hif := rfl
@[simp] theorem State.updFuses_wins (g s) : (State.updFuses g s).wins = s.wins := rfl
@[simp] theorem State.updFuses_link (g s) : (State.updFuses g s).link = s.link := rfl
@[simp] theorem State.updFuses_dev (g s) : (State.updFuses g s).dev = s.dev := rfl
@[simp] theorem State.updFuses_crt (g s) : (State.updFuses g s).crt = s.crt := rfl
@[simp] theorem State.updFuses_cal (g s) : (State.updFuses g s).cal = s.cal := rfl
@[simp] theorem State.updFuses_adm (g s) : (State.updFuses g s).adm = s.adm := rfl
@[simp] theorem State.updFuses_dec (g s) : (State.updFuses g s).dec = s.dec := rfl
@[simp] theorem State.updFuses_enc (g s) : (State.updFuses g s).enc = s.enc := rfl
@[simp] theorem State.updFuses_cse (g s) : (State.updFuses g s).cse = s.cse := rfl
@[simp] theorem State.updFuses_rgn (g s) : (State.updFuses g s).rgn = s.rgn := rfl
@[simp] theorem State.updFuses_rmem (g s) : (State.updFuses g s).rmem = s.rmem := rfl
@[simp] theorem State.updFuses_dis (g s) : (State.updFuses g s).dis = s.dis := rfl
@[simp] theorem State.updFuses_syn (g s) : (State.updFuses g s).syn = s.syn := rfl
@[simp] theorem State.updFuses_bpm (g s) : (State.updFuses g s).bpm = s.bpm := rfl
@[simp] theorem State.updFuses_tke (g s) : (State.updFuses g s).tke = s.tke := rfl
@[simp] theorem State.updFuses_dmc (g s) : (State.updFuses g s).dmc = s.dmc := rfl
@[simp] theorem State.updFuses_dram (g s) : (State.updFuses g s).dram = s.dram := rfl
@[simp] theorem State.updFuses_pwr (g s) : (State.updFuses g s).pwr = s.pwr := rfl
@[simp] theorem State.updFuses_clk (g s) : (State.updFuses g s).clk = s.clk := rfl
@[simp] theorem State.updFuses_ras (g s) : (State.updFuses g s).ras = s.ras := rfl
@[simp] theorem State.updFuses_trc (g s) : (State.updFuses g s).trc = s.trc := rfl
@[simp] theorem State.updFuses_rst (g s) : (State.updFuses g s).rst = s.rst := rfl
@[simp] theorem State.updFuses_dbg (g s) : (State.updFuses g s).dbg = s.dbg := rfl
@[simp] theorem State.updFuses_out (g s) : (State.updFuses g s).out = s.out := rfl
@[simp] theorem State.updFuses_fresh (g s) : (State.updFuses g s).fresh = s.fresh := rfl
@[simp] theorem State.updHif_pending (g s) : (State.updHif g s).pending = s.pending := rfl
@[simp] theorem State.updHif_ep (g s) : (State.updHif g s).ep = s.ep := rfl
@[simp] theorem State.updHif_aon (g s) : (State.updHif g s).aon = s.aon := rfl
@[simp] theorem State.updHif_wires (g s) : (State.updHif g s).wires = s.wires := rfl
@[simp] theorem State.updHif_jtag (g s) : (State.updHif g s).jtag = s.jtag := rfl
@[simp] theorem State.updHif_fuses (g s) : (State.updHif g s).fuses = s.fuses := rfl
@[simp] theorem State.updHif_hif (g s) : (State.updHif g s).hif = g s.hif := rfl
@[simp] theorem State.updHif_wins (g s) : (State.updHif g s).wins = s.wins := rfl
@[simp] theorem State.updHif_link (g s) : (State.updHif g s).link = s.link := rfl
@[simp] theorem State.updHif_dev (g s) : (State.updHif g s).dev = s.dev := rfl
@[simp] theorem State.updHif_crt (g s) : (State.updHif g s).crt = s.crt := rfl
@[simp] theorem State.updHif_cal (g s) : (State.updHif g s).cal = s.cal := rfl
@[simp] theorem State.updHif_adm (g s) : (State.updHif g s).adm = s.adm := rfl
@[simp] theorem State.updHif_dec (g s) : (State.updHif g s).dec = s.dec := rfl
@[simp] theorem State.updHif_enc (g s) : (State.updHif g s).enc = s.enc := rfl
@[simp] theorem State.updHif_cse (g s) : (State.updHif g s).cse = s.cse := rfl
@[simp] theorem State.updHif_rgn (g s) : (State.updHif g s).rgn = s.rgn := rfl
@[simp] theorem State.updHif_rmem (g s) : (State.updHif g s).rmem = s.rmem := rfl
@[simp] theorem State.updHif_dis (g s) : (State.updHif g s).dis = s.dis := rfl
@[simp] theorem State.updHif_syn (g s) : (State.updHif g s).syn = s.syn := rfl
@[simp] theorem State.updHif_bpm (g s) : (State.updHif g s).bpm = s.bpm := rfl
@[simp] theorem State.updHif_tke (g s) : (State.updHif g s).tke = s.tke := rfl
@[simp] theorem State.updHif_dmc (g s) : (State.updHif g s).dmc = s.dmc := rfl
@[simp] theorem State.updHif_dram (g s) : (State.updHif g s).dram = s.dram := rfl
@[simp] theorem State.updHif_pwr (g s) : (State.updHif g s).pwr = s.pwr := rfl
@[simp] theorem State.updHif_clk (g s) : (State.updHif g s).clk = s.clk := rfl
@[simp] theorem State.updHif_ras (g s) : (State.updHif g s).ras = s.ras := rfl
@[simp] theorem State.updHif_trc (g s) : (State.updHif g s).trc = s.trc := rfl
@[simp] theorem State.updHif_rst (g s) : (State.updHif g s).rst = s.rst := rfl
@[simp] theorem State.updHif_dbg (g s) : (State.updHif g s).dbg = s.dbg := rfl
@[simp] theorem State.updHif_out (g s) : (State.updHif g s).out = s.out := rfl
@[simp] theorem State.updHif_fresh (g s) : (State.updHif g s).fresh = s.fresh := rfl
@[simp] theorem State.updWins_pending (g s) : (State.updWins g s).pending = s.pending := rfl
@[simp] theorem State.updWins_ep (g s) : (State.updWins g s).ep = s.ep := rfl
@[simp] theorem State.updWins_aon (g s) : (State.updWins g s).aon = s.aon := rfl
@[simp] theorem State.updWins_wires (g s) : (State.updWins g s).wires = s.wires := rfl
@[simp] theorem State.updWins_jtag (g s) : (State.updWins g s).jtag = s.jtag := rfl
@[simp] theorem State.updWins_fuses (g s) : (State.updWins g s).fuses = s.fuses := rfl
@[simp] theorem State.updWins_hif (g s) : (State.updWins g s).hif = s.hif := rfl
@[simp] theorem State.updWins_wins (g s) : (State.updWins g s).wins = g s.wins := rfl
@[simp] theorem State.updWins_link (g s) : (State.updWins g s).link = s.link := rfl
@[simp] theorem State.updWins_dev (g s) : (State.updWins g s).dev = s.dev := rfl
@[simp] theorem State.updWins_crt (g s) : (State.updWins g s).crt = s.crt := rfl
@[simp] theorem State.updWins_cal (g s) : (State.updWins g s).cal = s.cal := rfl
@[simp] theorem State.updWins_adm (g s) : (State.updWins g s).adm = s.adm := rfl
@[simp] theorem State.updWins_dec (g s) : (State.updWins g s).dec = s.dec := rfl
@[simp] theorem State.updWins_enc (g s) : (State.updWins g s).enc = s.enc := rfl
@[simp] theorem State.updWins_cse (g s) : (State.updWins g s).cse = s.cse := rfl
@[simp] theorem State.updWins_rgn (g s) : (State.updWins g s).rgn = s.rgn := rfl
@[simp] theorem State.updWins_rmem (g s) : (State.updWins g s).rmem = s.rmem := rfl
@[simp] theorem State.updWins_dis (g s) : (State.updWins g s).dis = s.dis := rfl
@[simp] theorem State.updWins_syn (g s) : (State.updWins g s).syn = s.syn := rfl
@[simp] theorem State.updWins_bpm (g s) : (State.updWins g s).bpm = s.bpm := rfl
@[simp] theorem State.updWins_tke (g s) : (State.updWins g s).tke = s.tke := rfl
@[simp] theorem State.updWins_dmc (g s) : (State.updWins g s).dmc = s.dmc := rfl
@[simp] theorem State.updWins_dram (g s) : (State.updWins g s).dram = s.dram := rfl
@[simp] theorem State.updWins_pwr (g s) : (State.updWins g s).pwr = s.pwr := rfl
@[simp] theorem State.updWins_clk (g s) : (State.updWins g s).clk = s.clk := rfl
@[simp] theorem State.updWins_ras (g s) : (State.updWins g s).ras = s.ras := rfl
@[simp] theorem State.updWins_trc (g s) : (State.updWins g s).trc = s.trc := rfl
@[simp] theorem State.updWins_rst (g s) : (State.updWins g s).rst = s.rst := rfl
@[simp] theorem State.updWins_dbg (g s) : (State.updWins g s).dbg = s.dbg := rfl
@[simp] theorem State.updWins_out (g s) : (State.updWins g s).out = s.out := rfl
@[simp] theorem State.updWins_fresh (g s) : (State.updWins g s).fresh = s.fresh := rfl
@[simp] theorem State.updLink_pending (g s) : (State.updLink g s).pending = s.pending := rfl
@[simp] theorem State.updLink_ep (g s) : (State.updLink g s).ep = s.ep := rfl
@[simp] theorem State.updLink_aon (g s) : (State.updLink g s).aon = s.aon := rfl
@[simp] theorem State.updLink_wires (g s) : (State.updLink g s).wires = s.wires := rfl
@[simp] theorem State.updLink_jtag (g s) : (State.updLink g s).jtag = s.jtag := rfl
@[simp] theorem State.updLink_fuses (g s) : (State.updLink g s).fuses = s.fuses := rfl
@[simp] theorem State.updLink_hif (g s) : (State.updLink g s).hif = s.hif := rfl
@[simp] theorem State.updLink_wins (g s) : (State.updLink g s).wins = s.wins := rfl
@[simp] theorem State.updLink_link (g s) : (State.updLink g s).link = g s.link := rfl
@[simp] theorem State.updLink_dev (g s) : (State.updLink g s).dev = s.dev := rfl
@[simp] theorem State.updLink_crt (g s) : (State.updLink g s).crt = s.crt := rfl
@[simp] theorem State.updLink_cal (g s) : (State.updLink g s).cal = s.cal := rfl
@[simp] theorem State.updLink_adm (g s) : (State.updLink g s).adm = s.adm := rfl
@[simp] theorem State.updLink_dec (g s) : (State.updLink g s).dec = s.dec := rfl
@[simp] theorem State.updLink_enc (g s) : (State.updLink g s).enc = s.enc := rfl
@[simp] theorem State.updLink_cse (g s) : (State.updLink g s).cse = s.cse := rfl
@[simp] theorem State.updLink_rgn (g s) : (State.updLink g s).rgn = s.rgn := rfl
@[simp] theorem State.updLink_rmem (g s) : (State.updLink g s).rmem = s.rmem := rfl
@[simp] theorem State.updLink_dis (g s) : (State.updLink g s).dis = s.dis := rfl
@[simp] theorem State.updLink_syn (g s) : (State.updLink g s).syn = s.syn := rfl
@[simp] theorem State.updLink_bpm (g s) : (State.updLink g s).bpm = s.bpm := rfl
@[simp] theorem State.updLink_tke (g s) : (State.updLink g s).tke = s.tke := rfl
@[simp] theorem State.updLink_dmc (g s) : (State.updLink g s).dmc = s.dmc := rfl
@[simp] theorem State.updLink_dram (g s) : (State.updLink g s).dram = s.dram := rfl
@[simp] theorem State.updLink_pwr (g s) : (State.updLink g s).pwr = s.pwr := rfl
@[simp] theorem State.updLink_clk (g s) : (State.updLink g s).clk = s.clk := rfl
@[simp] theorem State.updLink_ras (g s) : (State.updLink g s).ras = s.ras := rfl
@[simp] theorem State.updLink_trc (g s) : (State.updLink g s).trc = s.trc := rfl
@[simp] theorem State.updLink_rst (g s) : (State.updLink g s).rst = s.rst := rfl
@[simp] theorem State.updLink_dbg (g s) : (State.updLink g s).dbg = s.dbg := rfl
@[simp] theorem State.updLink_out (g s) : (State.updLink g s).out = s.out := rfl
@[simp] theorem State.updLink_fresh (g s) : (State.updLink g s).fresh = s.fresh := rfl
@[simp] theorem State.updDev_pending (g s) : (State.updDev g s).pending = s.pending := rfl
@[simp] theorem State.updDev_ep (g s) : (State.updDev g s).ep = s.ep := rfl
@[simp] theorem State.updDev_aon (g s) : (State.updDev g s).aon = s.aon := rfl
@[simp] theorem State.updDev_wires (g s) : (State.updDev g s).wires = s.wires := rfl
@[simp] theorem State.updDev_jtag (g s) : (State.updDev g s).jtag = s.jtag := rfl
@[simp] theorem State.updDev_fuses (g s) : (State.updDev g s).fuses = s.fuses := rfl
@[simp] theorem State.updDev_hif (g s) : (State.updDev g s).hif = s.hif := rfl
@[simp] theorem State.updDev_wins (g s) : (State.updDev g s).wins = s.wins := rfl
@[simp] theorem State.updDev_link (g s) : (State.updDev g s).link = s.link := rfl
@[simp] theorem State.updDev_dev (g s) : (State.updDev g s).dev = g s.dev := rfl
@[simp] theorem State.updDev_crt (g s) : (State.updDev g s).crt = s.crt := rfl
@[simp] theorem State.updDev_cal (g s) : (State.updDev g s).cal = s.cal := rfl
@[simp] theorem State.updDev_adm (g s) : (State.updDev g s).adm = s.adm := rfl
@[simp] theorem State.updDev_dec (g s) : (State.updDev g s).dec = s.dec := rfl
@[simp] theorem State.updDev_enc (g s) : (State.updDev g s).enc = s.enc := rfl
@[simp] theorem State.updDev_cse (g s) : (State.updDev g s).cse = s.cse := rfl
@[simp] theorem State.updDev_rgn (g s) : (State.updDev g s).rgn = s.rgn := rfl
@[simp] theorem State.updDev_rmem (g s) : (State.updDev g s).rmem = s.rmem := rfl
@[simp] theorem State.updDev_dis (g s) : (State.updDev g s).dis = s.dis := rfl
@[simp] theorem State.updDev_syn (g s) : (State.updDev g s).syn = s.syn := rfl
@[simp] theorem State.updDev_bpm (g s) : (State.updDev g s).bpm = s.bpm := rfl
@[simp] theorem State.updDev_tke (g s) : (State.updDev g s).tke = s.tke := rfl
@[simp] theorem State.updDev_dmc (g s) : (State.updDev g s).dmc = s.dmc := rfl
@[simp] theorem State.updDev_dram (g s) : (State.updDev g s).dram = s.dram := rfl
@[simp] theorem State.updDev_pwr (g s) : (State.updDev g s).pwr = s.pwr := rfl
@[simp] theorem State.updDev_clk (g s) : (State.updDev g s).clk = s.clk := rfl
@[simp] theorem State.updDev_ras (g s) : (State.updDev g s).ras = s.ras := rfl
@[simp] theorem State.updDev_trc (g s) : (State.updDev g s).trc = s.trc := rfl
@[simp] theorem State.updDev_rst (g s) : (State.updDev g s).rst = s.rst := rfl
@[simp] theorem State.updDev_dbg (g s) : (State.updDev g s).dbg = s.dbg := rfl
@[simp] theorem State.updDev_out (g s) : (State.updDev g s).out = s.out := rfl
@[simp] theorem State.updDev_fresh (g s) : (State.updDev g s).fresh = s.fresh := rfl
@[simp] theorem State.updCrt_pending (g s) : (State.updCrt g s).pending = s.pending := rfl
@[simp] theorem State.updCrt_ep (g s) : (State.updCrt g s).ep = s.ep := rfl
@[simp] theorem State.updCrt_aon (g s) : (State.updCrt g s).aon = s.aon := rfl
@[simp] theorem State.updCrt_wires (g s) : (State.updCrt g s).wires = s.wires := rfl
@[simp] theorem State.updCrt_jtag (g s) : (State.updCrt g s).jtag = s.jtag := rfl
@[simp] theorem State.updCrt_fuses (g s) : (State.updCrt g s).fuses = s.fuses := rfl
@[simp] theorem State.updCrt_hif (g s) : (State.updCrt g s).hif = s.hif := rfl
@[simp] theorem State.updCrt_wins (g s) : (State.updCrt g s).wins = s.wins := rfl
@[simp] theorem State.updCrt_link (g s) : (State.updCrt g s).link = s.link := rfl
@[simp] theorem State.updCrt_dev (g s) : (State.updCrt g s).dev = s.dev := rfl
@[simp] theorem State.updCrt_crt (g s) : (State.updCrt g s).crt = g s.crt := rfl
@[simp] theorem State.updCrt_cal (g s) : (State.updCrt g s).cal = s.cal := rfl
@[simp] theorem State.updCrt_adm (g s) : (State.updCrt g s).adm = s.adm := rfl
@[simp] theorem State.updCrt_dec (g s) : (State.updCrt g s).dec = s.dec := rfl
@[simp] theorem State.updCrt_enc (g s) : (State.updCrt g s).enc = s.enc := rfl
@[simp] theorem State.updCrt_cse (g s) : (State.updCrt g s).cse = s.cse := rfl
@[simp] theorem State.updCrt_rgn (g s) : (State.updCrt g s).rgn = s.rgn := rfl
@[simp] theorem State.updCrt_rmem (g s) : (State.updCrt g s).rmem = s.rmem := rfl
@[simp] theorem State.updCrt_dis (g s) : (State.updCrt g s).dis = s.dis := rfl
@[simp] theorem State.updCrt_syn (g s) : (State.updCrt g s).syn = s.syn := rfl
@[simp] theorem State.updCrt_bpm (g s) : (State.updCrt g s).bpm = s.bpm := rfl
@[simp] theorem State.updCrt_tke (g s) : (State.updCrt g s).tke = s.tke := rfl
@[simp] theorem State.updCrt_dmc (g s) : (State.updCrt g s).dmc = s.dmc := rfl
@[simp] theorem State.updCrt_dram (g s) : (State.updCrt g s).dram = s.dram := rfl
@[simp] theorem State.updCrt_pwr (g s) : (State.updCrt g s).pwr = s.pwr := rfl
@[simp] theorem State.updCrt_clk (g s) : (State.updCrt g s).clk = s.clk := rfl
@[simp] theorem State.updCrt_ras (g s) : (State.updCrt g s).ras = s.ras := rfl
@[simp] theorem State.updCrt_trc (g s) : (State.updCrt g s).trc = s.trc := rfl
@[simp] theorem State.updCrt_rst (g s) : (State.updCrt g s).rst = s.rst := rfl
@[simp] theorem State.updCrt_dbg (g s) : (State.updCrt g s).dbg = s.dbg := rfl
@[simp] theorem State.updCrt_out (g s) : (State.updCrt g s).out = s.out := rfl
@[simp] theorem State.updCrt_fresh (g s) : (State.updCrt g s).fresh = s.fresh := rfl
@[simp] theorem State.updCal_pending (g s) : (State.updCal g s).pending = s.pending := rfl
@[simp] theorem State.updCal_ep (g s) : (State.updCal g s).ep = s.ep := rfl
@[simp] theorem State.updCal_aon (g s) : (State.updCal g s).aon = s.aon := rfl
@[simp] theorem State.updCal_wires (g s) : (State.updCal g s).wires = s.wires := rfl
@[simp] theorem State.updCal_jtag (g s) : (State.updCal g s).jtag = s.jtag := rfl
@[simp] theorem State.updCal_fuses (g s) : (State.updCal g s).fuses = s.fuses := rfl
@[simp] theorem State.updCal_hif (g s) : (State.updCal g s).hif = s.hif := rfl
@[simp] theorem State.updCal_wins (g s) : (State.updCal g s).wins = s.wins := rfl
@[simp] theorem State.updCal_link (g s) : (State.updCal g s).link = s.link := rfl
@[simp] theorem State.updCal_dev (g s) : (State.updCal g s).dev = s.dev := rfl
@[simp] theorem State.updCal_crt (g s) : (State.updCal g s).crt = s.crt := rfl
@[simp] theorem State.updCal_cal (g s) : (State.updCal g s).cal = g s.cal := rfl
@[simp] theorem State.updCal_adm (g s) : (State.updCal g s).adm = s.adm := rfl
@[simp] theorem State.updCal_dec (g s) : (State.updCal g s).dec = s.dec := rfl
@[simp] theorem State.updCal_enc (g s) : (State.updCal g s).enc = s.enc := rfl
@[simp] theorem State.updCal_cse (g s) : (State.updCal g s).cse = s.cse := rfl
@[simp] theorem State.updCal_rgn (g s) : (State.updCal g s).rgn = s.rgn := rfl
@[simp] theorem State.updCal_rmem (g s) : (State.updCal g s).rmem = s.rmem := rfl
@[simp] theorem State.updCal_dis (g s) : (State.updCal g s).dis = s.dis := rfl
@[simp] theorem State.updCal_syn (g s) : (State.updCal g s).syn = s.syn := rfl
@[simp] theorem State.updCal_bpm (g s) : (State.updCal g s).bpm = s.bpm := rfl
@[simp] theorem State.updCal_tke (g s) : (State.updCal g s).tke = s.tke := rfl
@[simp] theorem State.updCal_dmc (g s) : (State.updCal g s).dmc = s.dmc := rfl
@[simp] theorem State.updCal_dram (g s) : (State.updCal g s).dram = s.dram := rfl
@[simp] theorem State.updCal_pwr (g s) : (State.updCal g s).pwr = s.pwr := rfl
@[simp] theorem State.updCal_clk (g s) : (State.updCal g s).clk = s.clk := rfl
@[simp] theorem State.updCal_ras (g s) : (State.updCal g s).ras = s.ras := rfl
@[simp] theorem State.updCal_trc (g s) : (State.updCal g s).trc = s.trc := rfl
@[simp] theorem State.updCal_rst (g s) : (State.updCal g s).rst = s.rst := rfl
@[simp] theorem State.updCal_dbg (g s) : (State.updCal g s).dbg = s.dbg := rfl
@[simp] theorem State.updCal_out (g s) : (State.updCal g s).out = s.out := rfl
@[simp] theorem State.updCal_fresh (g s) : (State.updCal g s).fresh = s.fresh := rfl
@[simp] theorem State.updAdm_pending (g s) : (State.updAdm g s).pending = s.pending := rfl
@[simp] theorem State.updAdm_ep (g s) : (State.updAdm g s).ep = s.ep := rfl
@[simp] theorem State.updAdm_aon (g s) : (State.updAdm g s).aon = s.aon := rfl
@[simp] theorem State.updAdm_wires (g s) : (State.updAdm g s).wires = s.wires := rfl
@[simp] theorem State.updAdm_jtag (g s) : (State.updAdm g s).jtag = s.jtag := rfl
@[simp] theorem State.updAdm_fuses (g s) : (State.updAdm g s).fuses = s.fuses := rfl
@[simp] theorem State.updAdm_hif (g s) : (State.updAdm g s).hif = s.hif := rfl
@[simp] theorem State.updAdm_wins (g s) : (State.updAdm g s).wins = s.wins := rfl
@[simp] theorem State.updAdm_link (g s) : (State.updAdm g s).link = s.link := rfl
@[simp] theorem State.updAdm_dev (g s) : (State.updAdm g s).dev = s.dev := rfl
@[simp] theorem State.updAdm_crt (g s) : (State.updAdm g s).crt = s.crt := rfl
@[simp] theorem State.updAdm_cal (g s) : (State.updAdm g s).cal = s.cal := rfl
@[simp] theorem State.updAdm_adm (g s) : (State.updAdm g s).adm = g s.adm := rfl
@[simp] theorem State.updAdm_dec (g s) : (State.updAdm g s).dec = s.dec := rfl
@[simp] theorem State.updAdm_enc (g s) : (State.updAdm g s).enc = s.enc := rfl
@[simp] theorem State.updAdm_cse (g s) : (State.updAdm g s).cse = s.cse := rfl
@[simp] theorem State.updAdm_rgn (g s) : (State.updAdm g s).rgn = s.rgn := rfl
@[simp] theorem State.updAdm_rmem (g s) : (State.updAdm g s).rmem = s.rmem := rfl
@[simp] theorem State.updAdm_dis (g s) : (State.updAdm g s).dis = s.dis := rfl
@[simp] theorem State.updAdm_syn (g s) : (State.updAdm g s).syn = s.syn := rfl
@[simp] theorem State.updAdm_bpm (g s) : (State.updAdm g s).bpm = s.bpm := rfl
@[simp] theorem State.updAdm_tke (g s) : (State.updAdm g s).tke = s.tke := rfl
@[simp] theorem State.updAdm_dmc (g s) : (State.updAdm g s).dmc = s.dmc := rfl
@[simp] theorem State.updAdm_dram (g s) : (State.updAdm g s).dram = s.dram := rfl
@[simp] theorem State.updAdm_pwr (g s) : (State.updAdm g s).pwr = s.pwr := rfl
@[simp] theorem State.updAdm_clk (g s) : (State.updAdm g s).clk = s.clk := rfl
@[simp] theorem State.updAdm_ras (g s) : (State.updAdm g s).ras = s.ras := rfl
@[simp] theorem State.updAdm_trc (g s) : (State.updAdm g s).trc = s.trc := rfl
@[simp] theorem State.updAdm_rst (g s) : (State.updAdm g s).rst = s.rst := rfl
@[simp] theorem State.updAdm_dbg (g s) : (State.updAdm g s).dbg = s.dbg := rfl
@[simp] theorem State.updAdm_out (g s) : (State.updAdm g s).out = s.out := rfl
@[simp] theorem State.updAdm_fresh (g s) : (State.updAdm g s).fresh = s.fresh := rfl
@[simp] theorem State.updDec_pending (g s) : (State.updDec g s).pending = s.pending := rfl
@[simp] theorem State.updDec_ep (g s) : (State.updDec g s).ep = s.ep := rfl
@[simp] theorem State.updDec_aon (g s) : (State.updDec g s).aon = s.aon := rfl
@[simp] theorem State.updDec_wires (g s) : (State.updDec g s).wires = s.wires := rfl
@[simp] theorem State.updDec_jtag (g s) : (State.updDec g s).jtag = s.jtag := rfl
@[simp] theorem State.updDec_fuses (g s) : (State.updDec g s).fuses = s.fuses := rfl
@[simp] theorem State.updDec_hif (g s) : (State.updDec g s).hif = s.hif := rfl
@[simp] theorem State.updDec_wins (g s) : (State.updDec g s).wins = s.wins := rfl
@[simp] theorem State.updDec_link (g s) : (State.updDec g s).link = s.link := rfl
@[simp] theorem State.updDec_dev (g s) : (State.updDec g s).dev = s.dev := rfl
@[simp] theorem State.updDec_crt (g s) : (State.updDec g s).crt = s.crt := rfl
@[simp] theorem State.updDec_cal (g s) : (State.updDec g s).cal = s.cal := rfl
@[simp] theorem State.updDec_adm (g s) : (State.updDec g s).adm = s.adm := rfl
@[simp] theorem State.updDec_dec (g s) : (State.updDec g s).dec = g s.dec := rfl
@[simp] theorem State.updDec_enc (g s) : (State.updDec g s).enc = s.enc := rfl
@[simp] theorem State.updDec_cse (g s) : (State.updDec g s).cse = s.cse := rfl
@[simp] theorem State.updDec_rgn (g s) : (State.updDec g s).rgn = s.rgn := rfl
@[simp] theorem State.updDec_rmem (g s) : (State.updDec g s).rmem = s.rmem := rfl
@[simp] theorem State.updDec_dis (g s) : (State.updDec g s).dis = s.dis := rfl
@[simp] theorem State.updDec_syn (g s) : (State.updDec g s).syn = s.syn := rfl
@[simp] theorem State.updDec_bpm (g s) : (State.updDec g s).bpm = s.bpm := rfl
@[simp] theorem State.updDec_tke (g s) : (State.updDec g s).tke = s.tke := rfl
@[simp] theorem State.updDec_dmc (g s) : (State.updDec g s).dmc = s.dmc := rfl
@[simp] theorem State.updDec_dram (g s) : (State.updDec g s).dram = s.dram := rfl
@[simp] theorem State.updDec_pwr (g s) : (State.updDec g s).pwr = s.pwr := rfl
@[simp] theorem State.updDec_clk (g s) : (State.updDec g s).clk = s.clk := rfl
@[simp] theorem State.updDec_ras (g s) : (State.updDec g s).ras = s.ras := rfl
@[simp] theorem State.updDec_trc (g s) : (State.updDec g s).trc = s.trc := rfl
@[simp] theorem State.updDec_rst (g s) : (State.updDec g s).rst = s.rst := rfl
@[simp] theorem State.updDec_dbg (g s) : (State.updDec g s).dbg = s.dbg := rfl
@[simp] theorem State.updDec_out (g s) : (State.updDec g s).out = s.out := rfl
@[simp] theorem State.updDec_fresh (g s) : (State.updDec g s).fresh = s.fresh := rfl
@[simp] theorem State.updEnc_pending (g s) : (State.updEnc g s).pending = s.pending := rfl
@[simp] theorem State.updEnc_ep (g s) : (State.updEnc g s).ep = s.ep := rfl
@[simp] theorem State.updEnc_aon (g s) : (State.updEnc g s).aon = s.aon := rfl
@[simp] theorem State.updEnc_wires (g s) : (State.updEnc g s).wires = s.wires := rfl
@[simp] theorem State.updEnc_jtag (g s) : (State.updEnc g s).jtag = s.jtag := rfl
@[simp] theorem State.updEnc_fuses (g s) : (State.updEnc g s).fuses = s.fuses := rfl
@[simp] theorem State.updEnc_hif (g s) : (State.updEnc g s).hif = s.hif := rfl
@[simp] theorem State.updEnc_wins (g s) : (State.updEnc g s).wins = s.wins := rfl
@[simp] theorem State.updEnc_link (g s) : (State.updEnc g s).link = s.link := rfl
@[simp] theorem State.updEnc_dev (g s) : (State.updEnc g s).dev = s.dev := rfl
@[simp] theorem State.updEnc_crt (g s) : (State.updEnc g s).crt = s.crt := rfl
@[simp] theorem State.updEnc_cal (g s) : (State.updEnc g s).cal = s.cal := rfl
@[simp] theorem State.updEnc_adm (g s) : (State.updEnc g s).adm = s.adm := rfl
@[simp] theorem State.updEnc_dec (g s) : (State.updEnc g s).dec = s.dec := rfl
@[simp] theorem State.updEnc_enc (g s) : (State.updEnc g s).enc = g s.enc := rfl
@[simp] theorem State.updEnc_cse (g s) : (State.updEnc g s).cse = s.cse := rfl
@[simp] theorem State.updEnc_rgn (g s) : (State.updEnc g s).rgn = s.rgn := rfl
@[simp] theorem State.updEnc_rmem (g s) : (State.updEnc g s).rmem = s.rmem := rfl
@[simp] theorem State.updEnc_dis (g s) : (State.updEnc g s).dis = s.dis := rfl
@[simp] theorem State.updEnc_syn (g s) : (State.updEnc g s).syn = s.syn := rfl
@[simp] theorem State.updEnc_bpm (g s) : (State.updEnc g s).bpm = s.bpm := rfl
@[simp] theorem State.updEnc_tke (g s) : (State.updEnc g s).tke = s.tke := rfl
@[simp] theorem State.updEnc_dmc (g s) : (State.updEnc g s).dmc = s.dmc := rfl
@[simp] theorem State.updEnc_dram (g s) : (State.updEnc g s).dram = s.dram := rfl
@[simp] theorem State.updEnc_pwr (g s) : (State.updEnc g s).pwr = s.pwr := rfl
@[simp] theorem State.updEnc_clk (g s) : (State.updEnc g s).clk = s.clk := rfl
@[simp] theorem State.updEnc_ras (g s) : (State.updEnc g s).ras = s.ras := rfl
@[simp] theorem State.updEnc_trc (g s) : (State.updEnc g s).trc = s.trc := rfl
@[simp] theorem State.updEnc_rst (g s) : (State.updEnc g s).rst = s.rst := rfl
@[simp] theorem State.updEnc_dbg (g s) : (State.updEnc g s).dbg = s.dbg := rfl
@[simp] theorem State.updEnc_out (g s) : (State.updEnc g s).out = s.out := rfl
@[simp] theorem State.updEnc_fresh (g s) : (State.updEnc g s).fresh = s.fresh := rfl
@[simp] theorem State.updCse_pending (g s) : (State.updCse g s).pending = s.pending := rfl
@[simp] theorem State.updCse_ep (g s) : (State.updCse g s).ep = s.ep := rfl
@[simp] theorem State.updCse_aon (g s) : (State.updCse g s).aon = s.aon := rfl
@[simp] theorem State.updCse_wires (g s) : (State.updCse g s).wires = s.wires := rfl
@[simp] theorem State.updCse_jtag (g s) : (State.updCse g s).jtag = s.jtag := rfl
@[simp] theorem State.updCse_fuses (g s) : (State.updCse g s).fuses = s.fuses := rfl
@[simp] theorem State.updCse_hif (g s) : (State.updCse g s).hif = s.hif := rfl
@[simp] theorem State.updCse_wins (g s) : (State.updCse g s).wins = s.wins := rfl
@[simp] theorem State.updCse_link (g s) : (State.updCse g s).link = s.link := rfl
@[simp] theorem State.updCse_dev (g s) : (State.updCse g s).dev = s.dev := rfl
@[simp] theorem State.updCse_crt (g s) : (State.updCse g s).crt = s.crt := rfl
@[simp] theorem State.updCse_cal (g s) : (State.updCse g s).cal = s.cal := rfl
@[simp] theorem State.updCse_adm (g s) : (State.updCse g s).adm = s.adm := rfl
@[simp] theorem State.updCse_dec (g s) : (State.updCse g s).dec = s.dec := rfl
@[simp] theorem State.updCse_enc (g s) : (State.updCse g s).enc = s.enc := rfl
@[simp] theorem State.updCse_cse (g s) : (State.updCse g s).cse = g s.cse := rfl
@[simp] theorem State.updCse_rgn (g s) : (State.updCse g s).rgn = s.rgn := rfl
@[simp] theorem State.updCse_rmem (g s) : (State.updCse g s).rmem = s.rmem := rfl
@[simp] theorem State.updCse_dis (g s) : (State.updCse g s).dis = s.dis := rfl
@[simp] theorem State.updCse_syn (g s) : (State.updCse g s).syn = s.syn := rfl
@[simp] theorem State.updCse_bpm (g s) : (State.updCse g s).bpm = s.bpm := rfl
@[simp] theorem State.updCse_tke (g s) : (State.updCse g s).tke = s.tke := rfl
@[simp] theorem State.updCse_dmc (g s) : (State.updCse g s).dmc = s.dmc := rfl
@[simp] theorem State.updCse_dram (g s) : (State.updCse g s).dram = s.dram := rfl
@[simp] theorem State.updCse_pwr (g s) : (State.updCse g s).pwr = s.pwr := rfl
@[simp] theorem State.updCse_clk (g s) : (State.updCse g s).clk = s.clk := rfl
@[simp] theorem State.updCse_ras (g s) : (State.updCse g s).ras = s.ras := rfl
@[simp] theorem State.updCse_trc (g s) : (State.updCse g s).trc = s.trc := rfl
@[simp] theorem State.updCse_rst (g s) : (State.updCse g s).rst = s.rst := rfl
@[simp] theorem State.updCse_dbg (g s) : (State.updCse g s).dbg = s.dbg := rfl
@[simp] theorem State.updCse_out (g s) : (State.updCse g s).out = s.out := rfl
@[simp] theorem State.updCse_fresh (g s) : (State.updCse g s).fresh = s.fresh := rfl
@[simp] theorem State.updRgn_pending (g s) : (State.updRgn g s).pending = s.pending := rfl
@[simp] theorem State.updRgn_ep (g s) : (State.updRgn g s).ep = s.ep := rfl
@[simp] theorem State.updRgn_aon (g s) : (State.updRgn g s).aon = s.aon := rfl
@[simp] theorem State.updRgn_wires (g s) : (State.updRgn g s).wires = s.wires := rfl
@[simp] theorem State.updRgn_jtag (g s) : (State.updRgn g s).jtag = s.jtag := rfl
@[simp] theorem State.updRgn_fuses (g s) : (State.updRgn g s).fuses = s.fuses := rfl
@[simp] theorem State.updRgn_hif (g s) : (State.updRgn g s).hif = s.hif := rfl
@[simp] theorem State.updRgn_wins (g s) : (State.updRgn g s).wins = s.wins := rfl
@[simp] theorem State.updRgn_link (g s) : (State.updRgn g s).link = s.link := rfl
@[simp] theorem State.updRgn_dev (g s) : (State.updRgn g s).dev = s.dev := rfl
@[simp] theorem State.updRgn_crt (g s) : (State.updRgn g s).crt = s.crt := rfl
@[simp] theorem State.updRgn_cal (g s) : (State.updRgn g s).cal = s.cal := rfl
@[simp] theorem State.updRgn_adm (g s) : (State.updRgn g s).adm = s.adm := rfl
@[simp] theorem State.updRgn_dec (g s) : (State.updRgn g s).dec = s.dec := rfl
@[simp] theorem State.updRgn_enc (g s) : (State.updRgn g s).enc = s.enc := rfl
@[simp] theorem State.updRgn_cse (g s) : (State.updRgn g s).cse = s.cse := rfl
@[simp] theorem State.updRgn_rgn (g s) : (State.updRgn g s).rgn = g s.rgn := rfl
@[simp] theorem State.updRgn_rmem (g s) : (State.updRgn g s).rmem = s.rmem := rfl
@[simp] theorem State.updRgn_dis (g s) : (State.updRgn g s).dis = s.dis := rfl
@[simp] theorem State.updRgn_syn (g s) : (State.updRgn g s).syn = s.syn := rfl
@[simp] theorem State.updRgn_bpm (g s) : (State.updRgn g s).bpm = s.bpm := rfl
@[simp] theorem State.updRgn_tke (g s) : (State.updRgn g s).tke = s.tke := rfl
@[simp] theorem State.updRgn_dmc (g s) : (State.updRgn g s).dmc = s.dmc := rfl
@[simp] theorem State.updRgn_dram (g s) : (State.updRgn g s).dram = s.dram := rfl
@[simp] theorem State.updRgn_pwr (g s) : (State.updRgn g s).pwr = s.pwr := rfl
@[simp] theorem State.updRgn_clk (g s) : (State.updRgn g s).clk = s.clk := rfl
@[simp] theorem State.updRgn_ras (g s) : (State.updRgn g s).ras = s.ras := rfl
@[simp] theorem State.updRgn_trc (g s) : (State.updRgn g s).trc = s.trc := rfl
@[simp] theorem State.updRgn_rst (g s) : (State.updRgn g s).rst = s.rst := rfl
@[simp] theorem State.updRgn_dbg (g s) : (State.updRgn g s).dbg = s.dbg := rfl
@[simp] theorem State.updRgn_out (g s) : (State.updRgn g s).out = s.out := rfl
@[simp] theorem State.updRgn_fresh (g s) : (State.updRgn g s).fresh = s.fresh := rfl
@[simp] theorem State.updRmem_pending (g s) : (State.updRmem g s).pending = s.pending := rfl
@[simp] theorem State.updRmem_ep (g s) : (State.updRmem g s).ep = s.ep := rfl
@[simp] theorem State.updRmem_aon (g s) : (State.updRmem g s).aon = s.aon := rfl
@[simp] theorem State.updRmem_wires (g s) : (State.updRmem g s).wires = s.wires := rfl
@[simp] theorem State.updRmem_jtag (g s) : (State.updRmem g s).jtag = s.jtag := rfl
@[simp] theorem State.updRmem_fuses (g s) : (State.updRmem g s).fuses = s.fuses := rfl
@[simp] theorem State.updRmem_hif (g s) : (State.updRmem g s).hif = s.hif := rfl
@[simp] theorem State.updRmem_wins (g s) : (State.updRmem g s).wins = s.wins := rfl
@[simp] theorem State.updRmem_link (g s) : (State.updRmem g s).link = s.link := rfl
@[simp] theorem State.updRmem_dev (g s) : (State.updRmem g s).dev = s.dev := rfl
@[simp] theorem State.updRmem_crt (g s) : (State.updRmem g s).crt = s.crt := rfl
@[simp] theorem State.updRmem_cal (g s) : (State.updRmem g s).cal = s.cal := rfl
@[simp] theorem State.updRmem_adm (g s) : (State.updRmem g s).adm = s.adm := rfl
@[simp] theorem State.updRmem_dec (g s) : (State.updRmem g s).dec = s.dec := rfl
@[simp] theorem State.updRmem_enc (g s) : (State.updRmem g s).enc = s.enc := rfl
@[simp] theorem State.updRmem_cse (g s) : (State.updRmem g s).cse = s.cse := rfl
@[simp] theorem State.updRmem_rgn (g s) : (State.updRmem g s).rgn = s.rgn := rfl
@[simp] theorem State.updRmem_rmem (g s) : (State.updRmem g s).rmem = g s.rmem := rfl
@[simp] theorem State.updRmem_dis (g s) : (State.updRmem g s).dis = s.dis := rfl
@[simp] theorem State.updRmem_syn (g s) : (State.updRmem g s).syn = s.syn := rfl
@[simp] theorem State.updRmem_bpm (g s) : (State.updRmem g s).bpm = s.bpm := rfl
@[simp] theorem State.updRmem_tke (g s) : (State.updRmem g s).tke = s.tke := rfl
@[simp] theorem State.updRmem_dmc (g s) : (State.updRmem g s).dmc = s.dmc := rfl
@[simp] theorem State.updRmem_dram (g s) : (State.updRmem g s).dram = s.dram := rfl
@[simp] theorem State.updRmem_pwr (g s) : (State.updRmem g s).pwr = s.pwr := rfl
@[simp] theorem State.updRmem_clk (g s) : (State.updRmem g s).clk = s.clk := rfl
@[simp] theorem State.updRmem_ras (g s) : (State.updRmem g s).ras = s.ras := rfl
@[simp] theorem State.updRmem_trc (g s) : (State.updRmem g s).trc = s.trc := rfl
@[simp] theorem State.updRmem_rst (g s) : (State.updRmem g s).rst = s.rst := rfl
@[simp] theorem State.updRmem_dbg (g s) : (State.updRmem g s).dbg = s.dbg := rfl
@[simp] theorem State.updRmem_out (g s) : (State.updRmem g s).out = s.out := rfl
@[simp] theorem State.updRmem_fresh (g s) : (State.updRmem g s).fresh = s.fresh := rfl
@[simp] theorem State.updDis_pending (g s) : (State.updDis g s).pending = s.pending := rfl
@[simp] theorem State.updDis_ep (g s) : (State.updDis g s).ep = s.ep := rfl
@[simp] theorem State.updDis_aon (g s) : (State.updDis g s).aon = s.aon := rfl
@[simp] theorem State.updDis_wires (g s) : (State.updDis g s).wires = s.wires := rfl
@[simp] theorem State.updDis_jtag (g s) : (State.updDis g s).jtag = s.jtag := rfl
@[simp] theorem State.updDis_fuses (g s) : (State.updDis g s).fuses = s.fuses := rfl
@[simp] theorem State.updDis_hif (g s) : (State.updDis g s).hif = s.hif := rfl
@[simp] theorem State.updDis_wins (g s) : (State.updDis g s).wins = s.wins := rfl
@[simp] theorem State.updDis_link (g s) : (State.updDis g s).link = s.link := rfl
@[simp] theorem State.updDis_dev (g s) : (State.updDis g s).dev = s.dev := rfl
@[simp] theorem State.updDis_crt (g s) : (State.updDis g s).crt = s.crt := rfl
@[simp] theorem State.updDis_cal (g s) : (State.updDis g s).cal = s.cal := rfl
@[simp] theorem State.updDis_adm (g s) : (State.updDis g s).adm = s.adm := rfl
@[simp] theorem State.updDis_dec (g s) : (State.updDis g s).dec = s.dec := rfl
@[simp] theorem State.updDis_enc (g s) : (State.updDis g s).enc = s.enc := rfl
@[simp] theorem State.updDis_cse (g s) : (State.updDis g s).cse = s.cse := rfl
@[simp] theorem State.updDis_rgn (g s) : (State.updDis g s).rgn = s.rgn := rfl
@[simp] theorem State.updDis_rmem (g s) : (State.updDis g s).rmem = s.rmem := rfl
@[simp] theorem State.updDis_dis (g s) : (State.updDis g s).dis = g s.dis := rfl
@[simp] theorem State.updDis_syn (g s) : (State.updDis g s).syn = s.syn := rfl
@[simp] theorem State.updDis_bpm (g s) : (State.updDis g s).bpm = s.bpm := rfl
@[simp] theorem State.updDis_tke (g s) : (State.updDis g s).tke = s.tke := rfl
@[simp] theorem State.updDis_dmc (g s) : (State.updDis g s).dmc = s.dmc := rfl
@[simp] theorem State.updDis_dram (g s) : (State.updDis g s).dram = s.dram := rfl
@[simp] theorem State.updDis_pwr (g s) : (State.updDis g s).pwr = s.pwr := rfl
@[simp] theorem State.updDis_clk (g s) : (State.updDis g s).clk = s.clk := rfl
@[simp] theorem State.updDis_ras (g s) : (State.updDis g s).ras = s.ras := rfl
@[simp] theorem State.updDis_trc (g s) : (State.updDis g s).trc = s.trc := rfl
@[simp] theorem State.updDis_rst (g s) : (State.updDis g s).rst = s.rst := rfl
@[simp] theorem State.updDis_dbg (g s) : (State.updDis g s).dbg = s.dbg := rfl
@[simp] theorem State.updDis_out (g s) : (State.updDis g s).out = s.out := rfl
@[simp] theorem State.updDis_fresh (g s) : (State.updDis g s).fresh = s.fresh := rfl
@[simp] theorem State.updSyn_pending (g s) : (State.updSyn g s).pending = s.pending := rfl
@[simp] theorem State.updSyn_ep (g s) : (State.updSyn g s).ep = s.ep := rfl
@[simp] theorem State.updSyn_aon (g s) : (State.updSyn g s).aon = s.aon := rfl
@[simp] theorem State.updSyn_wires (g s) : (State.updSyn g s).wires = s.wires := rfl
@[simp] theorem State.updSyn_jtag (g s) : (State.updSyn g s).jtag = s.jtag := rfl
@[simp] theorem State.updSyn_fuses (g s) : (State.updSyn g s).fuses = s.fuses := rfl
@[simp] theorem State.updSyn_hif (g s) : (State.updSyn g s).hif = s.hif := rfl
@[simp] theorem State.updSyn_wins (g s) : (State.updSyn g s).wins = s.wins := rfl
@[simp] theorem State.updSyn_link (g s) : (State.updSyn g s).link = s.link := rfl
@[simp] theorem State.updSyn_dev (g s) : (State.updSyn g s).dev = s.dev := rfl
@[simp] theorem State.updSyn_crt (g s) : (State.updSyn g s).crt = s.crt := rfl
@[simp] theorem State.updSyn_cal (g s) : (State.updSyn g s).cal = s.cal := rfl
@[simp] theorem State.updSyn_adm (g s) : (State.updSyn g s).adm = s.adm := rfl
@[simp] theorem State.updSyn_dec (g s) : (State.updSyn g s).dec = s.dec := rfl
@[simp] theorem State.updSyn_enc (g s) : (State.updSyn g s).enc = s.enc := rfl
@[simp] theorem State.updSyn_cse (g s) : (State.updSyn g s).cse = s.cse := rfl
@[simp] theorem State.updSyn_rgn (g s) : (State.updSyn g s).rgn = s.rgn := rfl
@[simp] theorem State.updSyn_rmem (g s) : (State.updSyn g s).rmem = s.rmem := rfl
@[simp] theorem State.updSyn_dis (g s) : (State.updSyn g s).dis = s.dis := rfl
@[simp] theorem State.updSyn_syn (g s) : (State.updSyn g s).syn = g s.syn := rfl
@[simp] theorem State.updSyn_bpm (g s) : (State.updSyn g s).bpm = s.bpm := rfl
@[simp] theorem State.updSyn_tke (g s) : (State.updSyn g s).tke = s.tke := rfl
@[simp] theorem State.updSyn_dmc (g s) : (State.updSyn g s).dmc = s.dmc := rfl
@[simp] theorem State.updSyn_dram (g s) : (State.updSyn g s).dram = s.dram := rfl
@[simp] theorem State.updSyn_pwr (g s) : (State.updSyn g s).pwr = s.pwr := rfl
@[simp] theorem State.updSyn_clk (g s) : (State.updSyn g s).clk = s.clk := rfl
@[simp] theorem State.updSyn_ras (g s) : (State.updSyn g s).ras = s.ras := rfl
@[simp] theorem State.updSyn_trc (g s) : (State.updSyn g s).trc = s.trc := rfl
@[simp] theorem State.updSyn_rst (g s) : (State.updSyn g s).rst = s.rst := rfl
@[simp] theorem State.updSyn_dbg (g s) : (State.updSyn g s).dbg = s.dbg := rfl
@[simp] theorem State.updSyn_out (g s) : (State.updSyn g s).out = s.out := rfl
@[simp] theorem State.updSyn_fresh (g s) : (State.updSyn g s).fresh = s.fresh := rfl
@[simp] theorem State.updBpm_pending (g s) : (State.updBpm g s).pending = s.pending := rfl
@[simp] theorem State.updBpm_ep (g s) : (State.updBpm g s).ep = s.ep := rfl
@[simp] theorem State.updBpm_aon (g s) : (State.updBpm g s).aon = s.aon := rfl
@[simp] theorem State.updBpm_wires (g s) : (State.updBpm g s).wires = s.wires := rfl
@[simp] theorem State.updBpm_jtag (g s) : (State.updBpm g s).jtag = s.jtag := rfl
@[simp] theorem State.updBpm_fuses (g s) : (State.updBpm g s).fuses = s.fuses := rfl
@[simp] theorem State.updBpm_hif (g s) : (State.updBpm g s).hif = s.hif := rfl
@[simp] theorem State.updBpm_wins (g s) : (State.updBpm g s).wins = s.wins := rfl
@[simp] theorem State.updBpm_link (g s) : (State.updBpm g s).link = s.link := rfl
@[simp] theorem State.updBpm_dev (g s) : (State.updBpm g s).dev = s.dev := rfl
@[simp] theorem State.updBpm_crt (g s) : (State.updBpm g s).crt = s.crt := rfl
@[simp] theorem State.updBpm_cal (g s) : (State.updBpm g s).cal = s.cal := rfl
@[simp] theorem State.updBpm_adm (g s) : (State.updBpm g s).adm = s.adm := rfl
@[simp] theorem State.updBpm_dec (g s) : (State.updBpm g s).dec = s.dec := rfl
@[simp] theorem State.updBpm_enc (g s) : (State.updBpm g s).enc = s.enc := rfl
@[simp] theorem State.updBpm_cse (g s) : (State.updBpm g s).cse = s.cse := rfl
@[simp] theorem State.updBpm_rgn (g s) : (State.updBpm g s).rgn = s.rgn := rfl
@[simp] theorem State.updBpm_rmem (g s) : (State.updBpm g s).rmem = s.rmem := rfl
@[simp] theorem State.updBpm_dis (g s) : (State.updBpm g s).dis = s.dis := rfl
@[simp] theorem State.updBpm_syn (g s) : (State.updBpm g s).syn = s.syn := rfl
@[simp] theorem State.updBpm_bpm (g s) : (State.updBpm g s).bpm = g s.bpm := rfl
@[simp] theorem State.updBpm_tke (g s) : (State.updBpm g s).tke = s.tke := rfl
@[simp] theorem State.updBpm_dmc (g s) : (State.updBpm g s).dmc = s.dmc := rfl
@[simp] theorem State.updBpm_dram (g s) : (State.updBpm g s).dram = s.dram := rfl
@[simp] theorem State.updBpm_pwr (g s) : (State.updBpm g s).pwr = s.pwr := rfl
@[simp] theorem State.updBpm_clk (g s) : (State.updBpm g s).clk = s.clk := rfl
@[simp] theorem State.updBpm_ras (g s) : (State.updBpm g s).ras = s.ras := rfl
@[simp] theorem State.updBpm_trc (g s) : (State.updBpm g s).trc = s.trc := rfl
@[simp] theorem State.updBpm_rst (g s) : (State.updBpm g s).rst = s.rst := rfl
@[simp] theorem State.updBpm_dbg (g s) : (State.updBpm g s).dbg = s.dbg := rfl
@[simp] theorem State.updBpm_out (g s) : (State.updBpm g s).out = s.out := rfl
@[simp] theorem State.updBpm_fresh (g s) : (State.updBpm g s).fresh = s.fresh := rfl
@[simp] theorem State.updTke_pending (g s) : (State.updTke g s).pending = s.pending := rfl
@[simp] theorem State.updTke_ep (g s) : (State.updTke g s).ep = s.ep := rfl
@[simp] theorem State.updTke_aon (g s) : (State.updTke g s).aon = s.aon := rfl
@[simp] theorem State.updTke_wires (g s) : (State.updTke g s).wires = s.wires := rfl
@[simp] theorem State.updTke_jtag (g s) : (State.updTke g s).jtag = s.jtag := rfl
@[simp] theorem State.updTke_fuses (g s) : (State.updTke g s).fuses = s.fuses := rfl
@[simp] theorem State.updTke_hif (g s) : (State.updTke g s).hif = s.hif := rfl
@[simp] theorem State.updTke_wins (g s) : (State.updTke g s).wins = s.wins := rfl
@[simp] theorem State.updTke_link (g s) : (State.updTke g s).link = s.link := rfl
@[simp] theorem State.updTke_dev (g s) : (State.updTke g s).dev = s.dev := rfl
@[simp] theorem State.updTke_crt (g s) : (State.updTke g s).crt = s.crt := rfl
@[simp] theorem State.updTke_cal (g s) : (State.updTke g s).cal = s.cal := rfl
@[simp] theorem State.updTke_adm (g s) : (State.updTke g s).adm = s.adm := rfl
@[simp] theorem State.updTke_dec (g s) : (State.updTke g s).dec = s.dec := rfl
@[simp] theorem State.updTke_enc (g s) : (State.updTke g s).enc = s.enc := rfl
@[simp] theorem State.updTke_cse (g s) : (State.updTke g s).cse = s.cse := rfl
@[simp] theorem State.updTke_rgn (g s) : (State.updTke g s).rgn = s.rgn := rfl
@[simp] theorem State.updTke_rmem (g s) : (State.updTke g s).rmem = s.rmem := rfl
@[simp] theorem State.updTke_dis (g s) : (State.updTke g s).dis = s.dis := rfl
@[simp] theorem State.updTke_syn (g s) : (State.updTke g s).syn = s.syn := rfl
@[simp] theorem State.updTke_bpm (g s) : (State.updTke g s).bpm = s.bpm := rfl
@[simp] theorem State.updTke_tke (g s) : (State.updTke g s).tke = g s.tke := rfl
@[simp] theorem State.updTke_dmc (g s) : (State.updTke g s).dmc = s.dmc := rfl
@[simp] theorem State.updTke_dram (g s) : (State.updTke g s).dram = s.dram := rfl
@[simp] theorem State.updTke_pwr (g s) : (State.updTke g s).pwr = s.pwr := rfl
@[simp] theorem State.updTke_clk (g s) : (State.updTke g s).clk = s.clk := rfl
@[simp] theorem State.updTke_ras (g s) : (State.updTke g s).ras = s.ras := rfl
@[simp] theorem State.updTke_trc (g s) : (State.updTke g s).trc = s.trc := rfl
@[simp] theorem State.updTke_rst (g s) : (State.updTke g s).rst = s.rst := rfl
@[simp] theorem State.updTke_dbg (g s) : (State.updTke g s).dbg = s.dbg := rfl
@[simp] theorem State.updTke_out (g s) : (State.updTke g s).out = s.out := rfl
@[simp] theorem State.updTke_fresh (g s) : (State.updTke g s).fresh = s.fresh := rfl
@[simp] theorem State.updDmc_pending (g s) : (State.updDmc g s).pending = s.pending := rfl
@[simp] theorem State.updDmc_ep (g s) : (State.updDmc g s).ep = s.ep := rfl
@[simp] theorem State.updDmc_aon (g s) : (State.updDmc g s).aon = s.aon := rfl
@[simp] theorem State.updDmc_wires (g s) : (State.updDmc g s).wires = s.wires := rfl
@[simp] theorem State.updDmc_jtag (g s) : (State.updDmc g s).jtag = s.jtag := rfl
@[simp] theorem State.updDmc_fuses (g s) : (State.updDmc g s).fuses = s.fuses := rfl
@[simp] theorem State.updDmc_hif (g s) : (State.updDmc g s).hif = s.hif := rfl
@[simp] theorem State.updDmc_wins (g s) : (State.updDmc g s).wins = s.wins := rfl
@[simp] theorem State.updDmc_link (g s) : (State.updDmc g s).link = s.link := rfl
@[simp] theorem State.updDmc_dev (g s) : (State.updDmc g s).dev = s.dev := rfl
@[simp] theorem State.updDmc_crt (g s) : (State.updDmc g s).crt = s.crt := rfl
@[simp] theorem State.updDmc_cal (g s) : (State.updDmc g s).cal = s.cal := rfl
@[simp] theorem State.updDmc_adm (g s) : (State.updDmc g s).adm = s.adm := rfl
@[simp] theorem State.updDmc_dec (g s) : (State.updDmc g s).dec = s.dec := rfl
@[simp] theorem State.updDmc_enc (g s) : (State.updDmc g s).enc = s.enc := rfl
@[simp] theorem State.updDmc_cse (g s) : (State.updDmc g s).cse = s.cse := rfl
@[simp] theorem State.updDmc_rgn (g s) : (State.updDmc g s).rgn = s.rgn := rfl
@[simp] theorem State.updDmc_rmem (g s) : (State.updDmc g s).rmem = s.rmem := rfl
@[simp] theorem State.updDmc_dis (g s) : (State.updDmc g s).dis = s.dis := rfl
@[simp] theorem State.updDmc_syn (g s) : (State.updDmc g s).syn = s.syn := rfl
@[simp] theorem State.updDmc_bpm (g s) : (State.updDmc g s).bpm = s.bpm := rfl
@[simp] theorem State.updDmc_tke (g s) : (State.updDmc g s).tke = s.tke := rfl
@[simp] theorem State.updDmc_dmc (g s) : (State.updDmc g s).dmc = g s.dmc := rfl
@[simp] theorem State.updDmc_dram (g s) : (State.updDmc g s).dram = s.dram := rfl
@[simp] theorem State.updDmc_pwr (g s) : (State.updDmc g s).pwr = s.pwr := rfl
@[simp] theorem State.updDmc_clk (g s) : (State.updDmc g s).clk = s.clk := rfl
@[simp] theorem State.updDmc_ras (g s) : (State.updDmc g s).ras = s.ras := rfl
@[simp] theorem State.updDmc_trc (g s) : (State.updDmc g s).trc = s.trc := rfl
@[simp] theorem State.updDmc_rst (g s) : (State.updDmc g s).rst = s.rst := rfl
@[simp] theorem State.updDmc_dbg (g s) : (State.updDmc g s).dbg = s.dbg := rfl
@[simp] theorem State.updDmc_out (g s) : (State.updDmc g s).out = s.out := rfl
@[simp] theorem State.updDmc_fresh (g s) : (State.updDmc g s).fresh = s.fresh := rfl
@[simp] theorem State.updDram_pending (g s) : (State.updDram g s).pending = s.pending := rfl
@[simp] theorem State.updDram_ep (g s) : (State.updDram g s).ep = s.ep := rfl
@[simp] theorem State.updDram_aon (g s) : (State.updDram g s).aon = s.aon := rfl
@[simp] theorem State.updDram_wires (g s) : (State.updDram g s).wires = s.wires := rfl
@[simp] theorem State.updDram_jtag (g s) : (State.updDram g s).jtag = s.jtag := rfl
@[simp] theorem State.updDram_fuses (g s) : (State.updDram g s).fuses = s.fuses := rfl
@[simp] theorem State.updDram_hif (g s) : (State.updDram g s).hif = s.hif := rfl
@[simp] theorem State.updDram_wins (g s) : (State.updDram g s).wins = s.wins := rfl
@[simp] theorem State.updDram_link (g s) : (State.updDram g s).link = s.link := rfl
@[simp] theorem State.updDram_dev (g s) : (State.updDram g s).dev = s.dev := rfl
@[simp] theorem State.updDram_crt (g s) : (State.updDram g s).crt = s.crt := rfl
@[simp] theorem State.updDram_cal (g s) : (State.updDram g s).cal = s.cal := rfl
@[simp] theorem State.updDram_adm (g s) : (State.updDram g s).adm = s.adm := rfl
@[simp] theorem State.updDram_dec (g s) : (State.updDram g s).dec = s.dec := rfl
@[simp] theorem State.updDram_enc (g s) : (State.updDram g s).enc = s.enc := rfl
@[simp] theorem State.updDram_cse (g s) : (State.updDram g s).cse = s.cse := rfl
@[simp] theorem State.updDram_rgn (g s) : (State.updDram g s).rgn = s.rgn := rfl
@[simp] theorem State.updDram_rmem (g s) : (State.updDram g s).rmem = s.rmem := rfl
@[simp] theorem State.updDram_dis (g s) : (State.updDram g s).dis = s.dis := rfl
@[simp] theorem State.updDram_syn (g s) : (State.updDram g s).syn = s.syn := rfl
@[simp] theorem State.updDram_bpm (g s) : (State.updDram g s).bpm = s.bpm := rfl
@[simp] theorem State.updDram_tke (g s) : (State.updDram g s).tke = s.tke := rfl
@[simp] theorem State.updDram_dmc (g s) : (State.updDram g s).dmc = s.dmc := rfl
@[simp] theorem State.updDram_dram (g s) : (State.updDram g s).dram = g s.dram := rfl
@[simp] theorem State.updDram_pwr (g s) : (State.updDram g s).pwr = s.pwr := rfl
@[simp] theorem State.updDram_clk (g s) : (State.updDram g s).clk = s.clk := rfl
@[simp] theorem State.updDram_ras (g s) : (State.updDram g s).ras = s.ras := rfl
@[simp] theorem State.updDram_trc (g s) : (State.updDram g s).trc = s.trc := rfl
@[simp] theorem State.updDram_rst (g s) : (State.updDram g s).rst = s.rst := rfl
@[simp] theorem State.updDram_dbg (g s) : (State.updDram g s).dbg = s.dbg := rfl
@[simp] theorem State.updDram_out (g s) : (State.updDram g s).out = s.out := rfl
@[simp] theorem State.updDram_fresh (g s) : (State.updDram g s).fresh = s.fresh := rfl
@[simp] theorem State.updPwr_pending (g s) : (State.updPwr g s).pending = s.pending := rfl
@[simp] theorem State.updPwr_ep (g s) : (State.updPwr g s).ep = s.ep := rfl
@[simp] theorem State.updPwr_aon (g s) : (State.updPwr g s).aon = s.aon := rfl
@[simp] theorem State.updPwr_wires (g s) : (State.updPwr g s).wires = s.wires := rfl
@[simp] theorem State.updPwr_jtag (g s) : (State.updPwr g s).jtag = s.jtag := rfl
@[simp] theorem State.updPwr_fuses (g s) : (State.updPwr g s).fuses = s.fuses := rfl
@[simp] theorem State.updPwr_hif (g s) : (State.updPwr g s).hif = s.hif := rfl
@[simp] theorem State.updPwr_wins (g s) : (State.updPwr g s).wins = s.wins := rfl
@[simp] theorem State.updPwr_link (g s) : (State.updPwr g s).link = s.link := rfl
@[simp] theorem State.updPwr_dev (g s) : (State.updPwr g s).dev = s.dev := rfl
@[simp] theorem State.updPwr_crt (g s) : (State.updPwr g s).crt = s.crt := rfl
@[simp] theorem State.updPwr_cal (g s) : (State.updPwr g s).cal = s.cal := rfl
@[simp] theorem State.updPwr_adm (g s) : (State.updPwr g s).adm = s.adm := rfl
@[simp] theorem State.updPwr_dec (g s) : (State.updPwr g s).dec = s.dec := rfl
@[simp] theorem State.updPwr_enc (g s) : (State.updPwr g s).enc = s.enc := rfl
@[simp] theorem State.updPwr_cse (g s) : (State.updPwr g s).cse = s.cse := rfl
@[simp] theorem State.updPwr_rgn (g s) : (State.updPwr g s).rgn = s.rgn := rfl
@[simp] theorem State.updPwr_rmem (g s) : (State.updPwr g s).rmem = s.rmem := rfl
@[simp] theorem State.updPwr_dis (g s) : (State.updPwr g s).dis = s.dis := rfl
@[simp] theorem State.updPwr_syn (g s) : (State.updPwr g s).syn = s.syn := rfl
@[simp] theorem State.updPwr_bpm (g s) : (State.updPwr g s).bpm = s.bpm := rfl
@[simp] theorem State.updPwr_tke (g s) : (State.updPwr g s).tke = s.tke := rfl
@[simp] theorem State.updPwr_dmc (g s) : (State.updPwr g s).dmc = s.dmc := rfl
@[simp] theorem State.updPwr_dram (g s) : (State.updPwr g s).dram = s.dram := rfl
@[simp] theorem State.updPwr_pwr (g s) : (State.updPwr g s).pwr = g s.pwr := rfl
@[simp] theorem State.updPwr_clk (g s) : (State.updPwr g s).clk = s.clk := rfl
@[simp] theorem State.updPwr_ras (g s) : (State.updPwr g s).ras = s.ras := rfl
@[simp] theorem State.updPwr_trc (g s) : (State.updPwr g s).trc = s.trc := rfl
@[simp] theorem State.updPwr_rst (g s) : (State.updPwr g s).rst = s.rst := rfl
@[simp] theorem State.updPwr_dbg (g s) : (State.updPwr g s).dbg = s.dbg := rfl
@[simp] theorem State.updPwr_out (g s) : (State.updPwr g s).out = s.out := rfl
@[simp] theorem State.updPwr_fresh (g s) : (State.updPwr g s).fresh = s.fresh := rfl
@[simp] theorem State.updClk_pending (g s) : (State.updClk g s).pending = s.pending := rfl
@[simp] theorem State.updClk_ep (g s) : (State.updClk g s).ep = s.ep := rfl
@[simp] theorem State.updClk_aon (g s) : (State.updClk g s).aon = s.aon := rfl
@[simp] theorem State.updClk_wires (g s) : (State.updClk g s).wires = s.wires := rfl
@[simp] theorem State.updClk_jtag (g s) : (State.updClk g s).jtag = s.jtag := rfl
@[simp] theorem State.updClk_fuses (g s) : (State.updClk g s).fuses = s.fuses := rfl
@[simp] theorem State.updClk_hif (g s) : (State.updClk g s).hif = s.hif := rfl
@[simp] theorem State.updClk_wins (g s) : (State.updClk g s).wins = s.wins := rfl
@[simp] theorem State.updClk_link (g s) : (State.updClk g s).link = s.link := rfl
@[simp] theorem State.updClk_dev (g s) : (State.updClk g s).dev = s.dev := rfl
@[simp] theorem State.updClk_crt (g s) : (State.updClk g s).crt = s.crt := rfl
@[simp] theorem State.updClk_cal (g s) : (State.updClk g s).cal = s.cal := rfl
@[simp] theorem State.updClk_adm (g s) : (State.updClk g s).adm = s.adm := rfl
@[simp] theorem State.updClk_dec (g s) : (State.updClk g s).dec = s.dec := rfl
@[simp] theorem State.updClk_enc (g s) : (State.updClk g s).enc = s.enc := rfl
@[simp] theorem State.updClk_cse (g s) : (State.updClk g s).cse = s.cse := rfl
@[simp] theorem State.updClk_rgn (g s) : (State.updClk g s).rgn = s.rgn := rfl
@[simp] theorem State.updClk_rmem (g s) : (State.updClk g s).rmem = s.rmem := rfl
@[simp] theorem State.updClk_dis (g s) : (State.updClk g s).dis = s.dis := rfl
@[simp] theorem State.updClk_syn (g s) : (State.updClk g s).syn = s.syn := rfl
@[simp] theorem State.updClk_bpm (g s) : (State.updClk g s).bpm = s.bpm := rfl
@[simp] theorem State.updClk_tke (g s) : (State.updClk g s).tke = s.tke := rfl
@[simp] theorem State.updClk_dmc (g s) : (State.updClk g s).dmc = s.dmc := rfl
@[simp] theorem State.updClk_dram (g s) : (State.updClk g s).dram = s.dram := rfl
@[simp] theorem State.updClk_pwr (g s) : (State.updClk g s).pwr = s.pwr := rfl
@[simp] theorem State.updClk_clk (g s) : (State.updClk g s).clk = g s.clk := rfl
@[simp] theorem State.updClk_ras (g s) : (State.updClk g s).ras = s.ras := rfl
@[simp] theorem State.updClk_trc (g s) : (State.updClk g s).trc = s.trc := rfl
@[simp] theorem State.updClk_rst (g s) : (State.updClk g s).rst = s.rst := rfl
@[simp] theorem State.updClk_dbg (g s) : (State.updClk g s).dbg = s.dbg := rfl
@[simp] theorem State.updClk_out (g s) : (State.updClk g s).out = s.out := rfl
@[simp] theorem State.updClk_fresh (g s) : (State.updClk g s).fresh = s.fresh := rfl
@[simp] theorem State.updRas_pending (g s) : (State.updRas g s).pending = s.pending := rfl
@[simp] theorem State.updRas_ep (g s) : (State.updRas g s).ep = s.ep := rfl
@[simp] theorem State.updRas_aon (g s) : (State.updRas g s).aon = s.aon := rfl
@[simp] theorem State.updRas_wires (g s) : (State.updRas g s).wires = s.wires := rfl
@[simp] theorem State.updRas_jtag (g s) : (State.updRas g s).jtag = s.jtag := rfl
@[simp] theorem State.updRas_fuses (g s) : (State.updRas g s).fuses = s.fuses := rfl
@[simp] theorem State.updRas_hif (g s) : (State.updRas g s).hif = s.hif := rfl
@[simp] theorem State.updRas_wins (g s) : (State.updRas g s).wins = s.wins := rfl
@[simp] theorem State.updRas_link (g s) : (State.updRas g s).link = s.link := rfl
@[simp] theorem State.updRas_dev (g s) : (State.updRas g s).dev = s.dev := rfl
@[simp] theorem State.updRas_crt (g s) : (State.updRas g s).crt = s.crt := rfl
@[simp] theorem State.updRas_cal (g s) : (State.updRas g s).cal = s.cal := rfl
@[simp] theorem State.updRas_adm (g s) : (State.updRas g s).adm = s.adm := rfl
@[simp] theorem State.updRas_dec (g s) : (State.updRas g s).dec = s.dec := rfl
@[simp] theorem State.updRas_enc (g s) : (State.updRas g s).enc = s.enc := rfl
@[simp] theorem State.updRas_cse (g s) : (State.updRas g s).cse = s.cse := rfl
@[simp] theorem State.updRas_rgn (g s) : (State.updRas g s).rgn = s.rgn := rfl
@[simp] theorem State.updRas_rmem (g s) : (State.updRas g s).rmem = s.rmem := rfl
@[simp] theorem State.updRas_dis (g s) : (State.updRas g s).dis = s.dis := rfl
@[simp] theorem State.updRas_syn (g s) : (State.updRas g s).syn = s.syn := rfl
@[simp] theorem State.updRas_bpm (g s) : (State.updRas g s).bpm = s.bpm := rfl
@[simp] theorem State.updRas_tke (g s) : (State.updRas g s).tke = s.tke := rfl
@[simp] theorem State.updRas_dmc (g s) : (State.updRas g s).dmc = s.dmc := rfl
@[simp] theorem State.updRas_dram (g s) : (State.updRas g s).dram = s.dram := rfl
@[simp] theorem State.updRas_pwr (g s) : (State.updRas g s).pwr = s.pwr := rfl
@[simp] theorem State.updRas_clk (g s) : (State.updRas g s).clk = s.clk := rfl
@[simp] theorem State.updRas_ras (g s) : (State.updRas g s).ras = g s.ras := rfl
@[simp] theorem State.updRas_trc (g s) : (State.updRas g s).trc = s.trc := rfl
@[simp] theorem State.updRas_rst (g s) : (State.updRas g s).rst = s.rst := rfl
@[simp] theorem State.updRas_dbg (g s) : (State.updRas g s).dbg = s.dbg := rfl
@[simp] theorem State.updRas_out (g s) : (State.updRas g s).out = s.out := rfl
@[simp] theorem State.updRas_fresh (g s) : (State.updRas g s).fresh = s.fresh := rfl
@[simp] theorem State.updTrc_pending (g s) : (State.updTrc g s).pending = s.pending := rfl
@[simp] theorem State.updTrc_ep (g s) : (State.updTrc g s).ep = s.ep := rfl
@[simp] theorem State.updTrc_aon (g s) : (State.updTrc g s).aon = s.aon := rfl
@[simp] theorem State.updTrc_wires (g s) : (State.updTrc g s).wires = s.wires := rfl
@[simp] theorem State.updTrc_jtag (g s) : (State.updTrc g s).jtag = s.jtag := rfl
@[simp] theorem State.updTrc_fuses (g s) : (State.updTrc g s).fuses = s.fuses := rfl
@[simp] theorem State.updTrc_hif (g s) : (State.updTrc g s).hif = s.hif := rfl
@[simp] theorem State.updTrc_wins (g s) : (State.updTrc g s).wins = s.wins := rfl
@[simp] theorem State.updTrc_link (g s) : (State.updTrc g s).link = s.link := rfl
@[simp] theorem State.updTrc_dev (g s) : (State.updTrc g s).dev = s.dev := rfl
@[simp] theorem State.updTrc_crt (g s) : (State.updTrc g s).crt = s.crt := rfl
@[simp] theorem State.updTrc_cal (g s) : (State.updTrc g s).cal = s.cal := rfl
@[simp] theorem State.updTrc_adm (g s) : (State.updTrc g s).adm = s.adm := rfl
@[simp] theorem State.updTrc_dec (g s) : (State.updTrc g s).dec = s.dec := rfl
@[simp] theorem State.updTrc_enc (g s) : (State.updTrc g s).enc = s.enc := rfl
@[simp] theorem State.updTrc_cse (g s) : (State.updTrc g s).cse = s.cse := rfl
@[simp] theorem State.updTrc_rgn (g s) : (State.updTrc g s).rgn = s.rgn := rfl
@[simp] theorem State.updTrc_rmem (g s) : (State.updTrc g s).rmem = s.rmem := rfl
@[simp] theorem State.updTrc_dis (g s) : (State.updTrc g s).dis = s.dis := rfl
@[simp] theorem State.updTrc_syn (g s) : (State.updTrc g s).syn = s.syn := rfl
@[simp] theorem State.updTrc_bpm (g s) : (State.updTrc g s).bpm = s.bpm := rfl
@[simp] theorem State.updTrc_tke (g s) : (State.updTrc g s).tke = s.tke := rfl
@[simp] theorem State.updTrc_dmc (g s) : (State.updTrc g s).dmc = s.dmc := rfl
@[simp] theorem State.updTrc_dram (g s) : (State.updTrc g s).dram = s.dram := rfl
@[simp] theorem State.updTrc_pwr (g s) : (State.updTrc g s).pwr = s.pwr := rfl
@[simp] theorem State.updTrc_clk (g s) : (State.updTrc g s).clk = s.clk := rfl
@[simp] theorem State.updTrc_ras (g s) : (State.updTrc g s).ras = s.ras := rfl
@[simp] theorem State.updTrc_trc (g s) : (State.updTrc g s).trc = g s.trc := rfl
@[simp] theorem State.updTrc_rst (g s) : (State.updTrc g s).rst = s.rst := rfl
@[simp] theorem State.updTrc_dbg (g s) : (State.updTrc g s).dbg = s.dbg := rfl
@[simp] theorem State.updTrc_out (g s) : (State.updTrc g s).out = s.out := rfl
@[simp] theorem State.updTrc_fresh (g s) : (State.updTrc g s).fresh = s.fresh := rfl
@[simp] theorem State.updRst_pending (g s) : (State.updRst g s).pending = s.pending := rfl
@[simp] theorem State.updRst_ep (g s) : (State.updRst g s).ep = s.ep := rfl
@[simp] theorem State.updRst_aon (g s) : (State.updRst g s).aon = s.aon := rfl
@[simp] theorem State.updRst_wires (g s) : (State.updRst g s).wires = s.wires := rfl
@[simp] theorem State.updRst_jtag (g s) : (State.updRst g s).jtag = s.jtag := rfl
@[simp] theorem State.updRst_fuses (g s) : (State.updRst g s).fuses = s.fuses := rfl
@[simp] theorem State.updRst_hif (g s) : (State.updRst g s).hif = s.hif := rfl
@[simp] theorem State.updRst_wins (g s) : (State.updRst g s).wins = s.wins := rfl
@[simp] theorem State.updRst_link (g s) : (State.updRst g s).link = s.link := rfl
@[simp] theorem State.updRst_dev (g s) : (State.updRst g s).dev = s.dev := rfl
@[simp] theorem State.updRst_crt (g s) : (State.updRst g s).crt = s.crt := rfl
@[simp] theorem State.updRst_cal (g s) : (State.updRst g s).cal = s.cal := rfl
@[simp] theorem State.updRst_adm (g s) : (State.updRst g s).adm = s.adm := rfl
@[simp] theorem State.updRst_dec (g s) : (State.updRst g s).dec = s.dec := rfl
@[simp] theorem State.updRst_enc (g s) : (State.updRst g s).enc = s.enc := rfl
@[simp] theorem State.updRst_cse (g s) : (State.updRst g s).cse = s.cse := rfl
@[simp] theorem State.updRst_rgn (g s) : (State.updRst g s).rgn = s.rgn := rfl
@[simp] theorem State.updRst_rmem (g s) : (State.updRst g s).rmem = s.rmem := rfl
@[simp] theorem State.updRst_dis (g s) : (State.updRst g s).dis = s.dis := rfl
@[simp] theorem State.updRst_syn (g s) : (State.updRst g s).syn = s.syn := rfl
@[simp] theorem State.updRst_bpm (g s) : (State.updRst g s).bpm = s.bpm := rfl
@[simp] theorem State.updRst_tke (g s) : (State.updRst g s).tke = s.tke := rfl
@[simp] theorem State.updRst_dmc (g s) : (State.updRst g s).dmc = s.dmc := rfl
@[simp] theorem State.updRst_dram (g s) : (State.updRst g s).dram = s.dram := rfl
@[simp] theorem State.updRst_pwr (g s) : (State.updRst g s).pwr = s.pwr := rfl
@[simp] theorem State.updRst_clk (g s) : (State.updRst g s).clk = s.clk := rfl
@[simp] theorem State.updRst_ras (g s) : (State.updRst g s).ras = s.ras := rfl
@[simp] theorem State.updRst_trc (g s) : (State.updRst g s).trc = s.trc := rfl
@[simp] theorem State.updRst_rst (g s) : (State.updRst g s).rst = g s.rst := rfl
@[simp] theorem State.updRst_dbg (g s) : (State.updRst g s).dbg = s.dbg := rfl
@[simp] theorem State.updRst_out (g s) : (State.updRst g s).out = s.out := rfl
@[simp] theorem State.updRst_fresh (g s) : (State.updRst g s).fresh = s.fresh := rfl
@[simp] theorem State.updDbg_pending (g s) : (State.updDbg g s).pending = s.pending := rfl
@[simp] theorem State.updDbg_ep (g s) : (State.updDbg g s).ep = s.ep := rfl
@[simp] theorem State.updDbg_aon (g s) : (State.updDbg g s).aon = s.aon := rfl
@[simp] theorem State.updDbg_wires (g s) : (State.updDbg g s).wires = s.wires := rfl
@[simp] theorem State.updDbg_jtag (g s) : (State.updDbg g s).jtag = s.jtag := rfl
@[simp] theorem State.updDbg_fuses (g s) : (State.updDbg g s).fuses = s.fuses := rfl
@[simp] theorem State.updDbg_hif (g s) : (State.updDbg g s).hif = s.hif := rfl
@[simp] theorem State.updDbg_wins (g s) : (State.updDbg g s).wins = s.wins := rfl
@[simp] theorem State.updDbg_link (g s) : (State.updDbg g s).link = s.link := rfl
@[simp] theorem State.updDbg_dev (g s) : (State.updDbg g s).dev = s.dev := rfl
@[simp] theorem State.updDbg_crt (g s) : (State.updDbg g s).crt = s.crt := rfl
@[simp] theorem State.updDbg_cal (g s) : (State.updDbg g s).cal = s.cal := rfl
@[simp] theorem State.updDbg_adm (g s) : (State.updDbg g s).adm = s.adm := rfl
@[simp] theorem State.updDbg_dec (g s) : (State.updDbg g s).dec = s.dec := rfl
@[simp] theorem State.updDbg_enc (g s) : (State.updDbg g s).enc = s.enc := rfl
@[simp] theorem State.updDbg_cse (g s) : (State.updDbg g s).cse = s.cse := rfl
@[simp] theorem State.updDbg_rgn (g s) : (State.updDbg g s).rgn = s.rgn := rfl
@[simp] theorem State.updDbg_rmem (g s) : (State.updDbg g s).rmem = s.rmem := rfl
@[simp] theorem State.updDbg_dis (g s) : (State.updDbg g s).dis = s.dis := rfl
@[simp] theorem State.updDbg_syn (g s) : (State.updDbg g s).syn = s.syn := rfl
@[simp] theorem State.updDbg_bpm (g s) : (State.updDbg g s).bpm = s.bpm := rfl
@[simp] theorem State.updDbg_tke (g s) : (State.updDbg g s).tke = s.tke := rfl
@[simp] theorem State.updDbg_dmc (g s) : (State.updDbg g s).dmc = s.dmc := rfl
@[simp] theorem State.updDbg_dram (g s) : (State.updDbg g s).dram = s.dram := rfl
@[simp] theorem State.updDbg_pwr (g s) : (State.updDbg g s).pwr = s.pwr := rfl
@[simp] theorem State.updDbg_clk (g s) : (State.updDbg g s).clk = s.clk := rfl
@[simp] theorem State.updDbg_ras (g s) : (State.updDbg g s).ras = s.ras := rfl
@[simp] theorem State.updDbg_trc (g s) : (State.updDbg g s).trc = s.trc := rfl
@[simp] theorem State.updDbg_rst (g s) : (State.updDbg g s).rst = s.rst := rfl
@[simp] theorem State.updDbg_dbg (g s) : (State.updDbg g s).dbg = g s.dbg := rfl
@[simp] theorem State.updDbg_out (g s) : (State.updDbg g s).out = s.out := rfl
@[simp] theorem State.updDbg_fresh (g s) : (State.updDbg g s).fresh = s.fresh := rfl
@[simp] theorem State.updOut_pending (g s) : (State.updOut g s).pending = s.pending := rfl
@[simp] theorem State.updOut_ep (g s) : (State.updOut g s).ep = s.ep := rfl
@[simp] theorem State.updOut_aon (g s) : (State.updOut g s).aon = s.aon := rfl
@[simp] theorem State.updOut_wires (g s) : (State.updOut g s).wires = s.wires := rfl
@[simp] theorem State.updOut_jtag (g s) : (State.updOut g s).jtag = s.jtag := rfl
@[simp] theorem State.updOut_fuses (g s) : (State.updOut g s).fuses = s.fuses := rfl
@[simp] theorem State.updOut_hif (g s) : (State.updOut g s).hif = s.hif := rfl
@[simp] theorem State.updOut_wins (g s) : (State.updOut g s).wins = s.wins := rfl
@[simp] theorem State.updOut_link (g s) : (State.updOut g s).link = s.link := rfl
@[simp] theorem State.updOut_dev (g s) : (State.updOut g s).dev = s.dev := rfl
@[simp] theorem State.updOut_crt (g s) : (State.updOut g s).crt = s.crt := rfl
@[simp] theorem State.updOut_cal (g s) : (State.updOut g s).cal = s.cal := rfl
@[simp] theorem State.updOut_adm (g s) : (State.updOut g s).adm = s.adm := rfl
@[simp] theorem State.updOut_dec (g s) : (State.updOut g s).dec = s.dec := rfl
@[simp] theorem State.updOut_enc (g s) : (State.updOut g s).enc = s.enc := rfl
@[simp] theorem State.updOut_cse (g s) : (State.updOut g s).cse = s.cse := rfl
@[simp] theorem State.updOut_rgn (g s) : (State.updOut g s).rgn = s.rgn := rfl
@[simp] theorem State.updOut_rmem (g s) : (State.updOut g s).rmem = s.rmem := rfl
@[simp] theorem State.updOut_dis (g s) : (State.updOut g s).dis = s.dis := rfl
@[simp] theorem State.updOut_syn (g s) : (State.updOut g s).syn = s.syn := rfl
@[simp] theorem State.updOut_bpm (g s) : (State.updOut g s).bpm = s.bpm := rfl
@[simp] theorem State.updOut_tke (g s) : (State.updOut g s).tke = s.tke := rfl
@[simp] theorem State.updOut_dmc (g s) : (State.updOut g s).dmc = s.dmc := rfl
@[simp] theorem State.updOut_dram (g s) : (State.updOut g s).dram = s.dram := rfl
@[simp] theorem State.updOut_pwr (g s) : (State.updOut g s).pwr = s.pwr := rfl
@[simp] theorem State.updOut_clk (g s) : (State.updOut g s).clk = s.clk := rfl
@[simp] theorem State.updOut_ras (g s) : (State.updOut g s).ras = s.ras := rfl
@[simp] theorem State.updOut_trc (g s) : (State.updOut g s).trc = s.trc := rfl
@[simp] theorem State.updOut_rst (g s) : (State.updOut g s).rst = s.rst := rfl
@[simp] theorem State.updOut_dbg (g s) : (State.updOut g s).dbg = s.dbg := rfl
@[simp] theorem State.updOut_out (g s) : (State.updOut g s).out = g s.out := rfl
@[simp] theorem State.updOut_fresh (g s) : (State.updOut g s).fresh = s.fresh := rfl
@[simp] theorem State.updFresh_pending (g s) : (State.updFresh g s).pending = s.pending := rfl
@[simp] theorem State.updFresh_ep (g s) : (State.updFresh g s).ep = s.ep := rfl
@[simp] theorem State.updFresh_aon (g s) : (State.updFresh g s).aon = s.aon := rfl
@[simp] theorem State.updFresh_wires (g s) : (State.updFresh g s).wires = s.wires := rfl
@[simp] theorem State.updFresh_jtag (g s) : (State.updFresh g s).jtag = s.jtag := rfl
@[simp] theorem State.updFresh_fuses (g s) : (State.updFresh g s).fuses = s.fuses := rfl
@[simp] theorem State.updFresh_hif (g s) : (State.updFresh g s).hif = s.hif := rfl
@[simp] theorem State.updFresh_wins (g s) : (State.updFresh g s).wins = s.wins := rfl
@[simp] theorem State.updFresh_link (g s) : (State.updFresh g s).link = s.link := rfl
@[simp] theorem State.updFresh_dev (g s) : (State.updFresh g s).dev = s.dev := rfl
@[simp] theorem State.updFresh_crt (g s) : (State.updFresh g s).crt = s.crt := rfl
@[simp] theorem State.updFresh_cal (g s) : (State.updFresh g s).cal = s.cal := rfl
@[simp] theorem State.updFresh_adm (g s) : (State.updFresh g s).adm = s.adm := rfl
@[simp] theorem State.updFresh_dec (g s) : (State.updFresh g s).dec = s.dec := rfl
@[simp] theorem State.updFresh_enc (g s) : (State.updFresh g s).enc = s.enc := rfl
@[simp] theorem State.updFresh_cse (g s) : (State.updFresh g s).cse = s.cse := rfl
@[simp] theorem State.updFresh_rgn (g s) : (State.updFresh g s).rgn = s.rgn := rfl
@[simp] theorem State.updFresh_rmem (g s) : (State.updFresh g s).rmem = s.rmem := rfl
@[simp] theorem State.updFresh_dis (g s) : (State.updFresh g s).dis = s.dis := rfl
@[simp] theorem State.updFresh_syn (g s) : (State.updFresh g s).syn = s.syn := rfl
@[simp] theorem State.updFresh_bpm (g s) : (State.updFresh g s).bpm = s.bpm := rfl
@[simp] theorem State.updFresh_tke (g s) : (State.updFresh g s).tke = s.tke := rfl
@[simp] theorem State.updFresh_dmc (g s) : (State.updFresh g s).dmc = s.dmc := rfl
@[simp] theorem State.updFresh_dram (g s) : (State.updFresh g s).dram = s.dram := rfl
@[simp] theorem State.updFresh_pwr (g s) : (State.updFresh g s).pwr = s.pwr := rfl
@[simp] theorem State.updFresh_clk (g s) : (State.updFresh g s).clk = s.clk := rfl
@[simp] theorem State.updFresh_ras (g s) : (State.updFresh g s).ras = s.ras := rfl
@[simp] theorem State.updFresh_trc (g s) : (State.updFresh g s).trc = s.trc := rfl
@[simp] theorem State.updFresh_rst (g s) : (State.updFresh g s).rst = s.rst := rfl
@[simp] theorem State.updFresh_dbg (g s) : (State.updFresh g s).dbg = s.dbg := rfl
@[simp] theorem State.updFresh_out (g s) : (State.updFresh g s).out = s.out := rfl
@[simp] theorem State.updFresh_fresh (g s) : (State.updFresh g s).fresh = g s.fresh := rfl

end Sys2Proof.Machine
end

