-- ==== Sys2Proof/Laws/Parts.lean ====
section
/-! SUPPORT. What the operations used most leave alone: one lemma per part of the state, from what each keeps. -/

set_option Elab.async false
set_option linter.all false

namespace Sys2Proof.Machine

@[simp] theorem State.takeRead_pending (s) : (State.takeRead s).pending = s.pending := (State.takeRead_keeps (m := fun p => decide (p ∈ [.hif, .link])) rfl rfl s (.refl s)).same .pending rfl
@[simp] theorem State.takeRead_ep (s) : (State.takeRead s).ep = s.ep := (State.takeRead_keeps (m := fun p => decide (p ∈ [.hif, .link])) rfl rfl s (.refl s)).same .ep rfl
@[simp] theorem State.takeRead_aon (s) : (State.takeRead s).aon = s.aon := (State.takeRead_keeps (m := fun p => decide (p ∈ [.hif, .link])) rfl rfl s (.refl s)).same .aon rfl
@[simp] theorem State.takeRead_wires (s) : (State.takeRead s).wires = s.wires := (State.takeRead_keeps (m := fun p => decide (p ∈ [.hif, .link])) rfl rfl s (.refl s)).same .wires rfl
@[simp] theorem State.takeRead_jtag (s) : (State.takeRead s).jtag = s.jtag := (State.takeRead_keeps (m := fun p => decide (p ∈ [.hif, .link])) rfl rfl s (.refl s)).same .jtag rfl
@[simp] theorem State.takeRead_fuses (s) : (State.takeRead s).fuses = s.fuses := (State.takeRead_keeps (m := fun p => decide (p ∈ [.hif, .link])) rfl rfl s (.refl s)).same .fuses rfl
@[simp] theorem State.takeRead_wins (s) : (State.takeRead s).wins = s.wins := (State.takeRead_keeps (m := fun p => decide (p ∈ [.hif, .link])) rfl rfl s (.refl s)).same .wins rfl
@[simp] theorem State.takeRead_dev (s) : (State.takeRead s).dev = s.dev := (State.takeRead_keeps (m := fun p => decide (p ∈ [.hif, .link])) rfl rfl s (.refl s)).same .dev rfl
@[simp] theorem State.takeRead_crt (s) : (State.takeRead s).crt = s.crt := (State.takeRead_keeps (m := fun p => decide (p ∈ [.hif, .link])) rfl rfl s (.refl s)).same .crt rfl
@[simp] theorem State.takeRead_cal (s) : (State.takeRead s).cal = s.cal := (State.takeRead_keeps (m := fun p => decide (p ∈ [.hif, .link])) rfl rfl s (.refl s)).same .cal rfl
@[simp] theorem State.takeRead_adm (s) : (State.takeRead s).adm = s.adm := (State.takeRead_keeps (m := fun p => decide (p ∈ [.hif, .link])) rfl rfl s (.refl s)).same .adm rfl
@[simp] theorem State.takeRead_dec (s) : (State.takeRead s).dec = s.dec := (State.takeRead_keeps (m := fun p => decide (p ∈ [.hif, .link])) rfl rfl s (.refl s)).same .dec rfl
@[simp] theorem State.takeRead_enc (s) : (State.takeRead s).enc = s.enc := (State.takeRead_keeps (m := fun p => decide (p ∈ [.hif, .link])) rfl rfl s (.refl s)).same .enc rfl
@[simp] theorem State.takeRead_cse (s) : (State.takeRead s).cse = s.cse := (State.takeRead_keeps (m := fun p => decide (p ∈ [.hif, .link])) rfl rfl s (.refl s)).same .cse rfl
@[simp] theorem State.takeRead_rgn (s) : (State.takeRead s).rgn = s.rgn := (State.takeRead_keeps (m := fun p => decide (p ∈ [.hif, .link])) rfl rfl s (.refl s)).same .rgn rfl
@[simp] theorem State.takeRead_rmem (s) : (State.takeRead s).rmem = s.rmem := (State.takeRead_keeps (m := fun p => decide (p ∈ [.hif, .link])) rfl rfl s (.refl s)).same .rmem rfl
@[simp] theorem State.takeRead_dis (s) : (State.takeRead s).dis = s.dis := (State.takeRead_keeps (m := fun p => decide (p ∈ [.hif, .link])) rfl rfl s (.refl s)).same .dis rfl
@[simp] theorem State.takeRead_syn (s) : (State.takeRead s).syn = s.syn := (State.takeRead_keeps (m := fun p => decide (p ∈ [.hif, .link])) rfl rfl s (.refl s)).same .syn rfl
@[simp] theorem State.takeRead_bpm (s) : (State.takeRead s).bpm = s.bpm := (State.takeRead_keeps (m := fun p => decide (p ∈ [.hif, .link])) rfl rfl s (.refl s)).same .bpm rfl
@[simp] theorem State.takeRead_tke (s) : (State.takeRead s).tke = s.tke := (State.takeRead_keeps (m := fun p => decide (p ∈ [.hif, .link])) rfl rfl s (.refl s)).same .tke rfl
@[simp] theorem State.takeRead_dmc (s) : (State.takeRead s).dmc = s.dmc := (State.takeRead_keeps (m := fun p => decide (p ∈ [.hif, .link])) rfl rfl s (.refl s)).same .dmc rfl
@[simp] theorem State.takeRead_dram (s) : (State.takeRead s).dram = s.dram := (State.takeRead_keeps (m := fun p => decide (p ∈ [.hif, .link])) rfl rfl s (.refl s)).same .dram rfl
@[simp] theorem State.takeRead_pwr (s) : (State.takeRead s).pwr = s.pwr := (State.takeRead_keeps (m := fun p => decide (p ∈ [.hif, .link])) rfl rfl s (.refl s)).same .pwr rfl
@[simp] theorem State.takeRead_clk (s) : (State.takeRead s).clk = s.clk := (State.takeRead_keeps (m := fun p => decide (p ∈ [.hif, .link])) rfl rfl s (.refl s)).same .clk rfl
@[simp] theorem State.takeRead_ras (s) : (State.takeRead s).ras = s.ras := (State.takeRead_keeps (m := fun p => decide (p ∈ [.hif, .link])) rfl rfl s (.refl s)).same .ras rfl
@[simp] theorem State.takeRead_trc (s) : (State.takeRead s).trc = s.trc := (State.takeRead_keeps (m := fun p => decide (p ∈ [.hif, .link])) rfl rfl s (.refl s)).same .trc rfl
@[simp] theorem State.takeRead_rst (s) : (State.takeRead s).rst = s.rst := (State.takeRead_keeps (m := fun p => decide (p ∈ [.hif, .link])) rfl rfl s (.refl s)).same .rst rfl
@[simp] theorem State.takeRead_dbg (s) : (State.takeRead s).dbg = s.dbg := (State.takeRead_keeps (m := fun p => decide (p ∈ [.hif, .link])) rfl rfl s (.refl s)).same .dbg rfl
@[simp] theorem State.takeRead_out (s) : (State.takeRead s).out = s.out := (State.takeRead_keeps (m := fun p => decide (p ∈ [.hif, .link])) rfl rfl s (.refl s)).same .out rfl
@[simp] theorem State.takeRead_fresh (s) : (State.takeRead s).fresh = s.fresh := (State.takeRead_keeps (m := fun p => decide (p ∈ [.hif, .link])) rfl rfl s (.refl s)).same .fresh rfl

@[simp] theorem State.reply_pending (a0) (a1) (a2) (a3) (a4) (s) : (State.reply a0 a1 a2 a3 a4 s).pending = s.pending := (State.reply_keeps (m := fun p => decide (p ∈ [.hif, .link, .out])) rfl rfl rfl _ _ _ _ _ s (.refl s)).same .pending rfl
@[simp] theorem State.reply_ep (a0) (a1) (a2) (a3) (a4) (s) : (State.reply a0 a1 a2 a3 a4 s).ep = s.ep := (State.reply_keeps (m := fun p => decide (p ∈ [.hif, .link, .out])) rfl rfl rfl _ _ _ _ _ s (.refl s)).same .ep rfl
@[simp] theorem State.reply_aon (a0) (a1) (a2) (a3) (a4) (s) : (State.reply a0 a1 a2 a3 a4 s).aon = s.aon := (State.reply_keeps (m := fun p => decide (p ∈ [.hif, .link, .out])) rfl rfl rfl _ _ _ _ _ s (.refl s)).same .aon rfl
@[simp] theorem State.reply_wires (a0) (a1) (a2) (a3) (a4) (s) : (State.reply a0 a1 a2 a3 a4 s).wires = s.wires := (State.reply_keeps (m := fun p => decide (p ∈ [.hif, .link, .out])) rfl rfl rfl _ _ _ _ _ s (.refl s)).same .wires rfl
@[simp] theorem State.reply_jtag (a0) (a1) (a2) (a3) (a4) (s) : (State.reply a0 a1 a2 a3 a4 s).jtag = s.jtag := (State.reply_keeps (m := fun p => decide (p ∈ [.hif, .link, .out])) rfl rfl rfl _ _ _ _ _ s (.refl s)).same .jtag rfl
@[simp] theorem State.reply_fuses (a0) (a1) (a2) (a3) (a4) (s) : (State.reply a0 a1 a2 a3 a4 s).fuses = s.fuses := (State.reply_keeps (m := fun p => decide (p ∈ [.hif, .link, .out])) rfl rfl rfl _ _ _ _ _ s (.refl s)).same .fuses rfl
@[simp] theorem State.reply_wins (a0) (a1) (a2) (a3) (a4) (s) : (State.reply a0 a1 a2 a3 a4 s).wins = s.wins := (State.reply_keeps (m := fun p => decide (p ∈ [.hif, .link, .out])) rfl rfl rfl _ _ _ _ _ s (.refl s)).same .wins rfl
@[simp] theorem State.reply_dev (a0) (a1) (a2) (a3) (a4) (s) : (State.reply a0 a1 a2 a3 a4 s).dev = s.dev := (State.reply_keeps (m := fun p => decide (p ∈ [.hif, .link, .out])) rfl rfl rfl _ _ _ _ _ s (.refl s)).same .dev rfl
@[simp] theorem State.reply_crt (a0) (a1) (a2) (a3) (a4) (s) : (State.reply a0 a1 a2 a3 a4 s).crt = s.crt := (State.reply_keeps (m := fun p => decide (p ∈ [.hif, .link, .out])) rfl rfl rfl _ _ _ _ _ s (.refl s)).same .crt rfl
@[simp] theorem State.reply_cal (a0) (a1) (a2) (a3) (a4) (s) : (State.reply a0 a1 a2 a3 a4 s).cal = s.cal := (State.reply_keeps (m := fun p => decide (p ∈ [.hif, .link, .out])) rfl rfl rfl _ _ _ _ _ s (.refl s)).same .cal rfl
@[simp] theorem State.reply_adm (a0) (a1) (a2) (a3) (a4) (s) : (State.reply a0 a1 a2 a3 a4 s).adm = s.adm := (State.reply_keeps (m := fun p => decide (p ∈ [.hif, .link, .out])) rfl rfl rfl _ _ _ _ _ s (.refl s)).same .adm rfl
@[simp] theorem State.reply_dec (a0) (a1) (a2) (a3) (a4) (s) : (State.reply a0 a1 a2 a3 a4 s).dec = s.dec := (State.reply_keeps (m := fun p => decide (p ∈ [.hif, .link, .out])) rfl rfl rfl _ _ _ _ _ s (.refl s)).same .dec rfl
@[simp] theorem State.reply_enc (a0) (a1) (a2) (a3) (a4) (s) : (State.reply a0 a1 a2 a3 a4 s).enc = s.enc := (State.reply_keeps (m := fun p => decide (p ∈ [.hif, .link, .out])) rfl rfl rfl _ _ _ _ _ s (.refl s)).same .enc rfl
@[simp] theorem State.reply_cse (a0) (a1) (a2) (a3) (a4) (s) : (State.reply a0 a1 a2 a3 a4 s).cse = s.cse := (State.reply_keeps (m := fun p => decide (p ∈ [.hif, .link, .out])) rfl rfl rfl _ _ _ _ _ s (.refl s)).same .cse rfl
@[simp] theorem State.reply_rgn (a0) (a1) (a2) (a3) (a4) (s) : (State.reply a0 a1 a2 a3 a4 s).rgn = s.rgn := (State.reply_keeps (m := fun p => decide (p ∈ [.hif, .link, .out])) rfl rfl rfl _ _ _ _ _ s (.refl s)).same .rgn rfl
@[simp] theorem State.reply_rmem (a0) (a1) (a2) (a3) (a4) (s) : (State.reply a0 a1 a2 a3 a4 s).rmem = s.rmem := (State.reply_keeps (m := fun p => decide (p ∈ [.hif, .link, .out])) rfl rfl rfl _ _ _ _ _ s (.refl s)).same .rmem rfl
@[simp] theorem State.reply_dis (a0) (a1) (a2) (a3) (a4) (s) : (State.reply a0 a1 a2 a3 a4 s).dis = s.dis := (State.reply_keeps (m := fun p => decide (p ∈ [.hif, .link, .out])) rfl rfl rfl _ _ _ _ _ s (.refl s)).same .dis rfl
@[simp] theorem State.reply_syn (a0) (a1) (a2) (a3) (a4) (s) : (State.reply a0 a1 a2 a3 a4 s).syn = s.syn := (State.reply_keeps (m := fun p => decide (p ∈ [.hif, .link, .out])) rfl rfl rfl _ _ _ _ _ s (.refl s)).same .syn rfl
@[simp] theorem State.reply_bpm (a0) (a1) (a2) (a3) (a4) (s) : (State.reply a0 a1 a2 a3 a4 s).bpm = s.bpm := (State.reply_keeps (m := fun p => decide (p ∈ [.hif, .link, .out])) rfl rfl rfl _ _ _ _ _ s (.refl s)).same .bpm rfl
@[simp] theorem State.reply_tke (a0) (a1) (a2) (a3) (a4) (s) : (State.reply a0 a1 a2 a3 a4 s).tke = s.tke := (State.reply_keeps (m := fun p => decide (p ∈ [.hif, .link, .out])) rfl rfl rfl _ _ _ _ _ s (.refl s)).same .tke rfl
@[simp] theorem State.reply_dmc (a0) (a1) (a2) (a3) (a4) (s) : (State.reply a0 a1 a2 a3 a4 s).dmc = s.dmc := (State.reply_keeps (m := fun p => decide (p ∈ [.hif, .link, .out])) rfl rfl rfl _ _ _ _ _ s (.refl s)).same .dmc rfl
@[simp] theorem State.reply_dram (a0) (a1) (a2) (a3) (a4) (s) : (State.reply a0 a1 a2 a3 a4 s).dram = s.dram := (State.reply_keeps (m := fun p => decide (p ∈ [.hif, .link, .out])) rfl rfl rfl _ _ _ _ _ s (.refl s)).same .dram rfl
@[simp] theorem State.reply_pwr (a0) (a1) (a2) (a3) (a4) (s) : (State.reply a0 a1 a2 a3 a4 s).pwr = s.pwr := (State.reply_keeps (m := fun p => decide (p ∈ [.hif, .link, .out])) rfl rfl rfl _ _ _ _ _ s (.refl s)).same .pwr rfl
@[simp] theorem State.reply_clk (a0) (a1) (a2) (a3) (a4) (s) : (State.reply a0 a1 a2 a3 a4 s).clk = s.clk := (State.reply_keeps (m := fun p => decide (p ∈ [.hif, .link, .out])) rfl rfl rfl _ _ _ _ _ s (.refl s)).same .clk rfl
@[simp] theorem State.reply_ras (a0) (a1) (a2) (a3) (a4) (s) : (State.reply a0 a1 a2 a3 a4 s).ras = s.ras := (State.reply_keeps (m := fun p => decide (p ∈ [.hif, .link, .out])) rfl rfl rfl _ _ _ _ _ s (.refl s)).same .ras rfl
@[simp] theorem State.reply_trc (a0) (a1) (a2) (a3) (a4) (s) : (State.reply a0 a1 a2 a3 a4 s).trc = s.trc := (State.reply_keeps (m := fun p => decide (p ∈ [.hif, .link, .out])) rfl rfl rfl _ _ _ _ _ s (.refl s)).same .trc rfl
@[simp] theorem State.reply_rst (a0) (a1) (a2) (a3) (a4) (s) : (State.reply a0 a1 a2 a3 a4 s).rst = s.rst := (State.reply_keeps (m := fun p => decide (p ∈ [.hif, .link, .out])) rfl rfl rfl _ _ _ _ _ s (.refl s)).same .rst rfl
@[simp] theorem State.reply_dbg (a0) (a1) (a2) (a3) (a4) (s) : (State.reply a0 a1 a2 a3 a4 s).dbg = s.dbg := (State.reply_keeps (m := fun p => decide (p ∈ [.hif, .link, .out])) rfl rfl rfl _ _ _ _ _ s (.refl s)).same .dbg rfl
@[simp] theorem State.reply_fresh (a0) (a1) (a2) (a3) (a4) (s) : (State.reply a0 a1 a2 a3 a4 s).fresh = s.fresh := (State.reply_keeps (m := fun p => decide (p ∈ [.hif, .link, .out])) rfl rfl rfl _ _ _ _ _ s (.refl s)).same .fresh rfl

@[simp] theorem State.reportLtr_pending (s) : (State.reportLtr s).pending = s.pending := (State.reportLtr_keeps (m := fun p => decide (p ∈ [.link, .out])) rfl rfl s (.refl s)).same .pending rfl
@[simp] theorem State.reportLtr_ep (s) : (State.reportLtr s).ep = s.ep := (State.reportLtr_keeps (m := fun p => decide (p ∈ [.link, .out])) rfl rfl s (.refl s)).same .ep rfl
@[simp] theorem State.reportLtr_aon (s) : (State.reportLtr s).aon = s.aon := (State.reportLtr_keeps (m := fun p => decide (p ∈ [.link, .out])) rfl rfl s (.refl s)).same .aon rfl
@[simp] theorem State.reportLtr_wires (s) : (State.reportLtr s).wires = s.wires := (State.reportLtr_keeps (m := fun p => decide (p ∈ [.link, .out])) rfl rfl s (.refl s)).same .wires rfl
@[simp] theorem State.reportLtr_jtag (s) : (State.reportLtr s).jtag = s.jtag := (State.reportLtr_keeps (m := fun p => decide (p ∈ [.link, .out])) rfl rfl s (.refl s)).same .jtag rfl
@[simp] theorem State.reportLtr_fuses (s) : (State.reportLtr s).fuses = s.fuses := (State.reportLtr_keeps (m := fun p => decide (p ∈ [.link, .out])) rfl rfl s (.refl s)).same .fuses rfl
@[simp] theorem State.reportLtr_hif (s) : (State.reportLtr s).hif = s.hif := (State.reportLtr_keeps (m := fun p => decide (p ∈ [.link, .out])) rfl rfl s (.refl s)).same .hif rfl
@[simp] theorem State.reportLtr_wins (s) : (State.reportLtr s).wins = s.wins := (State.reportLtr_keeps (m := fun p => decide (p ∈ [.link, .out])) rfl rfl s (.refl s)).same .wins rfl
@[simp] theorem State.reportLtr_dev (s) : (State.reportLtr s).dev = s.dev := (State.reportLtr_keeps (m := fun p => decide (p ∈ [.link, .out])) rfl rfl s (.refl s)).same .dev rfl
@[simp] theorem State.reportLtr_crt (s) : (State.reportLtr s).crt = s.crt := (State.reportLtr_keeps (m := fun p => decide (p ∈ [.link, .out])) rfl rfl s (.refl s)).same .crt rfl
@[simp] theorem State.reportLtr_cal (s) : (State.reportLtr s).cal = s.cal := (State.reportLtr_keeps (m := fun p => decide (p ∈ [.link, .out])) rfl rfl s (.refl s)).same .cal rfl
@[simp] theorem State.reportLtr_adm (s) : (State.reportLtr s).adm = s.adm := (State.reportLtr_keeps (m := fun p => decide (p ∈ [.link, .out])) rfl rfl s (.refl s)).same .adm rfl
@[simp] theorem State.reportLtr_dec (s) : (State.reportLtr s).dec = s.dec := (State.reportLtr_keeps (m := fun p => decide (p ∈ [.link, .out])) rfl rfl s (.refl s)).same .dec rfl
@[simp] theorem State.reportLtr_enc (s) : (State.reportLtr s).enc = s.enc := (State.reportLtr_keeps (m := fun p => decide (p ∈ [.link, .out])) rfl rfl s (.refl s)).same .enc rfl
@[simp] theorem State.reportLtr_cse (s) : (State.reportLtr s).cse = s.cse := (State.reportLtr_keeps (m := fun p => decide (p ∈ [.link, .out])) rfl rfl s (.refl s)).same .cse rfl
@[simp] theorem State.reportLtr_rgn (s) : (State.reportLtr s).rgn = s.rgn := (State.reportLtr_keeps (m := fun p => decide (p ∈ [.link, .out])) rfl rfl s (.refl s)).same .rgn rfl
@[simp] theorem State.reportLtr_rmem (s) : (State.reportLtr s).rmem = s.rmem := (State.reportLtr_keeps (m := fun p => decide (p ∈ [.link, .out])) rfl rfl s (.refl s)).same .rmem rfl
@[simp] theorem State.reportLtr_dis (s) : (State.reportLtr s).dis = s.dis := (State.reportLtr_keeps (m := fun p => decide (p ∈ [.link, .out])) rfl rfl s (.refl s)).same .dis rfl
@[simp] theorem State.reportLtr_syn (s) : (State.reportLtr s).syn = s.syn := (State.reportLtr_keeps (m := fun p => decide (p ∈ [.link, .out])) rfl rfl s (.refl s)).same .syn rfl
@[simp] theorem State.reportLtr_bpm (s) : (State.reportLtr s).bpm = s.bpm := (State.reportLtr_keeps (m := fun p => decide (p ∈ [.link, .out])) rfl rfl s (.refl s)).same .bpm rfl
@[simp] theorem State.reportLtr_tke (s) : (State.reportLtr s).tke = s.tke := (State.reportLtr_keeps (m := fun p => decide (p ∈ [.link, .out])) rfl rfl s (.refl s)).same .tke rfl
@[simp] theorem State.reportLtr_dmc (s) : (State.reportLtr s).dmc = s.dmc := (State.reportLtr_keeps (m := fun p => decide (p ∈ [.link, .out])) rfl rfl s (.refl s)).same .dmc rfl
@[simp] theorem State.reportLtr_dram (s) : (State.reportLtr s).dram = s.dram := (State.reportLtr_keeps (m := fun p => decide (p ∈ [.link, .out])) rfl rfl s (.refl s)).same .dram rfl
@[simp] theorem State.reportLtr_pwr (s) : (State.reportLtr s).pwr = s.pwr := (State.reportLtr_keeps (m := fun p => decide (p ∈ [.link, .out])) rfl rfl s (.refl s)).same .pwr rfl
@[simp] theorem State.reportLtr_clk (s) : (State.reportLtr s).clk = s.clk := (State.reportLtr_keeps (m := fun p => decide (p ∈ [.link, .out])) rfl rfl s (.refl s)).same .clk rfl
@[simp] theorem State.reportLtr_ras (s) : (State.reportLtr s).ras = s.ras := (State.reportLtr_keeps (m := fun p => decide (p ∈ [.link, .out])) rfl rfl s (.refl s)).same .ras rfl
@[simp] theorem State.reportLtr_trc (s) : (State.reportLtr s).trc = s.trc := (State.reportLtr_keeps (m := fun p => decide (p ∈ [.link, .out])) rfl rfl s (.refl s)).same .trc rfl
@[simp] theorem State.reportLtr_rst (s) : (State.reportLtr s).rst = s.rst := (State.reportLtr_keeps (m := fun p => decide (p ∈ [.link, .out])) rfl rfl s (.refl s)).same .rst rfl
@[simp] theorem State.reportLtr_dbg (s) : (State.reportLtr s).dbg = s.dbg := (State.reportLtr_keeps (m := fun p => decide (p ∈ [.link, .out])) rfl rfl s (.refl s)).same .dbg rfl
@[simp] theorem State.reportLtr_fresh (s) : (State.reportLtr s).fresh = s.fresh := (State.reportLtr_keeps (m := fun p => decide (p ∈ [.link, .out])) rfl rfl s (.refl s)).same .fresh rfl

@[simp] theorem State.startCommand_pending (a0) (a1) (a2) (s) : (State.startCommand a0 a1 a2 s).pending = s.pending := (State.startCommand_keeps (m := fun p => decide (p ∈ [.hif])) rfl _ _ _ s (.refl s)).same .pending rfl
@[simp] theorem State.startCommand_ep (a0) (a1) (a2) (s) : (State.startCommand a0 a1 a2 s).ep = s.ep := (State.startCommand_keeps (m := fun p => decide (p ∈ [.hif])) rfl _ _ _ s (.refl s)).same .ep rfl
@[simp] theorem State.startCommand_aon (a0) (a1) (a2) (s) : (State.startCommand a0 a1 a2 s).aon = s.aon := (State.startCommand_keeps (m := fun p => decide (p ∈ [.hif])) rfl _ _ _ s (.refl s)).same .aon rfl
@[simp] theorem State.startCommand_wires (a0) (a1) (a2) (s) : (State.startCommand a0 a1 a2 s).wires = s.wires := (State.startCommand_keeps (m := fun p => decide (p ∈ [.hif])) rfl _ _ _ s (.refl s)).same .wires rfl
@[simp] theorem State.startCommand_jtag (a0) (a1) (a2) (s) : (State.startCommand a0 a1 a2 s).jtag = s.jtag := (State.startCommand_keeps (m := fun p => decide (p ∈ [.hif])) rfl _ _ _ s (.refl s)).same .jtag rfl
@[simp] theorem State.startCommand_fuses (a0) (a1) (a2) (s) : (State.startCommand a0 a1 a2 s).fuses = s.fuses := (State.startCommand_keeps (m := fun p => decide (p ∈ [.hif])) rfl _ _ _ s (.refl s)).same .fuses rfl
@[simp] theorem State.startCommand_wins (a0) (a1) (a2) (s) : (State.startCommand a0 a1 a2 s).wins = s.wins := (State.startCommand_keeps (m := fun p => decide (p ∈ [.hif])) rfl _ _ _ s (.refl s)).same .wins rfl
@[simp] theorem State.startCommand_link (a0) (a1) (a2) (s) : (State.startCommand a0 a1 a2 s).link = s.link := (State.startCommand_keeps (m := fun p => decide (p ∈ [.hif])) rfl _ _ _ s (.refl s)).same .link rfl
@[simp] theorem State.startCommand_dev (a0) (a1) (a2) (s) : (State.startCommand a0 a1 a2 s).dev = s.dev := (State.startCommand_keeps (m := fun p => decide (p ∈ [.hif])) rfl _ _ _ s (.refl s)).same .dev rfl
@[simp] theorem State.startCommand_crt (a0) (a1) (a2) (s) : (State.startCommand a0 a1 a2 s).crt = s.crt := (State.startCommand_keeps (m := fun p => decide (p ∈ [.hif])) rfl _ _ _ s (.refl s)).same .crt rfl
@[simp] theorem State.startCommand_cal (a0) (a1) (a2) (s) : (State.startCommand a0 a1 a2 s).cal = s.cal := (State.startCommand_keeps (m := fun p => decide (p ∈ [.hif])) rfl _ _ _ s (.refl s)).same .cal rfl
@[simp] theorem State.startCommand_adm (a0) (a1) (a2) (s) : (State.startCommand a0 a1 a2 s).adm = s.adm := (State.startCommand_keeps (m := fun p => decide (p ∈ [.hif])) rfl _ _ _ s (.refl s)).same .adm rfl
@[simp] theorem State.startCommand_dec (a0) (a1) (a2) (s) : (State.startCommand a0 a1 a2 s).dec = s.dec := (State.startCommand_keeps (m := fun p => decide (p ∈ [.hif])) rfl _ _ _ s (.refl s)).same .dec rfl
@[simp] theorem State.startCommand_enc (a0) (a1) (a2) (s) : (State.startCommand a0 a1 a2 s).enc = s.enc := (State.startCommand_keeps (m := fun p => decide (p ∈ [.hif])) rfl _ _ _ s (.refl s)).same .enc rfl
@[simp] theorem State.startCommand_cse (a0) (a1) (a2) (s) : (State.startCommand a0 a1 a2 s).cse = s.cse := (State.startCommand_keeps (m := fun p => decide (p ∈ [.hif])) rfl _ _ _ s (.refl s)).same .cse rfl
@[simp] theorem State.startCommand_rgn (a0) (a1) (a2) (s) : (State.startCommand a0 a1 a2 s).rgn = s.rgn := (State.startCommand_keeps (m := fun p => decide (p ∈ [.hif])) rfl _ _ _ s (.refl s)).same .rgn rfl
@[simp] theorem State.startCommand_rmem (a0) (a1) (a2) (s) : (State.startCommand a0 a1 a2 s).rmem = s.rmem := (State.startCommand_keeps (m := fun p => decide (p ∈ [.hif])) rfl _ _ _ s (.refl s)).same .rmem rfl
@[simp] theorem State.startCommand_dis (a0) (a1) (a2) (s) : (State.startCommand a0 a1 a2 s).dis = s.dis := (State.startCommand_keeps (m := fun p => decide (p ∈ [.hif])) rfl _ _ _ s (.refl s)).same .dis rfl
@[simp] theorem State.startCommand_syn (a0) (a1) (a2) (s) : (State.startCommand a0 a1 a2 s).syn = s.syn := (State.startCommand_keeps (m := fun p => decide (p ∈ [.hif])) rfl _ _ _ s (.refl s)).same .syn rfl
@[simp] theorem State.startCommand_bpm (a0) (a1) (a2) (s) : (State.startCommand a0 a1 a2 s).bpm = s.bpm := (State.startCommand_keeps (m := fun p => decide (p ∈ [.hif])) rfl _ _ _ s (.refl s)).same .bpm rfl
@[simp] theorem State.startCommand_tke (a0) (a1) (a2) (s) : (State.startCommand a0 a1 a2 s).tke = s.tke := (State.startCommand_keeps (m := fun p => decide (p ∈ [.hif])) rfl _ _ _ s (.refl s)).same .tke rfl
@[simp] theorem State.startCommand_dmc (a0) (a1) (a2) (s) : (State.startCommand a0 a1 a2 s).dmc = s.dmc := (State.startCommand_keeps (m := fun p => decide (p ∈ [.hif])) rfl _ _ _ s (.refl s)).same .dmc rfl
@[simp] theorem State.startCommand_dram (a0) (a1) (a2) (s) : (State.startCommand a0 a1 a2 s).dram = s.dram := (State.startCommand_keeps (m := fun p => decide (p ∈ [.hif])) rfl _ _ _ s (.refl s)).same .dram rfl
@[simp] theorem State.startCommand_pwr (a0) (a1) (a2) (s) : (State.startCommand a0 a1 a2 s).pwr = s.pwr := (State.startCommand_keeps (m := fun p => decide (p ∈ [.hif])) rfl _ _ _ s (.refl s)).same .pwr rfl
@[simp] theorem State.startCommand_clk (a0) (a1) (a2) (s) : (State.startCommand a0 a1 a2 s).clk = s.clk := (State.startCommand_keeps (m := fun p => decide (p ∈ [.hif])) rfl _ _ _ s (.refl s)).same .clk rfl
@[simp] theorem State.startCommand_ras (a0) (a1) (a2) (s) : (State.startCommand a0 a1 a2 s).ras = s.ras := (State.startCommand_keeps (m := fun p => decide (p ∈ [.hif])) rfl _ _ _ s (.refl s)).same .ras rfl
@[simp] theorem State.startCommand_trc (a0) (a1) (a2) (s) : (State.startCommand a0 a1 a2 s).trc = s.trc := (State.startCommand_keeps (m := fun p => decide (p ∈ [.hif])) rfl _ _ _ s (.refl s)).same .trc rfl
@[simp] theorem State.startCommand_rst (a0) (a1) (a2) (s) : (State.startCommand a0 a1 a2 s).rst = s.rst := (State.startCommand_keeps (m := fun p => decide (p ∈ [.hif])) rfl _ _ _ s (.refl s)).same .rst rfl
@[simp] theorem State.startCommand_dbg (a0) (a1) (a2) (s) : (State.startCommand a0 a1 a2 s).dbg = s.dbg := (State.startCommand_keeps (m := fun p => decide (p ∈ [.hif])) rfl _ _ _ s (.refl s)).same .dbg rfl
@[simp] theorem State.startCommand_out (a0) (a1) (a2) (s) : (State.startCommand a0 a1 a2 s).out = s.out := (State.startCommand_keeps (m := fun p => decide (p ∈ [.hif])) rfl _ _ _ s (.refl s)).same .out rfl
@[simp] theorem State.startCommand_fresh (a0) (a1) (a2) (s) : (State.startCommand a0 a1 a2 s).fresh = s.fresh := (State.startCommand_keeps (m := fun p => decide (p ∈ [.hif])) rfl _ _ _ s (.refl s)).same .fresh rfl

@[simp] theorem State.send_pending (a0) (s) : (State.send a0 s).pending = s.pending := (State.send_keeps (m := fun p => decide (p ∈ [.out])) rfl _ s (.refl s)).same .pending rfl
@[simp] theorem State.send_ep (a0) (s) : (State.send a0 s).ep = s.ep := (State.send_keeps (m := fun p => decide (p ∈ [.out])) rfl _ s (.refl s)).same .ep rfl
@[simp] theorem State.send_aon (a0) (s) : (State.send a0 s).aon = s.aon := (State.send_keeps (m := fun p => decide (p ∈ [.out])) rfl _ s (.refl s)).same .aon rfl
@[simp] theorem State.send_wires (a0) (s) : (State.send a0 s).wires = s.wires := (State.send_keeps (m := fun p => decide (p ∈ [.out])) rfl _ s (.refl s)).same .wires rfl
@[simp] theorem State.send_jtag (a0) (s) : (State.send a0 s).jtag = s.jtag := (State.send_keeps (m := fun p => decide (p ∈ [.out])) rfl _ s (.refl s)).same .jtag rfl
@[simp] theorem State.send_fuses (a0) (s) : (State.send a0 s).fuses = s.fuses := (State.send_keeps (m := fun p => decide (p ∈ [.out])) rfl _ s (.refl s)).same .fuses rfl
@[simp] theorem State.send_hif (a0) (s) : (State.send a0 s).hif = s.hif := (State.send_keeps (m := fun p => decide (p ∈ [.out])) rfl _ s (.refl s)).same .hif rfl
@[simp] theorem State.send_wins (a0) (s) : (State.send a0 s).wins = s.wins := (State.send_keeps (m := fun p => decide (p ∈ [.out])) rfl _ s (.refl s)).same .wins rfl
@[simp] theorem State.send_link (a0) (s) : (State.send a0 s).link = s.link := (State.send_keeps (m := fun p => decide (p ∈ [.out])) rfl _ s (.refl s)).same .link rfl
@[simp] theorem State.send_dev (a0) (s) : (State.send a0 s).dev = s.dev := (State.send_keeps (m := fun p => decide (p ∈ [.out])) rfl _ s (.refl s)).same .dev rfl
@[simp] theorem State.send_crt (a0) (s) : (State.send a0 s).crt = s.crt := (State.send_keeps (m := fun p => decide (p ∈ [.out])) rfl _ s (.refl s)).same .crt rfl
@[simp] theorem State.send_cal (a0) (s) : (State.send a0 s).cal = s.cal := (State.send_keeps (m := fun p => decide (p ∈ [.out])) rfl _ s (.refl s)).same .cal rfl
@[simp] theorem State.send_adm (a0) (s) : (State.send a0 s).adm = s.adm := (State.send_keeps (m := fun p => decide (p ∈ [.out])) rfl _ s (.refl s)).same .adm rfl
@[simp] theorem State.send_dec (a0) (s) : (State.send a0 s).dec = s.dec := (State.send_keeps (m := fun p => decide (p ∈ [.out])) rfl _ s (.refl s)).same .dec rfl
@[simp] theorem State.send_enc (a0) (s) : (State.send a0 s).enc = s.enc := (State.send_keeps (m := fun p => decide (p ∈ [.out])) rfl _ s (.refl s)).same .enc rfl
@[simp] theorem State.send_cse (a0) (s) : (State.send a0 s).cse = s.cse := (State.send_keeps (m := fun p => decide (p ∈ [.out])) rfl _ s (.refl s)).same .cse rfl
@[simp] theorem State.send_rgn (a0) (s) : (State.send a0 s).rgn = s.rgn := (State.send_keeps (m := fun p => decide (p ∈ [.out])) rfl _ s (.refl s)).same .rgn rfl
@[simp] theorem State.send_rmem (a0) (s) : (State.send a0 s).rmem = s.rmem := (State.send_keeps (m := fun p => decide (p ∈ [.out])) rfl _ s (.refl s)).same .rmem rfl
@[simp] theorem State.send_dis (a0) (s) : (State.send a0 s).dis = s.dis := (State.send_keeps (m := fun p => decide (p ∈ [.out])) rfl _ s (.refl s)).same .dis rfl
@[simp] theorem State.send_syn (a0) (s) : (State.send a0 s).syn = s.syn := (State.send_keeps (m := fun p => decide (p ∈ [.out])) rfl _ s (.refl s)).same .syn rfl
@[simp] theorem State.send_bpm (a0) (s) : (State.send a0 s).bpm = s.bpm := (State.send_keeps (m := fun p => decide (p ∈ [.out])) rfl _ s (.refl s)).same .bpm rfl
@[simp] theorem State.send_tke (a0) (s) : (State.send a0 s).tke = s.tke := (State.send_keeps (m := fun p => decide (p ∈ [.out])) rfl _ s (.refl s)).same .tke rfl
@[simp] theorem State.send_dmc (a0) (s) : (State.send a0 s).dmc = s.dmc := (State.send_keeps (m := fun p => decide (p ∈ [.out])) rfl _ s (.refl s)).same .dmc rfl
@[simp] theorem State.send_dram (a0) (s) : (State.send a0 s).dram = s.dram := (State.send_keeps (m := fun p => decide (p ∈ [.out])) rfl _ s (.refl s)).same .dram rfl
@[simp] theorem State.send_pwr (a0) (s) : (State.send a0 s).pwr = s.pwr := (State.send_keeps (m := fun p => decide (p ∈ [.out])) rfl _ s (.refl s)).same .pwr rfl
@[simp] theorem State.send_clk (a0) (s) : (State.send a0 s).clk = s.clk := (State.send_keeps (m := fun p => decide (p ∈ [.out])) rfl _ s (.refl s)).same .clk rfl
@[simp] theorem State.send_ras (a0) (s) : (State.send a0 s).ras = s.ras := (State.send_keeps (m := fun p => decide (p ∈ [.out])) rfl _ s (.refl s)).same .ras rfl
@[simp] theorem State.send_trc (a0) (s) : (State.send a0 s).trc = s.trc := (State.send_keeps (m := fun p => decide (p ∈ [.out])) rfl _ s (.refl s)).same .trc rfl
@[simp] theorem State.send_rst (a0) (s) : (State.send a0 s).rst = s.rst := (State.send_keeps (m := fun p => decide (p ∈ [.out])) rfl _ s (.refl s)).same .rst rfl
@[simp] theorem State.send_dbg (a0) (s) : (State.send a0 s).dbg = s.dbg := (State.send_keeps (m := fun p => decide (p ∈ [.out])) rfl _ s (.refl s)).same .dbg rfl
@[simp] theorem State.send_fresh (a0) (s) : (State.send a0 s).fresh = s.fresh := (State.send_keeps (m := fun p => decide (p ∈ [.out])) rfl _ s (.refl s)).same .fresh rfl

@[simp] theorem State.fire_pending (a0) (s) : (State.fire a0 s).pending = s.pending := (State.fire_keeps (m := fun p => decide (p ∈ [.link, .out])) rfl rfl _ s (.refl s)).same .pending rfl
@[simp] theorem State.fire_ep (a0) (s) : (State.fire a0 s).ep = s.ep := (State.fire_keeps (m := fun p => decide (p ∈ [.link, .out])) rfl rfl _ s (.refl s)).same .ep rfl
@[simp] theorem State.fire_aon (a0) (s) : (State.fire a0 s).aon = s.aon := (State.fire_keeps (m := fun p => decide (p ∈ [.link, .out])) rfl rfl _ s (.refl s)).same .aon rfl
@[simp] theorem State.fire_wires (a0) (s) : (State.fire a0 s).wires = s.wires := (State.fire_keeps (m := fun p => decide (p ∈ [.link, .out])) rfl rfl _ s (.refl s)).same .wires rfl
@[simp] theorem State.fire_jtag (a0) (s) : (State.fire a0 s).jtag = s.jtag := (State.fire_keeps (m := fun p => decide (p ∈ [.link, .out])) rfl rfl _ s (.refl s)).same .jtag rfl
@[simp] theorem State.fire_fuses (a0) (s) : (State.fire a0 s).fuses = s.fuses := (State.fire_keeps (m := fun p => decide (p ∈ [.link, .out])) rfl rfl _ s (.refl s)).same .fuses rfl
@[simp] theorem State.fire_hif (a0) (s) : (State.fire a0 s).hif = s.hif := (State.fire_keeps (m := fun p => decide (p ∈ [.link, .out])) rfl rfl _ s (.refl s)).same .hif rfl
@[simp] theorem State.fire_wins (a0) (s) : (State.fire a0 s).wins = s.wins := (State.fire_keeps (m := fun p => decide (p ∈ [.link, .out])) rfl rfl _ s (.refl s)).same .wins rfl
@[simp] theorem State.fire_dev (a0) (s) : (State.fire a0 s).dev = s.dev := (State.fire_keeps (m := fun p => decide (p ∈ [.link, .out])) rfl rfl _ s (.refl s)).same .dev rfl
@[simp] theorem State.fire_crt (a0) (s) : (State.fire a0 s).crt = s.crt := (State.fire_keeps (m := fun p => decide (p ∈ [.link, .out])) rfl rfl _ s (.refl s)).same .crt rfl
@[simp] theorem State.fire_cal (a0) (s) : (State.fire a0 s).cal = s.cal := (State.fire_keeps (m := fun p => decide (p ∈ [.link, .out])) rfl rfl _ s (.refl s)).same .cal rfl
@[simp] theorem State.fire_adm (a0) (s) : (State.fire a0 s).adm = s.adm := (State.fire_keeps (m := fun p => decide (p ∈ [.link, .out])) rfl rfl _ s (.refl s)).same .adm rfl
@[simp] theorem State.fire_dec (a0) (s) : (State.fire a0 s).dec = s.dec := (State.fire_keeps (m := fun p => decide (p ∈ [.link, .out])) rfl rfl _ s (.refl s)).same .dec rfl
@[simp] theorem State.fire_enc (a0) (s) : (State.fire a0 s).enc = s.enc := (State.fire_keeps (m := fun p => decide (p ∈ [.link, .out])) rfl rfl _ s (.refl s)).same .enc rfl
@[simp] theorem State.fire_cse (a0) (s) : (State.fire a0 s).cse = s.cse := (State.fire_keeps (m := fun p => decide (p ∈ [.link, .out])) rfl rfl _ s (.refl s)).same .cse rfl
@[simp] theorem State.fire_rgn (a0) (s) : (State.fire a0 s).rgn = s.rgn := (State.fire_keeps (m := fun p => decide (p ∈ [.link, .out])) rfl rfl _ s (.refl s)).same .rgn rfl
@[simp] theorem State.fire_rmem (a0) (s) : (State.fire a0 s).rmem = s.rmem := (State.fire_keeps (m := fun p => decide (p ∈ [.link, .out])) rfl rfl _ s (.refl s)).same .rmem rfl
@[simp] theorem State.fire_dis (a0) (s) : (State.fire a0 s).dis = s.dis := (State.fire_keeps (m := fun p => decide (p ∈ [.link, .out])) rfl rfl _ s (.refl s)).same .dis rfl
@[simp] theorem State.fire_syn (a0) (s) : (State.fire a0 s).syn = s.syn := (State.fire_keeps (m := fun p => decide (p ∈ [.link, .out])) rfl rfl _ s (.refl s)).same .syn rfl
@[simp] theorem State.fire_bpm (a0) (s) : (State.fire a0 s).bpm = s.bpm := (State.fire_keeps (m := fun p => decide (p ∈ [.link, .out])) rfl rfl _ s (.refl s)).same .bpm rfl
@[simp] theorem State.fire_tke (a0) (s) : (State.fire a0 s).tke = s.tke := (State.fire_keeps (m := fun p => decide (p ∈ [.link, .out])) rfl rfl _ s (.refl s)).same .tke rfl
@[simp] theorem State.fire_dmc (a0) (s) : (State.fire a0 s).dmc = s.dmc := (State.fire_keeps (m := fun p => decide (p ∈ [.link, .out])) rfl rfl _ s (.refl s)).same .dmc rfl
@[simp] theorem State.fire_dram (a0) (s) : (State.fire a0 s).dram = s.dram := (State.fire_keeps (m := fun p => decide (p ∈ [.link, .out])) rfl rfl _ s (.refl s)).same .dram rfl
@[simp] theorem State.fire_pwr (a0) (s) : (State.fire a0 s).pwr = s.pwr := (State.fire_keeps (m := fun p => decide (p ∈ [.link, .out])) rfl rfl _ s (.refl s)).same .pwr rfl
@[simp] theorem State.fire_clk (a0) (s) : (State.fire a0 s).clk = s.clk := (State.fire_keeps (m := fun p => decide (p ∈ [.link, .out])) rfl rfl _ s (.refl s)).same .clk rfl
@[simp] theorem State.fire_ras (a0) (s) : (State.fire a0 s).ras = s.ras := (State.fire_keeps (m := fun p => decide (p ∈ [.link, .out])) rfl rfl _ s (.refl s)).same .ras rfl
@[simp] theorem State.fire_trc (a0) (s) : (State.fire a0 s).trc = s.trc := (State.fire_keeps (m := fun p => decide (p ∈ [.link, .out])) rfl rfl _ s (.refl s)).same .trc rfl
@[simp] theorem State.fire_rst (a0) (s) : (State.fire a0 s).rst = s.rst := (State.fire_keeps (m := fun p => decide (p ∈ [.link, .out])) rfl rfl _ s (.refl s)).same .rst rfl
@[simp] theorem State.fire_dbg (a0) (s) : (State.fire a0 s).dbg = s.dbg := (State.fire_keeps (m := fun p => decide (p ∈ [.link, .out])) rfl rfl _ s (.refl s)).same .dbg rfl
@[simp] theorem State.fire_fresh (a0) (s) : (State.fire a0 s).fresh = s.fresh := (State.fire_keeps (m := fun p => decide (p ∈ [.link, .out])) rfl rfl _ s (.refl s)).same .fresh rfl

@[simp] theorem State.burn_pending (s) : (State.burn s).pending = s.pending := (State.burn_keeps (m := fun p => decide (p ∈ [.fresh])) rfl s (.refl s)).same .pending rfl
@[simp] theorem State.burn_ep (s) : (State.burn s).ep = s.ep := (State.burn_keeps (m := fun p => decide (p ∈ [.fresh])) rfl s (.refl s)).same .ep rfl
@[simp] theorem State.burn_aon (s) : (State.burn s).aon = s.aon := (State.burn_keeps (m := fun p => decide (p ∈ [.fresh])) rfl s (.refl s)).same .aon rfl
@[simp] theorem State.burn_wires (s) : (State.burn s).wires = s.wires := (State.burn_keeps (m := fun p => decide (p ∈ [.fresh])) rfl s (.refl s)).same .wires rfl
@[simp] theorem State.burn_jtag (s) : (State.burn s).jtag = s.jtag := (State.burn_keeps (m := fun p => decide (p ∈ [.fresh])) rfl s (.refl s)).same .jtag rfl
@[simp] theorem State.burn_fuses (s) : (State.burn s).fuses = s.fuses := (State.burn_keeps (m := fun p => decide (p ∈ [.fresh])) rfl s (.refl s)).same .fuses rfl
@[simp] theorem State.burn_hif (s) : (State.burn s).hif = s.hif := (State.burn_keeps (m := fun p => decide (p ∈ [.fresh])) rfl s (.refl s)).same .hif rfl
@[simp] theorem State.burn_wins (s) : (State.burn s).wins = s.wins := (State.burn_keeps (m := fun p => decide (p ∈ [.fresh])) rfl s (.refl s)).same .wins rfl
@[simp] theorem State.burn_link (s) : (State.burn s).link = s.link := (State.burn_keeps (m := fun p => decide (p ∈ [.fresh])) rfl s (.refl s)).same .link rfl
@[simp] theorem State.burn_dev (s) : (State.burn s).dev = s.dev := (State.burn_keeps (m := fun p => decide (p ∈ [.fresh])) rfl s (.refl s)).same .dev rfl
@[simp] theorem State.burn_crt (s) : (State.burn s).crt = s.crt := (State.burn_keeps (m := fun p => decide (p ∈ [.fresh])) rfl s (.refl s)).same .crt rfl
@[simp] theorem State.burn_cal (s) : (State.burn s).cal = s.cal := (State.burn_keeps (m := fun p => decide (p ∈ [.fresh])) rfl s (.refl s)).same .cal rfl
@[simp] theorem State.burn_adm (s) : (State.burn s).adm = s.adm := (State.burn_keeps (m := fun p => decide (p ∈ [.fresh])) rfl s (.refl s)).same .adm rfl
@[simp] theorem State.burn_dec (s) : (State.burn s).dec = s.dec := (State.burn_keeps (m := fun p => decide (p ∈ [.fresh])) rfl s (.refl s)).same .dec rfl
@[simp] theorem State.burn_enc (s) : (State.burn s).enc = s.enc := (State.burn_keeps (m := fun p => decide (p ∈ [.fresh])) rfl s (.refl s)).same .enc rfl
@[simp] theorem State.burn_cse (s) : (State.burn s).cse = s.cse := (State.burn_keeps (m := fun p => decide (p ∈ [.fresh])) rfl s (.refl s)).same .cse rfl
@[simp] theorem State.burn_rgn (s) : (State.burn s).rgn = s.rgn := (State.burn_keeps (m := fun p => decide (p ∈ [.fresh])) rfl s (.refl s)).same .rgn rfl
@[simp] theorem State.burn_rmem (s) : (State.burn s).rmem = s.rmem := (State.burn_keeps (m := fun p => decide (p ∈ [.fresh])) rfl s (.refl s)).same .rmem rfl
@[simp] theorem State.burn_dis (s) : (State.burn s).dis = s.dis := (State.burn_keeps (m := fun p => decide (p ∈ [.fresh])) rfl s (.refl s)).same .dis rfl
@[simp] theorem State.burn_syn (s) : (State.burn s).syn = s.syn := (State.burn_keeps (m := fun p => decide (p ∈ [.fresh])) rfl s (.refl s)).same .syn rfl
@[simp] theorem State.burn_bpm (s) : (State.burn s).bpm = s.bpm := (State.burn_keeps (m := fun p => decide (p ∈ [.fresh])) rfl s (.refl s)).same .bpm rfl
@[simp] theorem State.burn_tke (s) : (State.burn s).tke = s.tke := (State.burn_keeps (m := fun p => decide (p ∈ [.fresh])) rfl s (.refl s)).same .tke rfl
@[simp] theorem State.burn_dmc (s) : (State.burn s).dmc = s.dmc := (State.burn_keeps (m := fun p => decide (p ∈ [.fresh])) rfl s (.refl s)).same .dmc rfl
@[simp] theorem State.burn_dram (s) : (State.burn s).dram = s.dram := (State.burn_keeps (m := fun p => decide (p ∈ [.fresh])) rfl s (.refl s)).same .dram rfl
@[simp] theorem State.burn_pwr (s) : (State.burn s).pwr = s.pwr := (State.burn_keeps (m := fun p => decide (p ∈ [.fresh])) rfl s (.refl s)).same .pwr rfl
@[simp] theorem State.burn_clk (s) : (State.burn s).clk = s.clk := (State.burn_keeps (m := fun p => decide (p ∈ [.fresh])) rfl s (.refl s)).same .clk rfl
@[simp] theorem State.burn_ras (s) : (State.burn s).ras = s.ras := (State.burn_keeps (m := fun p => decide (p ∈ [.fresh])) rfl s (.refl s)).same .ras rfl
@[simp] theorem State.burn_trc (s) : (State.burn s).trc = s.trc := (State.burn_keeps (m := fun p => decide (p ∈ [.fresh])) rfl s (.refl s)).same .trc rfl
@[simp] theorem State.burn_rst (s) : (State.burn s).rst = s.rst := (State.burn_keeps (m := fun p => decide (p ∈ [.fresh])) rfl s (.refl s)).same .rst rfl
@[simp] theorem State.burn_dbg (s) : (State.burn s).dbg = s.dbg := (State.burn_keeps (m := fun p => decide (p ∈ [.fresh])) rfl s (.refl s)).same .dbg rfl
@[simp] theorem State.burn_out (s) : (State.burn s).out = s.out := (State.burn_keeps (m := fun p => decide (p ∈ [.fresh])) rfl s (.refl s)).same .out rfl

@[simp] theorem State.waitUntil_pending (a0) (s) : (State.waitUntil a0 s).pending = s.pending := (State.waitUntil_keeps (m := fun p => decide (p ∈ [.aon])) rfl _ s (.refl s)).same .pending rfl
@[simp] theorem State.waitUntil_ep (a0) (s) : (State.waitUntil a0 s).ep = s.ep := (State.waitUntil_keeps (m := fun p => decide (p ∈ [.aon])) rfl _ s (.refl s)).same .ep rfl
@[simp] theorem State.waitUntil_wires (a0) (s) : (State.waitUntil a0 s).wires = s.wires := (State.waitUntil_keeps (m := fun p => decide (p ∈ [.aon])) rfl _ s (.refl s)).same .wires rfl
@[simp] theorem State.waitUntil_jtag (a0) (s) : (State.waitUntil a0 s).jtag = s.jtag := (State.waitUntil_keeps (m := fun p => decide (p ∈ [.aon])) rfl _ s (.refl s)).same .jtag rfl
@[simp] theorem State.waitUntil_fuses (a0) (s) : (State.waitUntil a0 s).fuses = s.fuses := (State.waitUntil_keeps (m := fun p => decide (p ∈ [.aon])) rfl _ s (.refl s)).same .fuses rfl
@[simp] theorem State.waitUntil_hif (a0) (s) : (State.waitUntil a0 s).hif = s.hif := (State.waitUntil_keeps (m := fun p => decide (p ∈ [.aon])) rfl _ s (.refl s)).same .hif rfl
@[simp] theorem State.waitUntil_wins (a0) (s) : (State.waitUntil a0 s).wins = s.wins := (State.waitUntil_keeps (m := fun p => decide (p ∈ [.aon])) rfl _ s (.refl s)).same .wins rfl
@[simp] theorem State.waitUntil_link (a0) (s) : (State.waitUntil a0 s).link = s.link := (State.waitUntil_keeps (m := fun p => decide (p ∈ [.aon])) rfl _ s (.refl s)).same .link rfl
@[simp] theorem State.waitUntil_dev (a0) (s) : (State.waitUntil a0 s).dev = s.dev := (State.waitUntil_keeps (m := fun p => decide (p ∈ [.aon])) rfl _ s (.refl s)).same .dev rfl
@[simp] theorem State.waitUntil_crt (a0) (s) : (State.waitUntil a0 s).crt = s.crt := (State.waitUntil_keeps (m := fun p => decide (p ∈ [.aon])) rfl _ s (.refl s)).same .crt rfl
@[simp] theorem State.waitUntil_cal (a0) (s) : (State.waitUntil a0 s).cal = s.cal := (State.waitUntil_keeps (m := fun p => decide (p ∈ [.aon])) rfl _ s (.refl s)).same .cal rfl
@[simp] theorem State.waitUntil_adm (a0) (s) : (State.waitUntil a0 s).adm = s.adm := (State.waitUntil_keeps (m := fun p => decide (p ∈ [.aon])) rfl _ s (.refl s)).same .adm rfl
@[simp] theorem State.waitUntil_dec (a0) (s) : (State.waitUntil a0 s).dec = s.dec := (State.waitUntil_keeps (m := fun p => decide (p ∈ [.aon])) rfl _ s (.refl s)).same .dec rfl
@[simp] theorem State.waitUntil_enc (a0) (s) : (State.waitUntil a0 s).enc = s.enc := (State.waitUntil_keeps (m := fun p => decide (p ∈ [.aon])) rfl _ s (.refl s)).same .enc rfl
@[simp] theorem State.waitUntil_cse (a0) (s) : (State.waitUntil a0 s).cse = s.cse := (State.waitUntil_keeps (m := fun p => decide (p ∈ [.aon])) rfl _ s (.refl s)).same .cse rfl
@[simp] theorem State.waitUntil_rgn (a0) (s) : (State.waitUntil a0 s).rgn = s.rgn := (State.waitUntil_keeps (m := fun p => decide (p ∈ [.aon])) rfl _ s (.refl s)).same .rgn rfl
@[simp] theorem State.waitUntil_rmem (a0) (s) : (State.waitUntil a0 s).rmem = s.rmem := (State.waitUntil_keeps (m := fun p => decide (p ∈ [.aon])) rfl _ s (.refl s)).same .rmem rfl
@[simp] theorem State.waitUntil_dis (a0) (s) : (State.waitUntil a0 s).dis = s.dis := (State.waitUntil_keeps (m := fun p => decide (p ∈ [.aon])) rfl _ s (.refl s)).same .dis rfl
@[simp] theorem State.waitUntil_syn (a0) (s) : (State.waitUntil a0 s).syn = s.syn := (State.waitUntil_keeps (m := fun p => decide (p ∈ [.aon])) rfl _ s (.refl s)).same .syn rfl
@[simp] theorem State.waitUntil_bpm (a0) (s) : (State.waitUntil a0 s).bpm = s.bpm := (State.waitUntil_keeps (m := fun p => decide (p ∈ [.aon])) rfl _ s (.refl s)).same .bpm rfl
@[simp] theorem State.waitUntil_tke (a0) (s) : (State.waitUntil a0 s).tke = s.tke := (State.waitUntil_keeps (m := fun p => decide (p ∈ [.aon])) rfl _ s (.refl s)).same .tke rfl
@[simp] theorem State.waitUntil_dmc (a0) (s) : (State.waitUntil a0 s).dmc = s.dmc := (State.waitUntil_keeps (m := fun p => decide (p ∈ [.aon])) rfl _ s (.refl s)).same .dmc rfl
@[simp] theorem State.waitUntil_dram (a0) (s) : (State.waitUntil a0 s).dram = s.dram := (State.waitUntil_keeps (m := fun p => decide (p ∈ [.aon])) rfl _ s (.refl s)).same .dram rfl
@[simp] theorem State.waitUntil_pwr (a0) (s) : (State.waitUntil a0 s).pwr = s.pwr := (State.waitUntil_keeps (m := fun p => decide (p ∈ [.aon])) rfl _ s (.refl s)).same .pwr rfl
@[simp] theorem State.waitUntil_clk (a0) (s) : (State.waitUntil a0 s).clk = s.clk := (State.waitUntil_keeps (m := fun p => decide (p ∈ [.aon])) rfl _ s (.refl s)).same .clk rfl
@[simp] theorem State.waitUntil_ras (a0) (s) : (State.waitUntil a0 s).ras = s.ras := (State.waitUntil_keeps (m := fun p => decide (p ∈ [.aon])) rfl _ s (.refl s)).same .ras rfl
@[simp] theorem State.waitUntil_trc (a0) (s) : (State.waitUntil a0 s).trc = s.trc := (State.waitUntil_keeps (m := fun p => decide (p ∈ [.aon])) rfl _ s (.refl s)).same .trc rfl
@[simp] theorem State.waitUntil_rst (a0) (s) : (State.waitUntil a0 s).rst = s.rst := (State.waitUntil_keeps (m := fun p => decide (p ∈ [.aon])) rfl _ s (.refl s)).same .rst rfl
@[simp] theorem State.waitUntil_dbg (a0) (s) : (State.waitUntil a0 s).dbg = s.dbg := (State.waitUntil_keeps (m := fun p => decide (p ∈ [.aon])) rfl _ s (.refl s)).same .dbg rfl
@[simp] theorem State.waitUntil_out (a0) (s) : (State.waitUntil a0 s).out = s.out := (State.waitUntil_keeps (m := fun p => decide (p ∈ [.aon])) rfl _ s (.refl s)).same .out rfl
@[simp] theorem State.waitUntil_fresh (a0) (s) : (State.waitUntil a0 s).fresh = s.fresh := (State.waitUntil_keeps (m := fun p => decide (p ∈ [.aon])) rfl _ s (.refl s)).same .fresh rfl

@[simp] theorem State.issueRead_pending (a0) (a1) (a2) (a3) (s) : (State.issueRead a0 a1 a2 a3 s).pending = s.pending := (State.issueRead_keeps (m := fun p => decide (p ∈ [.link, .out])) rfl rfl _ _ _ _ s (.refl s)).same .pending rfl
@[simp] theorem State.issueRead_ep (a0) (a1) (a2) (a3) (s) : (State.issueRead a0 a1 a2 a3 s).ep = s.ep := (State.issueRead_keeps (m := fun p => decide (p ∈ [.link, .out])) rfl rfl _ _ _ _ s (.refl s)).same .ep rfl
@[simp] theorem State.issueRead_aon (a0) (a1) (a2) (a3) (s) : (State.issueRead a0 a1 a2 a3 s).aon = s.aon := (State.issueRead_keeps (m := fun p => decide (p ∈ [.link, .out])) rfl rfl _ _ _ _ s (.refl s)).same .aon rfl
@[simp] theorem State.issueRead_wires (a0) (a1) (a2) (a3) (s) : (State.issueRead a0 a1 a2 a3 s).wires = s.wires := (State.issueRead_keeps (m := fun p => decide (p ∈ [.link, .out])) rfl rfl _ _ _ _ s (.refl s)).same .wires rfl
@[simp] theorem State.issueRead_jtag (a0) (a1) (a2) (a3) (s) : (State.issueRead a0 a1 a2 a3 s).jtag = s.jtag := (State.issueRead_keeps (m := fun p => decide (p ∈ [.link, .out])) rfl rfl _ _ _ _ s (.refl s)).same .jtag rfl
@[simp] theorem State.issueRead_fuses (a0) (a1) (a2) (a3) (s) : (State.issueRead a0 a1 a2 a3 s).fuses = s.fuses := (State.issueRead_keeps (m := fun p => decide (p ∈ [.link, .out])) rfl rfl _ _ _ _ s (.refl s)).same .fuses rfl
@[simp] theorem State.issueRead_hif (a0) (a1) (a2) (a3) (s) : (State.issueRead a0 a1 a2 a3 s).hif = s.hif := (State.issueRead_keeps (m := fun p => decide (p ∈ [.link, .out])) rfl rfl _ _ _ _ s (.refl s)).same .hif rfl
@[simp] theorem State.issueRead_wins (a0) (a1) (a2) (a3) (s) : (State.issueRead a0 a1 a2 a3 s).wins = s.wins := (State.issueRead_keeps (m := fun p => decide (p ∈ [.link, .out])) rfl rfl _ _ _ _ s (.refl s)).same .wins rfl
@[simp] theorem State.issueRead_dev (a0) (a1) (a2) (a3) (s) : (State.issueRead a0 a1 a2 a3 s).dev = s.dev := (State.issueRead_keeps (m := fun p => decide (p ∈ [.link, .out])) rfl rfl _ _ _ _ s (.refl s)).same .dev rfl
@[simp] theorem State.issueRead_crt (a0) (a1) (a2) (a3) (s) : (State.issueRead a0 a1 a2 a3 s).crt = s.crt := (State.issueRead_keeps (m := fun p => decide (p ∈ [.link, .out])) rfl rfl _ _ _ _ s (.refl s)).same .crt rfl
@[simp] theorem State.issueRead_cal (a0) (a1) (a2) (a3) (s) : (State.issueRead a0 a1 a2 a3 s).cal = s.cal := (State.issueRead_keeps (m := fun p => decide (p ∈ [.link, .out])) rfl rfl _ _ _ _ s (.refl s)).same .cal rfl
@[simp] theorem State.issueRead_adm (a0) (a1) (a2) (a3) (s) : (State.issueRead a0 a1 a2 a3 s).adm = s.adm := (State.issueRead_keeps (m := fun p => decide (p ∈ [.link, .out])) rfl rfl _ _ _ _ s (.refl s)).same .adm rfl
@[simp] theorem State.issueRead_dec (a0) (a1) (a2) (a3) (s) : (State.issueRead a0 a1 a2 a3 s).dec = s.dec := (State.issueRead_keeps (m := fun p => decide (p ∈ [.link, .out])) rfl rfl _ _ _ _ s (.refl s)).same .dec rfl
@[simp] theorem State.issueRead_enc (a0) (a1) (a2) (a3) (s) : (State.issueRead a0 a1 a2 a3 s).enc = s.enc := (State.issueRead_keeps (m := fun p => decide (p ∈ [.link, .out])) rfl rfl _ _ _ _ s (.refl s)).same .enc rfl
@[simp] theorem State.issueRead_cse (a0) (a1) (a2) (a3) (s) : (State.issueRead a0 a1 a2 a3 s).cse = s.cse := (State.issueRead_keeps (m := fun p => decide (p ∈ [.link, .out])) rfl rfl _ _ _ _ s (.refl s)).same .cse rfl
@[simp] theorem State.issueRead_rgn (a0) (a1) (a2) (a3) (s) : (State.issueRead a0 a1 a2 a3 s).rgn = s.rgn := (State.issueRead_keeps (m := fun p => decide (p ∈ [.link, .out])) rfl rfl _ _ _ _ s (.refl s)).same .rgn rfl
@[simp] theorem State.issueRead_rmem (a0) (a1) (a2) (a3) (s) : (State.issueRead a0 a1 a2 a3 s).rmem = s.rmem := (State.issueRead_keeps (m := fun p => decide (p ∈ [.link, .out])) rfl rfl _ _ _ _ s (.refl s)).same .rmem rfl
@[simp] theorem State.issueRead_dis (a0) (a1) (a2) (a3) (s) : (State.issueRead a0 a1 a2 a3 s).dis = s.dis := (State.issueRead_keeps (m := fun p => decide (p ∈ [.link, .out])) rfl rfl _ _ _ _ s (.refl s)).same .dis rfl
@[simp] theorem State.issueRead_syn (a0) (a1) (a2) (a3) (s) : (State.issueRead a0 a1 a2 a3 s).syn = s.syn := (State.issueRead_keeps (m := fun p => decide (p ∈ [.link, .out])) rfl rfl _ _ _ _ s (.refl s)).same .syn rfl
@[simp] theorem State.issueRead_bpm (a0) (a1) (a2) (a3) (s) : (State.issueRead a0 a1 a2 a3 s).bpm = s.bpm := (State.issueRead_keeps (m := fun p => decide (p ∈ [.link, .out])) rfl rfl _ _ _ _ s (.refl s)).same .bpm rfl
@[simp] theorem State.issueRead_tke (a0) (a1) (a2) (a3) (s) : (State.issueRead a0 a1 a2 a3 s).tke = s.tke := (State.issueRead_keeps (m := fun p => decide (p ∈ [.link, .out])) rfl rfl _ _ _ _ s (.refl s)).same .tke rfl
@[simp] theorem State.issueRead_dmc (a0) (a1) (a2) (a3) (s) : (State.issueRead a0 a1 a2 a3 s).dmc = s.dmc := (State.issueRead_keeps (m := fun p => decide (p ∈ [.link, .out])) rfl rfl _ _ _ _ s (.refl s)).same .dmc rfl
@[simp] theorem State.issueRead_dram (a0) (a1) (a2) (a3) (s) : (State.issueRead a0 a1 a2 a3 s).dram = s.dram := (State.issueRead_keeps (m := fun p => decide (p ∈ [.link, .out])) rfl rfl _ _ _ _ s (.refl s)).same .dram rfl
@[simp] theorem State.issueRead_pwr (a0) (a1) (a2) (a3) (s) : (State.issueRead a0 a1 a2 a3 s).pwr = s.pwr := (State.issueRead_keeps (m := fun p => decide (p ∈ [.link, .out])) rfl rfl _ _ _ _ s (.refl s)).same .pwr rfl
@[simp] theorem State.issueRead_clk (a0) (a1) (a2) (a3) (s) : (State.issueRead a0 a1 a2 a3 s).clk = s.clk := (State.issueRead_keeps (m := fun p => decide (p ∈ [.link, .out])) rfl rfl _ _ _ _ s (.refl s)).same .clk rfl
@[simp] theorem State.issueRead_ras (a0) (a1) (a2) (a3) (s) : (State.issueRead a0 a1 a2 a3 s).ras = s.ras := (State.issueRead_keeps (m := fun p => decide (p ∈ [.link, .out])) rfl rfl _ _ _ _ s (.refl s)).same .ras rfl
@[simp] theorem State.issueRead_trc (a0) (a1) (a2) (a3) (s) : (State.issueRead a0 a1 a2 a3 s).trc = s.trc := (State.issueRead_keeps (m := fun p => decide (p ∈ [.link, .out])) rfl rfl _ _ _ _ s (.refl s)).same .trc rfl
@[simp] theorem State.issueRead_rst (a0) (a1) (a2) (a3) (s) : (State.issueRead a0 a1 a2 a3 s).rst = s.rst := (State.issueRead_keeps (m := fun p => decide (p ∈ [.link, .out])) rfl rfl _ _ _ _ s (.refl s)).same .rst rfl
@[simp] theorem State.issueRead_dbg (a0) (a1) (a2) (a3) (s) : (State.issueRead a0 a1 a2 a3 s).dbg = s.dbg := (State.issueRead_keeps (m := fun p => decide (p ∈ [.link, .out])) rfl rfl _ _ _ _ s (.refl s)).same .dbg rfl
@[simp] theorem State.issueRead_fresh (a0) (a1) (a2) (a3) (s) : (State.issueRead a0 a1 a2 a3 s).fresh = s.fresh := (State.issueRead_keeps (m := fun p => decide (p ∈ [.link, .out])) rfl rfl _ _ _ _ s (.refl s)).same .fresh rfl

@[simp] theorem State.updMd_pending (a0) (a1) (s) : (State.updMd a0 a1 s).pending = s.pending := rfl
@[simp] theorem State.updMd_ep (a0) (a1) (s) : (State.updMd a0 a1 s).ep = s.ep := rfl
@[simp] theorem State.updMd_aon (a0) (a1) (s) : (State.updMd a0 a1 s).aon = s.aon := rfl
@[simp] theorem State.updMd_wires (a0) (a1) (s) : (State.updMd a0 a1 s).wires = s.wires := rfl
@[simp] theorem State.updMd_jtag (a0) (a1) (s) : (State.updMd a0 a1 s).jtag = s.jtag := rfl
@[simp] theorem State.updMd_fuses (a0) (a1) (s) : (State.updMd a0 a1 s).fuses = s.fuses := rfl
@[simp] theorem State.updMd_wins (a0) (a1) (s) : (State.updMd a0 a1 s).wins = s.wins := rfl
@[simp] theorem State.updMd_link (a0) (a1) (s) : (State.updMd a0 a1 s).link = s.link := rfl
@[simp] theorem State.updMd_dev (a0) (a1) (s) : (State.updMd a0 a1 s).dev = s.dev := rfl
@[simp] theorem State.updMd_crt (a0) (a1) (s) : (State.updMd a0 a1 s).crt = s.crt := rfl
@[simp] theorem State.updMd_cal (a0) (a1) (s) : (State.updMd a0 a1 s).cal = s.cal := rfl
@[simp] theorem State.updMd_adm (a0) (a1) (s) : (State.updMd a0 a1 s).adm = s.adm := rfl
@[simp] theorem State.updMd_dec (a0) (a1) (s) : (State.updMd a0 a1 s).dec = s.dec := rfl
@[simp] theorem State.updMd_enc (a0) (a1) (s) : (State.updMd a0 a1 s).enc = s.enc := rfl
@[simp] theorem State.updMd_cse (a0) (a1) (s) : (State.updMd a0 a1 s).cse = s.cse := rfl
@[simp] theorem State.updMd_rgn (a0) (a1) (s) : (State.updMd a0 a1 s).rgn = s.rgn := rfl
@[simp] theorem State.updMd_rmem (a0) (a1) (s) : (State.updMd a0 a1 s).rmem = s.rmem := rfl
@[simp] theorem State.updMd_dis (a0) (a1) (s) : (State.updMd a0 a1 s).dis = s.dis := rfl
@[simp] theorem State.updMd_syn (a0) (a1) (s) : (State.updMd a0 a1 s).syn = s.syn := rfl
@[simp] theorem State.updMd_bpm (a0) (a1) (s) : (State.updMd a0 a1 s).bpm = s.bpm := rfl
@[simp] theorem State.updMd_tke (a0) (a1) (s) : (State.updMd a0 a1 s).tke = s.tke := rfl
@[simp] theorem State.updMd_dmc (a0) (a1) (s) : (State.updMd a0 a1 s).dmc = s.dmc := rfl
@[simp] theorem State.updMd_dram (a0) (a1) (s) : (State.updMd a0 a1 s).dram = s.dram := rfl
@[simp] theorem State.updMd_pwr (a0) (a1) (s) : (State.updMd a0 a1 s).pwr = s.pwr := rfl
@[simp] theorem State.updMd_clk (a0) (a1) (s) : (State.updMd a0 a1 s).clk = s.clk := rfl
@[simp] theorem State.updMd_ras (a0) (a1) (s) : (State.updMd a0 a1 s).ras = s.ras := rfl
@[simp] theorem State.updMd_trc (a0) (a1) (s) : (State.updMd a0 a1 s).trc = s.trc := rfl
@[simp] theorem State.updMd_rst (a0) (a1) (s) : (State.updMd a0 a1 s).rst = s.rst := rfl
@[simp] theorem State.updMd_dbg (a0) (a1) (s) : (State.updMd a0 a1 s).dbg = s.dbg := rfl
@[simp] theorem State.updMd_out (a0) (a1) (s) : (State.updMd a0 a1 s).out = s.out := rfl
@[simp] theorem State.updMd_fresh (a0) (a1) (s) : (State.updMd a0 a1 s).fresh = s.fresh := rfl

@[simp] theorem State.updSlot_pending (a0) (a1) (s) : (State.updSlot a0 a1 s).pending = s.pending := rfl
@[simp] theorem State.updSlot_ep (a0) (a1) (s) : (State.updSlot a0 a1 s).ep = s.ep := rfl
@[simp] theorem State.updSlot_aon (a0) (a1) (s) : (State.updSlot a0 a1 s).aon = s.aon := rfl
@[simp] theorem State.updSlot_wires (a0) (a1) (s) : (State.updSlot a0 a1 s).wires = s.wires := rfl
@[simp] theorem State.updSlot_jtag (a0) (a1) (s) : (State.updSlot a0 a1 s).jtag = s.jtag := rfl
@[simp] theorem State.updSlot_fuses (a0) (a1) (s) : (State.updSlot a0 a1 s).fuses = s.fuses := rfl
@[simp] theorem State.updSlot_hif (a0) (a1) (s) : (State.updSlot a0 a1 s).hif = s.hif := rfl
@[simp] theorem State.updSlot_wins (a0) (a1) (s) : (State.updSlot a0 a1 s).wins = s.wins := rfl
@[simp] theorem State.updSlot_link (a0) (a1) (s) : (State.updSlot a0 a1 s).link = s.link := rfl
@[simp] theorem State.updSlot_dev (a0) (a1) (s) : (State.updSlot a0 a1 s).dev = s.dev := rfl
@[simp] theorem State.updSlot_crt (a0) (a1) (s) : (State.updSlot a0 a1 s).crt = s.crt := rfl
@[simp] theorem State.updSlot_cal (a0) (a1) (s) : (State.updSlot a0 a1 s).cal = s.cal := rfl
@[simp] theorem State.updSlot_adm (a0) (a1) (s) : (State.updSlot a0 a1 s).adm = s.adm := rfl
@[simp] theorem State.updSlot_enc (a0) (a1) (s) : (State.updSlot a0 a1 s).enc = s.enc := rfl
@[simp] theorem State.updSlot_cse (a0) (a1) (s) : (State.updSlot a0 a1 s).cse = s.cse := rfl
@[simp] theorem State.updSlot_rgn (a0) (a1) (s) : (State.updSlot a0 a1 s).rgn = s.rgn := rfl
@[simp] theorem State.updSlot_rmem (a0) (a1) (s) : (State.updSlot a0 a1 s).rmem = s.rmem := rfl
@[simp] theorem State.updSlot_dis (a0) (a1) (s) : (State.updSlot a0 a1 s).dis = s.dis := rfl
@[simp] theorem State.updSlot_syn (a0) (a1) (s) : (State.updSlot a0 a1 s).syn = s.syn := rfl
@[simp] theorem State.updSlot_bpm (a0) (a1) (s) : (State.updSlot a0 a1 s).bpm = s.bpm := rfl
@[simp] theorem State.updSlot_tke (a0) (a1) (s) : (State.updSlot a0 a1 s).tke = s.tke := rfl
@[simp] theorem State.updSlot_dmc (a0) (a1) (s) : (State.updSlot a0 a1 s).dmc = s.dmc := rfl
@[simp] theorem State.updSlot_dram (a0) (a1) (s) : (State.updSlot a0 a1 s).dram = s.dram := rfl
@[simp] theorem State.updSlot_pwr (a0) (a1) (s) : (State.updSlot a0 a1 s).pwr = s.pwr := rfl
@[simp] theorem State.updSlot_clk (a0) (a1) (s) : (State.updSlot a0 a1 s).clk = s.clk := rfl
@[simp] theorem State.updSlot_ras (a0) (a1) (s) : (State.updSlot a0 a1 s).ras = s.ras := rfl
@[simp] theorem State.updSlot_trc (a0) (a1) (s) : (State.updSlot a0 a1 s).trc = s.trc := rfl
@[simp] theorem State.updSlot_rst (a0) (a1) (s) : (State.updSlot a0 a1 s).rst = s.rst := rfl
@[simp] theorem State.updSlot_dbg (a0) (a1) (s) : (State.updSlot a0 a1 s).dbg = s.dbg := rfl
@[simp] theorem State.updSlot_out (a0) (a1) (s) : (State.updSlot a0 a1 s).out = s.out := rfl
@[simp] theorem State.updSlot_fresh (a0) (a1) (s) : (State.updSlot a0 a1 s).fresh = s.fresh := rfl

@[simp] theorem State.updSdec_pending (a0) (a1) (s) : (State.updSdec a0 a1 s).pending = s.pending := rfl
@[simp] theorem State.updSdec_ep (a0) (a1) (s) : (State.updSdec a0 a1 s).ep = s.ep := rfl
@[simp] theorem State.updSdec_aon (a0) (a1) (s) : (State.updSdec a0 a1 s).aon = s.aon := rfl
@[simp] theorem State.updSdec_wires (a0) (a1) (s) : (State.updSdec a0 a1 s).wires = s.wires := rfl
@[simp] theorem State.updSdec_jtag (a0) (a1) (s) : (State.updSdec a0 a1 s).jtag = s.jtag := rfl
@[simp] theorem State.updSdec_fuses (a0) (a1) (s) : (State.updSdec a0 a1 s).fuses = s.fuses := rfl
@[simp] theorem State.updSdec_hif (a0) (a1) (s) : (State.updSdec a0 a1 s).hif = s.hif := rfl
@[simp] theorem State.updSdec_wins (a0) (a1) (s) : (State.updSdec a0 a1 s).wins = s.wins := rfl
@[simp] theorem State.updSdec_link (a0) (a1) (s) : (State.updSdec a0 a1 s).link = s.link := rfl
@[simp] theorem State.updSdec_dev (a0) (a1) (s) : (State.updSdec a0 a1 s).dev = s.dev := rfl
@[simp] theorem State.updSdec_crt (a0) (a1) (s) : (State.updSdec a0 a1 s).crt = s.crt := rfl
@[simp] theorem State.updSdec_cal (a0) (a1) (s) : (State.updSdec a0 a1 s).cal = s.cal := rfl
@[simp] theorem State.updSdec_adm (a0) (a1) (s) : (State.updSdec a0 a1 s).adm = s.adm := rfl
@[simp] theorem State.updSdec_enc (a0) (a1) (s) : (State.updSdec a0 a1 s).enc = s.enc := rfl
@[simp] theorem State.updSdec_cse (a0) (a1) (s) : (State.updSdec a0 a1 s).cse = s.cse := rfl
@[simp] theorem State.updSdec_rgn (a0) (a1) (s) : (State.updSdec a0 a1 s).rgn = s.rgn := rfl
@[simp] theorem State.updSdec_rmem (a0) (a1) (s) : (State.updSdec a0 a1 s).rmem = s.rmem := rfl
@[simp] theorem State.updSdec_dis (a0) (a1) (s) : (State.updSdec a0 a1 s).dis = s.dis := rfl
@[simp] theorem State.updSdec_syn (a0) (a1) (s) : (State.updSdec a0 a1 s).syn = s.syn := rfl
@[simp] theorem State.updSdec_bpm (a0) (a1) (s) : (State.updSdec a0 a1 s).bpm = s.bpm := rfl
@[simp] theorem State.updSdec_tke (a0) (a1) (s) : (State.updSdec a0 a1 s).tke = s.tke := rfl
@[simp] theorem State.updSdec_dmc (a0) (a1) (s) : (State.updSdec a0 a1 s).dmc = s.dmc := rfl
@[simp] theorem State.updSdec_dram (a0) (a1) (s) : (State.updSdec a0 a1 s).dram = s.dram := rfl
@[simp] theorem State.updSdec_pwr (a0) (a1) (s) : (State.updSdec a0 a1 s).pwr = s.pwr := rfl
@[simp] theorem State.updSdec_clk (a0) (a1) (s) : (State.updSdec a0 a1 s).clk = s.clk := rfl
@[simp] theorem State.updSdec_ras (a0) (a1) (s) : (State.updSdec a0 a1 s).ras = s.ras := rfl
@[simp] theorem State.updSdec_trc (a0) (a1) (s) : (State.updSdec a0 a1 s).trc = s.trc := rfl
@[simp] theorem State.updSdec_rst (a0) (a1) (s) : (State.updSdec a0 a1 s).rst = s.rst := rfl
@[simp] theorem State.updSdec_dbg (a0) (a1) (s) : (State.updSdec a0 a1 s).dbg = s.dbg := rfl
@[simp] theorem State.updSdec_out (a0) (a1) (s) : (State.updSdec a0 a1 s).out = s.out := rfl
@[simp] theorem State.updSdec_fresh (a0) (a1) (s) : (State.updSdec a0 a1 s).fresh = s.fresh := rfl

@[simp] theorem State.updDeng_pending (a0) (a1) (s) : (State.updDeng a0 a1 s).pending = s.pending := rfl
@[simp] theorem State.updDeng_ep (a0) (a1) (s) : (State.updDeng a0 a1 s).ep = s.ep := rfl
@[simp] theorem State.updDeng_aon (a0) (a1) (s) : (State.updDeng a0 a1 s).aon = s.aon := rfl
@[simp] theorem State.updDeng_wires (a0) (a1) (s) : (State.updDeng a0 a1 s).wires = s.wires := rfl
@[simp] theorem State.updDeng_jtag (a0) (a1) (s) : (State.updDeng a0 a1 s).jtag = s.jtag := rfl
@[simp] theorem State.updDeng_fuses (a0) (a1) (s) : (State.updDeng a0 a1 s).fuses = s.fuses := rfl
@[simp] theorem State.updDeng_hif (a0) (a1) (s) : (State.updDeng a0 a1 s).hif = s.hif := rfl
@[simp] theorem State.updDeng_wins (a0) (a1) (s) : (State.updDeng a0 a1 s).wins = s.wins := rfl
@[simp] theorem State.updDeng_link (a0) (a1) (s) : (State.updDeng a0 a1 s).link = s.link := rfl
@[simp] theorem State.updDeng_dev (a0) (a1) (s) : (State.updDeng a0 a1 s).dev = s.dev := rfl
@[simp] theorem State.updDeng_crt (a0) (a1) (s) : (State.updDeng a0 a1 s).crt = s.crt := rfl
@[simp] theorem State.updDeng_cal (a0) (a1) (s) : (State.updDeng a0 a1 s).cal = s.cal := rfl
@[simp] theorem State.updDeng_adm (a0) (a1) (s) : (State.updDeng a0 a1 s).adm = s.adm := rfl
@[simp] theorem State.updDeng_enc (a0) (a1) (s) : (State.updDeng a0 a1 s).enc = s.enc := rfl
@[simp] theorem State.updDeng_cse (a0) (a1) (s) : (State.updDeng a0 a1 s).cse = s.cse := rfl
@[simp] theorem State.updDeng_rgn (a0) (a1) (s) : (State.updDeng a0 a1 s).rgn = s.rgn := rfl
@[simp] theorem State.updDeng_rmem (a0) (a1) (s) : (State.updDeng a0 a1 s).rmem = s.rmem := rfl
@[simp] theorem State.updDeng_dis (a0) (a1) (s) : (State.updDeng a0 a1 s).dis = s.dis := rfl
@[simp] theorem State.updDeng_syn (a0) (a1) (s) : (State.updDeng a0 a1 s).syn = s.syn := rfl
@[simp] theorem State.updDeng_bpm (a0) (a1) (s) : (State.updDeng a0 a1 s).bpm = s.bpm := rfl
@[simp] theorem State.updDeng_tke (a0) (a1) (s) : (State.updDeng a0 a1 s).tke = s.tke := rfl
@[simp] theorem State.updDeng_dmc (a0) (a1) (s) : (State.updDeng a0 a1 s).dmc = s.dmc := rfl
@[simp] theorem State.updDeng_dram (a0) (a1) (s) : (State.updDeng a0 a1 s).dram = s.dram := rfl
@[simp] theorem State.updDeng_pwr (a0) (a1) (s) : (State.updDeng a0 a1 s).pwr = s.pwr := rfl
@[simp] theorem State.updDeng_clk (a0) (a1) (s) : (State.updDeng a0 a1 s).clk = s.clk := rfl
@[simp] theorem State.updDeng_ras (a0) (a1) (s) : (State.updDeng a0 a1 s).ras = s.ras := rfl
@[simp] theorem State.updDeng_trc (a0) (a1) (s) : (State.updDeng a0 a1 s).trc = s.trc := rfl
@[simp] theorem State.updDeng_rst (a0) (a1) (s) : (State.updDeng a0 a1 s).rst = s.rst := rfl
@[simp] theorem State.updDeng_dbg (a0) (a1) (s) : (State.updDeng a0 a1 s).dbg = s.dbg := rfl
@[simp] theorem State.updDeng_out (a0) (a1) (s) : (State.updDeng a0 a1 s).out = s.out := rfl
@[simp] theorem State.updDeng_fresh (a0) (a1) (s) : (State.updDeng a0 a1 s).fresh = s.fresh := rfl

@[simp] theorem State.updSess_pending (a0) (a1) (s) : (State.updSess a0 a1 s).pending = s.pending := rfl
@[simp] theorem State.updSess_ep (a0) (a1) (s) : (State.updSess a0 a1 s).ep = s.ep := rfl
@[simp] theorem State.updSess_aon (a0) (a1) (s) : (State.updSess a0 a1 s).aon = s.aon := rfl
@[simp] theorem State.updSess_wires (a0) (a1) (s) : (State.updSess a0 a1 s).wires = s.wires := rfl
@[simp] theorem State.updSess_jtag (a0) (a1) (s) : (State.updSess a0 a1 s).jtag = s.jtag := rfl
@[simp] theorem State.updSess_fuses (a0) (a1) (s) : (State.updSess a0 a1 s).fuses = s.fuses := rfl
@[simp] theorem State.updSess_hif (a0) (a1) (s) : (State.updSess a0 a1 s).hif = s.hif := rfl
@[simp] theorem State.updSess_wins (a0) (a1) (s) : (State.updSess a0 a1 s).wins = s.wins := rfl
@[simp] theorem State.updSess_link (a0) (a1) (s) : (State.updSess a0 a1 s).link = s.link := rfl
@[simp] theorem State.updSess_dev (a0) (a1) (s) : (State.updSess a0 a1 s).dev = s.dev := rfl
@[simp] theorem State.updSess_crt (a0) (a1) (s) : (State.updSess a0 a1 s).crt = s.crt := rfl
@[simp] theorem State.updSess_cal (a0) (a1) (s) : (State.updSess a0 a1 s).cal = s.cal := rfl
@[simp] theorem State.updSess_adm (a0) (a1) (s) : (State.updSess a0 a1 s).adm = s.adm := rfl
@[simp] theorem State.updSess_dec (a0) (a1) (s) : (State.updSess a0 a1 s).dec = s.dec := rfl
@[simp] theorem State.updSess_cse (a0) (a1) (s) : (State.updSess a0 a1 s).cse = s.cse := rfl
@[simp] theorem State.updSess_rgn (a0) (a1) (s) : (State.updSess a0 a1 s).rgn = s.rgn := rfl
@[simp] theorem State.updSess_rmem (a0) (a1) (s) : (State.updSess a0 a1 s).rmem = s.rmem := rfl
@[simp] theorem State.updSess_dis (a0) (a1) (s) : (State.updSess a0 a1 s).dis = s.dis := rfl
@[simp] theorem State.updSess_syn (a0) (a1) (s) : (State.updSess a0 a1 s).syn = s.syn := rfl
@[simp] theorem State.updSess_bpm (a0) (a1) (s) : (State.updSess a0 a1 s).bpm = s.bpm := rfl
@[simp] theorem State.updSess_tke (a0) (a1) (s) : (State.updSess a0 a1 s).tke = s.tke := rfl
@[simp] theorem State.updSess_dmc (a0) (a1) (s) : (State.updSess a0 a1 s).dmc = s.dmc := rfl
@[simp] theorem State.updSess_dram (a0) (a1) (s) : (State.updSess a0 a1 s).dram = s.dram := rfl
@[simp] theorem State.updSess_pwr (a0) (a1) (s) : (State.updSess a0 a1 s).pwr = s.pwr := rfl
@[simp] theorem State.updSess_clk (a0) (a1) (s) : (State.updSess a0 a1 s).clk = s.clk := rfl
@[simp] theorem State.updSess_ras (a0) (a1) (s) : (State.updSess a0 a1 s).ras = s.ras := rfl
@[simp] theorem State.updSess_trc (a0) (a1) (s) : (State.updSess a0 a1 s).trc = s.trc := rfl
@[simp] theorem State.updSess_rst (a0) (a1) (s) : (State.updSess a0 a1 s).rst = s.rst := rfl
@[simp] theorem State.updSess_dbg (a0) (a1) (s) : (State.updSess a0 a1 s).dbg = s.dbg := rfl
@[simp] theorem State.updSess_out (a0) (a1) (s) : (State.updSess a0 a1 s).out = s.out := rfl
@[simp] theorem State.updSess_fresh (a0) (a1) (s) : (State.updSess a0 a1 s).fresh = s.fresh := rfl

@[simp] theorem State.updProg_pending (a0) (a1) (s) : (State.updProg a0 a1 s).pending = s.pending := rfl
@[simp] theorem State.updProg_ep (a0) (a1) (s) : (State.updProg a0 a1 s).ep = s.ep := rfl
@[simp] theorem State.updProg_aon (a0) (a1) (s) : (State.updProg a0 a1 s).aon = s.aon := rfl
@[simp] theorem State.updProg_wires (a0) (a1) (s) : (State.updProg a0 a1 s).wires = s.wires := rfl
@[simp] theorem State.updProg_jtag (a0) (a1) (s) : (State.updProg a0 a1 s).jtag = s.jtag := rfl
@[simp] theorem State.updProg_fuses (a0) (a1) (s) : (State.updProg a0 a1 s).fuses = s.fuses := rfl
@[simp] theorem State.updProg_hif (a0) (a1) (s) : (State.updProg a0 a1 s).hif = s.hif := rfl
@[simp] theorem State.updProg_wins (a0) (a1) (s) : (State.updProg a0 a1 s).wins = s.wins := rfl
@[simp] theorem State.updProg_link (a0) (a1) (s) : (State.updProg a0 a1 s).link = s.link := rfl
@[simp] theorem State.updProg_dev (a0) (a1) (s) : (State.updProg a0 a1 s).dev = s.dev := rfl
@[simp] theorem State.updProg_crt (a0) (a1) (s) : (State.updProg a0 a1 s).crt = s.crt := rfl
@[simp] theorem State.updProg_cal (a0) (a1) (s) : (State.updProg a0 a1 s).cal = s.cal := rfl
@[simp] theorem State.updProg_adm (a0) (a1) (s) : (State.updProg a0 a1 s).adm = s.adm := rfl
@[simp] theorem State.updProg_dec (a0) (a1) (s) : (State.updProg a0 a1 s).dec = s.dec := rfl
@[simp] theorem State.updProg_cse (a0) (a1) (s) : (State.updProg a0 a1 s).cse = s.cse := rfl
@[simp] theorem State.updProg_rgn (a0) (a1) (s) : (State.updProg a0 a1 s).rgn = s.rgn := rfl
@[simp] theorem State.updProg_rmem (a0) (a1) (s) : (State.updProg a0 a1 s).rmem = s.rmem := rfl
@[simp] theorem State.updProg_dis (a0) (a1) (s) : (State.updProg a0 a1 s).dis = s.dis := rfl
@[simp] theorem State.updProg_syn (a0) (a1) (s) : (State.updProg a0 a1 s).syn = s.syn := rfl
@[simp] theorem State.updProg_bpm (a0) (a1) (s) : (State.updProg a0 a1 s).bpm = s.bpm := rfl
@[simp] theorem State.updProg_tke (a0) (a1) (s) : (State.updProg a0 a1 s).tke = s.tke := rfl
@[simp] theorem State.updProg_dmc (a0) (a1) (s) : (State.updProg a0 a1 s).dmc = s.dmc := rfl
@[simp] theorem State.updProg_dram (a0) (a1) (s) : (State.updProg a0 a1 s).dram = s.dram := rfl
@[simp] theorem State.updProg_pwr (a0) (a1) (s) : (State.updProg a0 a1 s).pwr = s.pwr := rfl
@[simp] theorem State.updProg_clk (a0) (a1) (s) : (State.updProg a0 a1 s).clk = s.clk := rfl
@[simp] theorem State.updProg_ras (a0) (a1) (s) : (State.updProg a0 a1 s).ras = s.ras := rfl
@[simp] theorem State.updProg_trc (a0) (a1) (s) : (State.updProg a0 a1 s).trc = s.trc := rfl
@[simp] theorem State.updProg_rst (a0) (a1) (s) : (State.updProg a0 a1 s).rst = s.rst := rfl
@[simp] theorem State.updProg_dbg (a0) (a1) (s) : (State.updProg a0 a1 s).dbg = s.dbg := rfl
@[simp] theorem State.updProg_out (a0) (a1) (s) : (State.updProg a0 a1 s).out = s.out := rfl
@[simp] theorem State.updProg_fresh (a0) (a1) (s) : (State.updProg a0 a1 s).fresh = s.fresh := rfl

@[simp] theorem State.updEeng_pending (a0) (a1) (s) : (State.updEeng a0 a1 s).pending = s.pending := rfl
@[simp] theorem State.updEeng_ep (a0) (a1) (s) : (State.updEeng a0 a1 s).ep = s.ep := rfl
@[simp] theorem State.updEeng_aon (a0) (a1) (s) : (State.updEeng a0 a1 s).aon = s.aon := rfl
@[simp] theorem State.updEeng_wires (a0) (a1) (s) : (State.updEeng a0 a1 s).wires = s.wires := rfl
@[simp] theorem State.updEeng_jtag (a0) (a1) (s) : (State.updEeng a0 a1 s).jtag = s.jtag := rfl
@[simp] theorem State.updEeng_fuses (a0) (a1) (s) : (State.updEeng a0 a1 s).fuses = s.fuses := rfl
@[simp] theorem State.updEeng_hif (a0) (a1) (s) : (State.updEeng a0 a1 s).hif = s.hif := rfl
@[simp] theorem State.updEeng_wins (a0) (a1) (s) : (State.updEeng a0 a1 s).wins = s.wins := rfl
@[simp] theorem State.updEeng_link (a0) (a1) (s) : (State.updEeng a0 a1 s).link = s.link := rfl
@[simp] theorem State.updEeng_dev (a0) (a1) (s) : (State.updEeng a0 a1 s).dev = s.dev := rfl
@[simp] theorem State.updEeng_crt (a0) (a1) (s) : (State.updEeng a0 a1 s).crt = s.crt := rfl
@[simp] theorem State.updEeng_cal (a0) (a1) (s) : (State.updEeng a0 a1 s).cal = s.cal := rfl
@[simp] theorem State.updEeng_adm (a0) (a1) (s) : (State.updEeng a0 a1 s).adm = s.adm := rfl
@[simp] theorem State.updEeng_dec (a0) (a1) (s) : (State.updEeng a0 a1 s).dec = s.dec := rfl
@[simp] theorem State.updEeng_cse (a0) (a1) (s) : (State.updEeng a0 a1 s).cse = s.cse := rfl
@[simp] theorem State.updEeng_rgn (a0) (a1) (s) : (State.updEeng a0 a1 s).rgn = s.rgn := rfl
@[simp] theorem State.updEeng_rmem (a0) (a1) (s) : (State.updEeng a0 a1 s).rmem = s.rmem := rfl
@[simp] theorem State.updEeng_dis (a0) (a1) (s) : (State.updEeng a0 a1 s).dis = s.dis := rfl
@[simp] theorem State.updEeng_syn (a0) (a1) (s) : (State.updEeng a0 a1 s).syn = s.syn := rfl
@[simp] theorem State.updEeng_bpm (a0) (a1) (s) : (State.updEeng a0 a1 s).bpm = s.bpm := rfl
@[simp] theorem State.updEeng_tke (a0) (a1) (s) : (State.updEeng a0 a1 s).tke = s.tke := rfl
@[simp] theorem State.updEeng_dmc (a0) (a1) (s) : (State.updEeng a0 a1 s).dmc = s.dmc := rfl
@[simp] theorem State.updEeng_dram (a0) (a1) (s) : (State.updEeng a0 a1 s).dram = s.dram := rfl
@[simp] theorem State.updEeng_pwr (a0) (a1) (s) : (State.updEeng a0 a1 s).pwr = s.pwr := rfl
@[simp] theorem State.updEeng_clk (a0) (a1) (s) : (State.updEeng a0 a1 s).clk = s.clk := rfl
@[simp] theorem State.updEeng_ras (a0) (a1) (s) : (State.updEeng a0 a1 s).ras = s.ras := rfl
@[simp] theorem State.updEeng_trc (a0) (a1) (s) : (State.updEeng a0 a1 s).trc = s.trc := rfl
@[simp] theorem State.updEeng_rst (a0) (a1) (s) : (State.updEeng a0 a1 s).rst = s.rst := rfl
@[simp] theorem State.updEeng_dbg (a0) (a1) (s) : (State.updEeng a0 a1 s).dbg = s.dbg := rfl
@[simp] theorem State.updEeng_out (a0) (a1) (s) : (State.updEeng a0 a1 s).out = s.out := rfl
@[simp] theorem State.updEeng_fresh (a0) (a1) (s) : (State.updEeng a0 a1 s).fresh = s.fresh := rfl

@[simp] theorem State.updCseEng_pending (a0) (a1) (s) : (State.updCseEng a0 a1 s).pending = s.pending := rfl
@[simp] theorem State.updCseEng_ep (a0) (a1) (s) : (State.updCseEng a0 a1 s).ep = s.ep := rfl
@[simp] theorem State.updCseEng_aon (a0) (a1) (s) : (State.updCseEng a0 a1 s).aon = s.aon := rfl
@[simp] theorem State.updCseEng_wires (a0) (a1) (s) : (State.updCseEng a0 a1 s).wires = s.wires := rfl
@[simp] theorem State.updCseEng_jtag (a0) (a1) (s) : (State.updCseEng a0 a1 s).jtag = s.jtag := rfl
@[simp] theorem State.updCseEng_fuses (a0) (a1) (s) : (State.updCseEng a0 a1 s).fuses = s.fuses := rfl
@[simp] theorem State.updCseEng_hif (a0) (a1) (s) : (State.updCseEng a0 a1 s).hif = s.hif := rfl
@[simp] theorem State.updCseEng_wins (a0) (a1) (s) : (State.updCseEng a0 a1 s).wins = s.wins := rfl
@[simp] theorem State.updCseEng_link (a0) (a1) (s) : (State.updCseEng a0 a1 s).link = s.link := rfl
@[simp] theorem State.updCseEng_dev (a0) (a1) (s) : (State.updCseEng a0 a1 s).dev = s.dev := rfl
@[simp] theorem State.updCseEng_crt (a0) (a1) (s) : (State.updCseEng a0 a1 s).crt = s.crt := rfl
@[simp] theorem State.updCseEng_cal (a0) (a1) (s) : (State.updCseEng a0 a1 s).cal = s.cal := rfl
@[simp] theorem State.updCseEng_adm (a0) (a1) (s) : (State.updCseEng a0 a1 s).adm = s.adm := rfl
@[simp] theorem State.updCseEng_dec (a0) (a1) (s) : (State.updCseEng a0 a1 s).dec = s.dec := rfl
@[simp] theorem State.updCseEng_enc (a0) (a1) (s) : (State.updCseEng a0 a1 s).enc = s.enc := rfl
@[simp] theorem State.updCseEng_rgn (a0) (a1) (s) : (State.updCseEng a0 a1 s).rgn = s.rgn := rfl
@[simp] theorem State.updCseEng_rmem (a0) (a1) (s) : (State.updCseEng a0 a1 s).rmem = s.rmem := rfl
@[simp] theorem State.updCseEng_dis (a0) (a1) (s) : (State.updCseEng a0 a1 s).dis = s.dis := rfl
@[simp] theorem State.updCseEng_syn (a0) (a1) (s) : (State.updCseEng a0 a1 s).syn = s.syn := rfl
@[simp] theorem State.updCseEng_bpm (a0) (a1) (s) : (State.updCseEng a0 a1 s).bpm = s.bpm := rfl
@[simp] theorem State.updCseEng_tke (a0) (a1) (s) : (State.updCseEng a0 a1 s).tke = s.tke := rfl
@[simp] theorem State.updCseEng_dmc (a0) (a1) (s) : (State.updCseEng a0 a1 s).dmc = s.dmc := rfl
@[simp] theorem State.updCseEng_dram (a0) (a1) (s) : (State.updCseEng a0 a1 s).dram = s.dram := rfl
@[simp] theorem State.updCseEng_pwr (a0) (a1) (s) : (State.updCseEng a0 a1 s).pwr = s.pwr := rfl
@[simp] theorem State.updCseEng_clk (a0) (a1) (s) : (State.updCseEng a0 a1 s).clk = s.clk := rfl
@[simp] theorem State.updCseEng_ras (a0) (a1) (s) : (State.updCseEng a0 a1 s).ras = s.ras := rfl
@[simp] theorem State.updCseEng_trc (a0) (a1) (s) : (State.updCseEng a0 a1 s).trc = s.trc := rfl
@[simp] theorem State.updCseEng_rst (a0) (a1) (s) : (State.updCseEng a0 a1 s).rst = s.rst := rfl
@[simp] theorem State.updCseEng_dbg (a0) (a1) (s) : (State.updCseEng a0 a1 s).dbg = s.dbg := rfl
@[simp] theorem State.updCseEng_out (a0) (a1) (s) : (State.updCseEng a0 a1 s).out = s.out := rfl
@[simp] theorem State.updCseEng_fresh (a0) (a1) (s) : (State.updCseEng a0 a1 s).fresh = s.fresh := rfl

@[simp] theorem State.updRegion_pending (a0) (a1) (s) : (State.updRegion a0 a1 s).pending = s.pending := rfl
@[simp] theorem State.updRegion_ep (a0) (a1) (s) : (State.updRegion a0 a1 s).ep = s.ep := rfl
@[simp] theorem State.updRegion_aon (a0) (a1) (s) : (State.updRegion a0 a1 s).aon = s.aon := rfl
@[simp] theorem State.updRegion_wires (a0) (a1) (s) : (State.updRegion a0 a1 s).wires = s.wires := rfl
@[simp] theorem State.updRegion_jtag (a0) (a1) (s) : (State.updRegion a0 a1 s).jtag = s.jtag := rfl
@[simp] theorem State.updRegion_fuses (a0) (a1) (s) : (State.updRegion a0 a1 s).fuses = s.fuses := rfl
@[simp] theorem State.updRegion_hif (a0) (a1) (s) : (State.updRegion a0 a1 s).hif = s.hif := rfl
@[simp] theorem State.updRegion_wins (a0) (a1) (s) : (State.updRegion a0 a1 s).wins = s.wins := rfl
@[simp] theorem State.updRegion_link (a0) (a1) (s) : (State.updRegion a0 a1 s).link = s.link := rfl
@[simp] theorem State.updRegion_dev (a0) (a1) (s) : (State.updRegion a0 a1 s).dev = s.dev := rfl
@[simp] theorem State.updRegion_crt (a0) (a1) (s) : (State.updRegion a0 a1 s).crt = s.crt := rfl
@[simp] theorem State.updRegion_cal (a0) (a1) (s) : (State.updRegion a0 a1 s).cal = s.cal := rfl
@[simp] theorem State.updRegion_adm (a0) (a1) (s) : (State.updRegion a0 a1 s).adm = s.adm := rfl
@[simp] theorem State.updRegion_dec (a0) (a1) (s) : (State.updRegion a0 a1 s).dec = s.dec := rfl
@[simp] theorem State.updRegion_enc (a0) (a1) (s) : (State.updRegion a0 a1 s).enc = s.enc := rfl
@[simp] theorem State.updRegion_cse (a0) (a1) (s) : (State.updRegion a0 a1 s).cse = s.cse := rfl
@[simp] theorem State.updRegion_rmem (a0) (a1) (s) : (State.updRegion a0 a1 s).rmem = s.rmem := rfl
@[simp] theorem State.updRegion_dis (a0) (a1) (s) : (State.updRegion a0 a1 s).dis = s.dis := rfl
@[simp] theorem State.updRegion_syn (a0) (a1) (s) : (State.updRegion a0 a1 s).syn = s.syn := rfl
@[simp] theorem State.updRegion_bpm (a0) (a1) (s) : (State.updRegion a0 a1 s).bpm = s.bpm := rfl
@[simp] theorem State.updRegion_tke (a0) (a1) (s) : (State.updRegion a0 a1 s).tke = s.tke := rfl
@[simp] theorem State.updRegion_dmc (a0) (a1) (s) : (State.updRegion a0 a1 s).dmc = s.dmc := rfl
@[simp] theorem State.updRegion_dram (a0) (a1) (s) : (State.updRegion a0 a1 s).dram = s.dram := rfl
@[simp] theorem State.updRegion_pwr (a0) (a1) (s) : (State.updRegion a0 a1 s).pwr = s.pwr := rfl
@[simp] theorem State.updRegion_clk (a0) (a1) (s) : (State.updRegion a0 a1 s).clk = s.clk := rfl
@[simp] theorem State.updRegion_ras (a0) (a1) (s) : (State.updRegion a0 a1 s).ras = s.ras := rfl
@[simp] theorem State.updRegion_trc (a0) (a1) (s) : (State.updRegion a0 a1 s).trc = s.trc := rfl
@[simp] theorem State.updRegion_rst (a0) (a1) (s) : (State.updRegion a0 a1 s).rst = s.rst := rfl
@[simp] theorem State.updRegion_dbg (a0) (a1) (s) : (State.updRegion a0 a1 s).dbg = s.dbg := rfl
@[simp] theorem State.updRegion_out (a0) (a1) (s) : (State.updRegion a0 a1 s).out = s.out := rfl
@[simp] theorem State.updRegion_fresh (a0) (a1) (s) : (State.updRegion a0 a1 s).fresh = s.fresh := rfl

@[simp] theorem State.updCore_pending (a0) (a1) (a2) (s) : (State.updCore a0 a1 a2 s).pending = s.pending := rfl
@[simp] theorem State.updCore_ep (a0) (a1) (a2) (s) : (State.updCore a0 a1 a2 s).ep = s.ep := rfl
@[simp] theorem State.updCore_aon (a0) (a1) (a2) (s) : (State.updCore a0 a1 a2 s).aon = s.aon := rfl
@[simp] theorem State.updCore_wires (a0) (a1) (a2) (s) : (State.updCore a0 a1 a2 s).wires = s.wires := rfl
@[simp] theorem State.updCore_jtag (a0) (a1) (a2) (s) : (State.updCore a0 a1 a2 s).jtag = s.jtag := rfl
@[simp] theorem State.updCore_fuses (a0) (a1) (a2) (s) : (State.updCore a0 a1 a2 s).fuses = s.fuses := rfl
@[simp] theorem State.updCore_hif (a0) (a1) (a2) (s) : (State.updCore a0 a1 a2 s).hif = s.hif := rfl
@[simp] theorem State.updCore_wins (a0) (a1) (a2) (s) : (State.updCore a0 a1 a2 s).wins = s.wins := rfl
@[simp] theorem State.updCore_link (a0) (a1) (a2) (s) : (State.updCore a0 a1 a2 s).link = s.link := rfl
@[simp] theorem State.updCore_dev (a0) (a1) (a2) (s) : (State.updCore a0 a1 a2 s).dev = s.dev := rfl
@[simp] theorem State.updCore_crt (a0) (a1) (a2) (s) : (State.updCore a0 a1 a2 s).crt = s.crt := rfl
@[simp] theorem State.updCore_cal (a0) (a1) (a2) (s) : (State.updCore a0 a1 a2 s).cal = s.cal := rfl
@[simp] theorem State.updCore_adm (a0) (a1) (a2) (s) : (State.updCore a0 a1 a2 s).adm = s.adm := rfl
@[simp] theorem State.updCore_dec (a0) (a1) (a2) (s) : (State.updCore a0 a1 a2 s).dec = s.dec := rfl
@[simp] theorem State.updCore_enc (a0) (a1) (a2) (s) : (State.updCore a0 a1 a2 s).enc = s.enc := rfl
@[simp] theorem State.updCore_cse (a0) (a1) (a2) (s) : (State.updCore a0 a1 a2 s).cse = s.cse := rfl
@[simp] theorem State.updCore_rmem (a0) (a1) (a2) (s) : (State.updCore a0 a1 a2 s).rmem = s.rmem := rfl
@[simp] theorem State.updCore_dis (a0) (a1) (a2) (s) : (State.updCore a0 a1 a2 s).dis = s.dis := rfl
@[simp] theorem State.updCore_syn (a0) (a1) (a2) (s) : (State.updCore a0 a1 a2 s).syn = s.syn := rfl
@[simp] theorem State.updCore_bpm (a0) (a1) (a2) (s) : (State.updCore a0 a1 a2 s).bpm = s.bpm := rfl
@[simp] theorem State.updCore_tke (a0) (a1) (a2) (s) : (State.updCore a0 a1 a2 s).tke = s.tke := rfl
@[simp] theorem State.updCore_dmc (a0) (a1) (a2) (s) : (State.updCore a0 a1 a2 s).dmc = s.dmc := rfl
@[simp] theorem State.updCore_dram (a0) (a1) (a2) (s) : (State.updCore a0 a1 a2 s).dram = s.dram := rfl
@[simp] theorem State.updCore_pwr (a0) (a1) (a2) (s) : (State.updCore a0 a1 a2 s).pwr = s.pwr := rfl
@[simp] theorem State.updCore_clk (a0) (a1) (a2) (s) : (State.updCore a0 a1 a2 s).clk = s.clk := rfl
@[simp] theorem State.updCore_ras (a0) (a1) (a2) (s) : (State.updCore a0 a1 a2 s).ras = s.ras := rfl
@[simp] theorem State.updCore_trc (a0) (a1) (a2) (s) : (State.updCore a0 a1 a2 s).trc = s.trc := rfl
@[simp] theorem State.updCore_rst (a0) (a1) (a2) (s) : (State.updCore a0 a1 a2 s).rst = s.rst := rfl
@[simp] theorem State.updCore_dbg (a0) (a1) (a2) (s) : (State.updCore a0 a1 a2 s).dbg = s.dbg := rfl
@[simp] theorem State.updCore_out (a0) (a1) (a2) (s) : (State.updCore a0 a1 a2 s).out = s.out := rfl
@[simp] theorem State.updCore_fresh (a0) (a1) (a2) (s) : (State.updCore a0 a1 a2 s).fresh = s.fresh := rfl

@[simp] theorem State.updGau_pending (a0) (a1) (s) : (State.updGau a0 a1 s).pending = s.pending := rfl
@[simp] theorem State.updGau_ep (a0) (a1) (s) : (State.updGau a0 a1 s).ep = s.ep := rfl
@[simp] theorem State.updGau_aon (a0) (a1) (s) : (State.updGau a0 a1 s).aon = s.aon := rfl
@[simp] theorem State.updGau_wires (a0) (a1) (s) : (State.updGau a0 a1 s).wires = s.wires := rfl
@[simp] theorem State.updGau_jtag (a0) (a1) (s) : (State.updGau a0 a1 s).jtag = s.jtag := rfl
@[simp] theorem State.updGau_fuses (a0) (a1) (s) : (State.updGau a0 a1 s).fuses = s.fuses := rfl
@[simp] theorem State.updGau_hif (a0) (a1) (s) : (State.updGau a0 a1 s).hif = s.hif := rfl
@[simp] theorem State.updGau_wins (a0) (a1) (s) : (State.updGau a0 a1 s).wins = s.wins := rfl
@[simp] theorem State.updGau_link (a0) (a1) (s) : (State.updGau a0 a1 s).link = s.link := rfl
@[simp] theorem State.updGau_dev (a0) (a1) (s) : (State.updGau a0 a1 s).dev = s.dev := rfl
@[simp] theorem State.updGau_crt (a0) (a1) (s) : (State.updGau a0 a1 s).crt = s.crt := rfl
@[simp] theorem State.updGau_cal (a0) (a1) (s) : (State.updGau a0 a1 s).cal = s.cal := rfl
@[simp] theorem State.updGau_adm (a0) (a1) (s) : (State.updGau a0 a1 s).adm = s.adm := rfl
@[simp] theorem State.updGau_dec (a0) (a1) (s) : (State.updGau a0 a1 s).dec = s.dec := rfl
@[simp] theorem State.updGau_enc (a0) (a1) (s) : (State.updGau a0 a1 s).enc = s.enc := rfl
@[simp] theorem State.updGau_cse (a0) (a1) (s) : (State.updGau a0 a1 s).cse = s.cse := rfl
@[simp] theorem State.updGau_rmem (a0) (a1) (s) : (State.updGau a0 a1 s).rmem = s.rmem := rfl
@[simp] theorem State.updGau_dis (a0) (a1) (s) : (State.updGau a0 a1 s).dis = s.dis := rfl
@[simp] theorem State.updGau_syn (a0) (a1) (s) : (State.updGau a0 a1 s).syn = s.syn := rfl
@[simp] theorem State.updGau_bpm (a0) (a1) (s) : (State.updGau a0 a1 s).bpm = s.bpm := rfl
@[simp] theorem State.updGau_tke (a0) (a1) (s) : (State.updGau a0 a1 s).tke = s.tke := rfl
@[simp] theorem State.updGau_dmc (a0) (a1) (s) : (State.updGau a0 a1 s).dmc = s.dmc := rfl
@[simp] theorem State.updGau_dram (a0) (a1) (s) : (State.updGau a0 a1 s).dram = s.dram := rfl
@[simp] theorem State.updGau_pwr (a0) (a1) (s) : (State.updGau a0 a1 s).pwr = s.pwr := rfl
@[simp] theorem State.updGau_clk (a0) (a1) (s) : (State.updGau a0 a1 s).clk = s.clk := rfl
@[simp] theorem State.updGau_ras (a0) (a1) (s) : (State.updGau a0 a1 s).ras = s.ras := rfl
@[simp] theorem State.updGau_trc (a0) (a1) (s) : (State.updGau a0 a1 s).trc = s.trc := rfl
@[simp] theorem State.updGau_rst (a0) (a1) (s) : (State.updGau a0 a1 s).rst = s.rst := rfl
@[simp] theorem State.updGau_dbg (a0) (a1) (s) : (State.updGau a0 a1 s).dbg = s.dbg := rfl
@[simp] theorem State.updGau_out (a0) (a1) (s) : (State.updGau a0 a1 s).out = s.out := rfl
@[simp] theorem State.updGau_fresh (a0) (a1) (s) : (State.updGau a0 a1 s).fresh = s.fresh := rfl

@[simp] theorem State.updWc_pending (a0) (a1) (a2) (s) : (State.updWc a0 a1 a2 s).pending = s.pending := rfl
@[simp] theorem State.updWc_ep (a0) (a1) (a2) (s) : (State.updWc a0 a1 a2 s).ep = s.ep := rfl
@[simp] theorem State.updWc_aon (a0) (a1) (a2) (s) : (State.updWc a0 a1 a2 s).aon = s.aon := rfl
@[simp] theorem State.updWc_wires (a0) (a1) (a2) (s) : (State.updWc a0 a1 a2 s).wires = s.wires := rfl
@[simp] theorem State.updWc_jtag (a0) (a1) (a2) (s) : (State.updWc a0 a1 a2 s).jtag = s.jtag := rfl
@[simp] theorem State.updWc_fuses (a0) (a1) (a2) (s) : (State.updWc a0 a1 a2 s).fuses = s.fuses := rfl
@[simp] theorem State.updWc_hif (a0) (a1) (a2) (s) : (State.updWc a0 a1 a2 s).hif = s.hif := rfl
@[simp] theorem State.updWc_wins (a0) (a1) (a2) (s) : (State.updWc a0 a1 a2 s).wins = s.wins := rfl
@[simp] theorem State.updWc_link (a0) (a1) (a2) (s) : (State.updWc a0 a1 a2 s).link = s.link := rfl
@[simp] theorem State.updWc_dev (a0) (a1) (a2) (s) : (State.updWc a0 a1 a2 s).dev = s.dev := rfl
@[simp] theorem State.updWc_crt (a0) (a1) (a2) (s) : (State.updWc a0 a1 a2 s).crt = s.crt := rfl
@[simp] theorem State.updWc_cal (a0) (a1) (a2) (s) : (State.updWc a0 a1 a2 s).cal = s.cal := rfl
@[simp] theorem State.updWc_adm (a0) (a1) (a2) (s) : (State.updWc a0 a1 a2 s).adm = s.adm := rfl
@[simp] theorem State.updWc_dec (a0) (a1) (a2) (s) : (State.updWc a0 a1 a2 s).dec = s.dec := rfl
@[simp] theorem State.updWc_enc (a0) (a1) (a2) (s) : (State.updWc a0 a1 a2 s).enc = s.enc := rfl
@[simp] theorem State.updWc_cse (a0) (a1) (a2) (s) : (State.updWc a0 a1 a2 s).cse = s.cse := rfl
@[simp] theorem State.updWc_rmem (a0) (a1) (a2) (s) : (State.updWc a0 a1 a2 s).rmem = s.rmem := rfl
@[simp] theorem State.updWc_dis (a0) (a1) (a2) (s) : (State.updWc a0 a1 a2 s).dis = s.dis := rfl
@[simp] theorem State.updWc_syn (a0) (a1) (a2) (s) : (State.updWc a0 a1 a2 s).syn = s.syn := rfl
@[simp] theorem State.updWc_bpm (a0) (a1) (a2) (s) : (State.updWc a0 a1 a2 s).bpm = s.bpm := rfl
@[simp] theorem State.updWc_tke (a0) (a1) (a2) (s) : (State.updWc a0 a1 a2 s).tke = s.tke := rfl
@[simp] theorem State.updWc_dmc (a0) (a1) (a2) (s) : (State.updWc a0 a1 a2 s).dmc = s.dmc := rfl
@[simp] theorem State.updWc_dram (a0) (a1) (a2) (s) : (State.updWc a0 a1 a2 s).dram = s.dram := rfl
@[simp] theorem State.updWc_pwr (a0) (a1) (a2) (s) : (State.updWc a0 a1 a2 s).pwr = s.pwr := rfl
@[simp] theorem State.updWc_clk (a0) (a1) (a2) (s) : (State.updWc a0 a1 a2 s).clk = s.clk := rfl
@[simp] theorem State.updWc_ras (a0) (a1) (a2) (s) : (State.updWc a0 a1 a2 s).ras = s.ras := rfl
@[simp] theorem State.updWc_trc (a0) (a1) (a2) (s) : (State.updWc a0 a1 a2 s).trc = s.trc := rfl
@[simp] theorem State.updWc_rst (a0) (a1) (a2) (s) : (State.updWc a0 a1 a2 s).rst = s.rst := rfl
@[simp] theorem State.updWc_dbg (a0) (a1) (a2) (s) : (State.updWc a0 a1 a2 s).dbg = s.dbg := rfl
@[simp] theorem State.updWc_out (a0) (a1) (a2) (s) : (State.updWc a0 a1 a2 s).out = s.out := rfl
@[simp] theorem State.updWc_fresh (a0) (a1) (a2) (s) : (State.updWc a0 a1 a2 s).fresh = s.fresh := rfl

@[simp] theorem State.updVec_pending (a0) (a1) (a2) (s) : (State.updVec a0 a1 a2 s).pending = s.pending := rfl
@[simp] theorem State.updVec_ep (a0) (a1) (a2) (s) : (State.updVec a0 a1 a2 s).ep = s.ep := rfl
@[simp] theorem State.updVec_aon (a0) (a1) (a2) (s) : (State.updVec a0 a1 a2 s).aon = s.aon := rfl
@[simp] theorem State.updVec_wires (a0) (a1) (a2) (s) : (State.updVec a0 a1 a2 s).wires = s.wires := rfl
@[simp] theorem State.updVec_jtag (a0) (a1) (a2) (s) : (State.updVec a0 a1 a2 s).jtag = s.jtag := rfl
@[simp] theorem State.updVec_fuses (a0) (a1) (a2) (s) : (State.updVec a0 a1 a2 s).fuses = s.fuses := rfl
@[simp] theorem State.updVec_hif (a0) (a1) (a2) (s) : (State.updVec a0 a1 a2 s).hif = s.hif := rfl
@[simp] theorem State.updVec_wins (a0) (a1) (a2) (s) : (State.updVec a0 a1 a2 s).wins = s.wins := rfl
@[simp] theorem State.updVec_link (a0) (a1) (a2) (s) : (State.updVec a0 a1 a2 s).link = s.link := rfl
@[simp] theorem State.updVec_dev (a0) (a1) (a2) (s) : (State.updVec a0 a1 a2 s).dev = s.dev := rfl
@[simp] theorem State.updVec_crt (a0) (a1) (a2) (s) : (State.updVec a0 a1 a2 s).crt = s.crt := rfl
@[simp] theorem State.updVec_cal (a0) (a1) (a2) (s) : (State.updVec a0 a1 a2 s).cal = s.cal := rfl
@[simp] theorem State.updVec_adm (a0) (a1) (a2) (s) : (State.updVec a0 a1 a2 s).adm = s.adm := rfl
@[simp] theorem State.updVec_dec (a0) (a1) (a2) (s) : (State.updVec a0 a1 a2 s).dec = s.dec := rfl
@[simp] theorem State.updVec_enc (a0) (a1) (a2) (s) : (State.updVec a0 a1 a2 s).enc = s.enc := rfl
@[simp] theorem State.updVec_cse (a0) (a1) (a2) (s) : (State.updVec a0 a1 a2 s).cse = s.cse := rfl
@[simp] theorem State.updVec_rgn (a0) (a1) (a2) (s) : (State.updVec a0 a1 a2 s).rgn = s.rgn := rfl
@[simp] theorem State.updVec_dis (a0) (a1) (a2) (s) : (State.updVec a0 a1 a2 s).dis = s.dis := rfl
@[simp] theorem State.updVec_syn (a0) (a1) (a2) (s) : (State.updVec a0 a1 a2 s).syn = s.syn := rfl
@[simp] theorem State.updVec_bpm (a0) (a1) (a2) (s) : (State.updVec a0 a1 a2 s).bpm = s.bpm := rfl
@[simp] theorem State.updVec_tke (a0) (a1) (a2) (s) : (State.updVec a0 a1 a2 s).tke = s.tke := rfl
@[simp] theorem State.updVec_dmc (a0) (a1) (a2) (s) : (State.updVec a0 a1 a2 s).dmc = s.dmc := rfl
@[simp] theorem State.updVec_dram (a0) (a1) (a2) (s) : (State.updVec a0 a1 a2 s).dram = s.dram := rfl
@[simp] theorem State.updVec_pwr (a0) (a1) (a2) (s) : (State.updVec a0 a1 a2 s).pwr = s.pwr := rfl
@[simp] theorem State.updVec_clk (a0) (a1) (a2) (s) : (State.updVec a0 a1 a2 s).clk = s.clk := rfl
@[simp] theorem State.updVec_ras (a0) (a1) (a2) (s) : (State.updVec a0 a1 a2 s).ras = s.ras := rfl
@[simp] theorem State.updVec_trc (a0) (a1) (a2) (s) : (State.updVec a0 a1 a2 s).trc = s.trc := rfl
@[simp] theorem State.updVec_rst (a0) (a1) (a2) (s) : (State.updVec a0 a1 a2 s).rst = s.rst := rfl
@[simp] theorem State.updVec_dbg (a0) (a1) (a2) (s) : (State.updVec a0 a1 a2 s).dbg = s.dbg := rfl
@[simp] theorem State.updVec_out (a0) (a1) (a2) (s) : (State.updVec a0 a1 a2 s).out = s.out := rfl
@[simp] theorem State.updVec_fresh (a0) (a1) (a2) (s) : (State.updVec a0 a1 a2 s).fresh = s.fresh := rfl

@[simp] theorem State.updCtx_pending (a0) (a1) (s) : (State.updCtx a0 a1 s).pending = s.pending := rfl
@[simp] theorem State.updCtx_ep (a0) (a1) (s) : (State.updCtx a0 a1 s).ep = s.ep := rfl
@[simp] theorem State.updCtx_aon (a0) (a1) (s) : (State.updCtx a0 a1 s).aon = s.aon := rfl
@[simp] theorem State.updCtx_wires (a0) (a1) (s) : (State.updCtx a0 a1 s).wires = s.wires := rfl
@[simp] theorem State.updCtx_jtag (a0) (a1) (s) : (State.updCtx a0 a1 s).jtag = s.jtag := rfl
@[simp] theorem State.updCtx_fuses (a0) (a1) (s) : (State.updCtx a0 a1 s).fuses = s.fuses := rfl
@[simp] theorem State.updCtx_hif (a0) (a1) (s) : (State.updCtx a0 a1 s).hif = s.hif := rfl
@[simp] theorem State.updCtx_wins (a0) (a1) (s) : (State.updCtx a0 a1 s).wins = s.wins := rfl
@[simp] theorem State.updCtx_link (a0) (a1) (s) : (State.updCtx a0 a1 s).link = s.link := rfl
@[simp] theorem State.updCtx_dev (a0) (a1) (s) : (State.updCtx a0 a1 s).dev = s.dev := rfl
@[simp] theorem State.updCtx_crt (a0) (a1) (s) : (State.updCtx a0 a1 s).crt = s.crt := rfl
@[simp] theorem State.updCtx_cal (a0) (a1) (s) : (State.updCtx a0 a1 s).cal = s.cal := rfl
@[simp] theorem State.updCtx_adm (a0) (a1) (s) : (State.updCtx a0 a1 s).adm = s.adm := rfl
@[simp] theorem State.updCtx_dec (a0) (a1) (s) : (State.updCtx a0 a1 s).dec = s.dec := rfl
@[simp] theorem State.updCtx_enc (a0) (a1) (s) : (State.updCtx a0 a1 s).enc = s.enc := rfl
@[simp] theorem State.updCtx_cse (a0) (a1) (s) : (State.updCtx a0 a1 s).cse = s.cse := rfl
@[simp] theorem State.updCtx_rgn (a0) (a1) (s) : (State.updCtx a0 a1 s).rgn = s.rgn := rfl
@[simp] theorem State.updCtx_rmem (a0) (a1) (s) : (State.updCtx a0 a1 s).rmem = s.rmem := rfl
@[simp] theorem State.updCtx_syn (a0) (a1) (s) : (State.updCtx a0 a1 s).syn = s.syn := rfl
@[simp] theorem State.updCtx_bpm (a0) (a1) (s) : (State.updCtx a0 a1 s).bpm = s.bpm := rfl
@[simp] theorem State.updCtx_tke (a0) (a1) (s) : (State.updCtx a0 a1 s).tke = s.tke := rfl
@[simp] theorem State.updCtx_dmc (a0) (a1) (s) : (State.updCtx a0 a1 s).dmc = s.dmc := rfl
@[simp] theorem State.updCtx_dram (a0) (a1) (s) : (State.updCtx a0 a1 s).dram = s.dram := rfl
@[simp] theorem State.updCtx_pwr (a0) (a1) (s) : (State.updCtx a0 a1 s).pwr = s.pwr := rfl
@[simp] theorem State.updCtx_clk (a0) (a1) (s) : (State.updCtx a0 a1 s).clk = s.clk := rfl
@[simp] theorem State.updCtx_ras (a0) (a1) (s) : (State.updCtx a0 a1 s).ras = s.ras := rfl
@[simp] theorem State.updCtx_trc (a0) (a1) (s) : (State.updCtx a0 a1 s).trc = s.trc := rfl
@[simp] theorem State.updCtx_rst (a0) (a1) (s) : (State.updCtx a0 a1 s).rst = s.rst := rfl
@[simp] theorem State.updCtx_dbg (a0) (a1) (s) : (State.updCtx a0 a1 s).dbg = s.dbg := rfl
@[simp] theorem State.updCtx_out (a0) (a1) (s) : (State.updCtx a0 a1 s).out = s.out := rfl
@[simp] theorem State.updCtx_fresh (a0) (a1) (s) : (State.updCtx a0 a1 s).fresh = s.fresh := rfl

@[simp] theorem State.updPool_pending (a0) (a1) (s) : (State.updPool a0 a1 s).pending = s.pending := rfl
@[simp] theorem State.updPool_ep (a0) (a1) (s) : (State.updPool a0 a1 s).ep = s.ep := rfl
@[simp] theorem State.updPool_aon (a0) (a1) (s) : (State.updPool a0 a1 s).aon = s.aon := rfl
@[simp] theorem State.updPool_wires (a0) (a1) (s) : (State.updPool a0 a1 s).wires = s.wires := rfl
@[simp] theorem State.updPool_jtag (a0) (a1) (s) : (State.updPool a0 a1 s).jtag = s.jtag := rfl
@[simp] theorem State.updPool_fuses (a0) (a1) (s) : (State.updPool a0 a1 s).fuses = s.fuses := rfl
@[simp] theorem State.updPool_hif (a0) (a1) (s) : (State.updPool a0 a1 s).hif = s.hif := rfl
@[simp] theorem State.updPool_wins (a0) (a1) (s) : (State.updPool a0 a1 s).wins = s.wins := rfl
@[simp] theorem State.updPool_link (a0) (a1) (s) : (State.updPool a0 a1 s).link = s.link := rfl
@[simp] theorem State.updPool_dev (a0) (a1) (s) : (State.updPool a0 a1 s).dev = s.dev := rfl
@[simp] theorem State.updPool_crt (a0) (a1) (s) : (State.updPool a0 a1 s).crt = s.crt := rfl
@[simp] theorem State.updPool_cal (a0) (a1) (s) : (State.updPool a0 a1 s).cal = s.cal := rfl
@[simp] theorem State.updPool_adm (a0) (a1) (s) : (State.updPool a0 a1 s).adm = s.adm := rfl
@[simp] theorem State.updPool_dec (a0) (a1) (s) : (State.updPool a0 a1 s).dec = s.dec := rfl
@[simp] theorem State.updPool_enc (a0) (a1) (s) : (State.updPool a0 a1 s).enc = s.enc := rfl
@[simp] theorem State.updPool_cse (a0) (a1) (s) : (State.updPool a0 a1 s).cse = s.cse := rfl
@[simp] theorem State.updPool_rgn (a0) (a1) (s) : (State.updPool a0 a1 s).rgn = s.rgn := rfl
@[simp] theorem State.updPool_rmem (a0) (a1) (s) : (State.updPool a0 a1 s).rmem = s.rmem := rfl
@[simp] theorem State.updPool_dis (a0) (a1) (s) : (State.updPool a0 a1 s).dis = s.dis := rfl
@[simp] theorem State.updPool_syn (a0) (a1) (s) : (State.updPool a0 a1 s).syn = s.syn := rfl
@[simp] theorem State.updPool_tke (a0) (a1) (s) : (State.updPool a0 a1 s).tke = s.tke := rfl
@[simp] theorem State.updPool_dmc (a0) (a1) (s) : (State.updPool a0 a1 s).dmc = s.dmc := rfl
@[simp] theorem State.updPool_dram (a0) (a1) (s) : (State.updPool a0 a1 s).dram = s.dram := rfl
@[simp] theorem State.updPool_pwr (a0) (a1) (s) : (State.updPool a0 a1 s).pwr = s.pwr := rfl
@[simp] theorem State.updPool_clk (a0) (a1) (s) : (State.updPool a0 a1 s).clk = s.clk := rfl
@[simp] theorem State.updPool_ras (a0) (a1) (s) : (State.updPool a0 a1 s).ras = s.ras := rfl
@[simp] theorem State.updPool_trc (a0) (a1) (s) : (State.updPool a0 a1 s).trc = s.trc := rfl
@[simp] theorem State.updPool_rst (a0) (a1) (s) : (State.updPool a0 a1 s).rst = s.rst := rfl
@[simp] theorem State.updPool_dbg (a0) (a1) (s) : (State.updPool a0 a1 s).dbg = s.dbg := rfl
@[simp] theorem State.updPool_out (a0) (a1) (s) : (State.updPool a0 a1 s).out = s.out := rfl
@[simp] theorem State.updPool_fresh (a0) (a1) (s) : (State.updPool a0 a1 s).fresh = s.fresh := rfl

@[simp] theorem State.updTrack_pending (a0) (a1) (s) : (State.updTrack a0 a1 s).pending = s.pending := rfl
@[simp] theorem State.updTrack_ep (a0) (a1) (s) : (State.updTrack a0 a1 s).ep = s.ep := rfl
@[simp] theorem State.updTrack_aon (a0) (a1) (s) : (State.updTrack a0 a1 s).aon = s.aon := rfl
@[simp] theorem State.updTrack_wires (a0) (a1) (s) : (State.updTrack a0 a1 s).wires = s.wires := rfl
@[simp] theorem State.updTrack_jtag (a0) (a1) (s) : (State.updTrack a0 a1 s).jtag = s.jtag := rfl
@[simp] theorem State.updTrack_fuses (a0) (a1) (s) : (State.updTrack a0 a1 s).fuses = s.fuses := rfl
@[simp] theorem State.updTrack_hif (a0) (a1) (s) : (State.updTrack a0 a1 s).hif = s.hif := rfl
@[simp] theorem State.updTrack_wins (a0) (a1) (s) : (State.updTrack a0 a1 s).wins = s.wins := rfl
@[simp] theorem State.updTrack_link (a0) (a1) (s) : (State.updTrack a0 a1 s).link = s.link := rfl
@[simp] theorem State.updTrack_dev (a0) (a1) (s) : (State.updTrack a0 a1 s).dev = s.dev := rfl
@[simp] theorem State.updTrack_crt (a0) (a1) (s) : (State.updTrack a0 a1 s).crt = s.crt := rfl
@[simp] theorem State.updTrack_cal (a0) (a1) (s) : (State.updTrack a0 a1 s).cal = s.cal := rfl
@[simp] theorem State.updTrack_adm (a0) (a1) (s) : (State.updTrack a0 a1 s).adm = s.adm := rfl
@[simp] theorem State.updTrack_dec (a0) (a1) (s) : (State.updTrack a0 a1 s).dec = s.dec := rfl
@[simp] theorem State.updTrack_enc (a0) (a1) (s) : (State.updTrack a0 a1 s).enc = s.enc := rfl
@[simp] theorem State.updTrack_cse (a0) (a1) (s) : (State.updTrack a0 a1 s).cse = s.cse := rfl
@[simp] theorem State.updTrack_rgn (a0) (a1) (s) : (State.updTrack a0 a1 s).rgn = s.rgn := rfl
@[simp] theorem State.updTrack_rmem (a0) (a1) (s) : (State.updTrack a0 a1 s).rmem = s.rmem := rfl
@[simp] theorem State.updTrack_dis (a0) (a1) (s) : (State.updTrack a0 a1 s).dis = s.dis := rfl
@[simp] theorem State.updTrack_syn (a0) (a1) (s) : (State.updTrack a0 a1 s).syn = s.syn := rfl
@[simp] theorem State.updTrack_bpm (a0) (a1) (s) : (State.updTrack a0 a1 s).bpm = s.bpm := rfl
@[simp] theorem State.updTrack_dmc (a0) (a1) (s) : (State.updTrack a0 a1 s).dmc = s.dmc := rfl
@[simp] theorem State.updTrack_dram (a0) (a1) (s) : (State.updTrack a0 a1 s).dram = s.dram := rfl
@[simp] theorem State.updTrack_pwr (a0) (a1) (s) : (State.updTrack a0 a1 s).pwr = s.pwr := rfl
@[simp] theorem State.updTrack_clk (a0) (a1) (s) : (State.updTrack a0 a1 s).clk = s.clk := rfl
@[simp] theorem State.updTrack_ras (a0) (a1) (s) : (State.updTrack a0 a1 s).ras = s.ras := rfl
@[simp] theorem State.updTrack_trc (a0) (a1) (s) : (State.updTrack a0 a1 s).trc = s.trc := rfl
@[simp] theorem State.updTrack_rst (a0) (a1) (s) : (State.updTrack a0 a1 s).rst = s.rst := rfl
@[simp] theorem State.updTrack_dbg (a0) (a1) (s) : (State.updTrack a0 a1 s).dbg = s.dbg := rfl
@[simp] theorem State.updTrack_out (a0) (a1) (s) : (State.updTrack a0 a1 s).out = s.out := rfl
@[simp] theorem State.updTrack_fresh (a0) (a1) (s) : (State.updTrack a0 a1 s).fresh = s.fresh := rfl

@[simp] theorem State.updTvec_pending (a0) (a1) (s) : (State.updTvec a0 a1 s).pending = s.pending := rfl
@[simp] theorem State.updTvec_ep (a0) (a1) (s) : (State.updTvec a0 a1 s).ep = s.ep := rfl
@[simp] theorem State.updTvec_aon (a0) (a1) (s) : (State.updTvec a0 a1 s).aon = s.aon := rfl
@[simp] theorem State.updTvec_wires (a0) (a1) (s) : (State.updTvec a0 a1 s).wires = s.wires := rfl
@[simp] theorem State.updTvec_jtag (a0) (a1) (s) : (State.updTvec a0 a1 s).jtag = s.jtag := rfl
@[simp] theorem State.updTvec_fuses (a0) (a1) (s) : (State.updTvec a0 a1 s).fuses = s.fuses := rfl
@[simp] theorem State.updTvec_hif (a0) (a1) (s) : (State.updTvec a0 a1 s).hif = s.hif := rfl
@[simp] theorem State.updTvec_wins (a0) (a1) (s) : (State.updTvec a0 a1 s).wins = s.wins := rfl
@[simp] theorem State.updTvec_link (a0) (a1) (s) : (State.updTvec a0 a1 s).link = s.link := rfl
@[simp] theorem State.updTvec_dev (a0) (a1) (s) : (State.updTvec a0 a1 s).dev = s.dev := rfl
@[simp] theorem State.updTvec_crt (a0) (a1) (s) : (State.updTvec a0 a1 s).crt = s.crt := rfl
@[simp] theorem State.updTvec_cal (a0) (a1) (s) : (State.updTvec a0 a1 s).cal = s.cal := rfl
@[simp] theorem State.updTvec_adm (a0) (a1) (s) : (State.updTvec a0 a1 s).adm = s.adm := rfl
@[simp] theorem State.updTvec_dec (a0) (a1) (s) : (State.updTvec a0 a1 s).dec = s.dec := rfl
@[simp] theorem State.updTvec_enc (a0) (a1) (s) : (State.updTvec a0 a1 s).enc = s.enc := rfl
@[simp] theorem State.updTvec_cse (a0) (a1) (s) : (State.updTvec a0 a1 s).cse = s.cse := rfl
@[simp] theorem State.updTvec_rgn (a0) (a1) (s) : (State.updTvec a0 a1 s).rgn = s.rgn := rfl
@[simp] theorem State.updTvec_rmem (a0) (a1) (s) : (State.updTvec a0 a1 s).rmem = s.rmem := rfl
@[simp] theorem State.updTvec_dis (a0) (a1) (s) : (State.updTvec a0 a1 s).dis = s.dis := rfl
@[simp] theorem State.updTvec_syn (a0) (a1) (s) : (State.updTvec a0 a1 s).syn = s.syn := rfl
@[simp] theorem State.updTvec_bpm (a0) (a1) (s) : (State.updTvec a0 a1 s).bpm = s.bpm := rfl
@[simp] theorem State.updTvec_dmc (a0) (a1) (s) : (State.updTvec a0 a1 s).dmc = s.dmc := rfl
@[simp] theorem State.updTvec_dram (a0) (a1) (s) : (State.updTvec a0 a1 s).dram = s.dram := rfl
@[simp] theorem State.updTvec_pwr (a0) (a1) (s) : (State.updTvec a0 a1 s).pwr = s.pwr := rfl
@[simp] theorem State.updTvec_clk (a0) (a1) (s) : (State.updTvec a0 a1 s).clk = s.clk := rfl
@[simp] theorem State.updTvec_ras (a0) (a1) (s) : (State.updTvec a0 a1 s).ras = s.ras := rfl
@[simp] theorem State.updTvec_trc (a0) (a1) (s) : (State.updTvec a0 a1 s).trc = s.trc := rfl
@[simp] theorem State.updTvec_rst (a0) (a1) (s) : (State.updTvec a0 a1 s).rst = s.rst := rfl
@[simp] theorem State.updTvec_dbg (a0) (a1) (s) : (State.updTvec a0 a1 s).dbg = s.dbg := rfl
@[simp] theorem State.updTvec_out (a0) (a1) (s) : (State.updTvec a0 a1 s).out = s.out := rfl
@[simp] theorem State.updTvec_fresh (a0) (a1) (s) : (State.updTvec a0 a1 s).fresh = s.fresh := rfl

@[simp] theorem State.updChan_pending (a0) (a1) (s) : (State.updChan a0 a1 s).pending = s.pending := rfl
@[simp] theorem State.updChan_ep (a0) (a1) (s) : (State.updChan a0 a1 s).ep = s.ep := rfl
@[simp] theorem State.updChan_aon (a0) (a1) (s) : (State.updChan a0 a1 s).aon = s.aon := rfl
@[simp] theorem State.updChan_wires (a0) (a1) (s) : (State.updChan a0 a1 s).wires = s.wires := rfl
@[simp] theorem State.updChan_jtag (a0) (a1) (s) : (State.updChan a0 a1 s).jtag = s.jtag := rfl
@[simp] theorem State.updChan_fuses (a0) (a1) (s) : (State.updChan a0 a1 s).fuses = s.fuses := rfl
@[simp] theorem State.updChan_hif (a0) (a1) (s) : (State.updChan a0 a1 s).hif = s.hif := rfl
@[simp] theorem State.updChan_wins (a0) (a1) (s) : (State.updChan a0 a1 s).wins = s.wins := rfl
@[simp] theorem State.updChan_link (a0) (a1) (s) : (State.updChan a0 a1 s).link = s.link := rfl
@[simp] theorem State.updChan_dev (a0) (a1) (s) : (State.updChan a0 a1 s).dev = s.dev := rfl
@[simp] theorem State.updChan_crt (a0) (a1) (s) : (State.updChan a0 a1 s).crt = s.crt := rfl
@[simp] theorem State.updChan_cal (a0) (a1) (s) : (State.updChan a0 a1 s).cal = s.cal := rfl
@[simp] theorem State.updChan_adm (a0) (a1) (s) : (State.updChan a0 a1 s).adm = s.adm := rfl
@[simp] theorem State.updChan_dec (a0) (a1) (s) : (State.updChan a0 a1 s).dec = s.dec := rfl
@[simp] theorem State.updChan_enc (a0) (a1) (s) : (State.updChan a0 a1 s).enc = s.enc := rfl
@[simp] theorem State.updChan_cse (a0) (a1) (s) : (State.updChan a0 a1 s).cse = s.cse := rfl
@[simp] theorem State.updChan_rgn (a0) (a1) (s) : (State.updChan a0 a1 s).rgn = s.rgn := rfl
@[simp] theorem State.updChan_rmem (a0) (a1) (s) : (State.updChan a0 a1 s).rmem = s.rmem := rfl
@[simp] theorem State.updChan_dis (a0) (a1) (s) : (State.updChan a0 a1 s).dis = s.dis := rfl
@[simp] theorem State.updChan_syn (a0) (a1) (s) : (State.updChan a0 a1 s).syn = s.syn := rfl
@[simp] theorem State.updChan_bpm (a0) (a1) (s) : (State.updChan a0 a1 s).bpm = s.bpm := rfl
@[simp] theorem State.updChan_tke (a0) (a1) (s) : (State.updChan a0 a1 s).tke = s.tke := rfl
@[simp] theorem State.updChan_dram (a0) (a1) (s) : (State.updChan a0 a1 s).dram = s.dram := rfl
@[simp] theorem State.updChan_pwr (a0) (a1) (s) : (State.updChan a0 a1 s).pwr = s.pwr := rfl
@[simp] theorem State.updChan_clk (a0) (a1) (s) : (State.updChan a0 a1 s).clk = s.clk := rfl
@[simp] theorem State.updChan_ras (a0) (a1) (s) : (State.updChan a0 a1 s).ras = s.ras := rfl
@[simp] theorem State.updChan_trc (a0) (a1) (s) : (State.updChan a0 a1 s).trc = s.trc := rfl
@[simp] theorem State.updChan_rst (a0) (a1) (s) : (State.updChan a0 a1 s).rst = s.rst := rfl
@[simp] theorem State.updChan_dbg (a0) (a1) (s) : (State.updChan a0 a1 s).dbg = s.dbg := rfl
@[simp] theorem State.updChan_out (a0) (a1) (s) : (State.updChan a0 a1 s).out = s.out := rfl
@[simp] theorem State.updChan_fresh (a0) (a1) (s) : (State.updChan a0 a1 s).fresh = s.fresh := rfl

@[simp] theorem State.updTrn_pending (a0) (a1) (s) : (State.updTrn a0 a1 s).pending = s.pending := rfl
@[simp] theorem State.updTrn_ep (a0) (a1) (s) : (State.updTrn a0 a1 s).ep = s.ep := rfl
@[simp] theorem State.updTrn_aon (a0) (a1) (s) : (State.updTrn a0 a1 s).aon = s.aon := rfl
@[simp] theorem State.updTrn_wires (a0) (a1) (s) : (State.updTrn a0 a1 s).wires = s.wires := rfl
@[simp] theorem State.updTrn_jtag (a0) (a1) (s) : (State.updTrn a0 a1 s).jtag = s.jtag := rfl
@[simp] theorem State.updTrn_fuses (a0) (a1) (s) : (State.updTrn a0 a1 s).fuses = s.fuses := rfl
@[simp] theorem State.updTrn_hif (a0) (a1) (s) : (State.updTrn a0 a1 s).hif = s.hif := rfl
@[simp] theorem State.updTrn_wins (a0) (a1) (s) : (State.updTrn a0 a1 s).wins = s.wins := rfl
@[simp] theorem State.updTrn_link (a0) (a1) (s) : (State.updTrn a0 a1 s).link = s.link := rfl
@[simp] theorem State.updTrn_dev (a0) (a1) (s) : (State.updTrn a0 a1 s).dev = s.dev := rfl
@[simp] theorem State.updTrn_crt (a0) (a1) (s) : (State.updTrn a0 a1 s).crt = s.crt := rfl
@[simp] theorem State.updTrn_cal (a0) (a1) (s) : (State.updTrn a0 a1 s).cal = s.cal := rfl
@[simp] theorem State.updTrn_adm (a0) (a1) (s) : (State.updTrn a0 a1 s).adm = s.adm := rfl
@[simp] theorem State.updTrn_dec (a0) (a1) (s) : (State.updTrn a0 a1 s).dec = s.dec := rfl
@[simp] theorem State.updTrn_enc (a0) (a1) (s) : (State.updTrn a0 a1 s).enc = s.enc := rfl
@[simp] theorem State.updTrn_cse (a0) (a1) (s) : (State.updTrn a0 a1 s).cse = s.cse := rfl
@[simp] theorem State.updTrn_rgn (a0) (a1) (s) : (State.updTrn a0 a1 s).rgn = s.rgn := rfl
@[simp] theorem State.updTrn_rmem (a0) (a1) (s) : (State.updTrn a0 a1 s).rmem = s.rmem := rfl
@[simp] theorem State.updTrn_dis (a0) (a1) (s) : (State.updTrn a0 a1 s).dis = s.dis := rfl
@[simp] theorem State.updTrn_syn (a0) (a1) (s) : (State.updTrn a0 a1 s).syn = s.syn := rfl
@[simp] theorem State.updTrn_bpm (a0) (a1) (s) : (State.updTrn a0 a1 s).bpm = s.bpm := rfl
@[simp] theorem State.updTrn_tke (a0) (a1) (s) : (State.updTrn a0 a1 s).tke = s.tke := rfl
@[simp] theorem State.updTrn_dram (a0) (a1) (s) : (State.updTrn a0 a1 s).dram = s.dram := rfl
@[simp] theorem State.updTrn_pwr (a0) (a1) (s) : (State.updTrn a0 a1 s).pwr = s.pwr := rfl
@[simp] theorem State.updTrn_clk (a0) (a1) (s) : (State.updTrn a0 a1 s).clk = s.clk := rfl
@[simp] theorem State.updTrn_ras (a0) (a1) (s) : (State.updTrn a0 a1 s).ras = s.ras := rfl
@[simp] theorem State.updTrn_trc (a0) (a1) (s) : (State.updTrn a0 a1 s).trc = s.trc := rfl
@[simp] theorem State.updTrn_rst (a0) (a1) (s) : (State.updTrn a0 a1 s).rst = s.rst := rfl
@[simp] theorem State.updTrn_dbg (a0) (a1) (s) : (State.updTrn a0 a1 s).dbg = s.dbg := rfl
@[simp] theorem State.updTrn_out (a0) (a1) (s) : (State.updTrn a0 a1 s).out = s.out := rfl
@[simp] theorem State.updTrn_fresh (a0) (a1) (s) : (State.updTrn a0 a1 s).fresh = s.fresh := rfl

@[simp] theorem State.updRegPwr_pending (a0) (a1) (s) : (State.updRegPwr a0 a1 s).pending = s.pending := rfl
@[simp] theorem State.updRegPwr_ep (a0) (a1) (s) : (State.updRegPwr a0 a1 s).ep = s.ep := rfl
@[simp] theorem State.updRegPwr_aon (a0) (a1) (s) : (State.updRegPwr a0 a1 s).aon = s.aon := rfl
@[simp] theorem State.updRegPwr_wires (a0) (a1) (s) : (State.updRegPwr a0 a1 s).wires = s.wires := rfl
@[simp] theorem State.updRegPwr_jtag (a0) (a1) (s) : (State.updRegPwr a0 a1 s).jtag = s.jtag := rfl
@[simp] theorem State.updRegPwr_fuses (a0) (a1) (s) : (State.updRegPwr a0 a1 s).fuses = s.fuses := rfl
@[simp] theorem State.updRegPwr_hif (a0) (a1) (s) : (State.updRegPwr a0 a1 s).hif = s.hif := rfl
@[simp] theorem State.updRegPwr_wins (a0) (a1) (s) : (State.updRegPwr a0 a1 s).wins = s.wins := rfl
@[simp] theorem State.updRegPwr_link (a0) (a1) (s) : (State.updRegPwr a0 a1 s).link = s.link := rfl
@[simp] theorem State.updRegPwr_dev (a0) (a1) (s) : (State.updRegPwr a0 a1 s).dev = s.dev := rfl
@[simp] theorem State.updRegPwr_crt (a0) (a1) (s) : (State.updRegPwr a0 a1 s).crt = s.crt := rfl
@[simp] theorem State.updRegPwr_cal (a0) (a1) (s) : (State.updRegPwr a0 a1 s).cal = s.cal := rfl
@[simp] theorem State.updRegPwr_adm (a0) (a1) (s) : (State.updRegPwr a0 a1 s).adm = s.adm := rfl
@[simp] theorem State.updRegPwr_dec (a0) (a1) (s) : (State.updRegPwr a0 a1 s).dec = s.dec := rfl
@[simp] theorem State.updRegPwr_enc (a0) (a1) (s) : (State.updRegPwr a0 a1 s).enc = s.enc := rfl
@[simp] theorem State.updRegPwr_cse (a0) (a1) (s) : (State.updRegPwr a0 a1 s).cse = s.cse := rfl
@[simp] theorem State.updRegPwr_rgn (a0) (a1) (s) : (State.updRegPwr a0 a1 s).rgn = s.rgn := rfl
@[simp] theorem State.updRegPwr_rmem (a0) (a1) (s) : (State.updRegPwr a0 a1 s).rmem = s.rmem := rfl
@[simp] theorem State.updRegPwr_dis (a0) (a1) (s) : (State.updRegPwr a0 a1 s).dis = s.dis := rfl
@[simp] theorem State.updRegPwr_syn (a0) (a1) (s) : (State.updRegPwr a0 a1 s).syn = s.syn := rfl
@[simp] theorem State.updRegPwr_bpm (a0) (a1) (s) : (State.updRegPwr a0 a1 s).bpm = s.bpm := rfl
@[simp] theorem State.updRegPwr_tke (a0) (a1) (s) : (State.updRegPwr a0 a1 s).tke = s.tke := rfl
@[simp] theorem State.updRegPwr_dmc (a0) (a1) (s) : (State.updRegPwr a0 a1 s).dmc = s.dmc := rfl
@[simp] theorem State.updRegPwr_dram (a0) (a1) (s) : (State.updRegPwr a0 a1 s).dram = s.dram := rfl
@[simp] theorem State.updRegPwr_clk (a0) (a1) (s) : (State.updRegPwr a0 a1 s).clk = s.clk := rfl
@[simp] theorem State.updRegPwr_ras (a0) (a1) (s) : (State.updRegPwr a0 a1 s).ras = s.ras := rfl
@[simp] theorem State.updRegPwr_trc (a0) (a1) (s) : (State.updRegPwr a0 a1 s).trc = s.trc := rfl
@[simp] theorem State.updRegPwr_rst (a0) (a1) (s) : (State.updRegPwr a0 a1 s).rst = s.rst := rfl
@[simp] theorem State.updRegPwr_dbg (a0) (a1) (s) : (State.updRegPwr a0 a1 s).dbg = s.dbg := rfl
@[simp] theorem State.updRegPwr_out (a0) (a1) (s) : (State.updRegPwr a0 a1 s).out = s.out := rfl
@[simp] theorem State.updRegPwr_fresh (a0) (a1) (s) : (State.updRegPwr a0 a1 s).fresh = s.fresh := rfl

@[simp] theorem State.updUnit_pending (a0) (a1) (s) : (State.updUnit a0 a1 s).pending = s.pending := rfl
@[simp] theorem State.updUnit_ep (a0) (a1) (s) : (State.updUnit a0 a1 s).ep = s.ep := rfl
@[simp] theorem State.updUnit_aon (a0) (a1) (s) : (State.updUnit a0 a1 s).aon = s.aon := rfl
@[simp] theorem State.updUnit_wires (a0) (a1) (s) : (State.updUnit a0 a1 s).wires = s.wires := rfl
@[simp] theorem State.updUnit_jtag (a0) (a1) (s) : (State.updUnit a0 a1 s).jtag = s.jtag := rfl
@[simp] theorem State.updUnit_fuses (a0) (a1) (s) : (State.updUnit a0 a1 s).fuses = s.fuses := rfl
@[simp] theorem State.updUnit_hif (a0) (a1) (s) : (State.updUnit a0 a1 s).hif = s.hif := rfl
@[simp] theorem State.updUnit_wins (a0) (a1) (s) : (State.updUnit a0 a1 s).wins = s.wins := rfl
@[simp] theorem State.updUnit_link (a0) (a1) (s) : (State.updUnit a0 a1 s).link = s.link := rfl
@[simp] theorem State.updUnit_dev (a0) (a1) (s) : (State.updUnit a0 a1 s).dev = s.dev := rfl
@[simp] theorem State.updUnit_crt (a0) (a1) (s) : (State.updUnit a0 a1 s).crt = s.crt := rfl
@[simp] theorem State.updUnit_cal (a0) (a1) (s) : (State.updUnit a0 a1 s).cal = s.cal := rfl
@[simp] theorem State.updUnit_adm (a0) (a1) (s) : (State.updUnit a0 a1 s).adm = s.adm := rfl
@[simp] theorem State.updUnit_dec (a0) (a1) (s) : (State.updUnit a0 a1 s).dec = s.dec := rfl
@[simp] theorem State.updUnit_enc (a0) (a1) (s) : (State.updUnit a0 a1 s).enc = s.enc := rfl
@[simp] theorem State.updUnit_cse (a0) (a1) (s) : (State.updUnit a0 a1 s).cse = s.cse := rfl
@[simp] theorem State.updUnit_rgn (a0) (a1) (s) : (State.updUnit a0 a1 s).rgn = s.rgn := rfl
@[simp] theorem State.updUnit_rmem (a0) (a1) (s) : (State.updUnit a0 a1 s).rmem = s.rmem := rfl
@[simp] theorem State.updUnit_dis (a0) (a1) (s) : (State.updUnit a0 a1 s).dis = s.dis := rfl
@[simp] theorem State.updUnit_syn (a0) (a1) (s) : (State.updUnit a0 a1 s).syn = s.syn := rfl
@[simp] theorem State.updUnit_bpm (a0) (a1) (s) : (State.updUnit a0 a1 s).bpm = s.bpm := rfl
@[simp] theorem State.updUnit_tke (a0) (a1) (s) : (State.updUnit a0 a1 s).tke = s.tke := rfl
@[simp] theorem State.updUnit_dmc (a0) (a1) (s) : (State.updUnit a0 a1 s).dmc = s.dmc := rfl
@[simp] theorem State.updUnit_dram (a0) (a1) (s) : (State.updUnit a0 a1 s).dram = s.dram := rfl
@[simp] theorem State.updUnit_pwr (a0) (a1) (s) : (State.updUnit a0 a1 s).pwr = s.pwr := rfl
@[simp] theorem State.updUnit_clk (a0) (a1) (s) : (State.updUnit a0 a1 s).clk = s.clk := rfl
@[simp] theorem State.updUnit_trc (a0) (a1) (s) : (State.updUnit a0 a1 s).trc = s.trc := rfl
@[simp] theorem State.updUnit_rst (a0) (a1) (s) : (State.updUnit a0 a1 s).rst = s.rst := rfl
@[simp] theorem State.updUnit_dbg (a0) (a1) (s) : (State.updUnit a0 a1 s).dbg = s.dbg := rfl
@[simp] theorem State.updUnit_out (a0) (a1) (s) : (State.updUnit a0 a1 s).out = s.out := rfl
@[simp] theorem State.updUnit_fresh (a0) (a1) (s) : (State.updUnit a0 a1 s).fresh = s.fresh := rfl

@[simp] theorem State.glaze_pending (a0) (a1) (s) : (State.glaze a0 a1 s).pending = s.pending := (State.glaze_keeps (m := fun p => decide (p ∈ [.aon, .dbg])) rfl rfl _ _ s (.refl s)).same .pending rfl
@[simp] theorem State.glaze_ep (a0) (a1) (s) : (State.glaze a0 a1 s).ep = s.ep := (State.glaze_keeps (m := fun p => decide (p ∈ [.aon, .dbg])) rfl rfl _ _ s (.refl s)).same .ep rfl
@[simp] theorem State.glaze_wires (a0) (a1) (s) : (State.glaze a0 a1 s).wires = s.wires := (State.glaze_keeps (m := fun p => decide (p ∈ [.aon, .dbg])) rfl rfl _ _ s (.refl s)).same .wires rfl
@[simp] theorem State.glaze_jtag (a0) (a1) (s) : (State.glaze a0 a1 s).jtag = s.jtag := (State.glaze_keeps (m := fun p => decide (p ∈ [.aon, .dbg])) rfl rfl _ _ s (.refl s)).same .jtag rfl
@[simp] theorem State.glaze_fuses (a0) (a1) (s) : (State.glaze a0 a1 s).fuses = s.fuses := (State.glaze_keeps (m := fun p => decide (p ∈ [.aon, .dbg])) rfl rfl _ _ s (.refl s)).same .fuses rfl
@[simp] theorem State.glaze_hif (a0) (a1) (s) : (State.glaze a0 a1 s).hif = s.hif := (State.glaze_keeps (m := fun p => decide (p ∈ [.aon, .dbg])) rfl rfl _ _ s (.refl s)).same .hif rfl
@[simp] theorem State.glaze_wins (a0) (a1) (s) : (State.glaze a0 a1 s).wins = s.wins := (State.glaze_keeps (m := fun p => decide (p ∈ [.aon, .dbg])) rfl rfl _ _ s (.refl s)).same .wins rfl
@[simp] theorem State.glaze_link (a0) (a1) (s) : (State.glaze a0 a1 s).link = s.link := (State.glaze_keeps (m := fun p => decide (p ∈ [.aon, .dbg])) rfl rfl _ _ s (.refl s)).same .link rfl
@[simp] theorem State.glaze_dev (a0) (a1) (s) : (State.glaze a0 a1 s).dev = s.dev := (State.glaze_keeps (m := fun p => decide (p ∈ [.aon, .dbg])) rfl rfl _ _ s (.refl s)).same .dev rfl
@[simp] theorem State.glaze_crt (a0) (a1) (s) : (State.glaze a0 a1 s).crt = s.crt := (State.glaze_keeps (m := fun p => decide (p ∈ [.aon, .dbg])) rfl rfl _ _ s (.refl s)).same .crt rfl
@[simp] theorem State.glaze_cal (a0) (a1) (s) : (State.glaze a0 a1 s).cal = s.cal := (State.glaze_keeps (m := fun p => decide (p ∈ [.aon, .dbg])) rfl rfl _ _ s (.refl s)).same .cal rfl
@[simp] theorem State.glaze_adm (a0) (a1) (s) : (State.glaze a0 a1 s).adm = s.adm := (State.glaze_keeps (m := fun p => decide (p ∈ [.aon, .dbg])) rfl rfl _ _ s (.refl s)).same .adm rfl
@[simp] theorem State.glaze_dec (a0) (a1) (s) : (State.glaze a0 a1 s).dec = s.dec := (State.glaze_keeps (m := fun p => decide (p ∈ [.aon, .dbg])) rfl rfl _ _ s (.refl s)).same .dec rfl
@[simp] theorem State.glaze_enc (a0) (a1) (s) : (State.glaze a0 a1 s).enc = s.enc := (State.glaze_keeps (m := fun p => decide (p ∈ [.aon, .dbg])) rfl rfl _ _ s (.refl s)).same .enc rfl
@[simp] theorem State.glaze_cse (a0) (a1) (s) : (State.glaze a0 a1 s).cse = s.cse := (State.glaze_keeps (m := fun p => decide (p ∈ [.aon, .dbg])) rfl rfl _ _ s (.refl s)).same .cse rfl
@[simp] theorem State.glaze_rgn (a0) (a1) (s) : (State.glaze a0 a1 s).rgn = s.rgn := (State.glaze_keeps (m := fun p => decide (p ∈ [.aon, .dbg])) rfl rfl _ _ s (.refl s)).same .rgn rfl
@[simp] theorem State.glaze_rmem (a0) (a1) (s) : (State.glaze a0 a1 s).rmem = s.rmem := (State.glaze_keeps (m := fun p => decide (p ∈ [.aon, .dbg])) rfl rfl _ _ s (.refl s)).same .rmem rfl
@[simp] theorem State.glaze_dis (a0) (a1) (s) : (State.glaze a0 a1 s).dis = s.dis := (State.glaze_keeps (m := fun p => decide (p ∈ [.aon, .dbg])) rfl rfl _ _ s (.refl s)).same .dis rfl
@[simp] theorem State.glaze_syn (a0) (a1) (s) : (State.glaze a0 a1 s).syn = s.syn := (State.glaze_keeps (m := fun p => decide (p ∈ [.aon, .dbg])) rfl rfl _ _ s (.refl s)).same .syn rfl
@[simp] theorem State.glaze_bpm (a0) (a1) (s) : (State.glaze a0 a1 s).bpm = s.bpm := (State.glaze_keeps (m := fun p => decide (p ∈ [.aon, .dbg])) rfl rfl _ _ s (.refl s)).same .bpm rfl
@[simp] theorem State.glaze_tke (a0) (a1) (s) : (State.glaze a0 a1 s).tke = s.tke := (State.glaze_keeps (m := fun p => decide (p ∈ [.aon, .dbg])) rfl rfl _ _ s (.refl s)).same .tke rfl
@[simp] theorem State.glaze_dmc (a0) (a1) (s) : (State.glaze a0 a1 s).dmc = s.dmc := (State.glaze_keeps (m := fun p => decide (p ∈ [.aon, .dbg])) rfl rfl _ _ s (.refl s)).same .dmc rfl
@[simp] theorem State.glaze_dram (a0) (a1) (s) : (State.glaze a0 a1 s).dram = s.dram := (State.glaze_keeps (m := fun p => decide (p ∈ [.aon, .dbg])) rfl rfl _ _ s (.refl s)).same .dram rfl
@[simp] theorem State.glaze_pwr (a0) (a1) (s) : (State.glaze a0 a1 s).pwr = s.pwr := (State.glaze_keeps (m := fun p => decide (p ∈ [.aon, .dbg])) rfl rfl _ _ s (.refl s)).same .pwr rfl
@[simp] theorem State.glaze_clk (a0) (a1) (s) : (State.glaze a0 a1 s).clk = s.clk := (State.glaze_keeps (m := fun p => decide (p ∈ [.aon, .dbg])) rfl rfl _ _ s (.refl s)).same .clk rfl
@[simp] theorem State.glaze_ras (a0) (a1) (s) : (State.glaze a0 a1 s).ras = s.ras := (State.glaze_keeps (m := fun p => decide (p ∈ [.aon, .dbg])) rfl rfl _ _ s (.refl s)).same .ras rfl
@[simp] theorem State.glaze_trc (a0) (a1) (s) : (State.glaze a0 a1 s).trc = s.trc := (State.glaze_keeps (m := fun p => decide (p ∈ [.aon, .dbg])) rfl rfl _ _ s (.refl s)).same .trc rfl
@[simp] theorem State.glaze_rst (a0) (a1) (s) : (State.glaze a0 a1 s).rst = s.rst := (State.glaze_keeps (m := fun p => decide (p ∈ [.aon, .dbg])) rfl rfl _ _ s (.refl s)).same .rst rfl
@[simp] theorem State.glaze_out (a0) (a1) (s) : (State.glaze a0 a1 s).out = s.out := (State.glaze_keeps (m := fun p => decide (p ∈ [.aon, .dbg])) rfl rfl _ _ s (.refl s)).same .out rfl
@[simp] theorem State.glaze_fresh (a0) (a1) (s) : (State.glaze a0 a1 s).fresh = s.fresh := (State.glaze_keeps (m := fun p => decide (p ∈ [.aon, .dbg])) rfl rfl _ _ s (.refl s)).same .fresh rfl

@[simp] theorem State.kickWrite_pending (s) : (State.kickWrite s).pending = s.pending := (State.kickWrite_keeps (m := fun p => decide (p ∈ [.crt])) rfl s (.refl s)).same .pending rfl
@[simp] theorem State.kickWrite_ep (s) : (State.kickWrite s).ep = s.ep := (State.kickWrite_keeps (m := fun p => decide (p ∈ [.crt])) rfl s (.refl s)).same .ep rfl
@[simp] theorem State.kickWrite_aon (s) : (State.kickWrite s).aon = s.aon := (State.kickWrite_keeps (m := fun p => decide (p ∈ [.crt])) rfl s (.refl s)).same .aon rfl
@[simp] theorem State.kickWrite_wires (s) : (State.kickWrite s).wires = s.wires := (State.kickWrite_keeps (m := fun p => decide (p ∈ [.crt])) rfl s (.refl s)).same .wires rfl
@[simp] theorem State.kickWrite_jtag (s) : (State.kickWrite s).jtag = s.jtag := (State.kickWrite_keeps (m := fun p => decide (p ∈ [.crt])) rfl s (.refl s)).same .jtag rfl
@[simp] theorem State.kickWrite_fuses (s) : (State.kickWrite s).fuses = s.fuses := (State.kickWrite_keeps (m := fun p => decide (p ∈ [.crt])) rfl s (.refl s)).same .fuses rfl
@[simp] theorem State.kickWrite_hif (s) : (State.kickWrite s).hif = s.hif := (State.kickWrite_keeps (m := fun p => decide (p ∈ [.crt])) rfl s (.refl s)).same .hif rfl
@[simp] theorem State.kickWrite_wins (s) : (State.kickWrite s).wins = s.wins := (State.kickWrite_keeps (m := fun p => decide (p ∈ [.crt])) rfl s (.refl s)).same .wins rfl
@[simp] theorem State.kickWrite_link (s) : (State.kickWrite s).link = s.link := (State.kickWrite_keeps (m := fun p => decide (p ∈ [.crt])) rfl s (.refl s)).same .link rfl
@[simp] theorem State.kickWrite_dev (s) : (State.kickWrite s).dev = s.dev := (State.kickWrite_keeps (m := fun p => decide (p ∈ [.crt])) rfl s (.refl s)).same .dev rfl
@[simp] theorem State.kickWrite_cal (s) : (State.kickWrite s).cal = s.cal := (State.kickWrite_keeps (m := fun p => decide (p ∈ [.crt])) rfl s (.refl s)).same .cal rfl
@[simp] theorem State.kickWrite_adm (s) : (State.kickWrite s).adm = s.adm := (State.kickWrite_keeps (m := fun p => decide (p ∈ [.crt])) rfl s (.refl s)).same .adm rfl
@[simp] theorem State.kickWrite_dec (s) : (State.kickWrite s).dec = s.dec := (State.kickWrite_keeps (m := fun p => decide (p ∈ [.crt])) rfl s (.refl s)).same .dec rfl
@[simp] theorem State.kickWrite_enc (s) : (State.kickWrite s).enc = s.enc := (State.kickWrite_keeps (m := fun p => decide (p ∈ [.crt])) rfl s (.refl s)).same .enc rfl
@[simp] theorem State.kickWrite_cse (s) : (State.kickWrite s).cse = s.cse := (State.kickWrite_keeps (m := fun p => decide (p ∈ [.crt])) rfl s (.refl s)).same .cse rfl
@[simp] theorem State.kickWrite_rgn (s) : (State.kickWrite s).rgn = s.rgn := (State.kickWrite_keeps (m := fun p => decide (p ∈ [.crt])) rfl s (.refl s)).same .rgn rfl
@[simp] theorem State.kickWrite_rmem (s) : (State.kickWrite s).rmem = s.rmem := (State.kickWrite_keeps (m := fun p => decide (p ∈ [.crt])) rfl s (.refl s)).same .rmem rfl
@[simp] theorem State.kickWrite_dis (s) : (State.kickWrite s).dis = s.dis := (State.kickWrite_keeps (m := fun p => decide (p ∈ [.crt])) rfl s (.refl s)).same .dis rfl
@[simp] theorem State.kickWrite_syn (s) : (State.kickWrite s).syn = s.syn := (State.kickWrite_keeps (m := fun p => decide (p ∈ [.crt])) rfl s (.refl s)).same .syn rfl
@[simp] theorem State.kickWrite_bpm (s) : (State.kickWrite s).bpm = s.bpm := (State.kickWrite_keeps (m := fun p => decide (p ∈ [.crt])) rfl s (.refl s)).same .bpm rfl
@[simp] theorem State.kickWrite_tke (s) : (State.kickWrite s).tke = s.tke := (State.kickWrite_keeps (m := fun p => decide (p ∈ [.crt])) rfl s (.refl s)).same .tke rfl
@[simp] theorem State.kickWrite_dmc (s) : (State.kickWrite s).dmc = s.dmc := (State.kickWrite_keeps (m := fun p => decide (p ∈ [.crt])) rfl s (.refl s)).same .dmc rfl
@[simp] theorem State.kickWrite_dram (s) : (State.kickWrite s).dram = s.dram := (State.kickWrite_keeps (m := fun p => decide (p ∈ [.crt])) rfl s (.refl s)).same .dram rfl
@[simp] theorem State.kickWrite_pwr (s) : (State.kickWrite s).pwr = s.pwr := (State.kickWrite_keeps (m := fun p => decide (p ∈ [.crt])) rfl s (.refl s)).same .pwr rfl
@[simp] theorem State.kickWrite_clk (s) : (State.kickWrite s).clk = s.clk := (State.kickWrite_keeps (m := fun p => decide (p ∈ [.crt])) rfl s (.refl s)).same .clk rfl
@[simp] theorem State.kickWrite_ras (s) : (State.kickWrite s).ras = s.ras := (State.kickWrite_keeps (m := fun p => decide (p ∈ [.crt])) rfl s (.refl s)).same .ras rfl
@[simp] theorem State.kickWrite_trc (s) : (State.kickWrite s).trc = s.trc := (State.kickWrite_keeps (m := fun p => decide (p ∈ [.crt])) rfl s (.refl s)).same .trc rfl
@[simp] theorem State.kickWrite_rst (s) : (State.kickWrite s).rst = s.rst := (State.kickWrite_keeps (m := fun p => decide (p ∈ [.crt])) rfl s (.refl s)).same .rst rfl
@[simp] theorem State.kickWrite_dbg (s) : (State.kickWrite s).dbg = s.dbg := (State.kickWrite_keeps (m := fun p => decide (p ∈ [.crt])) rfl s (.refl s)).same .dbg rfl
@[simp] theorem State.kickWrite_out (s) : (State.kickWrite s).out = s.out := (State.kickWrite_keeps (m := fun p => decide (p ∈ [.crt])) rfl s (.refl s)).same .out rfl
@[simp] theorem State.kickWrite_fresh (s) : (State.kickWrite s).fresh = s.fresh := (State.kickWrite_keeps (m := fun p => decide (p ∈ [.crt])) rfl s (.refl s)).same .fresh rfl

@[simp] theorem State.pendRecord_pending (a0) (a1) (a2) (a3) (s) : (State.pendRecord a0 a1 a2 a3 s).pending = s.pending := (State.pendRecord_keeps (m := fun p => decide (p ∈ [.crt])) rfl _ _ _ _ s (.refl s)).same .pending rfl
@[simp] theorem State.pendRecord_ep (a0) (a1) (a2) (a3) (s) : (State.pendRecord a0 a1 a2 a3 s).ep = s.ep := (State.pendRecord_keeps (m := fun p => decide (p ∈ [.crt])) rfl _ _ _ _ s (.refl s)).same .ep rfl
@[simp] theorem State.pendRecord_aon (a0) (a1) (a2) (a3) (s) : (State.pendRecord a0 a1 a2 a3 s).aon = s.aon := (State.pendRecord_keeps (m := fun p => decide (p ∈ [.crt])) rfl _ _ _ _ s (.refl s)).same .aon rfl
@[simp] theorem State.pendRecord_wires (a0) (a1) (a2) (a3) (s) : (State.pendRecord a0 a1 a2 a3 s).wires = s.wires := (State.pendRecord_keeps (m := fun p => decide (p ∈ [.crt])) rfl _ _ _ _ s (.refl s)).same .wires rfl
@[simp] theorem State.pendRecord_jtag (a0) (a1) (a2) (a3) (s) : (State.pendRecord a0 a1 a2 a3 s).jtag = s.jtag := (State.pendRecord_keeps (m := fun p => decide (p ∈ [.crt])) rfl _ _ _ _ s (.refl s)).same .jtag rfl
@[simp] theorem State.pendRecord_fuses (a0) (a1) (a2) (a3) (s) : (State.pendRecord a0 a1 a2 a3 s).fuses = s.fuses := (State.pendRecord_keeps (m := fun p => decide (p ∈ [.crt])) rfl _ _ _ _ s (.refl s)).same .fuses rfl
@[simp] theorem State.pendRecord_hif (a0) (a1) (a2) (a3) (s) : (State.pendRecord a0 a1 a2 a3 s).hif = s.hif := (State.pendRecord_keeps (m := fun p => decide (p ∈ [.crt])) rfl _ _ _ _ s (.refl s)).same .hif rfl
@[simp] theorem State.pendRecord_wins (a0) (a1) (a2) (a3) (s) : (State.pendRecord a0 a1 a2 a3 s).wins = s.wins := (State.pendRecord_keeps (m := fun p => decide (p ∈ [.crt])) rfl _ _ _ _ s (.refl s)).same .wins rfl
@[simp] theorem State.pendRecord_link (a0) (a1) (a2) (a3) (s) : (State.pendRecord a0 a1 a2 a3 s).link = s.link := (State.pendRecord_keeps (m := fun p => decide (p ∈ [.crt])) rfl _ _ _ _ s (.refl s)).same .link rfl
@[simp] theorem State.pendRecord_dev (a0) (a1) (a2) (a3) (s) : (State.pendRecord a0 a1 a2 a3 s).dev = s.dev := (State.pendRecord_keeps (m := fun p => decide (p ∈ [.crt])) rfl _ _ _ _ s (.refl s)).same .dev rfl
@[simp] theorem State.pendRecord_cal (a0) (a1) (a2) (a3) (s) : (State.pendRecord a0 a1 a2 a3 s).cal = s.cal := (State.pendRecord_keeps (m := fun p => decide (p ∈ [.crt])) rfl _ _ _ _ s (.refl s)).same .cal rfl
@[simp] theorem State.pendRecord_adm (a0) (a1) (a2) (a3) (s) : (State.pendRecord a0 a1 a2 a3 s).adm = s.adm := (State.pendRecord_keeps (m := fun p => decide (p ∈ [.crt])) rfl _ _ _ _ s (.refl s)).same .adm rfl
@[simp] theorem State.pendRecord_dec (a0) (a1) (a2) (a3) (s) : (State.pendRecord a0 a1 a2 a3 s).dec = s.dec := (State.pendRecord_keeps (m := fun p => decide (p ∈ [.crt])) rfl _ _ _ _ s (.refl s)).same .dec rfl
@[simp] theorem State.pendRecord_enc (a0) (a1) (a2) (a3) (s) : (State.pendRecord a0 a1 a2 a3 s).enc = s.enc := (State.pendRecord_keeps (m := fun p => decide (p ∈ [.crt])) rfl _ _ _ _ s (.refl s)).same .enc rfl
@[simp] theorem State.pendRecord_cse (a0) (a1) (a2) (a3) (s) : (State.pendRecord a0 a1 a2 a3 s).cse = s.cse := (State.pendRecord_keeps (m := fun p => decide (p ∈ [.crt])) rfl _ _ _ _ s (.refl s)).same .cse rfl
@[simp] theorem State.pendRecord_rgn (a0) (a1) (a2) (a3) (s) : (State.pendRecord a0 a1 a2 a3 s).rgn = s.rgn := (State.pendRecord_keeps (m := fun p => decide (p ∈ [.crt])) rfl _ _ _ _ s (.refl s)).same .rgn rfl
@[simp] theorem State.pendRecord_rmem (a0) (a1) (a2) (a3) (s) : (State.pendRecord a0 a1 a2 a3 s).rmem = s.rmem := (State.pendRecord_keeps (m := fun p => decide (p ∈ [.crt])) rfl _ _ _ _ s (.refl s)).same .rmem rfl
@[simp] theorem State.pendRecord_dis (a0) (a1) (a2) (a3) (s) : (State.pendRecord a0 a1 a2 a3 s).dis = s.dis := (State.pendRecord_keeps (m := fun p => decide (p ∈ [.crt])) rfl _ _ _ _ s (.refl s)).same .dis rfl
@[simp] theorem State.pendRecord_syn (a0) (a1) (a2) (a3) (s) : (State.pendRecord a0 a1 a2 a3 s).syn = s.syn := (State.pendRecord_keeps (m := fun p => decide (p ∈ [.crt])) rfl _ _ _ _ s (.refl s)).same .syn rfl
@[simp] theorem State.pendRecord_bpm (a0) (a1) (a2) (a3) (s) : (State.pendRecord a0 a1 a2 a3 s).bpm = s.bpm := (State.pendRecord_keeps (m := fun p => decide (p ∈ [.crt])) rfl _ _ _ _ s (.refl s)).same .bpm rfl
@[simp] theorem State.pendRecord_tke (a0) (a1) (a2) (a3) (s) : (State.pendRecord a0 a1 a2 a3 s).tke = s.tke := (State.pendRecord_keeps (m := fun p => decide (p ∈ [.crt])) rfl _ _ _ _ s (.refl s)).same .tke rfl
@[simp] theorem State.pendRecord_dmc (a0) (a1) (a2) (a3) (s) : (State.pendRecord a0 a1 a2 a3 s).dmc = s.dmc := (State.pendRecord_keeps (m := fun p => decide (p ∈ [.crt])) rfl _ _ _ _ s (.refl s)).same .dmc rfl
@[simp] theorem State.pendRecord_dram (a0) (a1) (a2) (a3) (s) : (State.pendRecord a0 a1 a2 a3 s).dram = s.dram := (State.pendRecord_keeps (m := fun p => decide (p ∈ [.crt])) rfl _ _ _ _ s (.refl s)).same .dram rfl
@[simp] theorem State.pendRecord_pwr (a0) (a1) (a2) (a3) (s) : (State.pendRecord a0 a1 a2 a3 s).pwr = s.pwr := (State.pendRecord_keeps (m := fun p => decide (p ∈ [.crt])) rfl _ _ _ _ s (.refl s)).same .pwr rfl
@[simp] theorem State.pendRecord_clk (a0) (a1) (a2) (a3) (s) : (State.pendRecord a0 a1 a2 a3 s).clk = s.clk := (State.pendRecord_keeps (m := fun p => decide (p ∈ [.crt])) rfl _ _ _ _ s (.refl s)).same .clk rfl
@[simp] theorem State.pendRecord_ras (a0) (a1) (a2) (a3) (s) : (State.pendRecord a0 a1 a2 a3 s).ras = s.ras := (State.pendRecord_keeps (m := fun p => decide (p ∈ [.crt])) rfl _ _ _ _ s (.refl s)).same .ras rfl
@[simp] theorem State.pendRecord_trc (a0) (a1) (a2) (a3) (s) : (State.pendRecord a0 a1 a2 a3 s).trc = s.trc := (State.pendRecord_keeps (m := fun p => decide (p ∈ [.crt])) rfl _ _ _ _ s (.refl s)).same .trc rfl
@[simp] theorem State.pendRecord_rst (a0) (a1) (a2) (a3) (s) : (State.pendRecord a0 a1 a2 a3 s).rst = s.rst := (State.pendRecord_keeps (m := fun p => decide (p ∈ [.crt])) rfl _ _ _ _ s (.refl s)).same .rst rfl
@[simp] theorem State.pendRecord_dbg (a0) (a1) (a2) (a3) (s) : (State.pendRecord a0 a1 a2 a3 s).dbg = s.dbg := (State.pendRecord_keeps (m := fun p => decide (p ∈ [.crt])) rfl _ _ _ _ s (.refl s)).same .dbg rfl
@[simp] theorem State.pendRecord_out (a0) (a1) (a2) (a3) (s) : (State.pendRecord a0 a1 a2 a3 s).out = s.out := (State.pendRecord_keeps (m := fun p => decide (p ∈ [.crt])) rfl _ _ _ _ s (.refl s)).same .out rfl
@[simp] theorem State.pendRecord_fresh (a0) (a1) (a2) (a3) (s) : (State.pendRecord a0 a1 a2 a3 s).fresh = s.fresh := (State.pendRecord_keeps (m := fun p => decide (p ∈ [.crt])) rfl _ _ _ _ s (.refl s)).same .fresh rfl

@[simp] theorem State.pendLife_pending (a0) (a1) (s) : (State.pendLife a0 a1 s).pending = s.pending := (State.pendLife_keeps (m := fun p => decide (p ∈ [.crt])) rfl _ _ s (.refl s)).same .pending rfl
@[simp] theorem State.pendLife_ep (a0) (a1) (s) : (State.pendLife a0 a1 s).ep = s.ep := (State.pendLife_keeps (m := fun p => decide (p ∈ [.crt])) rfl _ _ s (.refl s)).same .ep rfl
@[simp] theorem State.pendLife_aon (a0) (a1) (s) : (State.pendLife a0 a1 s).aon = s.aon := (State.pendLife_keeps (m := fun p => decide (p ∈ [.crt])) rfl _ _ s (.refl s)).same .aon rfl
@[simp] theorem State.pendLife_wires (a0) (a1) (s) : (State.pendLife a0 a1 s).wires = s.wires := (State.pendLife_keeps (m := fun p => decide (p ∈ [.crt])) rfl _ _ s (.refl s)).same .wires rfl
@[simp] theorem State.pendLife_jtag (a0) (a1) (s) : (State.pendLife a0 a1 s).jtag = s.jtag := (State.pendLife_keeps (m := fun p => decide (p ∈ [.crt])) rfl _ _ s (.refl s)).same .jtag rfl
@[simp] theorem State.pendLife_fuses (a0) (a1) (s) : (State.pendLife a0 a1 s).fuses = s.fuses := (State.pendLife_keeps (m := fun p => decide (p ∈ [.crt])) rfl _ _ s (.refl s)).same .fuses rfl
@[simp] theorem State.pendLife_hif (a0) (a1) (s) : (State.pendLife a0 a1 s).hif = s.hif := (State.pendLife_keeps (m := fun p => decide (p ∈ [.crt])) rfl _ _ s (.refl s)).same .hif rfl
@[simp] theorem State.pendLife_wins (a0) (a1) (s) : (State.pendLife a0 a1 s).wins = s.wins := (State.pendLife_keeps (m := fun p => decide (p ∈ [.crt])) rfl _ _ s (.refl s)).same .wins rfl
@[simp] theorem State.pendLife_link (a0) (a1) (s) : (State.pendLife a0 a1 s).link = s.link := (State.pendLife_keeps (m := fun p => decide (p ∈ [.crt])) rfl _ _ s (.refl s)).same .link rfl
@[simp] theorem State.pendLife_dev (a0) (a1) (s) : (State.pendLife a0 a1 s).dev = s.dev := (State.pendLife_keeps (m := fun p => decide (p ∈ [.crt])) rfl _ _ s (.refl s)).same .dev rfl
@[simp] theorem State.pendLife_cal (a0) (a1) (s) : (State.pendLife a0 a1 s).cal = s.cal := (State.pendLife_keeps (m := fun p => decide (p ∈ [.crt])) rfl _ _ s (.refl s)).same .cal rfl
@[simp] theorem State.pendLife_adm (a0) (a1) (s) : (State.pendLife a0 a1 s).adm = s.adm := (State.pendLife_keeps (m := fun p => decide (p ∈ [.crt])) rfl _ _ s (.refl s)).same .adm rfl
@[simp] theorem State.pendLife_dec (a0) (a1) (s) : (State.pendLife a0 a1 s).dec = s.dec := (State.pendLife_keeps (m := fun p => decide (p ∈ [.crt])) rfl _ _ s (.refl s)).same .dec rfl
@[simp] theorem State.pendLife_enc (a0) (a1) (s) : (State.pendLife a0 a1 s).enc = s.enc := (State.pendLife_keeps (m := fun p => decide (p ∈ [.crt])) rfl _ _ s (.refl s)).same .enc rfl
@[simp] theorem State.pendLife_cse (a0) (a1) (s) : (State.pendLife a0 a1 s).cse = s.cse := (State.pendLife_keeps (m := fun p => decide (p ∈ [.crt])) rfl _ _ s (.refl s)).same .cse rfl
@[simp] theorem State.pendLife_rgn (a0) (a1) (s) : (State.pendLife a0 a1 s).rgn = s.rgn := (State.pendLife_keeps (m := fun p => decide (p ∈ [.crt])) rfl _ _ s (.refl s)).same .rgn rfl
@[simp] theorem State.pendLife_rmem (a0) (a1) (s) : (State.pendLife a0 a1 s).rmem = s.rmem := (State.pendLife_keeps (m := fun p => decide (p ∈ [.crt])) rfl _ _ s (.refl s)).same .rmem rfl
@[simp] theorem State.pendLife_dis (a0) (a1) (s) : (State.pendLife a0 a1 s).dis = s.dis := (State.pendLife_keeps (m := fun p => decide (p ∈ [.crt])) rfl _ _ s (.refl s)).same .dis rfl
@[simp] theorem State.pendLife_syn (a0) (a1) (s) : (State.pendLife a0 a1 s).syn = s.syn := (State.pendLife_keeps (m := fun p => decide (p ∈ [.crt])) rfl _ _ s (.refl s)).same .syn rfl
@[simp] theorem State.pendLife_bpm (a0) (a1) (s) : (State.pendLife a0 a1 s).bpm = s.bpm := (State.pendLife_keeps (m := fun p => decide (p ∈ [.crt])) rfl _ _ s (.refl s)).same .bpm rfl
@[simp] theorem State.pendLife_tke (a0) (a1) (s) : (State.pendLife a0 a1 s).tke = s.tke := (State.pendLife_keeps (m := fun p => decide (p ∈ [.crt])) rfl _ _ s (.refl s)).same .tke rfl
@[simp] theorem State.pendLife_dmc (a0) (a1) (s) : (State.pendLife a0 a1 s).dmc = s.dmc := (State.pendLife_keeps (m := fun p => decide (p ∈ [.crt])) rfl _ _ s (.refl s)).same .dmc rfl
@[simp] theorem State.pendLife_dram (a0) (a1) (s) : (State.pendLife a0 a1 s).dram = s.dram := (State.pendLife_keeps (m := fun p => decide (p ∈ [.crt])) rfl _ _ s (.refl s)).same .dram rfl
@[simp] theorem State.pendLife_pwr (a0) (a1) (s) : (State.pendLife a0 a1 s).pwr = s.pwr := (State.pendLife_keeps (m := fun p => decide (p ∈ [.crt])) rfl _ _ s (.refl s)).same .pwr rfl
@[simp] theorem State.pendLife_clk (a0) (a1) (s) : (State.pendLife a0 a1 s).clk = s.clk := (State.pendLife_keeps (m := fun p => decide (p ∈ [.crt])) rfl _ _ s (.refl s)).same .clk rfl
@[simp] theorem State.pendLife_ras (a0) (a1) (s) : (State.pendLife a0 a1 s).ras = s.ras := (State.pendLife_keeps (m := fun p => decide (p ∈ [.crt])) rfl _ _ s (.refl s)).same .ras rfl
@[simp] theorem State.pendLife_trc (a0) (a1) (s) : (State.pendLife a0 a1 s).trc = s.trc := (State.pendLife_keeps (m := fun p => decide (p ∈ [.crt])) rfl _ _ s (.refl s)).same .trc rfl
@[simp] theorem State.pendLife_rst (a0) (a1) (s) : (State.pendLife a0 a1 s).rst = s.rst := (State.pendLife_keeps (m := fun p => decide (p ∈ [.crt])) rfl _ _ s (.refl s)).same .rst rfl
@[simp] theorem State.pendLife_dbg (a0) (a1) (s) : (State.pendLife a0 a1 s).dbg = s.dbg := (State.pendLife_keeps (m := fun p => decide (p ∈ [.crt])) rfl _ _ s (.refl s)).same .dbg rfl
@[simp] theorem State.pendLife_out (a0) (a1) (s) : (State.pendLife a0 a1 s).out = s.out := (State.pendLife_keeps (m := fun p => decide (p ∈ [.crt])) rfl _ _ s (.refl s)).same .out rfl
@[simp] theorem State.pendLife_fresh (a0) (a1) (s) : (State.pendLife a0 a1 s).fresh = s.fresh := (State.pendLife_keeps (m := fun p => decide (p ∈ [.crt])) rfl _ _ s (.refl s)).same .fresh rfl

@[simp] theorem State.flushRecords_pending (a0) (a1) (s) : (State.flushRecords a0 a1 s).pending = s.pending := (State.flushRecords_keeps (m := fun p => decide (p ∈ [.crt])) rfl _ _ s (.refl s)).same .pending rfl
@[simp] theorem State.flushRecords_ep (a0) (a1) (s) : (State.flushRecords a0 a1 s).ep = s.ep := (State.flushRecords_keeps (m := fun p => decide (p ∈ [.crt])) rfl _ _ s (.refl s)).same .ep rfl
@[simp] theorem State.flushRecords_aon (a0) (a1) (s) : (State.flushRecords a0 a1 s).aon = s.aon := (State.flushRecords_keeps (m := fun p => decide (p ∈ [.crt])) rfl _ _ s (.refl s)).same .aon rfl
@[simp] theorem State.flushRecords_wires (a0) (a1) (s) : (State.flushRecords a0 a1 s).wires = s.wires := (State.flushRecords_keeps (m := fun p => decide (p ∈ [.crt])) rfl _ _ s (.refl s)).same .wires rfl
@[simp] theorem State.flushRecords_jtag (a0) (a1) (s) : (State.flushRecords a0 a1 s).jtag = s.jtag := (State.flushRecords_keeps (m := fun p => decide (p ∈ [.crt])) rfl _ _ s (.refl s)).same .jtag rfl
@[simp] theorem State.flushRecords_fuses (a0) (a1) (s) : (State.flushRecords a0 a1 s).fuses = s.fuses := (State.flushRecords_keeps (m := fun p => decide (p ∈ [.crt])) rfl _ _ s (.refl s)).same .fuses rfl
@[simp] theorem State.flushRecords_hif (a0) (a1) (s) : (State.flushRecords a0 a1 s).hif = s.hif := (State.flushRecords_keeps (m := fun p => decide (p ∈ [.crt])) rfl _ _ s (.refl s)).same .hif rfl
@[simp] theorem State.flushRecords_wins (a0) (a1) (s) : (State.flushRecords a0 a1 s).wins = s.wins := (State.flushRecords_keeps (m := fun p => decide (p ∈ [.crt])) rfl _ _ s (.refl s)).same .wins rfl
@[simp] theorem State.flushRecords_link (a0) (a1) (s) : (State.flushRecords a0 a1 s).link = s.link := (State.flushRecords_keeps (m := fun p => decide (p ∈ [.crt])) rfl _ _ s (.refl s)).same .link rfl
@[simp] theorem State.flushRecords_dev (a0) (a1) (s) : (State.flushRecords a0 a1 s).dev = s.dev := (State.flushRecords_keeps (m := fun p => decide (p ∈ [.crt])) rfl _ _ s (.refl s)).same .dev rfl
@[simp] theorem State.flushRecords_cal (a0) (a1) (s) : (State.flushRecords a0 a1 s).cal = s.cal := (State.flushRecords_keeps (m := fun p => decide (p ∈ [.crt])) rfl _ _ s (.refl s)).same .cal rfl
@[simp] theorem State.flushRecords_adm (a0) (a1) (s) : (State.flushRecords a0 a1 s).adm = s.adm := (State.flushRecords_keeps (m := fun p => decide (p ∈ [.crt])) rfl _ _ s (.refl s)).same .adm rfl
@[simp] theorem State.flushRecords_dec (a0) (a1) (s) : (State.flushRecords a0 a1 s).dec = s.dec := (State.flushRecords_keeps (m := fun p => decide (p ∈ [.crt])) rfl _ _ s (.refl s)).same .dec rfl
@[simp] theorem State.flushRecords_enc (a0) (a1) (s) : (State.flushRecords a0 a1 s).enc = s.enc := (State.flushRecords_keeps (m := fun p => decide (p ∈ [.crt])) rfl _ _ s (.refl s)).same .enc rfl
@[simp] theorem State.flushRecords_cse (a0) (a1) (s) : (State.flushRecords a0 a1 s).cse = s.cse := (State.flushRecords_keeps (m := fun p => decide (p ∈ [.crt])) rfl _ _ s (.refl s)).same .cse rfl
@[simp] theorem State.flushRecords_rgn (a0) (a1) (s) : (State.flushRecords a0 a1 s).rgn = s.rgn := (State.flushRecords_keeps (m := fun p => decide (p ∈ [.crt])) rfl _ _ s (.refl s)).same .rgn rfl
@[simp] theorem State.flushRecords_rmem (a0) (a1) (s) : (State.flushRecords a0 a1 s).rmem = s.rmem := (State.flushRecords_keeps (m := fun p => decide (p ∈ [.crt])) rfl _ _ s (.refl s)).same .rmem rfl
@[simp] theorem State.flushRecords_dis (a0) (a1) (s) : (State.flushRecords a0 a1 s).dis = s.dis := (State.flushRecords_keeps (m := fun p => decide (p ∈ [.crt])) rfl _ _ s (.refl s)).same .dis rfl
@[simp] theorem State.flushRecords_syn (a0) (a1) (s) : (State.flushRecords a0 a1 s).syn = s.syn := (State.flushRecords_keeps (m := fun p => decide (p ∈ [.crt])) rfl _ _ s (.refl s)).same .syn rfl
@[simp] theorem State.flushRecords_bpm (a0) (a1) (s) : (State.flushRecords a0 a1 s).bpm = s.bpm := (State.flushRecords_keeps (m := fun p => decide (p ∈ [.crt])) rfl _ _ s (.refl s)).same .bpm rfl
@[simp] theorem State.flushRecords_tke (a0) (a1) (s) : (State.flushRecords a0 a1 s).tke = s.tke := (State.flushRecords_keeps (m := fun p => decide (p ∈ [.crt])) rfl _ _ s (.refl s)).same .tke rfl
@[simp] theorem State.flushRecords_dmc (a0) (a1) (s) : (State.flushRecords a0 a1 s).dmc = s.dmc := (State.flushRecords_keeps (m := fun p => decide (p ∈ [.crt])) rfl _ _ s (.refl s)).same .dmc rfl
@[simp] theorem State.flushRecords_dram (a0) (a1) (s) : (State.flushRecords a0 a1 s).dram = s.dram := (State.flushRecords_keeps (m := fun p => decide (p ∈ [.crt])) rfl _ _ s (.refl s)).same .dram rfl
@[simp] theorem State.flushRecords_pwr (a0) (a1) (s) : (State.flushRecords a0 a1 s).pwr = s.pwr := (State.flushRecords_keeps (m := fun p => decide (p ∈ [.crt])) rfl _ _ s (.refl s)).same .pwr rfl
@[simp] theorem State.flushRecords_clk (a0) (a1) (s) : (State.flushRecords a0 a1 s).clk = s.clk := (State.flushRecords_keeps (m := fun p => decide (p ∈ [.crt])) rfl _ _ s (.refl s)).same .clk rfl
@[simp] theorem State.flushRecords_ras (a0) (a1) (s) : (State.flushRecords a0 a1 s).ras = s.ras := (State.flushRecords_keeps (m := fun p => decide (p ∈ [.crt])) rfl _ _ s (.refl s)).same .ras rfl
@[simp] theorem State.flushRecords_trc (a0) (a1) (s) : (State.flushRecords a0 a1 s).trc = s.trc := (State.flushRecords_keeps (m := fun p => decide (p ∈ [.crt])) rfl _ _ s (.refl s)).same .trc rfl
@[simp] theorem State.flushRecords_rst (a0) (a1) (s) : (State.flushRecords a0 a1 s).rst = s.rst := (State.flushRecords_keeps (m := fun p => decide (p ∈ [.crt])) rfl _ _ s (.refl s)).same .rst rfl
@[simp] theorem State.flushRecords_dbg (a0) (a1) (s) : (State.flushRecords a0 a1 s).dbg = s.dbg := (State.flushRecords_keeps (m := fun p => decide (p ∈ [.crt])) rfl _ _ s (.refl s)).same .dbg rfl
@[simp] theorem State.flushRecords_out (a0) (a1) (s) : (State.flushRecords a0 a1 s).out = s.out := (State.flushRecords_keeps (m := fun p => decide (p ∈ [.crt])) rfl _ _ s (.refl s)).same .out rfl
@[simp] theorem State.flushRecords_fresh (a0) (a1) (s) : (State.flushRecords a0 a1 s).fresh = s.fresh := (State.flushRecords_keeps (m := fun p => decide (p ∈ [.crt])) rfl _ _ s (.refl s)).same .fresh rfl

end Sys2Proof.Machine
end

