-- ==== Sys2Proof/Laws/Host.lean ====
section
/-! SUPPORT. What a reply and the frame of a host command do. -/

set_option Elab.async false

namespace Sys2Proof.Machine

/-- A reply where the rings are enabled: the reply ring's PUT moves on, no class still waits for an unsolicited reply, and the entry, the mirror and vector 0 go
out. -/
theorem State.reply_spec (s : State) (tag : U16) (op rflags : Byte) (code : U16) (pl : List Byte) (h : s.hif.ringEn = true) :
    (s.reply tag op rflags code pl).hif = { s.hif with rplPut := s.hif.rplPut + 1, attnWait := [] } ∧
    (s.reply tag op rflags code pl).out =
      (if s.link.sends 0 then [Out.msix 0] else []) ++
        [.hostWrite s.hif.rplMirror (le 8 (s.hif.rplPut + 1).toNat) false false,
         .hostWrite (s.hif.rplBase + BitVec.ofNat 64 (32 * (s.hif.rplPut.toNat % 2 ^ s.hif.rplLog2.toNat)))
          (le 4 (s.status (s.replyCode code)).toNat ++ le 2 tag.toNat ++ le 1 op.toNat ++ le 1 rflags.toNat ++ padTo 24 pl) s.link.relaxed false] ++ s.out ∧
    (s.reply tag op rflags code pl).link = if s.link.sends 0 then s.link else s.link.pend 0 := by
  unfold State.reply
  rw [if_pos h]
  simp only [State.fire, State.updHif_link, State.send_link]
  cases s.link.sends 0 <;> simp [State.send, State.updHif, State.updOut, State.updLink]

/-- The STATUS word reads the pending classes, the device state and the epoch only. -/
theorem State.status_congr {s t : State} (h : t.hif.attn = s.hif.attn) (d : t.dev = s.dev) (e : t.ep = s.ep) (code : U16) :
    t.status code = s.status code := by
  simp [State.status, h, d, e]

/-- A report of the latency tolerance sends at most one message. -/
theorem State.reportLtr_spec (s : State) : s.reportLtr.hif = s.hif ∧ ∃ os, s.reportLtr.out = os ++ s.out := by
  refine ⟨State.reportLtr_hif s, ?_⟩
  unfold State.reportLtr
  dsimp only
  split
  · exact ⟨[], rfl⟩
  · exact ⟨[_], rfl⟩

/-- A served command runs on the state in which its read has completed. -/
theorem State.command_serves {op : Byte} {c : Cmd} {served : DevState → Bool} {f : State → State} {s : State} (hr : s.ringsWork = true)
    (hs : served s.dev.state = true) (h0 : c.zeroFrom (argBytes op) = true) :
    s.command op c served f = (f s.takeRead).reportLtr := by
  simp [State.command, hr, hs, h0]

/-- The completion of a command's read changes nothing but the list of reads and GET. -/
theorem State.takeRead_hif_eq (s : State) : ∃ g, s.takeRead.hif = { s.hif with cmdGet := g } := by
  unfold State.takeRead
  split
  · exact ⟨_, rfl⟩
  · exact ⟨_, rfl⟩

theorem State.takeRead_link_eq (s : State) : ∃ r, s.takeRead.link = { s.link with reads := r } := by
  unfold State.takeRead
  split
  · exact ⟨_, rfl⟩
  · exact ⟨_, rfl⟩

end Sys2Proof.Machine
end

