-- ==== Sys2Proof/Laws/KeepsIngest.lean ====
section
/-! SUPPORT. What each operation of Machine/Ingest.lean keeps. -/

set_option Elab.async false
set_option linter.all false

namespace Sys2Proof.Machine

variable {m : Part → Bool} {s₀ : State}

theorem State.noteRing_keeps (h_dmc : m .dmc = true) (a0) (a1) (a2) (s) (k : Keeps m s₀ s) :
    Keeps m s₀ (State.noteRing a0 a1 a2 s) := by
  unfold State.noteRing
  repeat' with_reducible first
    | exact k
    | assumption
    | intro _ _ _
    | intro _ _
    | apply State.notePoison_keeps h_dmc
    | apply Keeps.ite
    | apply Keeps.foldl
    | split
    | dsimp only
    | intro _

theorem State.ringOverflow_keeps (h_hif : m .hif = true) (h_link : m .link = true) (h_dev : m .dev = true) (h_dec : m .dec = true) (h_ras : m .ras = true) (h_out : m .out = true) (a0) (a1) (s) (k : Keeps m s₀ s) :
    Keeps m s₀ (State.ringOverflow a0 a1 s) := by
  unfold State.ringOverflow
  repeat' with_reducible first
    | exact k
    | assumption
    | intro _ _ _
    | intro _ _
    | apply State.updSlot_keeps h_dec
    | apply State.decSlotEvent_keeps h_hif h_link h_dev h_dec h_ras h_out
    | apply State.advanceGet_keeps h_dec
    | apply State.keyFromNext_keeps h_dec
    | apply State.countDrop_keeps h_dec
    | apply Keeps.ite
    | apply Keeps.foldl
    | split
    | dsimp only
    | intro _

theorem State.badHeader_keeps (h_hif : m .hif = true) (h_link : m .link = true) (h_dev : m .dev = true) (h_dec : m .dec = true) (h_ras : m .ras = true) (h_out : m .out = true) (a0) (a1) (a2) (s) (k : Keeps m s₀ s) :
    Keeps m s₀ (State.badHeader a0 a1 a2 s) := by
  unfold State.badHeader
  repeat' with_reducible first
    | exact k
    | assumption
    | intro _ _ _
    | intro _ _
    | apply State.updSlot_keeps h_dec
    | apply State.decAuEvent_keeps h_hif h_link h_dev h_dec h_ras h_out
    | apply State.advanceGet_keeps h_dec
    | apply State.keyFromNext_keeps h_dec
    | apply State.countDrop_keeps h_dec
    | apply Keeps.ite
    | apply Keeps.foldl
    | split
    | dsimp only
    | intro _

theorem State.police_keeps (h_hif : m .hif = true) (h_link : m .link = true) (h_dev : m .dev = true) (h_dec : m .dec = true) (h_ras : m .ras = true) (h_out : m .out = true) (a0) (a1) (a2) (a3) (s) (k : Keeps m s₀ s) :
    Keeps m s₀ (State.police a0 a1 a2 a3 s) := by
  unfold State.police
  repeat' with_reducible first
    | exact k
    | assumption
    | intro _ _ _
    | intro _ _
    | apply State.updSlot_keeps h_dec
    | apply State.decAuEvent_keeps h_hif h_link h_dev h_dec h_ras h_out
    | apply State.countDrop_keeps h_dec
    | apply Keeps.ite
    | apply Keeps.foldl
    | split
    | dsimp only
    | intro _

theorem State.checkSeq_keeps (h_hif : m .hif = true) (h_link : m .link = true) (h_dev : m .dev = true) (h_dec : m .dec = true) (h_ras : m .ras = true) (h_out : m .out = true) (a0) (a1) (s) (k : Keeps m s₀ s) :
    Keeps m s₀ (State.checkSeq a0 a1 s) := by
  unfold State.checkSeq
  repeat' with_reducible first
    | exact k
    | assumption
    | intro _ _ _
    | intro _ _
    | apply State.updSlot_keeps h_dec
    | apply State.decAuEvent_keeps h_hif h_link h_dev h_dec h_ras h_out
    | apply Keeps.ite
    | apply Keeps.foldl
    | split
    | dsimp only
    | intro _

theorem State.judgeUnits_keeps (h_hif : m .hif = true) (h_link : m .link = true) (h_dev : m .dev = true) (h_dec : m .dec = true) (h_dmc : m .dmc = true) (h_ras : m .ras = true) (h_out : m .out = true) (a0) (a1) (a2) (s) (k : Keeps m s₀ s) :
    Keeps m s₀ (State.judgeUnits a0 a1 a2 s) := by
  induction a2 generalizing s with
  | zero =>
    simp only [State.judgeUnits]
    repeat' with_reducible first
      | exact k
      | assumption
      | intro _ _ _
      | intro _ _
      | apply State.badHeader_keeps h_hif h_link h_dev h_dec h_ras h_out
      | apply State.noteRing_keeps h_dmc
      | apply State.updSlot_keeps h_dec
      | apply State.decAuEvent_keeps h_hif h_link h_dev h_dec h_ras h_out
      | apply State.police_keeps h_hif h_link h_dev h_dec h_ras h_out
      | apply State.checkSeq_keeps h_hif h_link h_dev h_dec h_ras h_out
      | apply Keeps.ite
      | apply Keeps.foldl
      | split
      | dsimp only
      | intro _
  | succ n ih =>
    simp only [State.judgeUnits]
    repeat' with_reducible first
      | exact k
      | assumption
      | intro _ _ _
      | intro _ _
      | apply ih
      | apply State.badHeader_keeps h_hif h_link h_dev h_dec h_ras h_out
      | apply State.noteRing_keeps h_dmc
      | apply State.updSlot_keeps h_dec
      | apply State.decAuEvent_keeps h_hif h_link h_dev h_dec h_ras h_out
      | apply State.police_keeps h_hif h_link h_dev h_dec h_ras h_out
      | apply State.checkSeq_keeps h_hif h_link h_dev h_dec h_ras h_out
      | apply Keeps.ite
      | apply Keeps.foldl
      | split
      | dsimp only
      | intro _

theorem State.judgeSlot_keeps (h_hif : m .hif = true) (h_link : m .link = true) (h_dev : m .dev = true) (h_dec : m .dec = true) (h_dmc : m .dmc = true) (h_ras : m .ras = true) (h_out : m .out = true) (a0) (s) (k : Keeps m s₀ s) :
    Keeps m s₀ (State.judgeSlot a0 s) := by
  unfold State.judgeSlot
  repeat' with_reducible first
    | exact k
    | assumption
    | intro _ _ _
    | intro _ _
    | apply State.advanceGet_keeps h_dec
    | apply State.judgeUnits_keeps h_hif h_link h_dev h_dec h_dmc h_ras h_out
    | apply State.updSlot_keeps h_dec
    | apply Keeps.ite
    | apply Keeps.foldl
    | split
    | dsimp only
    | intro _

theorem State.putSlot_keeps (h_hif : m .hif = true) (h_link : m .link = true) (h_dev : m .dev = true) (h_dec : m .dec = true) (h_dmc : m .dmc = true) (h_ras : m .ras = true) (h_out : m .out = true) (a0) (a1) (s) (k : Keeps m s₀ s) :
    Keeps m s₀ (State.putSlot a0 a1 s) := by
  unfold State.putSlot
  repeat' with_reducible first
    | exact k
    | assumption
    | intro _ _ _
    | intro _ _
    | apply State.decSlotEvent_keeps h_hif h_link h_dev h_dec h_ras h_out
    | apply State.ringOverflow_keeps h_hif h_link h_dev h_dec h_ras h_out
    | apply State.judgeSlot_keeps h_hif h_link h_dev h_dec h_dmc h_ras h_out
    | apply State.updSlot_keeps h_dec
    | apply Keeps.ite
    | apply Keeps.foldl
    | split
    | dsimp only
    | intro _

theorem execDecSlotPut_keeps (h_hif : m .hif = true) (h_wins : m .wins = true) (h_link : m .link = true) (h_dev : m .dev = true) (h_dec : m .dec = true) (h_enc : m .enc = true) (h_cse : m .cse = true) (h_rgn : m .rgn = true) (h_rmem : m .rmem = true) (h_dis : m .dis = true) (h_syn : m .syn = true) (h_bpm : m .bpm = true) (h_tke : m .tke = true) (h_dmc : m .dmc = true) (h_dram : m .dram = true) (h_pwr : m .pwr = true) (h_clk : m .clk = true) (h_ras : m .ras = true) (h_out : m .out = true) (h_fresh : m .fresh = true) (a0) (a1) (s) (k : Keeps m s₀ s) :
    Keeps.out m s₀ (execDecSlotPut a0 a1 s) := by
  unfold execDecSlotPut
  repeat' with_reducible first
    | exact k
    | assumption
    | intro _ _ _
    | intro _ _
    | apply Keeps.out_next
    | apply Keeps.out_fault
    | apply Keeps.out_ite
    | apply State.onMmio_keeps h_hif h_wins h_link h_dev h_dec h_enc h_cse h_rgn h_rmem h_dis h_syn h_bpm h_tke h_dmc h_dram h_pwr h_clk h_ras h_out h_fresh
    | apply State.putSlot_keeps h_hif h_link h_dev h_dec h_dmc h_ras h_out
    | apply Keeps.ite
    | apply Keeps.foldl
    | split
    | dsimp only
    | intro _

theorem execPullFetch_keeps (h_link : m .link = true) (h_dec : m .dec = true) (h_out : m .out = true) (a0) (s) (k : Keeps m s₀ s) :
    Keeps.out m s₀ (execPullFetch a0 s) := by
  unfold execPullFetch
  repeat' with_reducible first
    | exact k
    | assumption
    | intro _ _ _
    | intro _ _
    | apply Keeps.out_next
    | apply Keeps.out_fault
    | apply Keeps.out_ite
    | apply State.updSlot_keeps h_dec
    | apply State.issueRead_keeps h_link h_out
    | apply Keeps.ite
    | apply Keeps.foldl
    | split
    | dsimp only
    | intro _

theorem State.fetched_keeps (h_hif : m .hif = true) (h_link : m .link = true) (h_dev : m .dev = true) (h_dec : m .dec = true) (h_dmc : m .dmc = true) (h_ras : m .ras = true) (h_out : m .out = true) (a0) (s) (k : Keeps m s₀ s) :
    Keeps m s₀ (State.fetched a0 s) := by
  unfold State.fetched
  repeat' with_reducible first
    | exact k
    | assumption
    | intro _ _ _
    | intro _ _
    | apply State.judgeSlot_keeps h_hif h_link h_dev h_dec h_dmc h_ras h_out
    | apply State.updSlot_keeps h_dec
    | apply Keeps.ite
    | apply Keeps.foldl
    | split
    | dsimp only
    | intro _

theorem execPullCompletion_keeps (h_hif : m .hif = true) (h_link : m .link = true) (h_dev : m .dev = true) (h_dec : m .dec = true) (h_enc : m .enc = true) (h_cse : m .cse = true) (h_rgn : m .rgn = true) (h_rmem : m .rmem = true) (h_dis : m .dis = true) (h_syn : m .syn = true) (h_bpm : m .bpm = true) (h_tke : m .tke = true) (h_dmc : m .dmc = true) (h_dram : m .dram = true) (h_pwr : m .pwr = true) (h_clk : m .clk = true) (h_ras : m .ras = true) (h_out : m .out = true) (h_fresh : m .fresh = true) (a0) (a1) (a2) (s) (k : Keeps m s₀ s) :
    Keeps.out m s₀ (execPullCompletion a0 a1 a2 s) := by
  unfold execPullCompletion
  repeat' with_reducible first
    | exact k
    | assumption
    | intro _ _ _
    | intro _ _
    | apply Keeps.out_next
    | apply Keeps.out_fault
    | apply Keeps.out_ite
    | apply State.updLink_keeps h_link
    | apply State.awake_keeps h_hif h_link h_dec h_enc h_cse h_rgn h_rmem h_dis h_syn h_bpm h_tke h_dmc h_dram h_pwr h_clk h_ras h_out h_fresh
    | apply State.freeze_keeps h_dev
    | apply State.countPoison_keeps h_link
    | apply State.fetched_keeps h_hif h_link h_dev h_dec h_dmc h_ras h_out
    | apply State.dramPut_keeps h_dram
    | apply Keeps.ite
    | apply Keeps.foldl
    | split
    | dsimp only
    | intro _

theorem execGetMirror_keeps (h_aon : m .aon = true) (h_dec : m .dec = true) (h_out : m .out = true) (a0) (s) (k : Keeps m s₀ s) :
    Keeps.out m s₀ (execGetMirror a0 s) := by
  unfold execGetMirror
  repeat' with_reducible first
    | exact k
    | assumption
    | intro _ _ _
    | intro _ _
    | apply Keeps.out_next
    | apply Keeps.out_fault
    | apply Keeps.out_ite
    | apply State.waitUntil_keeps h_aon
    | apply State.updSdec_keeps h_dec
    | apply State.send_keeps h_out
    | apply Keeps.ite
    | apply Keeps.foldl
    | split
    | dsimp only
    | intro _

theorem execDecNoKey_keeps (h_aon : m .aon = true) (h_hif : m .hif = true) (h_link : m .link = true) (h_dev : m .dev = true) (h_dec : m .dec = true) (h_ras : m .ras = true) (h_out : m .out = true) (a0) (s) (k : Keeps m s₀ s) :
    Keeps.out m s₀ (execDecNoKey a0 s) := by
  unfold execDecNoKey
  repeat' with_reducible first
    | exact k
    | assumption
    | intro _ _ _
    | intro _ _
    | apply Keeps.out_next
    | apply Keeps.out_fault
    | apply Keeps.out_ite
    | apply State.waitUntil_keeps h_aon
    | apply State.updSdec_keeps h_dec
    | apply State.decSlotEvent_keeps h_hif h_link h_dev h_dec h_ras h_out
    | apply Keeps.ite
    | apply Keeps.foldl
    | split
    | dsimp only
    | intro _

end Sys2Proof.Machine
end

