-- ==== Sys2Proof/Laws/KeepsLink.lean ====
section
/-! SUPPORT. What each operation of Machine/Link.lean keeps. -/

set_option Elab.async false
set_option linter.all false

namespace Sys2Proof.Machine

variable {m : Part → Bool} {s₀ : State}

theorem State.lockPll_keeps (h_clk : m .clk = true) (a0) (a1) (a2) (s) (k : Keeps m s₀ s) :
    Keeps m s₀ (State.lockPll a0 a1 a2 s) := by
  unfold State.lockPll
  repeat' with_reducible first
    | exact k
    | assumption
    | intro _ _ _
    | intro _ _
    | apply State.updClk_keeps h_clk
    | apply Keeps.ite
    | apply Keeps.foldl
    | split
    | dsimp only
    | intro _

theorem State.lockHub_keeps (h_clk : m .clk = true) (s) (k : Keeps m s₀ s) :
    Keeps m s₀ (State.lockHub s) := by
  unfold State.lockHub
  repeat' with_reducible first
    | exact k
    | assumption
    | intro _ _ _
    | intro _ _
    | apply State.lockPll_keeps h_clk
    | apply Keeps.ite
    | apply Keeps.foldl
    | split
    | dsimp only
    | intro _

theorem State.bootRom_keeps (h_aon : m .aon = true) (h_wires : m .wires = true) (h_link : m .link = true) (h_crt : m .crt = true) (h_clk : m .clk = true) (h_rst : m .rst = true) (h_out : m .out = true) (s) (k : Keeps m s₀ s) :
    Keeps m s₀ (State.bootRom s) := by
  unfold State.bootRom
  repeat' with_reducible first
    | exact k
    | assumption
    | intro _ _ _
    | intro _ _
    | apply State.lockHub_keeps h_clk
    | apply State.endRun_keeps h_rst
    | apply State.updLink_keeps h_link
    | apply State.updWires_keeps h_wires
    | apply State.startBoot_keeps h_aon h_wires h_crt h_out
    | apply Keeps.ite
    | apply Keeps.foldl
    | split
    | dsimp only
    | intro _

theorem execPerstDeassert_keeps (h_aon : m .aon = true) (h_wires : m .wires = true) (h_link : m .link = true) (h_crt : m .crt = true) (h_clk : m .clk = true) (h_rst : m .rst = true) (h_out : m .out = true) (a0) (s) (k : Keeps m s₀ s) :
    Keeps.out m s₀ (execPerstDeassert a0 s) := by
  unfold execPerstDeassert
  repeat' with_reducible first
    | exact k
    | assumption
    | intro _ _ _
    | intro _ _
    | apply Keeps.out_next
    | apply Keeps.out_fault
    | apply Keeps.out_ite
    | apply State.updWires_keeps h_wires
    | apply State.bootRom_keeps h_aon h_wires h_link h_crt h_clk h_rst h_out
    | apply Keeps.ite
    | apply Keeps.foldl
    | split
    | dsimp only
    | intro _

theorem execPmStateChange_keeps (h_hif : m .hif = true) (h_link : m .link = true) (h_dec : m .dec = true) (h_enc : m .enc = true) (h_cse : m .cse = true) (h_rgn : m .rgn = true) (h_rmem : m .rmem = true) (h_dis : m .dis = true) (h_syn : m .syn = true) (h_bpm : m .bpm = true) (h_tke : m .tke = true) (h_dmc : m .dmc = true) (h_dram : m .dram = true) (h_pwr : m .pwr = true) (h_clk : m .clk = true) (h_ras : m .ras = true) (h_out : m .out = true) (h_fresh : m .fresh = true) (a0) (s) (k : Keeps m s₀ s) :
    Keeps.out m s₀ (execPmStateChange a0 s) := by
  unfold execPmStateChange
  repeat' with_reducible first
    | exact k
    | assumption
    | intro _ _ _
    | intro _ _
    | apply Keeps.out_next
    | apply Keeps.out_fault
    | apply Keeps.out_ite
    | apply State.updLink_keeps h_link
    | apply State.awake_keeps h_hif h_link h_dec h_enc h_cse h_rgn h_rmem h_dis h_syn h_bpm h_tke h_dmc h_dram h_pwr h_clk h_ras h_out h_fresh
    | apply Keeps.ite
    | apply Keeps.foldl
    | split
    | dsimp only
    | intro _

theorem execPmeTurnOff_keeps (h_aon : m .aon = true) (h_wires : m .wires = true) (h_hif : m .hif = true) (h_wins : m .wins = true) (h_link : m .link = true) (h_dev : m .dev = true) (h_crt : m .crt = true) (h_cal : m .cal = true) (h_adm : m .adm = true) (h_dec : m .dec = true) (h_enc : m .enc = true) (h_cse : m .cse = true) (h_rgn : m .rgn = true) (h_rmem : m .rmem = true) (h_dis : m .dis = true) (h_syn : m .syn = true) (h_bpm : m .bpm = true) (h_tke : m .tke = true) (h_dmc : m .dmc = true) (h_dram : m .dram = true) (h_pwr : m .pwr = true) (h_clk : m .clk = true) (h_ras : m .ras = true) (h_trc : m .trc = true) (h_rst : m .rst = true) (h_dbg : m .dbg = true) (h_out : m .out = true) (h_fresh : m .fresh = true) (s) (k : Keeps m s₀ s) :
    Keeps.out m s₀ (execPmeTurnOff s) := by
  unfold execPmeTurnOff
  repeat' with_reducible first
    | exact k
    | assumption
    | intro _ _ _
    | intro _ _
    | apply Keeps.out_next
    | apply Keeps.out_fault
    | apply Keeps.out_ite
    | apply State.tryOff_keeps h_aon h_wires h_hif h_wins h_link h_dev h_crt h_cal h_adm h_dec h_enc h_cse h_rgn h_rmem h_dis h_syn h_bpm h_tke h_dmc h_dram h_pwr h_clk h_ras h_trc h_rst h_dbg h_fresh
    | apply State.updWires_keeps h_wires
    | apply State.awake_keeps h_hif h_link h_dec h_enc h_cse h_rgn h_rmem h_dis h_syn h_bpm h_tke h_dmc h_dram h_pwr h_clk h_ras h_out h_fresh
    | apply Keeps.ite
    | apply Keeps.foldl
    | split
    | dsimp only
    | intro _

theorem execPerstAssert_keeps (h_ep : m .ep = true) (h_aon : m .aon = true) (h_wires : m .wires = true) (h_hif : m .hif = true) (h_wins : m .wins = true) (h_link : m .link = true) (h_dev : m .dev = true) (h_crt : m .crt = true) (h_cal : m .cal = true) (h_adm : m .adm = true) (h_dec : m .dec = true) (h_enc : m .enc = true) (h_cse : m .cse = true) (h_rgn : m .rgn = true) (h_rmem : m .rmem = true) (h_dis : m .dis = true) (h_syn : m .syn = true) (h_bpm : m .bpm = true) (h_tke : m .tke = true) (h_dmc : m .dmc = true) (h_dram : m .dram = true) (h_pwr : m .pwr = true) (h_clk : m .clk = true) (h_ras : m .ras = true) (h_trc : m .trc = true) (h_rst : m .rst = true) (h_dbg : m .dbg = true) (h_out : m .out = true) (h_fresh : m .fresh = true) (s) (k : Keeps m s₀ s) :
    Keeps.out m s₀ (execPerstAssert s) := by
  unfold execPerstAssert
  repeat' with_reducible first
    | exact k
    | assumption
    | intro _ _ _
    | intro _ _
    | apply Keeps.out_next
    | apply Keeps.out_fault
    | apply Keeps.out_ite
    | apply State.updWires_keeps h_wires
    | apply State.updCrt_keeps h_crt
    | apply State.chr_keeps h_ep h_aon h_wires h_hif h_wins h_link h_dev h_crt h_cal h_adm h_dec h_enc h_cse h_rgn h_rmem h_dis h_syn h_bpm h_tke h_dmc h_dram h_pwr h_clk h_ras h_trc h_rst h_dbg h_out h_fresh
    | apply Keeps.ite
    | apply Keeps.foldl
    | split
    | dsimp only
    | intro _

theorem execHotReset_keeps (h_ep : m .ep = true) (h_aon : m .aon = true) (h_wires : m .wires = true) (h_hif : m .hif = true) (h_wins : m .wins = true) (h_link : m .link = true) (h_dev : m .dev = true) (h_crt : m .crt = true) (h_cal : m .cal = true) (h_adm : m .adm = true) (h_dec : m .dec = true) (h_enc : m .enc = true) (h_cse : m .cse = true) (h_rgn : m .rgn = true) (h_rmem : m .rmem = true) (h_dis : m .dis = true) (h_syn : m .syn = true) (h_bpm : m .bpm = true) (h_tke : m .tke = true) (h_dmc : m .dmc = true) (h_dram : m .dram = true) (h_pwr : m .pwr = true) (h_clk : m .clk = true) (h_ras : m .ras = true) (h_trc : m .trc = true) (h_rst : m .rst = true) (h_dbg : m .dbg = true) (h_out : m .out = true) (h_fresh : m .fresh = true) (s) (k : Keeps m s₀ s) :
    Keeps.out m s₀ (execHotReset s) := by
  unfold execHotReset
  repeat' with_reducible first
    | exact k
    | assumption
    | intro _ _ _
    | intro _ _
    | apply Keeps.out_next
    | apply Keeps.out_fault
    | apply Keeps.out_ite
    | apply State.chr_keeps h_ep h_aon h_wires h_hif h_wins h_link h_dev h_crt h_cal h_adm h_dec h_enc h_cse h_rgn h_rmem h_dis h_syn h_bpm h_tke h_dmc h_dram h_pwr h_clk h_ras h_trc h_rst h_dbg h_out h_fresh
    | apply Keeps.ite
    | apply Keeps.foldl
    | split
    | dsimp only
    | intro _

theorem execLinkDown_keeps (h_ep : m .ep = true) (h_aon : m .aon = true) (h_wires : m .wires = true) (h_hif : m .hif = true) (h_wins : m .wins = true) (h_link : m .link = true) (h_dev : m .dev = true) (h_crt : m .crt = true) (h_cal : m .cal = true) (h_adm : m .adm = true) (h_dec : m .dec = true) (h_enc : m .enc = true) (h_cse : m .cse = true) (h_rgn : m .rgn = true) (h_rmem : m .rmem = true) (h_dis : m .dis = true) (h_syn : m .syn = true) (h_bpm : m .bpm = true) (h_tke : m .tke = true) (h_dmc : m .dmc = true) (h_dram : m .dram = true) (h_pwr : m .pwr = true) (h_clk : m .clk = true) (h_ras : m .ras = true) (h_trc : m .trc = true) (h_rst : m .rst = true) (h_dbg : m .dbg = true) (h_out : m .out = true) (h_fresh : m .fresh = true) (s) (k : Keeps m s₀ s) :
    Keeps.out m s₀ (execLinkDown s) := by
  unfold execLinkDown
  repeat' with_reducible first
    | exact k
    | assumption
    | intro _ _ _
    | intro _ _
    | apply Keeps.out_next
    | apply Keeps.out_fault
    | apply Keeps.out_ite
    | apply State.chr_keeps h_ep h_aon h_wires h_hif h_wins h_link h_dev h_crt h_cal h_adm h_dec h_enc h_cse h_rgn h_rmem h_dis h_syn h_bpm h_tke h_dmc h_dram h_pwr h_clk h_ras h_trc h_rst h_dbg h_out h_fresh
    | apply Keeps.ite
    | apply Keeps.foldl
    | split
    | dsimp only
    | intro _

theorem execLinkRetrain_keeps (h_hif : m .hif = true) (h_link : m .link = true) (h_dev : m .dev = true) (h_adm : m .adm = true) (h_dec : m .dec = true) (h_enc : m .enc = true) (h_rgn : m .rgn = true) (h_rmem : m .rmem = true) (h_dis : m .dis = true) (h_pwr : m .pwr = true) (h_clk : m .clk = true) (h_ras : m .ras = true) (h_out : m .out = true) (h_fresh : m .fresh = true) (a0) (a1) (s) (k : Keeps m s₀ s) :
    Keeps.out m s₀ (execLinkRetrain a0 a1 s) := by
  unfold execLinkRetrain
  repeat' with_reducible first
    | exact k
    | assumption
    | intro _ _ _
    | intro _ _
    | apply Keeps.out_next
    | apply Keeps.out_fault
    | apply Keeps.out_ite
    | apply State.updLink_keeps h_link
    | apply State.judgeAll_keeps h_rgn h_rmem h_dis
    | apply State.readmitFor_keeps h_hif h_link h_dev h_adm h_dec h_enc h_rgn h_dis h_pwr h_clk h_ras h_out
    | apply State.burn_keeps h_fresh
    | apply Keeps.ite
    | apply Keeps.foldl
    | split
    | dsimp only
    | intro _

theorem State.loseRead_keeps (h_hif : m .hif = true) (h_link : m .link = true) (h_dev : m .dev = true) (h_dec : m .dec = true) (h_dmc : m .dmc = true) (h_ras : m .ras = true) (h_out : m .out = true) (a0) (s) (k : Keeps m s₀ s) :
    Keeps m s₀ (State.loseRead a0 s) := by
  unfold State.loseRead
  repeat' with_reducible first
    | exact k
    | assumption
    | intro _ _ _
    | intro _ _
    | apply State.reportLtr_keeps h_link h_out
    | apply State.reply_keeps h_hif h_link h_out
    | apply State.updHif_keeps h_hif
    | apply State.fetched_keeps h_hif h_link h_dev h_dec h_dmc h_ras h_out
    | apply State.updSlot_keeps h_dec
    | apply Keeps.ite
    | apply Keeps.foldl
    | split
    | dsimp only
    | intro _

theorem execCompletionTimeout_keeps (h_aon : m .aon = true) (h_hif : m .hif = true) (h_link : m .link = true) (h_dev : m .dev = true) (h_dec : m .dec = true) (h_dmc : m .dmc = true) (h_ras : m .ras = true) (h_out : m .out = true) (a0) (s) (k : Keeps m s₀ s) :
    Keeps.out m s₀ (execCompletionTimeout a0 s) := by
  unfold execCompletionTimeout
  repeat' with_reducible first
    | exact k
    | assumption
    | intro _ _ _
    | intro _ _
    | apply Keeps.out_next
    | apply Keeps.out_fault
    | apply Keeps.out_ite
    | apply State.waitUntil_keeps h_aon
    | apply State.updLink_keeps h_link
    | apply State.loseRead_keeps h_hif h_link h_dev h_dec h_dmc h_ras h_out
    | apply State.freeze_keeps h_dev
    | apply Keeps.ite
    | apply Keeps.foldl
    | split
    | dsimp only
    | intro _

theorem execLateCompletion_keeps (h_link : m .link = true) (a0) (s) (k : Keeps m s₀ s) :
    Keeps.out m s₀ (execLateCompletion a0 s) := by
  unfold execLateCompletion
  repeat' with_reducible first
    | exact k
    | assumption
    | intro _ _ _
    | intro _ _
    | apply Keeps.out_next
    | apply Keeps.out_fault
    | apply Keeps.out_ite
    | apply State.updLink_keeps h_link
    | apply Keeps.ite
    | apply Keeps.foldl
    | split
    | dsimp only
    | intro _

theorem execTagQuarantineExpiry_keeps (h_aon : m .aon = true) (h_link : m .link = true) (a0) (s) (k : Keeps m s₀ s) :
    Keeps.out m s₀ (execTagQuarantineExpiry a0 s) := by
  unfold execTagQuarantineExpiry
  repeat' with_reducible first
    | exact k
    | assumption
    | intro _ _ _
    | intro _ _
    | apply Keeps.out_next
    | apply Keeps.out_fault
    | apply Keeps.out_ite
    | apply State.updLink_keeps h_link
    | apply State.waitUntil_keeps h_aon
    | apply Keeps.ite
    | apply Keeps.foldl
    | split
    | dsimp only
    | intro _

theorem execPtmDialogue_keeps (h_out : m .out = true) (s) (k : Keeps m s₀ s) :
    Keeps.out m s₀ (execPtmDialogue s) := by
  unfold execPtmDialogue
  repeat' with_reducible first
    | exact k
    | assumption
    | intro _ _ _
    | intro _ _
    | apply Keeps.out_next
    | apply Keeps.out_fault
    | apply Keeps.out_ite
    | apply State.send_keeps h_out
    | apply Keeps.ite
    | apply Keeps.foldl
    | split
    | dsimp only
    | intro _

theorem execPtmResponse_keeps (h_aon : m .aon = true) (h_dev : m .dev = true) (h_fresh : m .fresh = true) (a0) (s) (k : Keeps m s₀ s) :
    Keeps.out m s₀ (execPtmResponse a0 s) := by
  unfold execPtmResponse
  repeat' with_reducible first
    | exact k
    | assumption
    | intro _ _ _
    | intro _ _
    | apply Keeps.out_next
    | apply Keeps.out_fault
    | apply Keeps.out_ite
    | apply State.burn_keeps h_fresh
    | apply State.updDev_keeps h_dev
    | apply State.updAon_keeps h_aon
    | apply Keeps.ite
    | apply Keeps.foldl
    | split
    | dsimp only
    | intro _

theorem execPtmSyncLoss_keeps (h_aon : m .aon = true) (h_dev : m .dev = true) (s) (k : Keeps m s₀ s) :
    Keeps.out m s₀ (execPtmSyncLoss s) := by
  unfold execPtmSyncLoss
  repeat' with_reducible first
    | exact k
    | assumption
    | intro _ _ _
    | intro _ _
    | apply Keeps.out_next
    | apply Keeps.out_fault
    | apply Keeps.out_ite
    | apply State.waitUntil_keeps h_aon
    | apply State.updAon_keeps h_aon
    | apply State.updDev_keeps h_dev
    | apply Keeps.ite
    | apply Keeps.foldl
    | split
    | dsimp only
    | intro _

theorem execMsixDelay_keeps (h_aon : m .aon = true) (h_hif : m .hif = true) (h_link : m .link = true) (h_out : m .out = true) (a0) (s) (k : Keeps m s₀ s) :
    Keeps.out m s₀ (execMsixDelay a0 s) := by
  unfold execMsixDelay
  repeat' with_reducible first
    | exact k
    | assumption
    | intro _ _ _
    | intro _ _
    | apply Keeps.out_next
    | apply Keeps.out_fault
    | apply Keeps.out_ite
    | apply State.fire_keeps h_link h_out
    | apply State.updMd_keeps h_hif
    | apply State.waitUntil_keeps h_aon
    | apply Keeps.ite
    | apply Keeps.foldl
    | split
    | dsimp only
    | intro _

theorem State.msixDue_keeps (h_link : m .link = true) (h_out : m .out = true) (s) (k : Keeps m s₀ s) :
    Keeps m s₀ (State.msixDue s) := by
  unfold State.msixDue
  repeat' with_reducible first
    | exact k
    | assumption
    | intro _ _ _
    | intro _ _
    | apply State.updLink_keeps h_link
    | apply State.send_keeps h_out
    | apply Keeps.ite
    | apply Keeps.foldl
    | split
    | dsimp only
    | intro _

theorem State.configure_keeps (h_link : m .link = true) (h_out : m .out = true) (a0) (s) (k : Keeps m s₀ s) :
    Keeps m s₀ (State.configure a0 s) := by
  unfold State.configure
  repeat' with_reducible first
    | exact k
    | assumption
    | intro _ _ _
    | intro _ _
    | apply State.updLink_keeps h_link
    | apply State.reportLtr_keeps h_link h_out
    | apply State.msixDue_keeps h_link h_out
    | apply Keeps.ite
    | apply Keeps.foldl
    | split
    | dsimp only
    | intro _

theorem execConfigurationRequest_keeps (h_hif : m .hif = true) (h_link : m .link = true) (h_dec : m .dec = true) (h_enc : m .enc = true) (h_cse : m .cse = true) (h_rgn : m .rgn = true) (h_rmem : m .rmem = true) (h_dis : m .dis = true) (h_syn : m .syn = true) (h_bpm : m .bpm = true) (h_tke : m .tke = true) (h_dmc : m .dmc = true) (h_dram : m .dram = true) (h_pwr : m .pwr = true) (h_clk : m .clk = true) (h_ras : m .ras = true) (h_out : m .out = true) (h_fresh : m .fresh = true) (a0) (s) (k : Keeps m s₀ s) :
    Keeps.out m s₀ (execConfigurationRequest a0 s) := by
  unfold execConfigurationRequest
  repeat' with_reducible first
    | exact k
    | assumption
    | intro _ _ _
    | intro _ _
    | apply Keeps.out_next
    | apply Keeps.out_fault
    | apply Keeps.out_ite
    | apply State.send_keeps h_out
    | apply State.awake_keeps h_hif h_link h_dec h_enc h_cse h_rgn h_rmem h_dis h_syn h_bpm h_tke h_dmc h_dram h_pwr h_clk h_ras h_out h_fresh
    | apply State.burn_keeps h_fresh
    | apply State.configure_keeps h_link h_out
    | apply Keeps.ite
    | apply Keeps.foldl
    | split
    | dsimp only
    | intro _

end Sys2Proof.Machine
end

