-- ==== Sys2Proof/Laws/KeepsBoot.lean ====
section
/-! SUPPORT. What each operation of Machine/Boot.lean keeps. -/

set_option Elab.async false
set_option linter.all false

namespace Sys2Proof.Machine

variable {m : Part → Bool} {s₀ : State}

theorem State.refuse_keeps (h_aon : m .aon = true) (h_dev : m .dev = true) (a0) (a1) (a2) (a3) (s) (k : Keeps m s₀ s) :
    Keeps m s₀ (State.refuse a0 a1 a2 a3 s) := by
  unfold State.refuse
  repeat' with_reducible first
    | exact k
    | assumption
    | intro _ _ _
    | intro _ _
    | apply State.updAon_keeps h_aon
    | apply State.updDev_keeps h_dev
    | apply Keeps.ite
    | apply Keeps.foldl
    | split
    | dsimp only
    | intro _

theorem State.pickAdapter_keeps (h_crt : m .crt = true) (a0) (s) (k : Keeps m s₀ s) :
    Keeps m s₀ (State.pickAdapter a0 s) := by
  unfold State.pickAdapter
  repeat' with_reducible first
    | exact k
    | assumption
    | intro _ _ _
    | intro _ _
    | apply State.updCrt_keeps h_crt
    | apply Keeps.ite
    | apply Keeps.foldl
    | split
    | dsimp only
    | intro _

theorem State.toStage_keeps (h_crt : m .crt = true) (a0) (s) (k : Keeps m s₀ s) :
    Keeps m s₀ (State.toStage a0 s) := by
  unfold State.toStage
  repeat' with_reducible first
    | exact k
    | assumption
    | intro _ _ _
    | intro _ _
    | apply State.updCrt_keeps h_crt
    | apply Keeps.ite
    | apply Keeps.foldl
    | split
    | dsimp only
    | intro _

theorem execSectionsLoaded_keeps (h_aon : m .aon = true) (h_dev : m .dev = true) (h_crt : m .crt = true) (a0) (s) (k : Keeps m s₀ s) :
    Keeps.out m s₀ (execSectionsLoaded a0 s) := by
  unfold execSectionsLoaded
  repeat' with_reducible first
    | exact k
    | assumption
    | intro _ _ _
    | intro _ _
    | apply Keeps.out_next
    | apply Keeps.out_fault
    | apply Keeps.out_ite
    | apply State.refuse_keeps h_aon h_dev
    | apply State.pickAdapter_keeps h_crt
    | apply State.updCrt_keeps h_crt
    | apply State.toStage_keeps h_crt
    | apply Keeps.ite
    | apply Keeps.foldl
    | split
    | dsimp only
    | intro _

theorem execChrWatchdogExpiry_keeps (h_aon : m .aon = true) (h_hif : m .hif = true) (h_link : m .link = true) (h_dev : m .dev = true) (h_ras : m .ras = true) (h_out : m .out = true) (s) (k : Keeps m s₀ s) :
    Keeps.out m s₀ (execChrWatchdogExpiry s) := by
  unfold execChrWatchdogExpiry
  repeat' with_reducible first
    | exact k
    | assumption
    | intro _ _ _
    | intro _ _
    | apply Keeps.out_next
    | apply Keeps.out_fault
    | apply Keeps.out_ite
    | apply State.powerCycle_keeps h_aon h_hif h_link h_dev h_ras h_out
    | apply State.waitUntil_keeps h_aon
    | apply Keeps.ite
    | apply Keeps.foldl
    | split
    | dsimp only
    | intro _

theorem execFirmwareStart_keeps (h_aon : m .aon = true) (h_dev : m .dev = true) (h_crt : m .crt = true) (a0) (s) (k : Keeps m s₀ s) :
    Keeps.out m s₀ (execFirmwareStart a0 s) := by
  unfold execFirmwareStart
  repeat' with_reducible first
    | exact k
    | assumption
    | intro _ _ _
    | intro _ _
    | apply Keeps.out_next
    | apply Keeps.out_fault
    | apply Keeps.out_ite
    | apply State.toStage_keeps h_crt
    | apply State.updCrt_keeps h_crt
    | apply State.refuse_keeps h_aon h_dev
    | apply Keeps.ite
    | apply Keeps.foldl
    | split
    | dsimp only
    | intro _

theorem State.dropCxr_keeps (h_rst : m .rst = true) (a0) (s) (k : Keeps m s₀ s) :
    Keeps m s₀ (State.dropCxr a0 s) := by
  unfold State.dropCxr
  repeat' with_reducible first
    | exact k
    | assumption
    | intro _ _ _
    | intro _ _
    | apply State.updRst_keeps h_rst
    | apply Keeps.ite
    | apply Keeps.foldl
    | split
    | dsimp only
    | intro _

theorem State.readLife_keeps (h_crt : m .crt = true) (s) (k : Keeps m s₀ s) :
    Keeps m s₀ (State.readLife s) := by
  unfold State.readLife
  repeat' with_reducible first
    | exact k
    | assumption
    | intro _ _ _
    | intro _ _
    | apply State.showLife_keeps h_crt
    | apply State.updCrt_keeps h_crt
    | apply Keeps.ite
    | apply Keeps.foldl
    | split
    | dsimp only
    | intro _

theorem execHeaderCheck_keeps (h_aon : m .aon = true) (h_dev : m .dev = true) (h_crt : m .crt = true) (a0) (s) (k : Keeps m s₀ s) :
    Keeps.out m s₀ (execHeaderCheck a0 s) := by
  unfold execHeaderCheck
  repeat' with_reducible first
    | exact k
    | assumption
    | intro _ _ _
    | intro _ _
    | apply Keeps.out_next
    | apply Keeps.out_fault
    | apply Keeps.out_ite
    | apply State.refuse_keeps h_aon h_dev
    | apply State.toStage_keeps h_crt
    | apply State.readLife_keeps h_crt
    | apply State.updCrt_keeps h_crt
    | apply Keeps.ite
    | apply Keeps.foldl
    | split
    | dsimp only
    | intro _

theorem execFunctionReady_keeps (h_crt : m .crt = true) (s) (k : Keeps m s₀ s) :
    Keeps.out m s₀ (execFunctionReady s) := by
  unfold execFunctionReady
  repeat' with_reducible first
    | exact k
    | assumption
    | intro _ _ _
    | intro _ _
    | apply Keeps.out_next
    | apply Keeps.out_fault
    | apply Keeps.out_ite
    | apply State.toStage_keeps h_crt
    | apply Keeps.ite
    | apply Keeps.foldl
    | split
    | dsimp only
    | intro _

theorem State.readRecords_keeps (h_crt : m .crt = true) (h_ras : m .ras = true) (s) (k : Keeps m s₀ s) :
    Keeps m s₀ (State.readRecords s) := by
  unfold State.readRecords
  repeat' with_reducible first
    | exact k
    | assumption
    | intro _ _ _
    | intro _ _
    | apply State.updCrt_keeps h_crt
    | apply State.updRas_keeps h_ras
    | apply Keeps.ite
    | apply Keeps.foldl
    | split
    | dsimp only
    | intro _

theorem State.replaceLane_keeps (h_ras : m .ras = true) (a0) (a1) (a2) (s) (k : Keeps m s₀ s) :
    Keeps m s₀ (State.replaceLane a0 a1 a2 s) := by
  unfold State.replaceLane
  repeat' with_reducible first
    | exact k
    | assumption
    | intro _ _ _
    | intro _ _
    | apply State.updRas_keeps h_ras
    | apply State.updUnit_keeps h_ras
    | apply Keeps.ite
    | apply Keeps.foldl
    | split
    | dsimp only
    | intro _

theorem State.applyEntry_keeps (h_aon : m .aon = true) (h_hif : m .hif = true) (h_link : m .link = true) (h_dev : m .dev = true) (h_crt : m .crt = true) (h_adm : m .adm = true) (h_dec : m .dec = true) (h_enc : m .enc = true) (h_cse : m .cse = true) (h_rgn : m .rgn = true) (h_rmem : m .rmem = true) (h_dis : m .dis = true) (h_syn : m .syn = true) (h_bpm : m .bpm = true) (h_tke : m .tke = true) (h_dmc : m .dmc = true) (h_pwr : m .pwr = true) (h_clk : m .clk = true) (h_ras : m .ras = true) (h_dbg : m .dbg = true) (h_out : m .out = true) (a0) (a1) (s) (k : Keeps m s₀ s) :
    Keeps m s₀ (State.applyEntry a0 a1 s) := by
  unfold State.applyEntry
  repeat' with_reducible first
    | exact k
    | assumption
    | intro _ _ _
    | intro _ _
    | apply State.updUnit_keeps h_ras
    | apply State.replaceLane_keeps h_ras
    | apply State.updRas_keeps h_ras
    | apply State.standIn_keeps h_aon h_hif h_link h_dev h_crt h_adm h_dec h_enc h_cse h_rgn h_rmem h_dis h_syn h_bpm h_tke h_dmc h_pwr h_clk h_ras h_dbg h_out
    | apply State.updChan_keeps h_dmc
    | apply Keeps.ite
    | apply Keeps.foldl
    | split
    | dsimp only
    | intro _

theorem execDramTrainingDone_keeps (h_aon : m .aon = true) (h_hif : m .hif = true) (h_link : m .link = true) (h_dev : m .dev = true) (h_crt : m .crt = true) (h_adm : m .adm = true) (h_dec : m .dec = true) (h_enc : m .enc = true) (h_cse : m .cse = true) (h_rgn : m .rgn = true) (h_rmem : m .rmem = true) (h_dis : m .dis = true) (h_syn : m .syn = true) (h_bpm : m .bpm = true) (h_tke : m .tke = true) (h_dmc : m .dmc = true) (h_pwr : m .pwr = true) (h_clk : m .clk = true) (h_ras : m .ras = true) (h_dbg : m .dbg = true) (h_out : m .out = true) (a0) (a1) (a2) (s) (k : Keeps m s₀ s) :
    Keeps.out m s₀ (execDramTrainingDone a0 a1 a2 s) := by
  unfold execDramTrainingDone
  repeat' with_reducible first
    | exact k
    | assumption
    | intro _ _ _
    | intro _ _
    | apply Keeps.out_next
    | apply Keeps.out_fault
    | apply Keeps.out_ite
    | apply State.lockPll_keeps h_clk
    | apply State.updTrn_keeps h_dmc
    | apply State.refuse_keeps h_aon h_dev
    | apply State.updChan_keeps h_dmc
    | apply State.readRecords_keeps h_crt h_ras
    | apply State.toStage_keeps h_crt
    | apply State.applyEntry_keeps h_aon h_hif h_link h_dev h_crt h_adm h_dec h_enc h_cse h_rgn h_rmem h_dis h_syn h_bpm h_tke h_dmc h_pwr h_clk h_ras h_dbg h_out
    | apply State.addRepair_keeps h_hif h_link h_dev h_crt h_ras h_out
    | apply State.serveRegion_keeps h_rgn h_ras
    | apply State.serveMedia_keeps h_dec h_enc h_cse h_ras
    | apply Keeps.ite
    | apply Keeps.foldl
    | split
    | dsimp only
    | intro _

theorem State.failRow_keeps (h_aon : m .aon = true) (h_hif : m .hif = true) (h_link : m .link = true) (h_dev : m .dev = true) (h_crt : m .crt = true) (h_adm : m .adm = true) (h_dec : m .dec = true) (h_enc : m .enc = true) (h_cse : m .cse = true) (h_rgn : m .rgn = true) (h_rmem : m .rmem = true) (h_dis : m .dis = true) (h_syn : m .syn = true) (h_bpm : m .bpm = true) (h_tke : m .tke = true) (h_dmc : m .dmc = true) (h_pwr : m .pwr = true) (h_clk : m .clk = true) (h_ras : m .ras = true) (h_dbg : m .dbg = true) (h_out : m .out = true) (a0) (a1) (s) (k : Keeps m s₀ s) :
    Keeps m s₀ (State.failRow a0 a1 s) := by
  unfold State.failRow
  repeat' with_reducible first
    | exact k
    | assumption
    | intro _ _ _
    | intro _ _
    | apply State.rowFault_keeps h_aon h_hif h_link h_dev h_crt h_adm h_dec h_enc h_cse h_rgn h_rmem h_dis h_syn h_bpm h_tke h_dmc h_pwr h_clk h_ras h_dbg h_out
    | apply State.updRas_keeps h_ras
    | apply Keeps.ite
    | apply Keeps.foldl
    | split
    | dsimp only
    | intro _

theorem State.failLane_keeps (h_ep : m .ep = true) (h_aon : m .aon = true) (h_wires : m .wires = true) (h_hif : m .hif = true) (h_wins : m .wins = true) (h_link : m .link = true) (h_dev : m .dev = true) (h_crt : m .crt = true) (h_cal : m .cal = true) (h_adm : m .adm = true) (h_dec : m .dec = true) (h_enc : m .enc = true) (h_cse : m .cse = true) (h_rgn : m .rgn = true) (h_rmem : m .rmem = true) (h_dis : m .dis = true) (h_syn : m .syn = true) (h_bpm : m .bpm = true) (h_tke : m .tke = true) (h_dmc : m .dmc = true) (h_dram : m .dram = true) (h_pwr : m .pwr = true) (h_clk : m .clk = true) (h_ras : m .ras = true) (h_trc : m .trc = true) (h_rst : m .rst = true) (h_dbg : m .dbg = true) (h_out : m .out = true) (h_fresh : m .fresh = true) (a0) (a1) (a2) (a3) (s) (k : Keeps m s₀ s) :
    Keeps m s₀ (State.failLane a0 a1 a2 a3 s) := by
  unfold State.failLane
  repeat' with_reducible first
    | exact k
    | assumption
    | intro _ _ _
    | intro _ _
    | apply State.updUnit_keeps h_ras
    | apply State.countLasting_keeps h_ras
    | apply State.replaceLane_keeps h_ras
    | apply State.attention_keeps h_hif h_link h_dev h_ras h_out
    | apply State.addRepair_keeps h_hif h_link h_dev h_crt h_ras h_out
    | apply State.chr_keeps h_ep h_aon h_wires h_hif h_wins h_link h_dev h_crt h_cal h_adm h_dec h_enc h_cse h_rgn h_rmem h_dis h_syn h_bpm h_tke h_dmc h_dram h_pwr h_clk h_ras h_trc h_rst h_dbg h_out h_fresh
    | apply State.updRas_keeps h_ras
    | apply State.judgeAll_keeps h_rgn h_rmem h_dis
    | apply State.readmit_keeps h_dev h_adm h_dec h_enc h_rgn h_dis h_pwr h_clk _ (by assumption)
    | apply State.readmit_keeps h_dev h_adm h_dec h_enc h_rgn h_dis h_pwr h_clk _ rfl
    | apply Keeps.ite
    | apply Keeps.foldl
    | split
    | dsimp only
    | intro _

theorem State.failTest_keeps (h_ep : m .ep = true) (h_aon : m .aon = true) (h_wires : m .wires = true) (h_hif : m .hif = true) (h_wins : m .wins = true) (h_link : m .link = true) (h_dev : m .dev = true) (h_crt : m .crt = true) (h_cal : m .cal = true) (h_adm : m .adm = true) (h_dec : m .dec = true) (h_enc : m .enc = true) (h_cse : m .cse = true) (h_rgn : m .rgn = true) (h_rmem : m .rmem = true) (h_dis : m .dis = true) (h_syn : m .syn = true) (h_bpm : m .bpm = true) (h_tke : m .tke = true) (h_dmc : m .dmc = true) (h_dram : m .dram = true) (h_pwr : m .pwr = true) (h_clk : m .clk = true) (h_ras : m .ras = true) (h_trc : m .trc = true) (h_rst : m .rst = true) (h_dbg : m .dbg = true) (h_out : m .out = true) (h_fresh : m .fresh = true) (a0) (a1) (s) (k : Keeps m s₀ s) :
    Keeps m s₀ (State.failTest a0 a1 s) := by
  unfold State.failTest
  repeat' with_reducible first
    | exact k
    | assumption
    | intro _ _ _
    | intro _ _
    | apply State.failLane_keeps h_ep h_aon h_wires h_hif h_wins h_link h_dev h_crt h_cal h_adm h_dec h_enc h_cse h_rgn h_rmem h_dis h_syn h_bpm h_tke h_dmc h_dram h_pwr h_clk h_ras h_trc h_rst h_dbg h_out h_fresh
    | apply State.fence_keeps h_aon h_hif h_link h_dev h_crt h_adm h_dec h_enc h_cse h_rgn h_rmem h_dis h_syn h_bpm h_tke h_dmc h_pwr h_clk h_ras h_dbg h_out
    | apply State.record_keeps h_hif h_link h_out
    | apply Keeps.ite
    | apply Keeps.foldl
    | split
    | dsimp only
    | intro _

theorem execSelfTestDone_keeps (h_ep : m .ep = true) (h_aon : m .aon = true) (h_wires : m .wires = true) (h_hif : m .hif = true) (h_wins : m .wins = true) (h_link : m .link = true) (h_dev : m .dev = true) (h_crt : m .crt = true) (h_cal : m .cal = true) (h_adm : m .adm = true) (h_dec : m .dec = true) (h_enc : m .enc = true) (h_cse : m .cse = true) (h_rgn : m .rgn = true) (h_rmem : m .rmem = true) (h_dis : m .dis = true) (h_syn : m .syn = true) (h_bpm : m .bpm = true) (h_tke : m .tke = true) (h_dmc : m .dmc = true) (h_dram : m .dram = true) (h_pwr : m .pwr = true) (h_clk : m .clk = true) (h_ras : m .ras = true) (h_trc : m .trc = true) (h_rst : m .rst = true) (h_dbg : m .dbg = true) (h_out : m .out = true) (h_fresh : m .fresh = true) (a0) (a1) (a2) (a3) (s) (k : Keeps m s₀ s) :
    Keeps.out m s₀ (execSelfTestDone a0 a1 a2 a3 s) := by
  unfold execSelfTestDone
  repeat' with_reducible first
    | exact k
    | assumption
    | intro _ _ _
    | intro _ _
    | apply Keeps.out_next
    | apply Keeps.out_fault
    | apply Keeps.out_ite
    | apply State.failRow_keeps h_aon h_hif h_link h_dev h_crt h_adm h_dec h_enc h_cse h_rgn h_rmem h_dis h_syn h_bpm h_tke h_dmc h_pwr h_clk h_ras h_dbg h_out
    | apply State.failTest_keeps h_ep h_aon h_wires h_hif h_wins h_link h_dev h_crt h_cal h_adm h_dec h_enc h_cse h_rgn h_rmem h_dis h_syn h_bpm h_tke h_dmc h_dram h_pwr h_clk h_ras h_trc h_rst h_dbg h_out h_fresh
    | apply State.updRas_keeps h_ras
    | apply State.toStage_keeps h_crt
    | apply Keeps.ite
    | apply Keeps.foldl
    | split
    | dsimp only
    | intro _

theorem State.lockRegions_keeps (h_clk : m .clk = true) (s) (k : Keeps m s₀ s) :
    Keeps m s₀ (State.lockRegions s) := by
  unfold State.lockRegions
  repeat' with_reducible first
    | exact k
    | assumption
    | intro _ _ _
    | intro _ _
    | apply State.lockPll_keeps h_clk
    | apply Keeps.ite
    | apply Keeps.foldl
    | split
    | dsimp only
    | intro _

theorem State.enterService_keeps (h_aon : m .aon = true) (h_hif : m .hif = true) (h_link : m .link = true) (h_dev : m .dev = true) (h_crt : m .crt = true) (h_adm : m .adm = true) (h_dec : m .dec = true) (h_enc : m .enc = true) (h_rgn : m .rgn = true) (h_dis : m .dis = true) (h_bpm : m .bpm = true) (h_tke : m .tke = true) (h_dram : m .dram = true) (h_pwr : m .pwr = true) (h_clk : m .clk = true) (h_ras : m .ras = true) (h_rst : m .rst = true) (h_out : m .out = true) (h_fresh : m .fresh = true) (a0) (a1) (a2) (s) (k : Keeps m s₀ s) :
    Keeps m s₀ (State.enterService a0 a1 a2 s) := by
  unfold State.enterService
  repeat' with_reducible first
    | exact k
    | assumption
    | intro _ _ _
    | intro _ _
    | apply State.applyAdm_keeps h_adm h_dec h_enc h_rgn h_dis h_pwr h_clk
    | apply State.applyLayout_keeps h_hif h_adm h_dec h_bpm
    | apply State.toStage_keeps h_crt
    | apply State.lockRegions_keeps h_clk
    | apply State.placeSlots_keeps h_dec
    | apply State.restoreHost_keeps h_bpm h_tke
    | apply State.updDev_keeps h_dev
    | apply State.updPwr_keeps h_pwr
    | apply State.updRas_keeps h_ras
    | apply State.updDis_keeps h_dis
    | apply State.updTke_keeps h_tke
    | apply State.updCrt_keeps h_crt
    | apply State.updAon_keeps h_aon
    | apply State.openSlot_keeps h_dec h_dis h_bpm h_dram h_out h_fresh
    | apply State.reportLtr_keeps h_link h_out
    | apply State.kickWrite_keeps h_crt
    | apply State.judgeLife_keeps h_hif h_link h_dev h_crt h_ras h_out
    | apply State.postResets_keeps h_hif h_link h_dev h_ras h_rst h_out
    | apply State.setSlack_keeps h_pwr
    | apply Keeps.ite
    | apply Keeps.foldl
    | split
    | dsimp only
    | intro _

theorem execLoaderCheck_keeps (h_aon : m .aon = true) (h_hif : m .hif = true) (h_link : m .link = true) (h_dev : m .dev = true) (h_crt : m .crt = true) (h_adm : m .adm = true) (h_dec : m .dec = true) (h_enc : m .enc = true) (h_rgn : m .rgn = true) (h_dis : m .dis = true) (h_bpm : m .bpm = true) (h_tke : m .tke = true) (h_dmc : m .dmc = true) (h_dram : m .dram = true) (h_pwr : m .pwr = true) (h_clk : m .clk = true) (h_ras : m .ras = true) (h_rst : m .rst = true) (h_out : m .out = true) (h_fresh : m .fresh = true) (s) (k : Keeps m s₀ s) :
    Keeps.out m s₀ (execLoaderCheck s) := by
  unfold execLoaderCheck
  repeat' with_reducible first
    | exact k
    | assumption
    | intro _ _ _
    | intro _ _
    | apply Keeps.out_next
    | apply Keeps.out_fault
    | apply Keeps.out_ite
    | apply State.refuse_keeps h_aon h_dev
    | apply State.updDmc_keeps h_dmc
    | apply State.toStage_keeps h_crt
    | apply State.enterService_keeps h_aon h_hif h_link h_dev h_crt h_adm h_dec h_enc h_rgn h_dis h_bpm h_tke h_dram h_pwr h_clk h_ras h_rst h_out h_fresh
    | apply Keeps.ite
    | apply Keeps.foldl
    | split
    | dsimp only
    | intro _

theorem execBootWatchdogExpiry_keeps (h_aon : m .aon = true) (h_hif : m .hif = true) (h_link : m .link = true) (h_dev : m .dev = true) (h_ras : m .ras = true) (h_out : m .out = true) (s) (k : Keeps m s₀ s) :
    Keeps.out m s₀ (execBootWatchdogExpiry s) := by
  unfold execBootWatchdogExpiry
  repeat' with_reducible first
    | exact k
    | assumption
    | intro _ _ _
    | intro _ _
    | apply Keeps.out_next
    | apply Keeps.out_fault
    | apply Keeps.out_ite
    | apply State.powerCycle_keeps h_aon h_hif h_link h_dev h_ras h_out
    | apply State.waitUntil_keeps h_aon
    | apply Keeps.ite
    | apply Keeps.foldl
    | split
    | dsimp only
    | intro _

theorem execResetComplete_keeps (h_aon : m .aon = true) (h_wires : m .wires = true) (h_hif : m .hif = true) (h_wins : m .wins = true) (h_link : m .link = true) (h_dev : m .dev = true) (h_crt : m .crt = true) (h_cal : m .cal = true) (h_adm : m .adm = true) (h_dec : m .dec = true) (h_enc : m .enc = true) (h_cse : m .cse = true) (h_rgn : m .rgn = true) (h_rmem : m .rmem = true) (h_dis : m .dis = true) (h_syn : m .syn = true) (h_bpm : m .bpm = true) (h_tke : m .tke = true) (h_dmc : m .dmc = true) (h_dram : m .dram = true) (h_pwr : m .pwr = true) (h_clk : m .clk = true) (h_ras : m .ras = true) (h_trc : m .trc = true) (h_rst : m .rst = true) (h_dbg : m .dbg = true) (h_out : m .out = true) (h_fresh : m .fresh = true) (a0) (s) (k : Keeps m s₀ s) :
    Keeps.out m s₀ (execResetComplete a0 s) := by
  unfold execResetComplete
  repeat' with_reducible first
    | exact k
    | assumption
    | intro _ _ _
    | intro _ _
    | apply Keeps.out_next
    | apply Keeps.out_fault
    | apply Keeps.out_ite
    | apply State.bootRom_keeps h_aon h_wires h_link h_crt h_clk h_rst h_out
    | apply State.afterClose_keeps h_aon h_wires h_hif h_wins h_link h_dev h_crt h_cal h_adm h_dec h_enc h_cse h_rgn h_rmem h_dis h_syn h_bpm h_tke h_dmc h_dram h_pwr h_clk h_ras h_trc h_rst h_dbg h_out h_fresh
    | apply State.resumeAll_keeps h_hif h_link h_dec h_enc h_cse h_rgn h_rmem h_dis h_syn h_bpm h_tke h_dram h_out h_fresh
    | apply State.judgeAll_keeps h_rgn h_rmem h_dis
    | apply State.dropCxr_keeps h_rst
    | apply State.postResets_keeps h_hif h_link h_dev h_ras h_rst h_out
    | apply State.lateFences_keeps h_aon h_hif h_link h_dev h_crt h_adm h_dec h_enc h_cse h_rgn h_rmem h_dis h_syn h_bpm h_tke h_dmc h_pwr h_clk h_ras h_dbg h_out
    | apply State.restoreScope_keeps h_aon h_wires h_hif h_link h_dev h_crt h_adm h_dec h_enc h_cse h_rgn h_rmem h_dis h_syn h_bpm h_tke h_dmc h_dram h_pwr h_clk h_ras h_dbg h_out h_fresh
    | apply State.endRun_keeps h_rst
    | apply State.drainJobs_keeps h_cse h_dis
    | apply Keeps.ite
    | apply Keeps.foldl
    | split
    | dsimp only
    | intro _

theorem State.overrunUnit_keeps (h_ep : m .ep = true) (h_aon : m .aon = true) (h_wires : m .wires = true) (h_hif : m .hif = true) (h_wins : m .wins = true) (h_link : m .link = true) (h_dev : m .dev = true) (h_crt : m .crt = true) (h_cal : m .cal = true) (h_adm : m .adm = true) (h_dec : m .dec = true) (h_enc : m .enc = true) (h_cse : m .cse = true) (h_rgn : m .rgn = true) (h_rmem : m .rmem = true) (h_dis : m .dis = true) (h_syn : m .syn = true) (h_bpm : m .bpm = true) (h_tke : m .tke = true) (h_dmc : m .dmc = true) (h_dram : m .dram = true) (h_pwr : m .pwr = true) (h_clk : m .clk = true) (h_ras : m .ras = true) (h_trc : m .trc = true) (h_rst : m .rst = true) (h_dbg : m .dbg = true) (h_out : m .out = true) (h_fresh : m .fresh = true) (a0) (s) (k : Keeps m s₀ s) :
    Keeps m s₀ (State.overrunUnit a0 s) := by
  unfold State.overrunUnit
  repeat' with_reducible first
    | exact k
    | assumption
    | intro _ _ _
    | intro _ _
    | apply State.startReset_keeps h_ep h_aon h_wires h_hif h_wins h_link h_dev h_crt h_cal h_adm h_dec h_enc h_cse h_rgn h_rmem h_dis h_syn h_bpm h_tke h_dmc h_dram h_pwr h_clk h_ras h_trc h_rst h_dbg h_out h_fresh
    | apply State.chr_keeps h_ep h_aon h_wires h_hif h_wins h_link h_dev h_crt h_cal h_adm h_dec h_enc h_cse h_rgn h_rmem h_dis h_syn h_bpm h_tke h_dmc h_dram h_pwr h_clk h_ras h_trc h_rst h_dbg h_out h_fresh
    | apply Keeps.ite
    | apply Keeps.foldl
    | split
    | dsimp only
    | intro _

theorem State.countOverrun_keeps (h_aon : m .aon = true) (h_hif : m .hif = true) (h_link : m .link = true) (h_dev : m .dev = true) (h_crt : m .crt = true) (h_adm : m .adm = true) (h_dec : m .dec = true) (h_enc : m .enc = true) (h_cse : m .cse = true) (h_rgn : m .rgn = true) (h_rmem : m .rmem = true) (h_dis : m .dis = true) (h_syn : m .syn = true) (h_bpm : m .bpm = true) (h_tke : m .tke = true) (h_dmc : m .dmc = true) (h_pwr : m .pwr = true) (h_clk : m .clk = true) (h_ras : m .ras = true) (h_dbg : m .dbg = true) (h_out : m .out = true) (a0) (s) (k : Keeps m s₀ s) :
    Keeps m s₀ (State.countOverrun a0 s) := by
  unfold State.countOverrun
  repeat' with_reducible first
    | exact k
    | assumption
    | intro _ _ _
    | intro _ _
    | apply State.fence_keeps h_aon h_hif h_link h_dev h_crt h_adm h_dec h_enc h_cse h_rgn h_rmem h_dis h_syn h_bpm h_tke h_dmc h_pwr h_clk h_ras h_dbg h_out
    | apply State.countError_keeps h_aon h_dev h_ras h_dbg _ _ _ (by assumption)
    | apply State.countError_keeps h_aon h_dev h_ras h_dbg _ _ _ rfl
    | apply Keeps.ite
    | apply Keeps.foldl
    | split
    | dsimp only
    | intro _

theorem execResetOverrun_keeps (h_ep : m .ep = true) (h_aon : m .aon = true) (h_wires : m .wires = true) (h_hif : m .hif = true) (h_wins : m .wins = true) (h_link : m .link = true) (h_dev : m .dev = true) (h_crt : m .crt = true) (h_cal : m .cal = true) (h_adm : m .adm = true) (h_dec : m .dec = true) (h_enc : m .enc = true) (h_cse : m .cse = true) (h_rgn : m .rgn = true) (h_rmem : m .rmem = true) (h_dis : m .dis = true) (h_syn : m .syn = true) (h_bpm : m .bpm = true) (h_tke : m .tke = true) (h_dmc : m .dmc = true) (h_dram : m .dram = true) (h_pwr : m .pwr = true) (h_clk : m .clk = true) (h_ras : m .ras = true) (h_trc : m .trc = true) (h_rst : m .rst = true) (h_dbg : m .dbg = true) (h_out : m .out = true) (h_fresh : m .fresh = true) (a0) (s) (k : Keeps m s₀ s) :
    Keeps.out m s₀ (execResetOverrun a0 s) := by
  unfold execResetOverrun
  repeat' with_reducible first
    | exact k
    | assumption
    | intro _ _ _
    | intro _ _
    | apply Keeps.out_next
    | apply Keeps.out_fault
    | apply Keeps.out_ite
    | apply State.updRas_keeps h_ras
    | apply State.waitUntil_keeps h_aon
    | apply State.dropCxr_keeps h_rst
    | apply State.afterClose_keeps h_aon h_wires h_hif h_wins h_link h_dev h_crt h_cal h_adm h_dec h_enc h_cse h_rgn h_rmem h_dis h_syn h_bpm h_tke h_dmc h_dram h_pwr h_clk h_ras h_trc h_rst h_dbg h_out h_fresh
    | apply State.unitEvent_keeps h_ep h_aon h_wires h_hif h_wins h_link h_dev h_crt h_cal h_adm h_dec h_enc h_cse h_rgn h_rmem h_dis h_syn h_bpm h_tke h_dmc h_dram h_pwr h_clk h_ras h_trc h_rst h_dbg h_out h_fresh
    | apply State.overrunUnit_keeps h_ep h_aon h_wires h_hif h_wins h_link h_dev h_crt h_cal h_adm h_dec h_enc h_cse h_rgn h_rmem h_dis h_syn h_bpm h_tke h_dmc h_dram h_pwr h_clk h_ras h_trc h_rst h_dbg h_out h_fresh
    | apply State.countOverrun_keeps h_aon h_hif h_link h_dev h_crt h_adm h_dec h_enc h_cse h_rgn h_rmem h_dis h_syn h_bpm h_tke h_dmc h_pwr h_clk h_ras h_dbg h_out
    | apply State.chr_keeps h_ep h_aon h_wires h_hif h_wins h_link h_dev h_crt h_cal h_adm h_dec h_enc h_cse h_rgn h_rmem h_dis h_syn h_bpm h_tke h_dmc h_dram h_pwr h_clk h_ras h_trc h_rst h_dbg h_out h_fresh
    | apply Keeps.ite
    | apply Keeps.foldl
    | split
    | dsimp only
    | intro _

end Sys2Proof.Machine
end

