-- ==== Sys2Proof/Laws/KeepsCartridge.lean ====
section
/-! SUPPORT. What each operation of Machine/Cartridge.lean keeps. -/

set_option Elab.async false
set_option linter.all false

namespace Sys2Proof.Machine

variable {m : Part → Bool} {s₀ : State}

theorem State.breakWrites_keeps (h_hif : m .hif = true) (h_link : m .link = true) (h_crt : m .crt = true) (h_cal : m .cal = true) (h_out : m .out = true) (s) (k : Keeps m s₀ s) :
    Keeps m s₀ (State.breakWrites s) := by
  unfold State.breakWrites
  repeat' with_reducible first
    | exact k
    | assumption
    | intro _ _ _
    | intro _ _
    | apply State.updCrt_keeps h_crt
    | apply State.replyTag_keeps h_hif h_link h_out
    | apply State.calReply_keeps h_hif h_link h_cal h_out
    | apply Keeps.ite
    | apply Keeps.foldl
    | split
    | dsimp only
    | intro _

theorem execCartRemoval_keeps (h_aon : m .aon = true) (h_wires : m .wires = true) (h_hif : m .hif = true) (h_link : m .link = true) (h_dev : m .dev = true) (h_crt : m .crt = true) (h_cal : m .cal = true) (h_ras : m .ras = true) (h_out : m .out = true) (s) (k : Keeps m s₀ s) :
    Keeps.out m s₀ (execCartRemoval s) := by
  unfold execCartRemoval
  repeat' with_reducible first
    | exact k
    | assumption
    | intro _ _ _
    | intro _ _
    | apply Keeps.out_next
    | apply Keeps.out_fault
    | apply Keeps.out_ite
    | apply State.updCrt_keeps h_crt
    | apply State.updWires_keeps h_wires
    | apply State.refuse_keeps h_aon h_dev
    | apply State.attention_keeps h_hif h_link h_dev h_ras h_out
    | apply State.breakWrites_keeps h_hif h_link h_crt h_cal h_out
    | apply Keeps.ite
    | apply Keeps.foldl
    | split
    | dsimp only
    | intro _

theorem State.compareCart_keeps (h_hif : m .hif = true) (h_link : m .link = true) (h_dev : m .dev = true) (h_crt : m .crt = true) (h_ras : m .ras = true) (h_out : m .out = true) (a0) (a1) (s) (k : Keeps m s₀ s) :
    Keeps m s₀ (State.compareCart a0 a1 s) := by
  unfold State.compareCart
  repeat' with_reducible first
    | exact k
    | assumption
    | intro _ _ _
    | intro _ _
    | apply State.updCrt_keeps h_crt
    | apply State.kickWrite_keeps h_crt
    | apply State.attention_keeps h_hif h_link h_dev h_ras h_out
    | apply Keeps.ite
    | apply Keeps.foldl
    | split
    | dsimp only
    | intro _

theorem execCartInsertion_keeps (h_wires : m .wires = true) (h_hif : m .hif = true) (h_link : m .link = true) (h_dev : m .dev = true) (h_crt : m .crt = true) (h_ras : m .ras = true) (h_out : m .out = true) (a0) (s) (k : Keeps m s₀ s) :
    Keeps.out m s₀ (execCartInsertion a0 s) := by
  unfold execCartInsertion
  repeat' with_reducible first
    | exact k
    | assumption
    | intro _ _ _
    | intro _ _
    | apply Keeps.out_next
    | apply Keeps.out_fault
    | apply Keeps.out_ite
    | apply State.updCrt_keeps h_crt
    | apply State.send_keeps h_out
    | apply State.updWires_keeps h_wires
    | apply State.compareCart_keeps h_hif h_link h_dev h_crt h_ras h_out
    | apply Keeps.ite
    | apply Keeps.foldl
    | split
    | dsimp only
    | intro _

theorem execCartInsertChr_keeps (h_ep : m .ep = true) (h_aon : m .aon = true) (h_wires : m .wires = true) (h_hif : m .hif = true) (h_wins : m .wins = true) (h_link : m .link = true) (h_dev : m .dev = true) (h_crt : m .crt = true) (h_cal : m .cal = true) (h_adm : m .adm = true) (h_dec : m .dec = true) (h_enc : m .enc = true) (h_cse : m .cse = true) (h_rgn : m .rgn = true) (h_rmem : m .rmem = true) (h_dis : m .dis = true) (h_syn : m .syn = true) (h_bpm : m .bpm = true) (h_tke : m .tke = true) (h_dmc : m .dmc = true) (h_dram : m .dram = true) (h_pwr : m .pwr = true) (h_clk : m .clk = true) (h_ras : m .ras = true) (h_trc : m .trc = true) (h_rst : m .rst = true) (h_dbg : m .dbg = true) (h_out : m .out = true) (h_fresh : m .fresh = true) (s) (k : Keeps m s₀ s) :
    Keeps.out m s₀ (execCartInsertChr s) := by
  unfold execCartInsertChr
  repeat' with_reducible first
    | exact k
    | assumption
    | intro _ _ _
    | intro _ _
    | apply Keeps.out_next
    | apply Keeps.out_fault
    | apply Keeps.out_ite
    | apply State.chr_keeps h_ep h_aon h_wires h_hif h_wins h_link h_dev h_crt h_cal h_adm h_dec h_enc h_cse h_rgn h_rmem h_dis h_syn h_bpm h_tke h_dmc h_dram h_pwr h_clk h_ras h_trc h_rst h_dbg h_out h_fresh
    | apply State.waitUntil_keeps h_aon
    | apply Keeps.ite
    | apply Keeps.foldl
    | split
    | dsimp only
    | intro _

theorem execCartridgeWriteComplete_keeps (h_hif : m .hif = true) (h_link : m .link = true) (h_dev : m .dev = true) (h_crt : m .crt = true) (h_cal : m .cal = true) (h_ras : m .ras = true) (h_out : m .out = true) (a0) (a1) (s) (k : Keeps m s₀ s) :
    Keeps.out m s₀ (execCartridgeWriteComplete a0 a1 s) := by
  unfold execCartridgeWriteComplete
  repeat' with_reducible first
    | exact k
    | assumption
    | intro _ _ _
    | intro _ _
    | apply Keeps.out_next
    | apply Keeps.out_fault
    | apply Keeps.out_ite
    | apply State.reportLtr_keeps h_link h_out
    | apply State.endWrite_keeps h_hif h_link h_dev h_crt h_cal h_ras h_out
    | apply Keeps.ite
    | apply Keeps.foldl
    | split
    | dsimp only
    | intro _

theorem execLifeRecordTimer_keeps (h_aon : m .aon = true) (h_crt : m .crt = true) (s) (k : Keeps m s₀ s) :
    Keeps.out m s₀ (execLifeRecordTimer s) := by
  unfold execLifeRecordTimer
  repeat' with_reducible first
    | exact k
    | assumption
    | intro _ _ _
    | intro _ _
    | apply Keeps.out_next
    | apply Keeps.out_fault
    | apply Keeps.out_ite
    | apply State.pendLife_keeps h_crt
    | apply State.updCrt_keeps h_crt
    | apply State.waitUntil_keeps h_aon
    | apply Keeps.ite
    | apply Keeps.foldl
    | split
    | dsimp only
    | intro _

theorem execAgeAccrual_keeps (h_aon : m .aon = true) (h_hif : m .hif = true) (h_link : m .link = true) (h_dev : m .dev = true) (h_crt : m .crt = true) (h_ras : m .ras = true) (h_out : m .out = true) (a0) (s) (k : Keeps m s₀ s) :
    Keeps.out m s₀ (execAgeAccrual a0 s) := by
  unfold execAgeAccrual
  repeat' with_reducible first
    | exact k
    | assumption
    | intro _ _ _
    | intro _ _
    | apply Keeps.out_next
    | apply Keeps.out_fault
    | apply Keeps.out_ite
    | apply State.waitUntil_keeps h_aon
    | apply State.updCrt_keeps h_crt
    | apply State.judgeLife_keeps h_hif h_link h_dev h_crt h_ras h_out
    | apply State.showLife_keeps h_crt
    | apply Keeps.ite
    | apply Keeps.foldl
    | split
    | dsimp only
    | intro _

theorem State.calOk_keeps (h_hif : m .hif = true) (h_link : m .link = true) (h_crt : m .crt = true) (h_cal : m .cal = true) (h_out : m .out = true) (s) (k : Keeps m s₀ s) :
    Keeps m s₀ (State.calOk s) := by
  unfold State.calOk
  repeat' with_reducible first
    | exact k
    | assumption
    | intro _ _ _
    | intro _ _
    | apply State.calReply_keeps h_hif h_link h_cal h_out
    | apply State.updCal_keeps h_cal
    | apply State.pendRecord_keeps h_crt
    | apply Keeps.ite
    | apply Keeps.foldl
    | split
    | dsimp only
    | intro _

theorem execCalTrainDone_keeps (h_hif : m .hif = true) (h_link : m .link = true) (h_crt : m .crt = true) (h_cal : m .cal = true) (h_out : m .out = true) (h_fresh : m .fresh = true) (a0) (s) (k : Keeps m s₀ s) :
    Keeps.out m s₀ (execCalTrainDone a0 s) := by
  unfold execCalTrainDone
  repeat' with_reducible first
    | exact k
    | assumption
    | intro _ _ _
    | intro _ _
    | apply Keeps.out_next
    | apply Keeps.out_fault
    | apply Keeps.out_ite
    | apply State.updCal_keeps h_cal
    | apply State.burn_keeps h_fresh
    | apply State.reportLtr_keeps h_link h_out
    | apply State.calOk_keeps h_hif h_link h_crt h_cal h_out
    | apply State.calReply_keeps h_hif h_link h_cal h_out
    | apply Keeps.ite
    | apply Keeps.foldl
    | split
    | dsimp only
    | intro _

theorem execCalTimeLimit_keeps (h_aon : m .aon = true) (h_hif : m .hif = true) (h_link : m .link = true) (h_cal : m .cal = true) (h_out : m .out = true) (h_fresh : m .fresh = true) (s) (k : Keeps m s₀ s) :
    Keeps.out m s₀ (execCalTimeLimit s) := by
  unfold execCalTimeLimit
  repeat' with_reducible first
    | exact k
    | assumption
    | intro _ _ _
    | intro _ _
    | apply Keeps.out_next
    | apply Keeps.out_fault
    | apply Keeps.out_ite
    | apply State.waitUntil_keeps h_aon
    | apply State.reportLtr_keeps h_link h_out
    | apply State.calReply_keeps h_hif h_link h_cal h_out
    | apply State.updCal_keeps h_cal
    | apply State.burn_keeps h_fresh
    | apply Keeps.ite
    | apply Keeps.foldl
    | split
    | dsimp only
    | intro _

end Sys2Proof.Machine
end

