-- ==== Sys2Proof/Laws/KeepsHostCmd.lean ====
section
/-! SUPPORT. What each operation of Machine/HostCmd.lean keeps. -/

set_option Elab.async false
set_option linter.all false

namespace Sys2Proof.Machine

variable {m : Part → Bool} {s₀ : State}

theorem execStreamClose_keeps (h_aon : m .aon = true) (h_wires : m .wires = true) (h_hif : m .hif = true) (h_wins : m .wins = true) (h_link : m .link = true) (h_dev : m .dev = true) (h_crt : m .crt = true) (h_cal : m .cal = true) (h_adm : m .adm = true) (h_dec : m .dec = true) (h_enc : m .enc = true) (h_cse : m .cse = true) (h_rgn : m .rgn = true) (h_rmem : m .rmem = true) (h_dis : m .dis = true) (h_syn : m .syn = true) (h_bpm : m .bpm = true) (h_tke : m .tke = true) (h_dmc : m .dmc = true) (h_dram : m .dram = true) (h_pwr : m .pwr = true) (h_clk : m .clk = true) (h_ras : m .ras = true) (h_trc : m .trc = true) (h_rst : m .rst = true) (h_dbg : m .dbg = true) (h_out : m .out = true) (h_fresh : m .fresh = true) (a0) (s) (k : Keeps m s₀ s) :
    Keeps.out m s₀ (execStreamClose a0 s) := by
  unfold execStreamClose
  repeat' with_reducible first
    | exact k
    | assumption
    | intro _ _ _
    | intro _ _
    | apply Keeps.out_next
    | apply Keeps.out_fault
    | apply Keeps.out_ite
    | apply State.command_keeps h_hif h_link h_out
    | apply State.streamCommand_keeps h_aon h_wires h_hif h_wins h_link h_dev h_crt h_cal h_adm h_dec h_enc h_cse h_rgn h_rmem h_dis h_syn h_bpm h_tke h_dmc h_dram h_pwr h_clk h_ras h_trc h_rst h_dbg h_out h_fresh
    | apply Keeps.ite
    | apply Keeps.foldl
    | split
    | dsimp only
    | intro _

theorem State.query_keeps (h_hif : m .hif = true) (h_link : m .link = true) (h_out : m .out = true) (a0) (a1) (a2) (s) (h2 : ∀ t, Keeps m s₀ t → Keeps m s₀ (a2 t)) (k : Keeps m s₀ s) :
    Keeps m s₀ (State.query a0 a1 a2 s) := by
  unfold State.query
  repeat' with_reducible first
    | exact k
    | assumption
    | intro _ _ _
    | intro _ _
    | apply h2
    | apply State.command_keeps h_hif h_link h_out
    | apply State.reply_keeps h_hif h_link h_out
    | apply Keeps.ite
    | apply Keeps.foldl
    | split
    | dsimp only
    | intro _

theorem execQuerySlot_keeps (h_hif : m .hif = true) (h_link : m .link = true) (h_out : m .out = true) (a0) (s) (k : Keeps m s₀ s) :
    Keeps.out m s₀ (execQuerySlot a0 s) := by
  unfold execQuerySlot
  repeat' with_reducible first
    | exact k
    | assumption
    | intro _ _ _
    | intro _ _
    | apply Keeps.out_next
    | apply Keeps.out_fault
    | apply Keeps.out_ite
    | apply State.query_keeps h_hif h_link h_out
    | apply State.reply_keeps h_hif h_link h_out
    | apply Keeps.ite
    | apply Keeps.foldl
    | split
    | dsimp only
    | intro _

theorem State.badRing_keeps (h_hif : m .hif = true) (h_link : m .link = true) (h_dev : m .dev = true) (h_ras : m .ras = true) (h_out : m .out = true) (s) (k : Keeps m s₀ s) :
    Keeps m s₀ (State.badRing s) := by
  unfold State.badRing
  repeat' with_reducible first
    | exact k
    | assumption
    | intro _ _ _
    | intro _ _
    | apply State.attention_keeps h_hif h_link h_dev h_ras h_out
    | apply Keeps.ite
    | apply Keeps.foldl
    | split
    | dsimp only
    | intro _

theorem State.putCmd_keeps (h_hif : m .hif = true) (h_link : m .link = true) (h_dev : m .dev = true) (h_ras : m .ras = true) (h_out : m .out = true) (a0) (s) (k : Keeps m s₀ s) :
    Keeps m s₀ (State.putCmd a0 s) := by
  unfold State.putCmd
  repeat' with_reducible first
    | exact k
    | assumption
    | intro _ _ _
    | intro _ _
    | apply State.badRing_keeps h_hif h_link h_dev h_ras h_out
    | apply State.updHif_keeps h_hif
    | apply Keeps.ite
    | apply Keeps.foldl
    | split
    | dsimp only
    | intro _

theorem execHifCmdPut_keeps (h_hif : m .hif = true) (h_wins : m .wins = true) (h_link : m .link = true) (h_dev : m .dev = true) (h_dec : m .dec = true) (h_enc : m .enc = true) (h_cse : m .cse = true) (h_rgn : m .rgn = true) (h_rmem : m .rmem = true) (h_dis : m .dis = true) (h_syn : m .syn = true) (h_bpm : m .bpm = true) (h_tke : m .tke = true) (h_dmc : m .dmc = true) (h_dram : m .dram = true) (h_pwr : m .pwr = true) (h_clk : m .clk = true) (h_ras : m .ras = true) (h_out : m .out = true) (h_fresh : m .fresh = true) (a0) (s) (k : Keeps m s₀ s) :
    Keeps.out m s₀ (execHifCmdPut a0 s) := by
  unfold execHifCmdPut
  repeat' with_reducible first
    | exact k
    | assumption
    | intro _ _ _
    | intro _ _
    | apply Keeps.out_next
    | apply Keeps.out_fault
    | apply Keeps.out_ite
    | apply State.onMmio_keeps h_hif h_wins h_link h_dev h_dec h_enc h_cse h_rgn h_rmem h_dis h_syn h_bpm h_tke h_dmc h_dram h_pwr h_clk h_ras h_out h_fresh
    | apply State.putCmd_keeps h_hif h_link h_dev h_ras h_out
    | apply Keeps.ite
    | apply Keeps.foldl
    | split
    | dsimp only
    | intro _

theorem execCommandFetch_keeps (h_hif : m .hif = true) (h_link : m .link = true) (h_out : m .out = true) (s) (k : Keeps m s₀ s) :
    Keeps.out m s₀ (execCommandFetch s) := by
  unfold execCommandFetch
  repeat' with_reducible first
    | exact k
    | assumption
    | intro _ _ _
    | intro _ _
    | apply Keeps.out_next
    | apply Keeps.out_fault
    | apply Keeps.out_ite
    | apply State.reportLtr_keeps h_link h_out
    | apply State.updHif_keeps h_hif
    | apply State.issueRead_keeps h_link h_out
    | apply Keeps.ite
    | apply Keeps.foldl
    | split
    | dsimp only
    | intro _

theorem execQueryDevice_keeps (h_hif : m .hif = true) (h_link : m .link = true) (h_out : m .out = true) (a0) (s) (k : Keeps m s₀ s) :
    Keeps.out m s₀ (execQueryDevice a0 s) := by
  unfold execQueryDevice
  repeat' with_reducible first
    | exact k
    | assumption
    | intro _ _ _
    | intro _ _
    | apply Keeps.out_next
    | apply Keeps.out_fault
    | apply Keeps.out_ite
    | apply State.query_keeps h_hif h_link h_out
    | apply State.reply_keeps h_hif h_link h_out
    | apply Keeps.ite
    | apply Keeps.foldl
    | split
    | dsimp only
    | intro _

theorem execQueryAttention_keeps (h_hif : m .hif = true) (h_link : m .link = true) (h_out : m .out = true) (a0) (s) (k : Keeps m s₀ s) :
    Keeps.out m s₀ (execQueryAttention a0 s) := by
  unfold execQueryAttention
  repeat' with_reducible first
    | exact k
    | assumption
    | intro _ _ _
    | intro _ _
    | apply Keeps.out_next
    | apply Keeps.out_fault
    | apply Keeps.out_ite
    | apply State.query_keeps h_hif h_link h_out
    | apply State.updHif_keeps h_hif
    | apply State.reply_keeps h_hif h_link h_out
    | apply Keeps.ite
    | apply Keeps.foldl
    | split
    | dsimp only
    | intro _

theorem execQueryRefusal_keeps (h_hif : m .hif = true) (h_link : m .link = true) (h_out : m .out = true) (a0) (s) (k : Keeps m s₀ s) :
    Keeps.out m s₀ (execQueryRefusal a0 s) := by
  unfold execQueryRefusal
  repeat' with_reducible first
    | exact k
    | assumption
    | intro _ _ _
    | intro _ _
    | apply Keeps.out_next
    | apply Keeps.out_fault
    | apply Keeps.out_ite
    | apply State.query_keeps h_hif h_link h_out
    | apply State.reply_keeps h_hif h_link h_out
    | apply Keeps.ite
    | apply Keeps.foldl
    | split
    | dsimp only
    | intro _

theorem execQueryTime_keeps (h_hif : m .hif = true) (h_link : m .link = true) (h_out : m .out = true) (a0) (s) (k : Keeps m s₀ s) :
    Keeps.out m s₀ (execQueryTime a0 s) := by
  unfold execQueryTime
  repeat' with_reducible first
    | exact k
    | assumption
    | intro _ _ _
    | intro _ _
    | apply Keeps.out_next
    | apply Keeps.out_fault
    | apply Keeps.out_ite
    | apply State.query_keeps h_hif h_link h_out
    | apply State.reply_keeps h_hif h_link h_out
    | apply Keeps.ite
    | apply Keeps.foldl
    | split
    | dsimp only
    | intro _

theorem execQueryAdmission_keeps (h_hif : m .hif = true) (h_link : m .link = true) (h_out : m .out = true) (a0) (s) (k : Keeps m s₀ s) :
    Keeps.out m s₀ (execQueryAdmission a0 s) := by
  unfold execQueryAdmission
  repeat' with_reducible first
    | exact k
    | assumption
    | intro _ _ _
    | intro _ _
    | apply Keeps.out_next
    | apply Keeps.out_fault
    | apply Keeps.out_ite
    | apply State.query_keeps h_hif h_link h_out
    | apply State.reply_keeps h_hif h_link h_out
    | apply Keeps.ite
    | apply Keeps.foldl
    | split
    | dsimp only
    | intro _

theorem execUnknownOpcode_keeps (h_hif : m .hif = true) (h_link : m .link = true) (h_out : m .out = true) (a0) (a1) (s) (k : Keeps m s₀ s) :
    Keeps.out m s₀ (execUnknownOpcode a0 a1 s) := by
  unfold execUnknownOpcode
  repeat' with_reducible first
    | exact k
    | assumption
    | intro _ _ _
    | intro _ _
    | apply Keeps.out_next
    | apply Keeps.out_fault
    | apply Keeps.out_ite
    | apply State.reportLtr_keeps h_link h_out
    | apply State.reply_keeps h_hif h_link h_out
    | apply State.takeRead_keeps h_hif h_link
    | apply Keeps.ite
    | apply Keeps.foldl
    | split
    | dsimp only
    | intro _

theorem execLostCommand_keeps (h_hif : m .hif = true) (h_link : m .link = true) (h_dev : m .dev = true) (h_out : m .out = true) (a0) (s) (k : Keeps m s₀ s) :
    Keeps.out m s₀ (execLostCommand a0 s) := by
  unfold execLostCommand
  repeat' with_reducible first
    | exact k
    | assumption
    | intro _ _ _
    | intro _ _
    | apply Keeps.out_next
    | apply Keeps.out_fault
    | apply Keeps.out_ite
    | apply State.freeze_keeps h_dev
    | apply State.countPoison_keeps h_link
    | apply State.reportLtr_keeps h_link h_out
    | apply State.reply_keeps h_hif h_link h_out
    | apply State.takeRead_keeps h_hif h_link
    | apply Keeps.ite
    | apply Keeps.foldl
    | split
    | dsimp only
    | intro _

theorem execStreamOpen_keeps (h_aon : m .aon = true) (h_wires : m .wires = true) (h_hif : m .hif = true) (h_wins : m .wins = true) (h_link : m .link = true) (h_dev : m .dev = true) (h_crt : m .crt = true) (h_cal : m .cal = true) (h_adm : m .adm = true) (h_dec : m .dec = true) (h_enc : m .enc = true) (h_cse : m .cse = true) (h_rgn : m .rgn = true) (h_rmem : m .rmem = true) (h_dis : m .dis = true) (h_syn : m .syn = true) (h_bpm : m .bpm = true) (h_tke : m .tke = true) (h_dmc : m .dmc = true) (h_dram : m .dram = true) (h_pwr : m .pwr = true) (h_clk : m .clk = true) (h_ras : m .ras = true) (h_trc : m .trc = true) (h_rst : m .rst = true) (h_dbg : m .dbg = true) (h_out : m .out = true) (h_fresh : m .fresh = true) (a0) (s) (k : Keeps m s₀ s) :
    Keeps.out m s₀ (execStreamOpen a0 s) := by
  unfold execStreamOpen
  repeat' with_reducible first
    | exact k
    | assumption
    | intro _ _ _
    | intro _ _
    | apply Keeps.out_next
    | apply Keeps.out_fault
    | apply Keeps.out_ite
    | apply State.command_keeps h_hif h_link h_out
    | apply State.streamCommand_keeps h_aon h_wires h_hif h_wins h_link h_dev h_crt h_cal h_adm h_dec h_enc h_cse h_rgn h_rmem h_dis h_syn h_bpm h_tke h_dmc h_dram h_pwr h_clk h_ras h_trc h_rst h_dbg h_out h_fresh
    | apply State.reply_keeps h_hif h_link h_out
    | apply Keeps.ite
    | apply Keeps.foldl
    | split
    | dsimp only
    | intro _

theorem execSnapshot_keeps (h_aon : m .aon = true) (h_hif : m .hif = true) (h_link : m .link = true) (h_dbg : m .dbg = true) (h_out : m .out = true) (a0) (s) (k : Keeps m s₀ s) :
    Keeps.out m s₀ (execSnapshot a0 s) := by
  unfold execSnapshot
  repeat' with_reducible first
    | exact k
    | assumption
    | intro _ _ _
    | intro _ _
    | apply Keeps.out_next
    | apply Keeps.out_fault
    | apply Keeps.out_ite
    | apply State.command_keeps h_hif h_link h_out
    | apply State.glaze_keeps h_aon h_dbg
    | apply State.reply_keeps h_hif h_link h_out
    | apply Keeps.ite
    | apply Keeps.foldl
    | split
    | dsimp only
    | intro _

theorem execDumpRead_keeps (h_hif : m .hif = true) (h_link : m .link = true) (h_dmc : m .dmc = true) (h_dbg : m .dbg = true) (h_out : m .out = true) (a0) (s) (k : Keeps m s₀ s) :
    Keeps.out m s₀ (execDumpRead a0 s) := by
  unfold execDumpRead
  repeat' with_reducible first
    | exact k
    | assumption
    | intro _ _ _
    | intro _ _
    | apply Keeps.out_next
    | apply Keeps.out_fault
    | apply Keeps.out_ite
    | apply State.command_keeps h_hif h_link h_out
    | apply State.reply_keeps h_hif h_link h_out
    | apply State.updDbg_keeps h_dbg
    | apply State.hostPut_keeps h_out
    | apply State.noteDump_keeps h_dmc
    | apply Keeps.ite
    | apply Keeps.foldl
    | split
    | dsimp only
    | intro _

theorem execSetLatTol_keeps (h_hif : m .hif = true) (h_link : m .link = true) (h_pwr : m .pwr = true) (h_out : m .out = true) (a0) (s) (k : Keeps m s₀ s) :
    Keeps.out m s₀ (execSetLatTol a0 s) := by
  unfold execSetLatTol
  repeat' with_reducible first
    | exact k
    | assumption
    | intro _ _ _
    | intro _ _
    | apply Keeps.out_next
    | apply Keeps.out_fault
    | apply Keeps.out_ite
    | apply State.command_keeps h_hif h_link h_out
    | apply State.updPwr_keeps h_pwr
    | apply State.reply_keeps h_hif h_link h_out
    | apply Keeps.ite
    | apply Keeps.foldl
    | split
    | dsimp only
    | intro _

theorem execResetReq_keeps (h_ep : m .ep = true) (h_aon : m .aon = true) (h_wires : m .wires = true) (h_hif : m .hif = true) (h_wins : m .wins = true) (h_link : m .link = true) (h_dev : m .dev = true) (h_crt : m .crt = true) (h_cal : m .cal = true) (h_adm : m .adm = true) (h_dec : m .dec = true) (h_enc : m .enc = true) (h_cse : m .cse = true) (h_rgn : m .rgn = true) (h_rmem : m .rmem = true) (h_dis : m .dis = true) (h_syn : m .syn = true) (h_bpm : m .bpm = true) (h_tke : m .tke = true) (h_dmc : m .dmc = true) (h_dram : m .dram = true) (h_pwr : m .pwr = true) (h_clk : m .clk = true) (h_ras : m .ras = true) (h_trc : m .trc = true) (h_rst : m .rst = true) (h_dbg : m .dbg = true) (h_out : m .out = true) (h_fresh : m .fresh = true) (a0) (s) (k : Keeps m s₀ s) :
    Keeps.out m s₀ (execResetReq a0 s) := by
  unfold execResetReq
  repeat' with_reducible first
    | exact k
    | assumption
    | intro _ _ _
    | intro _ _
    | apply Keeps.out_next
    | apply Keeps.out_fault
    | apply Keeps.out_ite
    | apply State.command_keeps h_hif h_link h_out
    | apply State.reply_keeps h_hif h_link h_out
    | apply State.afterClose_keeps h_aon h_wires h_hif h_wins h_link h_dev h_crt h_cal h_adm h_dec h_enc h_cse h_rgn h_rmem h_dis h_syn h_bpm h_tke h_dmc h_dram h_pwr h_clk h_ras h_trc h_rst h_dbg h_out h_fresh
    | apply State.startReset_keeps h_ep h_aon h_wires h_hif h_wins h_link h_dev h_crt h_cal h_adm h_dec h_enc h_cse h_rgn h_rmem h_dis h_syn h_bpm h_tke h_dmc h_dram h_pwr h_clk h_ras h_trc h_rst h_dbg h_out h_fresh
    | apply Keeps.ite
    | apply Keeps.foldl
    | split
    | dsimp only
    | intro _

theorem State.thaw_keeps (h_hif : m .hif = true) (h_link : m .link = true) (h_dev : m .dev = true) (h_dec : m .dec = true) (h_enc : m .enc = true) (h_cse : m .cse = true) (h_rgn : m .rgn = true) (h_rmem : m .rmem = true) (h_dis : m .dis = true) (h_syn : m .syn = true) (h_bpm : m .bpm = true) (h_tke : m .tke = true) (h_dmc : m .dmc = true) (h_dram : m .dram = true) (h_ras : m .ras = true) (h_out : m .out = true) (h_fresh : m .fresh = true) (s) (k : Keeps m s₀ s) :
    Keeps m s₀ (State.thaw s) := by
  unfold State.thaw
  repeat' with_reducible first
    | exact k
    | assumption
    | intro _ _ _
    | intro _ _
    | apply State.updDev_keeps h_dev
    | apply State.toWaitKey_keeps h_dec
    | apply State.updEnc_keeps h_enc
    | apply State.setAttn_keeps h_hif h_dev h_ras
    | apply State.drainRings_keeps h_hif h_link h_out
    | apply State.clipRoom_keeps h_link h_enc h_cse h_dis h_bpm h_dmc h_out
    | apply State.reportLtr_keeps h_link h_out
    | apply State.resumeAll_keeps h_hif h_link h_dec h_enc h_cse h_rgn h_rmem h_dis h_syn h_bpm h_tke h_dram h_out h_fresh
    | apply State.drainJobs_keeps h_cse h_dis
    | apply Keeps.ite
    | apply Keeps.foldl
    | split
    | dsimp only
    | intro _

theorem execReleaseFreeze_keeps (h_hif : m .hif = true) (h_link : m .link = true) (h_dev : m .dev = true) (h_dec : m .dec = true) (h_enc : m .enc = true) (h_cse : m .cse = true) (h_rgn : m .rgn = true) (h_rmem : m .rmem = true) (h_dis : m .dis = true) (h_syn : m .syn = true) (h_bpm : m .bpm = true) (h_tke : m .tke = true) (h_dmc : m .dmc = true) (h_dram : m .dram = true) (h_ras : m .ras = true) (h_out : m .out = true) (h_fresh : m .fresh = true) (a0) (s) (k : Keeps m s₀ s) :
    Keeps.out m s₀ (execReleaseFreeze a0 s) := by
  unfold execReleaseFreeze
  repeat' with_reducible first
    | exact k
    | assumption
    | intro _ _ _
    | intro _ _
    | apply Keeps.out_next
    | apply Keeps.out_fault
    | apply Keeps.out_ite
    | apply State.command_keeps h_hif h_link h_out
    | apply State.reply_keeps h_hif h_link h_out
    | apply State.thaw_keeps h_hif h_link h_dev h_dec h_enc h_cse h_rgn h_rmem h_dis h_syn h_bpm h_tke h_dmc h_dram h_ras h_out h_fresh
    | apply Keeps.ite
    | apply Keeps.foldl
    | split
    | dsimp only
    | intro _

theorem State.doCalibrate_keeps (h_hif : m .hif = true) (h_link : m .link = true) (h_cal : m .cal = true) (h_out : m .out = true) (a0) (s) (k : Keeps m s₀ s) :
    Keeps m s₀ (State.doCalibrate a0 s) := by
  unfold State.doCalibrate
  repeat' with_reducible first
    | exact k
    | assumption
    | intro _ _ _
    | intro _ _
    | apply State.reply_keeps h_hif h_link h_out
    | apply State.updCal_keeps h_cal
    | apply State.startCommand_keeps h_hif
    | apply Keeps.ite
    | apply Keeps.foldl
    | split
    | dsimp only
    | intro _

theorem execCalibrate_keeps (h_hif : m .hif = true) (h_link : m .link = true) (h_cal : m .cal = true) (h_out : m .out = true) (a0) (s) (k : Keeps m s₀ s) :
    Keeps.out m s₀ (execCalibrate a0 s) := by
  unfold execCalibrate
  repeat' with_reducible first
    | exact k
    | assumption
    | intro _ _ _
    | intro _ _
    | apply Keeps.out_next
    | apply Keeps.out_fault
    | apply Keeps.out_ite
    | apply State.command_keeps h_hif h_link h_out
    | apply State.doCalibrate_keeps h_hif h_link h_cal h_out
    | apply Keeps.ite
    | apply Keeps.foldl
    | split
    | dsimp only
    | intro _

theorem State.cartWrite_keeps (h_hif : m .hif = true) (h_link : m .link = true) (h_out : m .out = true) (a0) (a1) (a2) (s) (h2 : ∀ t, Keeps m s₀ t → Keeps m s₀ (a2 t)) (k : Keeps m s₀ s) :
    Keeps m s₀ (State.cartWrite a0 a1 a2 s) := by
  unfold State.cartWrite
  repeat' with_reducible first
    | exact k
    | assumption
    | intro _ _ _
    | intro _ _
    | apply h2
    | apply State.command_keeps h_hif h_link h_out
    | apply State.reply_keeps h_hif h_link h_out
    | apply Keeps.ite
    | apply Keeps.foldl
    | split
    | dsimp only
    | intro _

theorem execFlush_keeps (h_hif : m .hif = true) (h_link : m .link = true) (h_crt : m .crt = true) (h_out : m .out = true) (a0) (s) (k : Keeps m s₀ s) :
    Keeps.out m s₀ (execFlush a0 s) := by
  unfold execFlush
  repeat' with_reducible first
    | exact k
    | assumption
    | intro _ _ _
    | intro _ _
    | apply Keeps.out_next
    | apply Keeps.out_fault
    | apply Keeps.out_ite
    | apply State.cartWrite_keeps h_hif h_link h_out
    | apply State.flushRecords_keeps h_crt
    | apply State.startCommand_keeps h_hif
    | apply Keeps.ite
    | apply Keeps.foldl
    | split
    | dsimp only
    | intro _

theorem execDiscardAdapter_keeps (h_hif : m .hif = true) (h_link : m .link = true) (h_crt : m .crt = true) (h_out : m .out = true) (a0) (s) (k : Keeps m s₀ s) :
    Keeps.out m s₀ (execDiscardAdapter a0 s) := by
  unfold execDiscardAdapter
  repeat' with_reducible first
    | exact k
    | assumption
    | intro _ _ _
    | intro _ _
    | apply Keeps.out_next
    | apply Keeps.out_fault
    | apply Keeps.out_ite
    | apply State.cartWrite_keeps h_hif h_link h_out
    | apply State.updCrt_keeps h_crt
    | apply State.kickWrite_keeps h_crt
    | apply State.reply_keeps h_hif h_link h_out
    | apply State.pendRecord_keeps h_crt
    | apply State.startCommand_keeps h_hif
    | apply Keeps.ite
    | apply Keeps.foldl
    | split
    | dsimp only
    | intro _

theorem execPrepareRemoval_keeps (h_hif : m .hif = true) (h_link : m .link = true) (h_crt : m .crt = true) (h_out : m .out = true) (a0) (s) (k : Keeps m s₀ s) :
    Keeps.out m s₀ (execPrepareRemoval a0 s) := by
  unfold execPrepareRemoval
  repeat' with_reducible first
    | exact k
    | assumption
    | intro _ _ _
    | intro _ _
    | apply Keeps.out_next
    | apply Keeps.out_fault
    | apply Keeps.out_ite
    | apply State.cartWrite_keeps h_hif h_link h_out
    | apply State.flushRecords_keeps h_crt
    | apply State.startCommand_keeps h_hif
    | apply Keeps.ite
    | apply Keeps.foldl
    | split
    | dsimp only
    | intro _

end Sys2Proof.Machine
end

