-- ==== Sys2Proof/Laws/KeepsMotion.lean ====
section
/-! SUPPORT. What each operation of Machine/Motion.lean keeps. -/

set_option Elab.async false
set_option linter.all false

namespace Sys2Proof.Machine

variable {m : Part → Bool} {s₀ : State}

theorem State.scaleDone_keeps (h_enc : m .enc = true) (h_dis : m .dis = true) (h_bpm : m .bpm = true) (h_out : m .out = true) (a0) (s) (k : Keeps m s₀ s) :
    Keeps m s₀ (State.scaleDone a0 s) := by
  unfold State.scaleDone
  repeat' with_reducible first
    | exact k
    | assumption
    | intro _ _ _
    | intro _ _
    | apply State.updSess_keeps h_enc
    | apply State.freeBuf_keeps h_dis h_bpm h_out
    | apply Keeps.ite
    | apply Keeps.foldl
    | split
    | dsimp only
    | intro _

theorem State.scaleNext_keeps (h_hif : m .hif = true) (h_link : m .link = true) (h_dev : m .dev = true) (h_enc : m .enc = true) (h_cse : m .cse = true) (h_dis : m .dis = true) (h_bpm : m .bpm = true) (h_ras : m .ras = true) (h_out : m .out = true) (a0) (s) (k : Keeps m s₀ s) :
    Keeps m s₀ (State.scaleNext a0 s) := by
  unfold State.scaleNext
  repeat' with_reducible first
    | exact k
    | assumption
    | intro _ _ _
    | intro _ _
    | apply State.updSess_keeps h_enc
    | apply State.submitJob_keeps h_cse h_dis
    | apply State.shareBuf_keeps h_hif h_link h_dev h_dis h_bpm h_ras h_out
    | apply State.take_keeps h_bpm _ _ _ (by assumption)
    | apply Keeps.ite
    | apply Keeps.foldl
    | split
    | dsimp only
    | intro _
  rename_i e
  obtain ⟨_, _, hp⟩ := Option.bind_eq_some_iff.mp e
  exact State.take_keeps h_bpm _ _ _ hp k

end Sys2Proof.Machine
end

