-- ==== Sys2Proof/Laws/KeepsClips.lean ====
section
/-! SUPPORT. What each operation of Machine/Clips.lean keeps. -/

set_option Elab.async false
set_option linter.all false

namespace Sys2Proof.Machine

variable {m : Part → Bool} {s₀ : State}

theorem State.doClipStart_keeps (h_hif : m .hif = true) (h_link : m .link = true) (h_enc : m .enc = true) (h_cse : m .cse = true) (h_dis : m .dis = true) (h_bpm : m .bpm = true) (h_out : m .out = true) (a0) (s) (k : Keeps m s₀ s) :
    Keeps m s₀ (State.doClipStart a0 s) := by
  unfold State.doClipStart
  repeat' with_reducible first
    | exact k
    | assumption
    | intro _ _ _
    | intro _ _
    | apply State.reply_keeps h_hif h_link h_out
    | apply State.takeSession_keeps h_link h_enc h_cse h_dis h_bpm h_out _ _ _ _ _ _ _ _ (by assumption)
    | apply Keeps.ite
    | apply Keeps.foldl
    | split
    | dsimp only
    | intro _

theorem execClipStart_keeps (h_hif : m .hif = true) (h_link : m .link = true) (h_enc : m .enc = true) (h_cse : m .cse = true) (h_dis : m .dis = true) (h_bpm : m .bpm = true) (h_out : m .out = true) (a0) (s) (k : Keeps m s₀ s) :
    Keeps.out m s₀ (execClipStart a0 s) := by
  unfold execClipStart
  repeat' with_reducible first
    | exact k
    | assumption
    | intro _ _ _
    | intro _ _
    | apply Keeps.out_next
    | apply Keeps.out_fault
    | apply Keeps.out_ite
    | apply State.command_keeps h_hif h_link h_out
    | apply State.doClipStart_keeps h_hif h_link h_enc h_cse h_dis h_bpm h_out
    | apply Keeps.ite
    | apply Keeps.foldl
    | split
    | dsimp only
    | intro _

theorem execClipStop_keeps (h_aon : m .aon = true) (h_wires : m .wires = true) (h_hif : m .hif = true) (h_wins : m .wins = true) (h_link : m .link = true) (h_dev : m .dev = true) (h_crt : m .crt = true) (h_cal : m .cal = true) (h_adm : m .adm = true) (h_dec : m .dec = true) (h_enc : m .enc = true) (h_cse : m .cse = true) (h_rgn : m .rgn = true) (h_rmem : m .rmem = true) (h_dis : m .dis = true) (h_syn : m .syn = true) (h_bpm : m .bpm = true) (h_tke : m .tke = true) (h_dmc : m .dmc = true) (h_dram : m .dram = true) (h_pwr : m .pwr = true) (h_clk : m .clk = true) (h_ras : m .ras = true) (h_trc : m .trc = true) (h_rst : m .rst = true) (h_dbg : m .dbg = true) (h_out : m .out = true) (h_fresh : m .fresh = true) (a0) (s) (k : Keeps m s₀ s) :
    Keeps.out m s₀ (execClipStop a0 s) := by
  unfold execClipStop
  repeat' with_reducible first
    | exact k
    | assumption
    | intro _ _ _
    | intro _ _
    | apply Keeps.out_next
    | apply Keeps.out_fault
    | apply Keeps.out_ite
    | apply State.rest_keeps h_aon h_wires h_hif h_wins h_link h_dev h_crt h_cal h_adm h_dec h_enc h_cse h_rgn h_rmem h_dis h_syn h_bpm h_tke h_dmc h_dram h_pwr h_clk h_ras h_trc h_rst h_dbg h_out h_fresh
    | apply State.command_keeps h_hif h_link h_out
    | apply State.reply_keeps h_hif h_link h_out
    | apply State.endSession_keeps h_link h_enc h_cse h_dis h_bpm h_out
    | apply Keeps.ite
    | apply Keeps.foldl
    | split
    | dsimp only
    | intro _

theorem execKeyPicture_keeps (h_hif : m .hif = true) (h_link : m .link = true) (h_enc : m .enc = true) (h_out : m .out = true) (a0) (s) (k : Keeps m s₀ s) :
    Keeps.out m s₀ (execKeyPicture a0 s) := by
  unfold execKeyPicture
  repeat' with_reducible first
    | exact k
    | assumption
    | intro _ _ _
    | intro _ _
    | apply Keeps.out_next
    | apply Keeps.out_fault
    | apply Keeps.out_ite
    | apply State.command_keeps h_hif h_link h_out
    | apply State.reply_keeps h_hif h_link h_out
    | apply State.updSess_keeps h_enc
    | apply Keeps.ite
    | apply Keeps.foldl
    | split
    | dsimp only
    | intro _

theorem State.holdPic_keeps (h_hif : m .hif = true) (h_link : m .link = true) (h_dev : m .dev = true) (h_dec : m .dec = true) (h_dis : m .dis = true) (h_bpm : m .bpm = true) (h_ras : m .ras = true) (h_out : m .out = true) (a0) (a1) (s) (k : Keeps m s₀ s) :
    Keeps m s₀ (State.holdPic a0 a1 s) := by
  unfold State.holdPic
  repeat' with_reducible first
    | exact k
    | assumption
    | intro _ _ _
    | intro _ _
    | apply State.shareBuf_keeps h_hif h_link h_dev h_dis h_bpm h_ras h_out
    | apply State.updSdec_keeps h_dec
    | apply State.releaseBuf_keeps h_dis h_bpm h_out
    | apply Keeps.ite
    | apply Keeps.foldl
    | split
    | dsimp only
    | intro _

theorem State.offerTo_keeps (h_hif : m .hif = true) (h_link : m .link = true) (h_dev : m .dev = true) (h_enc : m .enc = true) (h_cse : m .cse = true) (h_dis : m .dis = true) (h_bpm : m .bpm = true) (h_ras : m .ras = true) (h_out : m .out = true) (a0) (a1) (s) (k : Keeps m s₀ s) :
    Keeps m s₀ (State.offerTo a0 a1 s) := by
  unfold State.offerTo
  repeat' with_reducible first
    | exact k
    | assumption
    | intro _ _ _
    | intro _ _
    | apply State.endSession_keeps h_link h_enc h_cse h_dis h_bpm h_out
    | apply State.updProg_keeps h_enc
    | apply State.scaleNext_keeps h_hif h_link h_dev h_enc h_cse h_dis h_bpm h_ras h_out
    | apply State.updSess_keeps h_enc
    | apply Keeps.ite
    | apply Keeps.foldl
    | split
    | dsimp only
    | intro _

theorem State.offer_keeps (h_hif : m .hif = true) (h_link : m .link = true) (h_dev : m .dev = true) (h_dec : m .dec = true) (h_enc : m .enc = true) (h_cse : m .cse = true) (h_dis : m .dis = true) (h_bpm : m .bpm = true) (h_ras : m .ras = true) (h_out : m .out = true) (a0) (a1) (s) (k : Keeps m s₀ s) :
    Keeps m s₀ (State.offer a0 a1 s) := by
  unfold State.offer
  repeat' with_reducible first
    | exact k
    | assumption
    | intro _ _ _
    | intro _ _
    | apply State.holdPic_keeps h_hif h_link h_dev h_dec h_dis h_bpm h_ras h_out
    | apply State.offerTo_keeps h_hif h_link h_dev h_enc h_cse h_dis h_bpm h_ras h_out
    | apply Keeps.ite
    | apply Keeps.foldl
    | split
    | dsimp only
    | intro _

theorem State.scaleReady_keeps (h_hif : m .hif = true) (h_link : m .link = true) (h_dev : m .dev = true) (h_enc : m .enc = true) (h_cse : m .cse = true) (h_dis : m .dis = true) (h_bpm : m .bpm = true) (h_ras : m .ras = true) (h_out : m .out = true) (a0) (s) (k : Keeps m s₀ s) :
    Keeps m s₀ (State.scaleReady a0 s) := by
  unfold State.scaleReady
  repeat' with_reducible first
    | exact k
    | assumption
    | intro _ _ _
    | intro _ _
    | apply State.scaleNext_keeps h_hif h_link h_dev h_enc h_cse h_dis h_bpm h_ras h_out
    | apply Keeps.ite
    | apply Keeps.foldl
    | split
    | dsimp only
    | intro _

theorem State.beginEncode_keeps (h_hif : m .hif = true) (h_link : m .link = true) (h_dev : m .dev = true) (h_enc : m .enc = true) (h_dis : m .dis = true) (h_bpm : m .bpm = true) (h_ras : m .ras = true) (h_out : m .out = true) (a0) (a1) (s) (k : Keeps m s₀ s) :
    Keeps m s₀ (State.beginEncode a0 a1 s) := by
  unfold State.beginEncode
  repeat' with_reducible first
    | exact k
    | assumption
    | intro _ _ _
    | intro _ _
    | apply State.updSess_keeps h_enc
    | apply State.shareBuf_keeps h_hif h_link h_dev h_dis h_bpm h_ras h_out
    | apply State.updProg_keeps h_enc
    | apply State.updEeng_keeps h_enc
    | apply Keeps.ite
    | apply Keeps.foldl
    | split
    | dsimp only
    | intro _

theorem execEncodeStart_keeps (h_hif : m .hif = true) (h_link : m .link = true) (h_dev : m .dev = true) (h_enc : m .enc = true) (h_cse : m .cse = true) (h_dis : m .dis = true) (h_bpm : m .bpm = true) (h_ras : m .ras = true) (h_out : m .out = true) (a0) (s) (k : Keeps m s₀ s) :
    Keeps.out m s₀ (execEncodeStart a0 s) := by
  unfold execEncodeStart
  repeat' with_reducible first
    | exact k
    | assumption
    | intro _ _ _
    | intro _ _
    | apply Keeps.out_next
    | apply Keeps.out_fault
    | apply Keeps.out_ite
    | apply State.scaleReady_keeps h_hif h_link h_dev h_enc h_cse h_dis h_bpm h_ras h_out
    | apply State.beginEncode_keeps h_hif h_link h_dev h_enc h_dis h_bpm h_ras h_out
    | apply Keeps.ite
    | apply Keeps.foldl
    | split
    | dsimp only
    | intro _

theorem State.holdClip_keeps (h_link : m .link = true) (h_enc : m .enc = true) (h_cse : m .cse = true) (h_dis : m .dis = true) (h_bpm : m .bpm = true) (h_dram : m .dram = true) (h_out : m .out = true) (a0) (a1) (a2) (s) (k : Keeps m s₀ s) :
    Keeps m s₀ (State.holdClip a0 a1 a2 s) := by
  unfold State.holdClip
  repeat' with_reducible first
    | exact k
    | assumption
    | intro _ _ _
    | intro _ _
    | apply State.updProg_keeps h_enc
    | apply State.dramPut_keeps h_dram
    | apply State.dropClip_keeps h_link h_enc h_cse h_dis h_bpm h_out
    | apply State.take_keeps h_bpm _ _ _ (by assumption)
    | apply Keeps.ite
    | apply Keeps.foldl
    | split
    | dsimp only
    | intro _
  all_goals
    rename_i e
    obtain ⟨_, _, hp⟩ := Option.bind_eq_some_iff.mp e
    exact State.take_keeps h_bpm _ _ _ hp k

theorem State.finishEncode_keeps (h_link : m .link = true) (h_enc : m .enc = true) (h_cse : m .cse = true) (h_dis : m .dis = true) (h_bpm : m .bpm = true) (h_dmc : m .dmc = true) (h_dram : m .dram = true) (h_out : m .out = true) (a0) (a1) (a2) (s) (k : Keeps m s₀ s) :
    Keeps m s₀ (State.finishEncode a0 a1 a2 s) := by
  unfold State.finishEncode
  repeat' with_reducible first
    | exact k
    | assumption
    | intro _ _ _
    | intro _ _
    | apply State.updProg_keeps h_enc
    | apply State.updSess_keeps h_enc
    | apply State.dropSource_keeps h_cse h_dis h_bpm h_out
    | apply State.tryEnd_keeps h_link h_enc h_cse h_dis h_bpm h_out
    | apply State.endSession_keeps h_link h_enc h_cse h_dis h_bpm h_out
    | apply State.wrote_keeps h_link h_enc h_cse h_dis h_bpm h_dmc h_out
    | apply State.holdClip_keeps h_link h_enc h_cse h_dis h_bpm h_dram h_out
    | apply Keeps.ite
    | apply Keeps.foldl
    | split
    | dsimp only
    | intro _

theorem execEncodeDone_keeps (h_aon : m .aon = true) (h_wires : m .wires = true) (h_hif : m .hif = true) (h_wins : m .wins = true) (h_link : m .link = true) (h_dev : m .dev = true) (h_crt : m .crt = true) (h_cal : m .cal = true) (h_adm : m .adm = true) (h_dec : m .dec = true) (h_enc : m .enc = true) (h_cse : m .cse = true) (h_rgn : m .rgn = true) (h_rmem : m .rmem = true) (h_dis : m .dis = true) (h_syn : m .syn = true) (h_bpm : m .bpm = true) (h_tke : m .tke = true) (h_dmc : m .dmc = true) (h_dram : m .dram = true) (h_pwr : m .pwr = true) (h_clk : m .clk = true) (h_ras : m .ras = true) (h_trc : m .trc = true) (h_rst : m .rst = true) (h_dbg : m .dbg = true) (h_out : m .out = true) (h_fresh : m .fresh = true) (a0) (a1) (s) (k : Keeps m s₀ s) :
    Keeps.out m s₀ (execEncodeDone a0 a1 s) := by
  unfold execEncodeDone
  repeat' with_reducible first
    | exact k
    | assumption
    | intro _ _ _
    | intro _ _
    | apply Keeps.out_next
    | apply Keeps.out_fault
    | apply Keeps.out_ite
    | apply State.rest_keeps h_aon h_wires h_hif h_wins h_link h_dev h_crt h_cal h_adm h_dec h_enc h_cse h_rgn h_rmem h_dis h_syn h_bpm h_tke h_dmc h_dram h_pwr h_clk h_ras h_trc h_rst h_dbg h_out h_fresh
    | apply State.updEeng_keeps h_enc
    | apply State.scaleNext_keeps h_hif h_link h_dev h_enc h_cse h_dis h_bpm h_ras h_out
    | apply State.dropClip_keeps h_link h_enc h_cse h_dis h_bpm h_out
    | apply State.dropSource_keeps h_cse h_dis h_bpm h_out
    | apply State.poolFault_keeps h_hif h_link h_dev h_enc h_cse h_rgn h_rmem h_dis h_syn h_bpm h_tke h_dram h_ras h_rst h_out h_fresh
    | apply State.finishEncode_keeps h_link h_enc h_cse h_dis h_bpm h_dmc h_dram h_out
    | apply Keeps.ite
    | apply Keeps.foldl
    | split
    | dsimp only
    | intro _

theorem execClipHoldExpiry_keeps (h_aon : m .aon = true) (h_wires : m .wires = true) (h_hif : m .hif = true) (h_wins : m .wins = true) (h_link : m .link = true) (h_dev : m .dev = true) (h_crt : m .crt = true) (h_cal : m .cal = true) (h_adm : m .adm = true) (h_dec : m .dec = true) (h_enc : m .enc = true) (h_cse : m .cse = true) (h_rgn : m .rgn = true) (h_rmem : m .rmem = true) (h_dis : m .dis = true) (h_syn : m .syn = true) (h_bpm : m .bpm = true) (h_tke : m .tke = true) (h_dmc : m .dmc = true) (h_dram : m .dram = true) (h_pwr : m .pwr = true) (h_clk : m .clk = true) (h_ras : m .ras = true) (h_trc : m .trc = true) (h_rst : m .rst = true) (h_dbg : m .dbg = true) (h_out : m .out = true) (h_fresh : m .fresh = true) (a0) (s) (k : Keeps m s₀ s) :
    Keeps.out m s₀ (execClipHoldExpiry a0 s) := by
  unfold execClipHoldExpiry
  repeat' with_reducible first
    | exact k
    | assumption
    | intro _ _ _
    | intro _ _
    | apply Keeps.out_next
    | apply Keeps.out_fault
    | apply Keeps.out_ite
    | apply State.rest_keeps h_aon h_wires h_hif h_wins h_link h_dev h_crt h_cal h_adm h_dec h_enc h_cse h_rgn h_rmem h_dis h_syn h_bpm h_tke h_dmc h_dram h_pwr h_clk h_ras h_trc h_rst h_dbg h_out h_fresh
    | apply State.dropClip_keeps h_link h_enc h_cse h_dis h_bpm h_out
    | apply State.waitUntil_keeps h_aon
    | apply Keeps.ite
    | apply Keeps.foldl
    | split
    | dsimp only
    | intro _

theorem State.getSess_keeps (h_hif : m .hif = true) (h_link : m .link = true) (h_dev : m .dev = true) (h_enc : m .enc = true) (h_cse : m .cse = true) (h_dis : m .dis = true) (h_bpm : m .bpm = true) (h_dmc : m .dmc = true) (h_ras : m .ras = true) (h_out : m .out = true) (a0) (a1) (s) (k : Keeps m s₀ s) :
    Keeps m s₀ (State.getSess a0 a1 s) := by
  unfold State.getSess
  repeat' with_reducible first
    | exact k
    | assumption
    | intro _ _ _
    | intro _ _
    | apply State.badRing_keeps h_hif h_link h_dev h_ras h_out
    | apply State.clipRoom_keeps h_link h_enc h_cse h_dis h_bpm h_dmc h_out
    | apply State.updSess_keeps h_enc
    | apply Keeps.ite
    | apply Keeps.foldl
    | split
    | dsimp only
    | intro _

theorem execEncSessGet_keeps (h_aon : m .aon = true) (h_wires : m .wires = true) (h_hif : m .hif = true) (h_wins : m .wins = true) (h_link : m .link = true) (h_dev : m .dev = true) (h_crt : m .crt = true) (h_cal : m .cal = true) (h_adm : m .adm = true) (h_dec : m .dec = true) (h_enc : m .enc = true) (h_cse : m .cse = true) (h_rgn : m .rgn = true) (h_rmem : m .rmem = true) (h_dis : m .dis = true) (h_syn : m .syn = true) (h_bpm : m .bpm = true) (h_tke : m .tke = true) (h_dmc : m .dmc = true) (h_dram : m .dram = true) (h_pwr : m .pwr = true) (h_clk : m .clk = true) (h_ras : m .ras = true) (h_trc : m .trc = true) (h_rst : m .rst = true) (h_dbg : m .dbg = true) (h_out : m .out = true) (h_fresh : m .fresh = true) (a0) (a1) (s) (k : Keeps m s₀ s) :
    Keeps.out m s₀ (execEncSessGet a0 a1 s) := by
  unfold execEncSessGet
  repeat' with_reducible first
    | exact k
    | assumption
    | intro _ _ _
    | intro _ _
    | apply Keeps.out_next
    | apply Keeps.out_fault
    | apply Keeps.out_ite
    | apply State.rest_keeps h_aon h_wires h_hif h_wins h_link h_dev h_crt h_cal h_adm h_dec h_enc h_cse h_rgn h_rmem h_dis h_syn h_bpm h_tke h_dmc h_dram h_pwr h_clk h_ras h_trc h_rst h_dbg h_out h_fresh
    | apply State.onMmio_keeps h_hif h_wins h_link h_dev h_dec h_enc h_cse h_rgn h_rmem h_dis h_syn h_bpm h_tke h_dmc h_dram h_pwr h_clk h_ras h_out h_fresh
    | apply State.getSess_keeps h_hif h_link h_dev h_enc h_cse h_dis h_bpm h_dmc h_ras h_out
    | apply Keeps.ite
    | apply Keeps.foldl
    | split
    | dsimp only
    | intro _

end Sys2Proof.Machine
end

