-- ==== Sys2Proof/Laws/KeepsCse.lean ====
section
/-! SUPPORT. What each operation of Machine/Cse.lean keeps. -/

set_option Elab.async false
set_option linter.all false

namespace Sys2Proof.Machine

variable {m : Part → Bool} {s₀ : State}

theorem State.writeJob_keeps (h_hif : m .hif = true) (h_link : m .link = true) (h_dev : m .dev = true) (h_enc : m .enc = true) (h_cse : m .cse = true) (h_rgn : m .rgn = true) (h_rmem : m .rmem = true) (h_dis : m .dis = true) (h_syn : m .syn = true) (h_bpm : m .bpm = true) (h_tke : m .tke = true) (h_dram : m .dram = true) (h_ras : m .ras = true) (h_rst : m .rst = true) (h_out : m .out = true) (h_fresh : m .fresh = true) (a0) (a1) (a2) (s) (k : Keeps m s₀ s) :
    Keeps m s₀ (State.writeJob a0 a1 a2 s) := by
  unfold State.writeJob
  repeat' with_reducible first
    | exact k
    | assumption
    | intro _ _ _
    | intro _ _
    | apply State.poolFault_keeps h_hif h_link h_dev h_enc h_cse h_rgn h_rmem h_dis h_syn h_bpm h_tke h_dram h_ras h_rst h_out h_fresh
    | apply State.dramPut_keeps h_dram
    | apply State.updCseEng_keeps h_cse
    | apply Keeps.ite
    | apply Keeps.foldl
    | split
    | dsimp only
    | intro _

theorem State.joinBatch_keeps (h_dis : m .dis = true) (a0) (a1) (a2) (s) (k : Keeps m s₀ s) :
    Keeps m s₀ (State.joinBatch a0 a1 a2 s) := by
  unfold State.joinBatch
  repeat' with_reducible first
    | exact k
    | assumption
    | intro _ _ _
    | intro _ _
    | apply State.updCtx_keeps h_dis
    | apply Keeps.ite
    | apply Keeps.foldl
    | split
    | dsimp only
    | intro _

theorem State.releaseJob_keeps (h_dis : m .dis = true) (h_bpm : m .bpm = true) (h_out : m .out = true) (a0) (a1) (s) (k : Keeps m s₀ s) :
    Keeps m s₀ (State.releaseJob a0 a1 s) := by
  unfold State.releaseJob
  repeat' with_reducible first
    | exact k
    | assumption
    | intro _ _ _
    | intro _ _
    | apply State.releaseBuf_keeps h_dis h_bpm h_out
    | apply Keeps.ite
    | apply Keeps.foldl
    | split
    | dsimp only
    | intro _

theorem State.detected_keeps (h_dis : m .dis = true) (h_bpm : m .bpm = true) (h_out : m .out = true) (a0) (a1) (s) (k : Keeps m s₀ s) :
    Keeps m s₀ (State.detected a0 a1 s) := by
  unfold State.detected
  repeat' with_reducible first
    | exact k
    | assumption
    | intro _ _ _
    | intro _ _
    | apply State.joinBatch_keeps h_dis
    | apply State.releaseJob_keeps h_dis h_bpm h_out
    | apply Keeps.ite
    | apply Keeps.foldl
    | split
    | dsimp only
    | intro _

theorem execCseJobDone_keeps (h_hif : m .hif = true) (h_link : m .link = true) (h_dev : m .dev = true) (h_dec : m .dec = true) (h_enc : m .enc = true) (h_cse : m .cse = true) (h_rgn : m .rgn = true) (h_rmem : m .rmem = true) (h_dis : m .dis = true) (h_syn : m .syn = true) (h_bpm : m .bpm = true) (h_tke : m .tke = true) (h_dmc : m .dmc = true) (h_dram : m .dram = true) (h_ras : m .ras = true) (h_rst : m .rst = true) (h_out : m .out = true) (h_fresh : m .fresh = true) (a0) (s) (k : Keeps m s₀ s) :
    Keeps.out m s₀ (execCseJobDone a0 s) := by
  unfold execCseJobDone
  repeat' with_reducible first
    | exact k
    | assumption
    | intro _ _ _
    | intro _ _
    | apply Keeps.out_next
    | apply Keeps.out_fault
    | apply Keeps.out_ite
    | apply State.poolFault_keeps h_hif h_link h_dev h_enc h_cse h_rgn h_rmem h_dis h_syn h_bpm h_tke h_dram h_ras h_rst h_out h_fresh
    | apply State.notePoison_keeps h_dmc
    | apply State.writeJob_keeps h_hif h_link h_dev h_enc h_cse h_rgn h_rmem h_dis h_syn h_bpm h_tke h_dram h_ras h_rst h_out h_fresh
    | apply State.updCseEng_keeps h_cse
    | apply State.send_keeps h_out
    | apply State.detected_keeps h_dis h_bpm h_out
    | apply State.scaleDone_keeps h_enc h_dis h_bpm h_out
    | apply State.releaseJob_keeps h_dis h_bpm h_out
    | apply State.signalAll_keeps h_rgn h_rmem h_dis h_syn h_out
    | apply State.startCseEng_keeps h_cse
    | apply State.resumeAll_keeps h_hif h_link h_dec h_enc h_cse h_rgn h_rmem h_dis h_syn h_bpm h_tke h_dram h_out h_fresh
    | apply State.drainJobs_keeps h_cse h_dis
    | apply Keeps.ite
    | apply Keeps.foldl
    | split
    | dsimp only
    | intro _

theorem execCseJobSubmit_keeps (h_cse : m .cse = true) (h_dis : m .dis = true) (a0) (a1) (s) (k : Keeps m s₀ s) :
    Keeps.out m s₀ (execCseJobSubmit a0 a1 s) := by
  unfold execCseJobSubmit
  repeat' with_reducible first
    | exact k
    | assumption
    | intro _ _ _
    | intro _ _
    | apply Keeps.out_next
    | apply Keeps.out_fault
    | apply Keeps.out_ite
    | apply State.submitJob_keeps h_cse h_dis
    | apply Keeps.ite
    | apply Keeps.foldl
    | split
    | dsimp only
    | intro _

end Sys2Proof.Machine
end

