-- ==== Sys2Proof/Laws/KeepsJtag.lean ====
section
/-! SUPPORT. What each operation of Machine/Jtag.lean keeps. -/

set_option Elab.async false
set_option linter.all false

namespace Sys2Proof.Machine

variable {m : Part → Bool} {s₀ : State}

theorem State.loadIr_keeps (h_jtag : m .jtag = true) (h_out : m .out = true) (a0) (a1) (s) (k : Keeps m s₀ s) :
    Keeps m s₀ (State.loadIr a0 a1 s) := by
  unfold State.loadIr
  repeat' with_reducible first
    | exact k
    | assumption
    | intro _ _ _
    | intro _ _
    | apply State.send_keeps h_out
    | apply State.updJtag_keeps h_jtag
    | apply Keeps.ite
    | apply Keeps.foldl
    | split
    | dsimp only
    | intro _

theorem execBypass_keeps (h_jtag : m .jtag = true) (h_out : m .out = true) (s) (k : Keeps m s₀ s) :
    Keeps.out m s₀ (execBypass s) := by
  unfold execBypass
  repeat' with_reducible first
    | exact k
    | assumption
    | intro _ _ _
    | intro _ _
    | apply Keeps.out_next
    | apply Keeps.out_fault
    | apply Keeps.out_ite
    | apply State.loadIr_keeps h_jtag h_out
    | apply Keeps.ite
    | apply Keeps.foldl
    | split
    | dsimp only
    | intro _

theorem execIdcode_keeps (h_jtag : m .jtag = true) (h_out : m .out = true) (s) (k : Keeps m s₀ s) :
    Keeps.out m s₀ (execIdcode s) := by
  unfold execIdcode
  repeat' with_reducible first
    | exact k
    | assumption
    | intro _ _ _
    | intro _ _
    | apply Keeps.out_next
    | apply Keeps.out_fault
    | apply Keeps.out_ite
    | apply State.loadIr_keeps h_jtag h_out
    | apply Keeps.ite
    | apply Keeps.foldl
    | split
    | dsimp only
    | intro _

theorem execSamplePreload_keeps (h_jtag : m .jtag = true) (h_out : m .out = true) (h_fresh : m .fresh = true) (s) (k : Keeps m s₀ s) :
    Keeps.out m s₀ (execSamplePreload s) := by
  unfold execSamplePreload
  repeat' with_reducible first
    | exact k
    | assumption
    | intro _ _ _
    | intro _ _
    | apply Keeps.out_next
    | apply Keeps.out_fault
    | apply Keeps.out_ite
    | apply State.loadIr_keeps h_jtag h_out
    | apply State.updJtag_keeps h_jtag
    | apply State.burn_keeps h_fresh
    | apply Keeps.ite
    | apply Keeps.foldl
    | split
    | dsimp only
    | intro _

theorem execExtest_keeps (h_jtag : m .jtag = true) (h_out : m .out = true) (s) (k : Keeps m s₀ s) :
    Keeps.out m s₀ (execExtest s) := by
  unfold execExtest
  repeat' with_reducible first
    | exact k
    | assumption
    | intro _ _ _
    | intro _ _
    | apply Keeps.out_next
    | apply Keeps.out_fault
    | apply Keeps.out_ite
    | apply State.loadIr_keeps h_jtag h_out
    | apply Keeps.ite
    | apply Keeps.foldl
    | split
    | dsimp only
    | intro _

theorem execClamp_keeps (h_jtag : m .jtag = true) (h_out : m .out = true) (s) (k : Keeps m s₀ s) :
    Keeps.out m s₀ (execClamp s) := by
  unfold execClamp
  repeat' with_reducible first
    | exact k
    | assumption
    | intro _ _ _
    | intro _ _
    | apply Keeps.out_next
    | apply Keeps.out_fault
    | apply Keeps.out_ite
    | apply State.loadIr_keeps h_jtag h_out
    | apply Keeps.ite
    | apply Keeps.foldl
    | split
    | dsimp only
    | intro _

theorem execHighz_keeps (h_jtag : m .jtag = true) (h_out : m .out = true) (s) (k : Keeps m s₀ s) :
    Keeps.out m s₀ (execHighz s) := by
  unfold execHighz
  repeat' with_reducible first
    | exact k
    | assumption
    | intro _ _ _
    | intro _ _
    | apply Keeps.out_next
    | apply Keeps.out_fault
    | apply Keeps.out_ite
    | apply State.loadIr_keeps h_jtag h_out
    | apply Keeps.ite
    | apply Keeps.foldl
    | split
    | dsimp only
    | intro _

theorem execTrstAssert_keeps (h_jtag : m .jtag = true) (s) (k : Keeps m s₀ s) :
    Keeps.out m s₀ (execTrstAssert s) := by
  unfold execTrstAssert
  repeat' with_reducible first
    | exact k
    | assumption
    | intro _ _ _
    | intro _ _
    | apply Keeps.out_next
    | apply Keeps.out_fault
    | apply Keeps.out_ite
    | apply State.updJtag_keeps h_jtag
    | apply Keeps.ite
    | apply Keeps.foldl
    | split
    | dsimp only
    | intro _

end Sys2Proof.Machine
end

