-- ==== Sys2Proof/Laws/KeepsMedia.lean ====
section
/-! SUPPORT. What each operation of Machine/Media.lean keeps. -/

set_option Elab.async false
set_option linter.all false

namespace Sys2Proof.Machine

variable {m : Part → Bool} {s₀ : State}

theorem State.conceal_keeps (h_hif : m .hif = true) (h_link : m .link = true) (h_dev : m .dev = true) (h_dec : m .dec = true) (h_ras : m .ras = true) (h_out : m .out = true) (a0) (a1) (s) (k : Keeps m s₀ s) :
    Keeps m s₀ (State.conceal a0 a1 s) := by
  unfold State.conceal
  repeat' with_reducible first
    | exact k
    | assumption
    | intro _ _ _
    | intro _ _
    | apply State.updSdec_keeps h_dec
    | apply State.updSlot_keeps h_dec
    | apply State.decAuEvent_keeps h_hif h_link h_dev h_dec h_ras h_out
    | apply Keeps.ite
    | apply Keeps.foldl
    | split
    | dsimp only
    | intro _

theorem State.undoAfter_keeps (h_dec : m .dec = true) (a0) (a1) (s) (k : Keeps m s₀ s) :
    Keeps m s₀ (State.undoAfter a0 a1 s) := by
  unfold State.undoAfter
  repeat' with_reducible first
    | exact k
    | assumption
    | intro _ _ _
    | intro _ _
    | apply State.updDeng_keeps h_dec
    | apply State.updSlot_keeps h_dec
    | apply State.updSdec_keeps h_dec
    | apply State.showParse_keeps h_dec
    | apply Keeps.ite
    | apply Keeps.foldl
    | split
    | dsimp only
    | intro _

theorem execPixelError_keeps (h_hif : m .hif = true) (h_link : m .link = true) (h_dev : m .dev = true) (h_dec : m .dec = true) (h_ras : m .ras = true) (h_out : m .out = true) (a0) (a1) (s) (k : Keeps m s₀ s) :
    Keeps.out m s₀ (execPixelError a0 a1 s) := by
  unfold execPixelError
  repeat' with_reducible first
    | exact k
    | assumption
    | intro _ _ _
    | intro _ _
    | apply Keeps.out_next
    | apply Keeps.out_fault
    | apply Keeps.out_ite
    | apply State.updDeng_keeps h_dec
    | apply State.undoAfter_keeps h_dec
    | apply State.decAuEvent_keeps h_hif h_link h_dev h_dec h_ras h_out
    | apply Keeps.ite
    | apply Keeps.foldl
    | split
    | dsimp only
    | intro _

theorem State.showStart_keeps (h_dec : m .dec = true) (a0) (a1) (s) (k : Keeps m s₀ s) :
    Keeps m s₀ (State.showStart a0 a1 s) := by
  unfold State.showStart
  repeat' with_reducible first
    | exact k
    | assumption
    | intro _ _ _
    | intro _ _
    | apply State.updSlot_keeps h_dec
    | apply State.updSdec_keeps h_dec
    | apply Keeps.ite
    | apply Keeps.foldl
    | split
    | dsimp only
    | intro _

theorem State.noteLoss_keeps (h_dec : m .dec = true) (a0) (s) (k : Keeps m s₀ s) :
    Keeps m s₀ (State.noteLoss a0 s) := by
  unfold State.noteLoss
  repeat' with_reducible first
    | exact k
    | assumption
    | intro _ _ _
    | intro _ _
    | apply State.updSdec_keeps h_dec
    | apply Keeps.ite
    | apply Keeps.foldl
    | split
    | dsimp only
    | intro _

theorem State.dropAu_keeps (h_dec : m .dec = true) (a0) (a1) (s) (k : Keeps m s₀ s) :
    Keeps m s₀ (State.dropAu a0 a1 s) := by
  unfold State.dropAu
  repeat' with_reducible first
    | exact k
    | assumption
    | intro _ _ _
    | intro _ _
    | apply State.auDone_keeps h_dec
    | apply State.countDrop_keeps h_dec
    | apply State.noteLoss_keeps h_dec
    | apply Keeps.ite
    | apply Keeps.foldl
    | split
    | dsimp only
    | intro _

theorem State.takeAu_keeps (h_hif : m .hif = true) (h_link : m .link = true) (h_dev : m .dev = true) (h_dec : m .dec = true) (h_dmc : m .dmc = true) (h_ras : m .ras = true) (h_out : m .out = true) (a0) (a1) (a2) (s) (k : Keeps m s₀ s) :
    Keeps m s₀ (State.takeAu a0 a1 a2 s) := by
  unfold State.takeAu
  repeat' with_reducible first
    | exact k
    | assumption
    | intro _ _ _
    | intro _ _
    | apply State.updSdec_keeps h_dec
    | apply State.decAuEvent_keeps h_hif h_link h_dev h_dec h_ras h_out
    | apply State.dropAu_keeps h_dec
    | apply State.noteRing_keeps h_dmc
    | apply State.updSlot_keeps h_dec
    | apply State.updDeng_keeps h_dec
    | apply Keeps.ite
    | apply Keeps.foldl
    | split
    | dsimp only
    | intro _

theorem execEntropyParse_keeps (h_hif : m .hif = true) (h_link : m .link = true) (h_dev : m .dev = true) (h_dec : m .dec = true) (h_dmc : m .dmc = true) (h_ras : m .ras = true) (h_out : m .out = true) (a0) (s) (k : Keeps m s₀ s) :
    Keeps.out m s₀ (execEntropyParse a0 s) := by
  unfold execEntropyParse
  repeat' with_reducible first
    | exact k
    | assumption
    | intro _ _ _
    | intro _ _
    | apply Keeps.out_next
    | apply Keeps.out_fault
    | apply Keeps.out_ite
    | apply State.updDeng_keeps h_dec
    | apply State.takeAu_keeps h_hif h_link h_dev h_dec h_dmc h_ras h_out
    | apply Keeps.ite
    | apply Keeps.foldl
    | split
    | dsimp only
    | intro _

theorem State.endParse_keeps (h_dec : m .dec = true) (a0) (a1) (a2) (s) (k : Keeps m s₀ s) :
    Keeps m s₀ (State.endParse a0 a1 a2 s) := by
  unfold State.endParse
  repeat' with_reducible first
    | exact k
    | assumption
    | intro _ _ _
    | intro _ _
    | apply State.updDeng_keeps h_dec
    | apply State.updSlot_keeps h_dec
    | apply Keeps.ite
    | apply Keeps.foldl
    | split
    | dsimp only
    | intro _

theorem State.letGo_keeps (h_hif : m .hif = true) (h_link : m .link = true) (h_dec : m .dec = true) (h_enc : m .enc = true) (h_cse : m .cse = true) (h_dis : m .dis = true) (h_bpm : m .bpm = true) (h_tke : m .tke = true) (h_dmc : m .dmc = true) (h_out : m .out = true) (a0) (s) (k : Keeps m s₀ s) :
    Keeps m s₀ (State.letGo a0 s) := by
  unfold State.letGo
  repeat' with_reducible first
    | exact k
    | assumption
    | intro _ _ _
    | intro _ _
    | apply State.updSdec_keeps h_dec
    | apply State.finishClose_keeps h_hif h_link h_dec h_enc h_cse h_dis h_bpm h_tke h_dmc h_out
    | apply Keeps.ite
    | apply Keeps.foldl
    | split
    | dsimp only
    | intro _

theorem State.dropParsed_keeps (h_hif : m .hif = true) (h_link : m .link = true) (h_dev : m .dev = true) (h_dec : m .dec = true) (h_ras : m .ras = true) (h_out : m .out = true) (a0) (a1) (a2) (a3) (a4) (a5) (s) (k : Keeps m s₀ s) :
    Keeps m s₀ (State.dropParsed a0 a1 a2 a3 a4 a5 s) := by
  unfold State.dropParsed
  repeat' with_reducible first
    | exact k
    | assumption
    | intro _ _ _
    | intro _ _
    | apply State.countDrop_keeps h_dec
    | apply State.noteLoss_keeps h_dec
    | apply State.updSdec_keeps h_dec
    | apply State.updDeng_keeps h_dec
    | apply State.auDone_keeps h_dec
    | apply State.decAuEvent_keeps h_hif h_link h_dev h_dec h_ras h_out
    | apply State.toWaitKey_keeps h_dec
    | apply Keeps.ite
    | apply Keeps.foldl
    | split
    | dsimp only
    | intro _

theorem State.addEntry_keeps (h_hif : m .hif = true) (h_link : m .link = true) (h_dev : m .dev = true) (h_dec : m .dec = true) (h_ras : m .ras = true) (h_out : m .out = true) (a0) (a1) (a2) (a3) (s) (k : Keeps m s₀ s) :
    Keeps m s₀ (State.addEntry a0 a1 a2 a3 s) := by
  unfold State.addEntry
  repeat' with_reducible first
    | exact k
    | assumption
    | intro _ _ _
    | intro _ _
    | apply State.updSdec_keeps h_dec
    | apply State.showStart_keeps h_dec
    | apply State.decAuEvent_keeps h_hif h_link h_dev h_dec h_ras h_out
    | apply State.toWaitKey_keeps h_dec
    | apply State.updDeng_keeps h_dec
    | apply Keeps.ite
    | apply Keeps.foldl
    | split
    | dsimp only
    | intro _

theorem execParseDone_keeps (h_aon : m .aon = true) (h_wires : m .wires = true) (h_hif : m .hif = true) (h_wins : m .wins = true) (h_link : m .link = true) (h_dev : m .dev = true) (h_crt : m .crt = true) (h_cal : m .cal = true) (h_adm : m .adm = true) (h_dec : m .dec = true) (h_enc : m .enc = true) (h_cse : m .cse = true) (h_rgn : m .rgn = true) (h_rmem : m .rmem = true) (h_dis : m .dis = true) (h_syn : m .syn = true) (h_bpm : m .bpm = true) (h_tke : m .tke = true) (h_dmc : m .dmc = true) (h_dram : m .dram = true) (h_pwr : m .pwr = true) (h_clk : m .clk = true) (h_ras : m .ras = true) (h_trc : m .trc = true) (h_rst : m .rst = true) (h_dbg : m .dbg = true) (h_out : m .out = true) (h_fresh : m .fresh = true) (a0) (a1) (s) (k : Keeps m s₀ s) :
    Keeps.out m s₀ (execParseDone a0 a1 s) := by
  unfold execParseDone
  repeat' with_reducible first
    | exact k
    | assumption
    | intro _ _ _
    | intro _ _
    | apply Keeps.out_next
    | apply Keeps.out_fault
    | apply Keeps.out_ite
    | apply State.endParse_keeps h_dec
    | apply State.afterClose_keeps h_aon h_wires h_hif h_wins h_link h_dev h_crt h_cal h_adm h_dec h_enc h_cse h_rgn h_rmem h_dis h_syn h_bpm h_tke h_dmc h_dram h_pwr h_clk h_ras h_trc h_rst h_dbg h_out h_fresh
    | apply State.letGo_keeps h_hif h_link h_dec h_enc h_cse h_dis h_bpm h_tke h_dmc h_out
    | apply State.dropParsed_keeps h_hif h_link h_dev h_dec h_ras h_out
    | apply State.startPix_keeps h_dec h_dis h_bpm h_out
    | apply State.addEntry_keeps h_hif h_link h_dev h_dec h_ras h_out
    | apply State.updDeng_keeps h_dec
    | apply Keeps.ite
    | apply Keeps.foldl
    | split
    | dsimp only
    | intro _

theorem State.detectJobs_keeps (h_hif : m .hif = true) (h_link : m .link = true) (h_dev : m .dev = true) (h_cse : m .cse = true) (h_dis : m .dis = true) (h_bpm : m .bpm = true) (h_ras : m .ras = true) (h_out : m .out = true) (a0) (a1) (a2) (s) (k : Keeps m s₀ s) :
    Keeps m s₀ (State.detectJobs a0 a1 a2 s) := by
  unfold State.detectJobs
  repeat' with_reducible first
    | exact k
    | assumption
    | intro _ _ _
    | intro _ _
    | apply State.submitJob_keeps h_cse h_dis
    | apply State.shareBuf_keeps h_hif h_link h_dev h_dis h_bpm h_ras h_out
    | apply Keeps.ite
    | apply Keeps.foldl
    | split
    | dsimp only
    | intro _

theorem State.releaseSlot_keeps (h_rgn : m .rgn = true) (h_rmem : m .rmem = true) (h_dis : m .dis = true) (h_syn : m .syn = true) (h_out : m .out = true) (a0) (s) (k : Keeps m s₀ s) :
    Keeps m s₀ (State.releaseSlot a0 s) := by
  unfold State.releaseSlot
  repeat' with_reducible first
    | exact k
    | assumption
    | intro _ _ _
    | intro _ _
    | apply State.judgeAll_keeps h_rgn h_rmem h_dis
    | apply State.releaseOn_keeps h_dis h_syn h_out
    | apply Keeps.ite
    | apply Keeps.foldl
    | split
    | dsimp only
    | intro _

theorem State.shareOut_keeps (h_hif : m .hif = true) (h_link : m .link = true) (h_dev : m .dev = true) (h_dec : m .dec = true) (h_enc : m .enc = true) (h_cse : m .cse = true) (h_rgn : m .rgn = true) (h_rmem : m .rmem = true) (h_dis : m .dis = true) (h_syn : m .syn = true) (h_bpm : m .bpm = true) (h_ras : m .ras = true) (h_out : m .out = true) (a0) (a1) (a2) (a3) (a4) (s) (k : Keeps m s₀ s) :
    Keeps m s₀ (State.shareOut a0 a1 a2 a3 a4 s) := by
  unfold State.shareOut
  repeat' with_reducible first
    | exact k
    | assumption
    | intro _ _ _
    | intro _ _
    | apply State.detectJobs_keeps h_hif h_link h_dev h_cse h_dis h_bpm h_ras h_out
    | apply State.shareBuf_keeps h_hif h_link h_dev h_dis h_bpm h_ras h_out
    | apply State.joinBatch_keeps h_dis
    | apply State.releaseSlot_keeps h_rgn h_rmem h_dis h_syn h_out
    | apply State.offer_keeps h_hif h_link h_dev h_dec h_enc h_cse h_dis h_bpm h_ras h_out
    | apply Keeps.ite
    | apply Keeps.foldl
    | split
    | dsimp only
    | intro _

theorem State.publish_keeps (h_hif : m .hif = true) (h_link : m .link = true) (h_dev : m .dev = true) (h_dec : m .dec = true) (h_enc : m .enc = true) (h_cse : m .cse = true) (h_rgn : m .rgn = true) (h_rmem : m .rmem = true) (h_dis : m .dis = true) (h_syn : m .syn = true) (h_bpm : m .bpm = true) (h_dram : m .dram = true) (h_ras : m .ras = true) (h_out : m .out = true) (a0) (a1) (a2) (a3) (s) (k : Keeps m s₀ s) :
    Keeps m s₀ (State.publish a0 a1 a2 a3 s) := by
  unfold State.publish
  repeat' with_reducible first
    | exact k
    | assumption
    | intro _ _ _
    | intro _ _
    | apply State.dramPut_keeps h_dram
    | apply State.updSdec_keeps h_dec
    | apply State.updSlot_keeps h_dec
    | apply State.shareOut_keeps h_hif h_link h_dev h_dec h_enc h_cse h_rgn h_rmem h_dis h_syn h_bpm h_ras h_out
    | apply Keeps.ite
    | apply Keeps.foldl
    | split
    | dsimp only
    | intro _

theorem State.afterCommit_keeps (h_aon : m .aon = true) (h_wires : m .wires = true) (h_hif : m .hif = true) (h_wins : m .wins = true) (h_link : m .link = true) (h_dev : m .dev = true) (h_crt : m .crt = true) (h_cal : m .cal = true) (h_adm : m .adm = true) (h_dec : m .dec = true) (h_enc : m .enc = true) (h_cse : m .cse = true) (h_rgn : m .rgn = true) (h_rmem : m .rmem = true) (h_dis : m .dis = true) (h_syn : m .syn = true) (h_bpm : m .bpm = true) (h_tke : m .tke = true) (h_dmc : m .dmc = true) (h_dram : m .dram = true) (h_pwr : m .pwr = true) (h_clk : m .clk = true) (h_ras : m .ras = true) (h_trc : m .trc = true) (h_rst : m .rst = true) (h_dbg : m .dbg = true) (h_out : m .out = true) (h_fresh : m .fresh = true) (a0) (a1) (s) (k : Keeps m s₀ s) :
    Keeps m s₀ (State.afterCommit a0 a1 s) := by
  unfold State.afterCommit
  repeat' with_reducible first
    | exact k
    | assumption
    | intro _ _ _
    | intro _ _
    | apply State.updDeng_keeps h_dec
    | apply State.emptyDpb_keeps h_dec h_dis h_bpm h_out
    | apply State.auDone_keeps h_dec
    | apply State.resumeAll_keeps h_hif h_link h_dec h_enc h_cse h_rgn h_rmem h_dis h_syn h_bpm h_tke h_dram h_out h_fresh
    | apply State.afterClose_keeps h_aon h_wires h_hif h_wins h_link h_dev h_crt h_cal h_adm h_dec h_enc h_cse h_rgn h_rmem h_dis h_syn h_bpm h_tke h_dmc h_dram h_pwr h_clk h_ras h_trc h_rst h_dbg h_out h_fresh
    | apply State.startPix_keeps h_dec h_dis h_bpm h_out
    | apply State.letGo_keeps h_hif h_link h_dec h_enc h_cse h_dis h_bpm h_tke h_dmc h_out
    | apply Keeps.ite
    | apply Keeps.foldl
    | split
    | dsimp only
    | intro _

theorem State.commitExisting_keeps (h_aon : m .aon = true) (h_wires : m .wires = true) (h_hif : m .hif = true) (h_wins : m .wins = true) (h_link : m .link = true) (h_dev : m .dev = true) (h_crt : m .crt = true) (h_cal : m .cal = true) (h_adm : m .adm = true) (h_dec : m .dec = true) (h_enc : m .enc = true) (h_cse : m .cse = true) (h_rgn : m .rgn = true) (h_rmem : m .rmem = true) (h_dis : m .dis = true) (h_syn : m .syn = true) (h_bpm : m .bpm = true) (h_tke : m .tke = true) (h_dmc : m .dmc = true) (h_dram : m .dram = true) (h_pwr : m .pwr = true) (h_clk : m .clk = true) (h_ras : m .ras = true) (h_trc : m .trc = true) (h_rst : m .rst = true) (h_dbg : m .dbg = true) (h_out : m .out = true) (h_fresh : m .fresh = true) (a0) (a1) (a2) (a3) (a4) (s) (k : Keeps m s₀ s) :
    Keeps m s₀ (State.commitExisting a0 a1 a2 a3 a4 s) := by
  unfold State.commitExisting
  repeat' with_reducible first
    | exact k
    | assumption
    | intro _ _ _
    | intro _ _
    | apply State.conceal_keeps h_hif h_link h_dev h_dec h_ras h_out
    | apply State.publish_keeps h_hif h_link h_dev h_dec h_enc h_cse h_rgn h_rmem h_dis h_syn h_bpm h_dram h_ras h_out
    | apply State.updSdec_keeps h_dec
    | apply State.afterCommit_keeps h_aon h_wires h_hif h_wins h_link h_dev h_crt h_cal h_adm h_dec h_enc h_cse h_rgn h_rmem h_dis h_syn h_bpm h_tke h_dmc h_dram h_pwr h_clk h_ras h_trc h_rst h_dbg h_out h_fresh
    | apply State.freeBuf_keeps h_dis h_bpm h_out
    | apply Keeps.ite
    | apply Keeps.foldl
    | split
    | dsimp only
    | intro _

theorem State.picBuffers_keeps (h_bpm : m .bpm = true) (a0) (a1) (s) {t : State} {x y : U32} (e : State.picBuffers a0 a1 s = some (x, y, t)) (k : Keeps m s₀ s) :
    Keeps m s₀ t := by
  revert e
  unfold State.picBuffers
  repeat' with_reducible first
    | exact k
    | assumption
    | intro _ _ _
    | intro _ _
    | (intro e; cases e)
    | apply State.take_keeps h_bpm _ _ _ (by assumption)
    | apply Keeps.ite
    | apply Keeps.foldl
    | split
    | dsimp only
    | intro _

theorem State.dramCopy_keeps (h_dmc : m .dmc = true) (h_dram : m .dram = true) (a0) (a1) (a2) (s) (k : Keeps m s₀ s) :
    Keeps m s₀ (State.dramCopy a0 a1 a2 s) := by
  unfold State.dramCopy
  repeat' with_reducible first
    | exact k
    | assumption
    | intro _ _ _
    | intro _ _
    | apply State.dramPut_keeps h_dram
    | apply State.notePoison_keeps h_dmc
    | apply State.updDram_keeps h_dram
    | apply Keeps.ite
    | apply Keeps.foldl
    | split
    | dsimp only
    | intro _
  rename_i h
  simp only [Dram.wf, Bool.and_eq_true] at h ⊢
  exact ⟨h.1, rising_foldl_insertN _ _ h.2⟩

theorem State.putPlane_keeps (h_dram : m .dram = true) (a0) (a1) (a2) (a3) (a4) (a5) (s) (k : Keeps m s₀ s) :
    Keeps m s₀ (State.putPlane a0 a1 a2 a3 a4 a5 s) := by
  induction a4 generalizing s a0 a5 with
  | zero => exact k
  | succ n ih =>
    simp only [State.putPlane]
    exact .ite k (ih _ _ _ (State.dramPut_keeps h_dram _ _ _ _ k))

theorem State.putPicture_keeps (h_dram : m .dram = true) (a0) (a1) (a2) (a3) (a4) (s) (k : Keeps m s₀ s) :
    Keeps m s₀ (State.putPicture a0 a1 a2 a3 a4 s) := by
  unfold State.putPicture
  repeat' with_reducible first
    | exact k
    | assumption
    | intro _ _ _
    | intro _ _
    | apply State.putPlane_keeps h_dram
    | apply Keeps.ite
    | apply Keeps.foldl
    | split
    | dsimp only
    | intro _

theorem State.writePicture_keeps (h_dmc : m .dmc = true) (h_dram : m .dram = true) (a0) (a1) (a2) (a3) (a4) (a5) (a6) (a7) (s) {t : State} {x : DpbPic} (e : State.writePicture a0 a1 a2 a3 a4 a5 a6 a7 s = (x, t)) (k : Keeps m s₀ s) :
    Keeps m s₀ t := by
  revert e
  unfold State.writePicture
  repeat' with_reducible first
    | exact k
    | assumption
    | intro _ _ _
    | intro _ _
    | (intro e; cases e)
    | apply State.dramPut_keeps h_dram
    | apply State.dramCopy_keeps h_dmc h_dram
    | apply State.putPicture_keeps h_dram
    | apply Keeps.ite
    | apply Keeps.foldl
    | split
    | dsimp only
    | intro _

theorem State.updateDpb_keeps (h_dec : m .dec = true) (h_dis : m .dis = true) (h_bpm : m .bpm = true) (h_out : m .out = true) (a0) (a1) (s) (k : Keeps m s₀ s) :
    Keeps m s₀ (State.updateDpb a0 a1 s) := by
  unfold State.updateDpb
  repeat' with_reducible first
    | exact k
    | assumption
    | intro _ _ _
    | intro _ _
    | apply State.updSdec_keeps h_dec
    | apply State.freeBuf_keeps h_dis h_bpm h_out
    | apply Keeps.ite
    | apply Keeps.foldl
    | split
    | dsimp only
    | intro _

theorem State.commitNew_keeps (h_aon : m .aon = true) (h_wires : m .wires = true) (h_hif : m .hif = true) (h_wins : m .wins = true) (h_link : m .link = true) (h_dev : m .dev = true) (h_crt : m .crt = true) (h_cal : m .cal = true) (h_adm : m .adm = true) (h_dec : m .dec = true) (h_enc : m .enc = true) (h_cse : m .cse = true) (h_rgn : m .rgn = true) (h_rmem : m .rmem = true) (h_dis : m .dis = true) (h_syn : m .syn = true) (h_bpm : m .bpm = true) (h_tke : m .tke = true) (h_dmc : m .dmc = true) (h_dram : m .dram = true) (h_pwr : m .pwr = true) (h_clk : m .clk = true) (h_ras : m .ras = true) (h_trc : m .trc = true) (h_rst : m .rst = true) (h_dbg : m .dbg = true) (h_out : m .out = true) (h_fresh : m .fresh = true) (a0) (a1) (a2) (a3) (s) (k : Keeps m s₀ s) :
    Keeps m s₀ (State.commitNew a0 a1 a2 a3 s) := by
  unfold State.commitNew
  repeat' with_reducible first
    | exact k
    | assumption
    | intro _ _ _
    | intro _ _
    | apply State.conceal_keeps h_hif h_link h_dev h_dec h_ras h_out
    | apply State.updSdec_keeps h_dec
    | apply State.publish_keeps h_hif h_link h_dev h_dec h_enc h_cse h_rgn h_rmem h_dis h_syn h_bpm h_dram h_ras h_out
    | apply State.afterCommit_keeps h_aon h_wires h_hif h_wins h_link h_dev h_crt h_cal h_adm h_dec h_enc h_cse h_rgn h_rmem h_dis h_syn h_bpm h_tke h_dmc h_dram h_pwr h_clk h_ras h_trc h_rst h_dbg h_out h_fresh
    | apply State.updateDpb_keeps h_dec h_dis h_bpm h_out
    | apply State.picBuffers_keeps h_bpm _ _ _ (by assumption)
    | apply State.writePicture_keeps h_dmc h_dram _ _ _ _ _ _ _ _ _ (by assumption)
    | apply Keeps.ite
    | apply Keeps.foldl
    | split
    | dsimp only
    | intro _
  all_goals exact State.writePicture_keeps h_dmc h_dram _ _ _ _ _ _ _ _ _ rfl (State.picBuffers_keeps h_bpm _ _ _ ‹_› k)

theorem execPictureCommit_keeps (h_aon : m .aon = true) (h_wires : m .wires = true) (h_hif : m .hif = true) (h_wins : m .wins = true) (h_link : m .link = true) (h_dev : m .dev = true) (h_crt : m .crt = true) (h_cal : m .cal = true) (h_adm : m .adm = true) (h_dec : m .dec = true) (h_enc : m .enc = true) (h_cse : m .cse = true) (h_rgn : m .rgn = true) (h_rmem : m .rmem = true) (h_dis : m .dis = true) (h_syn : m .syn = true) (h_bpm : m .bpm = true) (h_tke : m .tke = true) (h_dmc : m .dmc = true) (h_dram : m .dram = true) (h_pwr : m .pwr = true) (h_clk : m .clk = true) (h_ras : m .ras = true) (h_trc : m .trc = true) (h_rst : m .rst = true) (h_dbg : m .dbg = true) (h_out : m .out = true) (h_fresh : m .fresh = true) (a0) (a1) (s) (k : Keeps m s₀ s) :
    Keeps.out m s₀ (execPictureCommit a0 a1 s) := by
  unfold execPictureCommit
  repeat' with_reducible first
    | exact k
    | assumption
    | intro _ _ _
    | intro _ _
    | apply Keeps.out_next
    | apply Keeps.out_fault
    | apply Keeps.out_ite
    | apply State.commitExisting_keeps h_aon h_wires h_hif h_wins h_link h_dev h_crt h_cal h_adm h_dec h_enc h_cse h_rgn h_rmem h_dis h_syn h_bpm h_tke h_dmc h_dram h_pwr h_clk h_ras h_trc h_rst h_dbg h_out h_fresh
    | apply State.commitNew_keeps h_aon h_wires h_hif h_wins h_link h_dev h_crt h_cal h_adm h_dec h_enc h_cse h_rgn h_rmem h_dis h_syn h_bpm h_tke h_dmc h_dram h_pwr h_clk h_ras h_trc h_rst h_dbg h_out h_fresh
    | apply Keeps.ite
    | apply Keeps.foldl
    | split
    | dsimp only
    | intro _

end Sys2Proof.Machine
end

