-- ==== Sys2Proof/Laws/KeepsSmbus.lean ====
section
/-! SUPPORT. What each operation of Machine/Smbus.lean keeps. -/

set_option Elab.async false
set_option linter.all false

namespace Sys2Proof.Machine

variable {m : Part → Bool} {s₀ : State}

theorem State.smbusRead_keeps (h_out : m .out = true) (a0) (a1) (a2) (a3) (s) (k : Keeps m s₀ s) :
    Keeps m s₀ (State.smbusRead a0 a1 a2 a3 s) := by
  unfold State.smbusRead
  repeat' with_reducible first
    | exact k
    | assumption
    | intro _ _ _
    | intro _ _
    | apply State.send_keeps h_out
    | apply Keeps.ite
    | apply Keeps.foldl
    | split
    | dsimp only
    | intro _

theorem execSmbusDevState_keeps (h_out : m .out = true) (s) (k : Keeps m s₀ s) :
    Keeps.out m s₀ (execSmbusDevState s) := by
  unfold execSmbusDevState
  repeat' with_reducible first
    | exact k
    | assumption
    | intro _ _ _
    | intro _ _
    | apply Keeps.out_next
    | apply Keeps.out_fault
    | apply Keeps.out_ite
    | apply State.smbusRead_keeps h_out
    | apply Keeps.ite
    | apply Keeps.foldl
    | split
    | dsimp only
    | intro _

theorem execSmbusTj_keeps (h_out : m .out = true) (s) (k : Keeps m s₀ s) :
    Keeps.out m s₀ (execSmbusTj s) := by
  unfold execSmbusTj
  repeat' with_reducible first
    | exact k
    | assumption
    | intro _ _ _
    | intro _ _
    | apply Keeps.out_next
    | apply Keeps.out_fault
    | apply Keeps.out_ite
    | apply State.smbusRead_keeps h_out
    | apply Keeps.ite
    | apply Keeps.foldl
    | split
    | dsimp only
    | intro _

theorem execSmbusInputPower_keeps (h_out : m .out = true) (s) (k : Keeps m s₀ s) :
    Keeps.out m s₀ (execSmbusInputPower s) := by
  unfold execSmbusInputPower
  repeat' with_reducible first
    | exact k
    | assumption
    | intro _ _ _
    | intro _ _
    | apply Keeps.out_next
    | apply Keeps.out_fault
    | apply Keeps.out_ite
    | apply State.smbusRead_keeps h_out
    | apply Keeps.ite
    | apply Keeps.foldl
    | split
    | dsimp only
    | intro _

theorem execSmbusInputVolts_keeps (h_out : m .out = true) (s) (k : Keeps m s₀ s) :
    Keeps.out m s₀ (execSmbusInputVolts s) := by
  unfold execSmbusInputVolts
  repeat' with_reducible first
    | exact k
    | assumption
    | intro _ _ _
    | intro _ _
    | apply Keeps.out_next
    | apply Keeps.out_fault
    | apply Keeps.out_ite
    | apply State.smbusRead_keeps h_out
    | apply Keeps.ite
    | apply Keeps.foldl
    | split
    | dsimp only
    | intro _

theorem execSmbusPwcCause_keeps (h_out : m .out = true) (s) (k : Keeps m s₀ s) :
    Keeps.out m s₀ (execSmbusPwcCause s) := by
  unfold execSmbusPwcCause
  repeat' with_reducible first
    | exact k
    | assumption
    | intro _ _ _
    | intro _ _
    | apply Keeps.out_next
    | apply Keeps.out_fault
    | apply Keeps.out_ite
    | apply State.smbusRead_keeps h_out
    | apply Keeps.ite
    | apply Keeps.foldl
    | split
    | dsimp only
    | intro _

theorem execSmbusCartLife_keeps (h_out : m .out = true) (s) (k : Keeps m s₀ s) :
    Keeps.out m s₀ (execSmbusCartLife s) := by
  unfold execSmbusCartLife
  repeat' with_reducible first
    | exact k
    | assumption
    | intro _ _ _
    | intro _ _
    | apply Keeps.out_next
    | apply Keeps.out_fault
    | apply Keeps.out_ite
    | apply State.smbusRead_keeps h_out
    | apply Keeps.ite
    | apply Keeps.foldl
    | split
    | dsimp only
    | intro _

theorem execSmbusAttnPending_keeps (h_out : m .out = true) (s) (k : Keeps m s₀ s) :
    Keeps.out m s₀ (execSmbusAttnPending s) := by
  unfold execSmbusAttnPending
  repeat' with_reducible first
    | exact k
    | assumption
    | intro _ _ _
    | intro _ _
    | apply Keeps.out_next
    | apply Keeps.out_fault
    | apply Keeps.out_ite
    | apply State.smbusRead_keeps h_out
    | apply Keeps.ite
    | apply Keeps.foldl
    | split
    | dsimp only
    | intro _

theorem execSmbusPwcAck_keeps (h_aon : m .aon = true) (a0) (s) (k : Keeps m s₀ s) :
    Keeps.out m s₀ (execSmbusPwcAck a0 s) := by
  unfold execSmbusPwcAck
  repeat' with_reducible first
    | exact k
    | assumption
    | intro _ _ _
    | intro _ _
    | apply Keeps.out_next
    | apply Keeps.out_fault
    | apply Keeps.out_ite
    | apply State.updAon_keeps h_aon
    | apply Keeps.ite
    | apply Keeps.foldl
    | split
    | dsimp only
    | intro _

theorem execSmbusTimeout_keeps (s) (k : Keeps m s₀ s) :
    Keeps.out m s₀ (execSmbusTimeout s) := by
  unfold execSmbusTimeout
  repeat' with_reducible first
    | exact k
    | assumption
    | intro _ _ _
    | intro _ _
    | apply Keeps.out_next
    | apply Keeps.out_fault
    | apply Keeps.out_ite
    | apply Keeps.ite
    | apply Keeps.foldl
    | split
    | dsimp only
    | intro _

end Sys2Proof.Machine
end

