-- ==== Sys2Proof/Laws/KeepsTraining.lean ====
section
/-! SUPPORT. What each operation of Machine/Training.lean keeps. -/

set_option Elab.async false
set_option linter.all false

namespace Sys2Proof.Machine

variable {m : Part → Bool} {s₀ : State}

theorem State.startTraining_keeps (h_cal : m .cal = true) (s) (k : Keeps m s₀ s) :
    Keeps m s₀ (State.startTraining s) := by
  unfold State.startTraining
  repeat' with_reducible first
    | exact k
    | assumption
    | intro _ _ _
    | intro _ _
    | apply State.updCal_keeps h_cal
    | apply Keeps.ite
    | apply Keeps.foldl
    | split
    | dsimp only
    | intro _

end Sys2Proof.Machine
end

