-- ==== Sys2Proof/Laws/KeepsTracks.lean ====
section
/-! SUPPORT. What each operation of Machine/Tracks.lean keeps. -/

set_option Elab.async false
set_option linter.all false

namespace Sys2Proof.Machine

variable {m : Part → Bool} {s₀ : State}

theorem State.countAssoc_keeps (h_tke : m .tke = true) (a0) (a1) (s) (k : Keeps m s₀ s) :
    Keeps m s₀ (State.countAssoc a0 a1 s) := by
  unfold State.countAssoc
  repeat' with_reducible first
    | exact k
    | assumption
    | intro _ _ _
    | intro _ _
    | apply State.updTke_keeps h_tke
    | apply Keeps.ite
    | apply Keeps.foldl
    | split
    | dsimp only
    | intro _

theorem State.associate_keeps (h_dec : m .dec = true) (h_tke : m .tke = true) (a0) (a1) (s) (k : Keeps m s₀ s) :
    Keeps m s₀ (State.associate a0 a1 s) := by
  unfold State.associate
  repeat' with_reducible first
    | exact k
    | assumption
    | intro _ _ _
    | intro _ _
    | apply State.countAssoc_keeps h_tke
    | apply State.updSdec_keeps h_dec
    | apply State.updTke_keeps h_tke
    | apply Keeps.ite
    | apply Keeps.foldl
    | split
    | dsimp only
    | intro _

theorem execAssociation_keeps (h_hif : m .hif = true) (h_link : m .link = true) (h_dev : m .dev = true) (h_dec : m .dec = true) (h_enc : m .enc = true) (h_cse : m .cse = true) (h_rgn : m .rgn = true) (h_rmem : m .rmem = true) (h_dis : m .dis = true) (h_syn : m .syn = true) (h_bpm : m .bpm = true) (h_tke : m .tke = true) (h_dmc : m .dmc = true) (h_dram : m .dram = true) (h_ras : m .ras = true) (h_rst : m .rst = true) (h_out : m .out = true) (h_fresh : m .fresh = true) (a0) (a1) (s) (k : Keeps m s₀ s) :
    Keeps.out m s₀ (execAssociation a0 a1 s) := by
  unfold execAssociation
  repeat' with_reducible first
    | exact k
    | assumption
    | intro _ _ _
    | intro _ _
    | apply Keeps.out_next
    | apply Keeps.out_fault
    | apply Keeps.out_ite
    | apply State.updDis_keeps h_dis
    | apply State.notePoison_keeps h_dmc
    | apply State.poolFault_keeps h_hif h_link h_dev h_enc h_cse h_rgn h_rmem h_dis h_syn h_bpm h_tke h_dram h_ras h_rst h_out h_fresh
    | apply State.updTke_keeps h_tke
    | apply State.associate_keeps h_dec h_tke
    | apply Keeps.ite
    | apply Keeps.foldl
    | split
    | dsimp only
    | intro _

theorem State.setPredicted_keeps (h_tke : m .tke = true) (a0) (a1) (s) (k : Keeps m s₀ s) :
    Keeps m s₀ (State.setPredicted a0 a1 s) := by
  unfold State.setPredicted
  repeat' with_reducible first
    | exact k
    | assumption
    | intro _ _ _
    | intro _ _
    | apply State.updTrack_keeps h_tke
    | apply Keeps.ite
    | apply Keeps.foldl
    | split
    | dsimp only
    | intro _

theorem State.applyMatch_keeps (h_tke : m .tke = true) (h_dram : m .dram = true) (a0) (a1) (a2) (s) (k : Keeps m s₀ s) :
    Keeps m s₀ (State.applyMatch a0 a1 a2 s) := by
  unfold State.applyMatch
  repeat' with_reducible first
    | exact k
    | assumption
    | intro _ _ _
    | intro _ _
    | apply State.updTrack_keeps h_tke
    | apply State.putSide_keeps h_dram
    | apply State.updTvec_keeps h_tke
    | apply Keeps.ite
    | apply Keeps.foldl
    | split
    | dsimp only
    | intro _

theorem State.revive_keeps (h_hif : m .hif = true) (h_link : m .link = true) (h_tke : m .tke = true) (h_dram : m .dram = true) (h_out : m .out = true) (a0) (a1) (a2) (s) (k : Keeps m s₀ s) :
    Keeps m s₀ (State.revive a0 a1 a2 s) := by
  unfold State.revive
  repeat' with_reducible first
    | exact k
    | assumption
    | intro _ _ _
    | intro _ _
    | apply State.leaveZone_keeps h_tke
    | apply State.updTrack_keeps h_tke
    | apply State.applyMatch_keeps h_tke h_dram
    | apply State.trackState_keeps h_hif h_link h_out
    | apply Keeps.ite
    | apply Keeps.foldl
    | split
    | dsimp only
    | intro _

theorem State.setUpdate_keeps (h_tke : m .tke = true) (a0) (a1) (s) (k : Keeps m s₀ s) :
    Keeps m s₀ (State.setUpdate a0 a1 s) := by
  unfold State.setUpdate
  repeat' with_reducible first
    | exact k
    | assumption
    | intro _ _ _
    | intro _ _
    | apply State.updTrack_keeps h_tke
    | apply Keeps.ite
    | apply Keeps.foldl
    | split
    | dsimp only
    | intro _

theorem State.miss_keeps (h_hif : m .hif = true) (h_link : m .link = true) (h_dis : m .dis = true) (h_bpm : m .bpm = true) (h_tke : m .tke = true) (h_dmc : m .dmc = true) (h_out : m .out = true) (a0) (a1) (s) (k : Keeps m s₀ s) :
    Keeps m s₀ (State.miss a0 a1 s) := by
  unfold State.miss
  repeat' with_reducible first
    | exact k
    | assumption
    | intro _ _ _
    | intro _ _
    | apply State.updTrack_keeps h_tke
    | apply State.turnDormant_keeps h_hif h_link h_dis h_bpm h_tke h_dmc h_out
    | apply Keeps.ite
    | apply Keeps.foldl
    | split
    | dsimp only
    | intro _

theorem State.create_keeps (h_hif : m .hif = true) (h_link : m .link = true) (h_bpm : m .bpm = true) (h_tke : m .tke = true) (h_dram : m .dram = true) (h_out : m .out = true) (a0) (a1) (a2) (s) (k : Keeps m s₀ s) :
    Keeps m s₀ (State.create a0 a1 a2 s) := by
  unfold State.create
  repeat' with_reducible first
    | exact k
    | assumption
    | intro _ _ _
    | intro _ _
    | apply State.updTke_keeps h_tke
    | apply State.updTvec_keeps h_tke
    | apply State.updTrack_keeps h_tke
    | apply State.trackState_keeps h_hif h_link h_out
    | apply State.putSide_keeps h_dram
    | apply State.newTrack_keeps h_bpm h_tke _ (by assumption)
    | apply Keeps.ite
    | apply Keeps.foldl
    | split
    | dsimp only
    | intro _

theorem State.scatter_keeps (h_hif : m .hif = true) (h_link : m .link = true) (h_dis : m .dis = true) (h_bpm : m .bpm = true) (h_tke : m .tke = true) (h_dmc : m .dmc = true) (h_dram : m .dram = true) (h_out : m .out = true) (a0) (a1) (a2) (s) (k : Keeps m s₀ s) :
    Keeps m s₀ (State.scatter a0 a1 a2 s) := by
  unfold State.scatter
  repeat' with_reducible first
    | exact k
    | assumption
    | intro _ _ _
    | intro _ _
    | apply State.setPredicted_keeps h_tke
    | apply State.revive_keeps h_hif h_link h_tke h_dram h_out
    | apply State.applyMatch_keeps h_tke h_dram
    | apply State.setUpdate_keeps h_tke
    | apply State.miss_keeps h_hif h_link h_dis h_bpm h_tke h_dmc h_out
    | apply State.create_keeps h_hif h_link h_bpm h_tke h_dram h_out
    | apply Keeps.ite
    | apply Keeps.foldl
    | split
    | dsimp only
    | intro _

theorem State.postUpdate_keeps (h_hif : m .hif = true) (h_link : m .link = true) (h_out : m .out = true) (a0) (a1) (a2) (s) (k : Keeps m s₀ s) :
    Keeps m s₀ (State.postUpdate a0 a1 a2 s) := by
  unfold State.postUpdate
  repeat' with_reducible first
    | exact k
    | assumption
    | intro _ _ _
    | intro _ _
    | apply State.record_keeps h_hif h_link h_out
    | apply Keeps.ite
    | apply Keeps.foldl
    | split
    | dsimp only
    | intro _

theorem State.gather_keeps (h_cal : m .cal = true) (a0) (s) (k : Keeps m s₀ s) :
    Keeps m s₀ (State.gather a0 s) := by
  unfold State.gather
  repeat' with_reducible first
    | exact k
    | assumption
    | intro _ _ _
    | intro _ _
    | apply State.updCal_keeps h_cal
    | apply State.startTraining_keeps h_cal
    | apply Keeps.ite
    | apply Keeps.foldl
    | split
    | dsimp only
    | intro _

theorem execTrackerStepCommit_keeps (h_hif : m .hif = true) (h_link : m .link = true) (h_cal : m .cal = true) (h_dis : m .dis = true) (h_bpm : m .bpm = true) (h_tke : m .tke = true) (h_dmc : m .dmc = true) (h_dram : m .dram = true) (h_out : m .out = true) (a0) (a1) (s) (k : Keeps m s₀ s) :
    Keeps.out m s₀ (execTrackerStepCommit a0 a1 s) := by
  unfold execTrackerStepCommit
  repeat' with_reducible first
    | exact k
    | assumption
    | intro _ _ _
    | intro _ _
    | apply Keeps.out_next
    | apply Keeps.out_fault
    | apply Keeps.out_ite
    | apply State.updTke_keeps h_tke
    | apply State.scatter_keeps h_hif h_link h_dis h_bpm h_tke h_dmc h_dram h_out
    | apply State.postUpdate_keeps h_hif h_link h_out
    | apply State.gather_keeps h_cal
    | apply Keeps.ite
    | apply Keeps.foldl
    | split
    | dsimp only
    | intro _

theorem State.acceptHandoff_keeps (h_hif : m .hif = true) (h_link : m .link = true) (h_dis : m .dis = true) (h_bpm : m .bpm = true) (h_tke : m .tke = true) (h_dram : m .dram = true) (h_out : m .out = true) (a0) (s) (k : Keeps m s₀ s) :
    Keeps m s₀ (State.acceptHandoff a0 s) := by
  unfold State.acceptHandoff
  repeat' with_reducible first
    | exact k
    | assumption
    | intro _ _ _
    | intro _ _
    | apply State.updTke_keeps h_tke
    | apply State.updTvec_keeps h_tke
    | apply State.updTrack_keeps h_tke
    | apply State.joinZone_keeps h_hif h_link h_dis h_bpm h_tke h_out
    | apply State.trackState_keeps h_hif h_link h_out
    | apply State.putSide_keeps h_dram
    | apply State.newTrack_keeps h_bpm h_tke _ (by assumption)
    | apply Keeps.ite
    | apply Keeps.foldl
    | split
    | dsimp only
    | intro _

theorem execHandoffEntry_keeps (h_hif : m .hif = true) (h_link : m .link = true) (h_dis : m .dis = true) (h_bpm : m .bpm = true) (h_tke : m .tke = true) (h_dmc : m .dmc = true) (h_dram : m .dram = true) (h_out : m .out = true) (a0) (s) (k : Keeps m s₀ s) :
    Keeps.out m s₀ (execHandoffEntry a0 s) := by
  unfold execHandoffEntry
  repeat' with_reducible first
    | exact k
    | assumption
    | intro _ _ _
    | intro _ _
    | apply Keeps.out_next
    | apply Keeps.out_fault
    | apply Keeps.out_ite
    | apply State.notePoison_keeps h_dmc
    | apply State.updHif_keeps h_hif
    | apply State.updTke_keeps h_tke
    | apply State.acceptHandoff_keeps h_hif h_link h_dis h_bpm h_tke h_dram h_out
    | apply Keeps.ite
    | apply Keeps.foldl
    | split
    | dsimp only
    | intro _

theorem execDormancyExpiry_keeps (h_aon : m .aon = true) (h_hif : m .hif = true) (h_link : m .link = true) (h_dis : m .dis = true) (h_bpm : m .bpm = true) (h_tke : m .tke = true) (h_out : m .out = true) (a0) (s) (k : Keeps m s₀ s) :
    Keeps.out m s₀ (execDormancyExpiry a0 s) := by
  unfold execDormancyExpiry
  repeat' with_reducible first
    | exact k
    | assumption
    | intro _ _ _
    | intro _ _
    | apply Keeps.out_next
    | apply Keeps.out_fault
    | apply Keeps.out_ite
    | apply State.retire_keeps h_hif h_link h_dis h_bpm h_tke h_out
    | apply State.waitUntil_keeps h_aon
    | apply Keeps.ite
    | apply Keeps.foldl
    | split
    | dsimp only
    | intro _

theorem State.leaveBatch_keeps (h_hif : m .hif = true) (h_link : m .link = true) (h_dis : m .dis = true) (h_bpm : m .bpm = true) (h_tke : m .tke = true) (h_dram : m .dram = true) (h_out : m .out = true) (a0) (s) (k : Keeps m s₀ s) :
    Keeps m s₀ (State.leaveBatch a0 s) := by
  unfold State.leaveBatch
  repeat' with_reducible first
    | exact k
    | assumption
    | intro _ _ _
    | intro _ _
    | apply State.updTvec_keeps h_tke
    | apply State.freeBuf_keeps h_dis h_bpm h_out
    | apply State.updTrack_keeps h_tke
    | apply State.freeTrack_keeps h_hif h_link h_dis h_bpm h_tke h_out
    | apply State.putSide_keeps h_dram
    | apply Keeps.ite
    | apply Keeps.foldl
    | split
    | dsimp only
    | intro _

theorem State.takePages_keeps (h_bpm : m .bpm = true) (a0) (a1) (s) {t : State} {x : List U32} (e : State.takePages a0 a1 s = some (x, t)) (k : Keeps m s₀ s) :
    Keeps m s₀ t := by
  induction a1 generalizing s t x with
  | zero =>
    cases e
    exact k
  | succ n ih =>
    simp only [State.takePages] at e
    split at e
    · cases e
    · split at e
      · cases e
        exact ih _ ‹_› (State.take_keeps h_bpm _ _ _ ‹_› k)
      · cases e

theorem State.joins_keeps (h_bpm : m .bpm = true) (h_tke : m .tke = true) (h_dram : m .dram = true) (a0) (a1) (a2) (s) (k : Keeps m s₀ s) :
    Keeps m s₀ (State.joins a0 a1 a2 s) := by
  induction a2 generalizing s with
  | nil =>
    simp only [State.joins]
    repeat' with_reducible first
      | exact k
      | assumption
      | intro _ _ _
      | intro _ _
      | apply State.updTke_keeps h_tke
      | apply State.updTrack_keeps h_tke
      | apply State.putSide_keeps h_dram
      | apply State.updTvec_keeps h_tke
      | apply State.takePages_keeps h_bpm _ _ _ (by assumption)
      | apply Keeps.ite
      | apply Keeps.foldl
      | split
      | dsimp only
      | intro _
  | cons x r ih =>
    simp only [State.joins]
    repeat' with_reducible first
      | exact k
      | assumption
      | intro _ _ _
      | intro _ _
      | apply ih
      | apply State.updTke_keeps h_tke
      | apply State.updTrack_keeps h_tke
      | apply State.putSide_keeps h_dram
      | apply State.updTvec_keeps h_tke
      | apply State.takePages_keeps h_bpm _ _ _ (by assumption)
      | apply Keeps.ite
      | apply Keeps.foldl
      | split
      | dsimp only
      | intro _
    rename_i e
    split at e
    · exact State.takePages_keeps h_bpm _ _ _ e k
    · cases e

theorem State.runTick_keeps (h_hif : m .hif = true) (h_link : m .link = true) (h_enc : m .enc = true) (h_cse : m .cse = true) (h_dis : m .dis = true) (h_syn : m .syn = true) (h_bpm : m .bpm = true) (h_tke : m .tke = true) (h_dram : m .dram = true) (h_out : m .out = true) (h_fresh : m .fresh = true) (s) (k : Keeps m s₀ s) :
    Keeps m s₀ (State.runTick s) := by
  unfold State.runTick
  repeat' with_reducible first
    | exact k
    | assumption
    | intro _ _ _
    | intro _ _
    | apply State.updTke_keeps h_tke
    | apply State.updTrack_keeps h_tke
    | apply State.release_keeps h_dis h_syn h_out
    | apply State.tickRan_keeps h_hif h_link h_enc h_cse h_dis h_bpm h_tke h_dram h_out h_fresh
    | apply Keeps.ite
    | apply Keeps.foldl
    | split
    | dsimp only
    | intro _

theorem State.beginTick_keeps (h_aon : m .aon = true) (h_hif : m .hif = true) (h_link : m .link = true) (h_dec : m .dec = true) (h_enc : m .enc = true) (h_cse : m .cse = true) (h_rgn : m .rgn = true) (h_rmem : m .rmem = true) (h_dis : m .dis = true) (h_syn : m .syn = true) (h_bpm : m .bpm = true) (h_tke : m .tke = true) (h_dram : m .dram = true) (h_out : m .out = true) (h_fresh : m .fresh = true) (a0) (a1) (a2) (s) (k : Keeps m s₀ s) :
    Keeps m s₀ (State.beginTick a0 a1 a2 s) := by
  unfold State.beginTick
  repeat' with_reducible first
    | exact k
    | assumption
    | intro _ _ _
    | intro _ _
    | apply State.waitUntil_keeps h_aon
    | apply State.updTke_keeps h_tke
    | apply State.leaveBatch_keeps h_hif h_link h_dis h_bpm h_tke h_dram h_out
    | apply State.joins_keeps h_bpm h_tke h_dram
    | apply State.resumeAll_keeps h_hif h_link h_dec h_enc h_cse h_rgn h_rmem h_dis h_syn h_bpm h_tke h_dram h_out h_fresh
    | apply State.endTick_keeps h_hif h_link h_enc h_cse h_dis h_bpm h_tke h_out
    | apply State.runTick_keeps h_hif h_link h_enc h_cse h_dis h_syn h_bpm h_tke h_dram h_out h_fresh
    | apply Keeps.ite
    | apply Keeps.foldl
    | split
    | dsimp only
    | intro _

theorem execTickStart_keeps (h_aon : m .aon = true) (h_hif : m .hif = true) (h_link : m .link = true) (h_dec : m .dec = true) (h_enc : m .enc = true) (h_cse : m .cse = true) (h_rgn : m .rgn = true) (h_rmem : m .rmem = true) (h_dis : m .dis = true) (h_syn : m .syn = true) (h_bpm : m .bpm = true) (h_tke : m .tke = true) (h_dram : m .dram = true) (h_out : m .out = true) (h_fresh : m .fresh = true) (a0) (s) (k : Keeps m s₀ s) :
    Keeps.out m s₀ (execTickStart a0 s) := by
  unfold execTickStart
  repeat' with_reducible first
    | exact k
    | assumption
    | intro _ _ _
    | intro _ _
    | apply Keeps.out_next
    | apply Keeps.out_fault
    | apply Keeps.out_ite
    | apply State.beginTick_keeps h_aon h_hif h_link h_dec h_enc h_cse h_rgn h_rmem h_dis h_syn h_bpm h_tke h_dram h_out h_fresh
    | apply Keeps.ite
    | apply Keeps.foldl
    | split
    | dsimp only
    | intro _

end Sys2Proof.Machine
end

