-- ==== Sys2Proof/Laws/PerInstr.lean ====
section
/-! SUPPORT. One lemma per command about the commands as syntax: a command's well-formedness says exactly what its operands keep. -/

set_option Elab.async false

namespace Sys2Proof.Laws.WellFormed

/-- What the operands of a well-formed command keep: the length of a ring entry's arguments, the extent of DRAM and BAR accesses, the sides of the supply
thresholds, the number of sensors. -/
def Statement (i : Instr) : Prop :=
  i.wf = true → match i with
  | .hifCmdPut _ => True
  | .commandFetch => True
  | .queryDevice c => c.args.length ≤ 56
  | .queryAttention c => c.args.length ≤ 56
  | .queryRefusal c => c.args.length ≤ 56
  | .querySlot c => c.args.length ≤ 56
  | .queryTime c => c.args.length ≤ 56
  | .queryAdmission c => c.args.length ≤ 56
  | .unknownOpcode op c => (op = 0 ∨ 0x0D < op.toNat) ∧ c.args.length ≤ 56
  | .lostCommand _ => True
  | .streamOpen c => c.args.length ≤ 56
  | .streamClose c => c.args.length ≤ 56
  | .clipStart c => c.args.length ≤ 56
  | .clipStop c => c.args.length ≤ 56
  | .keyPicture c => c.args.length ≤ 56
  | .snapshot c => c.args.length ≤ 56
  | .dumpRead c => c.args.length ≤ 56
  | .setLatTol c => c.args.length ≤ 56
  | .resetReq c => c.args.length ≤ 56
  | .releaseFreeze c => c.args.length ≤ 56
  | .calibrate c => c.args.length ≤ 56
  | .flush c => c.args.length ≤ 56
  | .discardAdapter c => c.args.length ≤ 56
  | .prepareRemoval c => c.args.length ≤ 56
  | .decSlotPut _ _ => True
  | .pullFetch _ => True
  | .pullCompletion _ data _ => 1 ≤ data.length ∧ data.length ≤ 4096
  | .getMirror _ => True
  | .entropyParse _ => True
  | .parseDone _ _ => True
  | .pixelError _ _ => True
  | .pictureCommit _ _ => True
  | .decNoKey _ => True
  | .encodeStart _ => True
  | .encodeDone _ _ => True
  | .clipHoldExpiry _ => True
  | .encSessGet _ _ => True
  | .cseJobSubmit _ _ => True
  | .cseJobDone _ => True
  | .passCommit _ _ => True
  | .passAbort _ _ _ => True
  | .gauPassCommit _ => True
  | .vecDescriptorCommit _ _ => True
  | .fetch _ _ _ => True
  | .claim _ _ _ _ => True
  | .done _ _ _ _ => True
  | .stragglerCheck _ => True
  | .crustRowTransfer _ _ => True
  | .batchClose _ => True
  | .swapComplete _ _ => True
  | .synSignal _ _ => True
  | .synWait _ _ _ => True
  | .synReset _ _ => True
  | .alloc _ _ => True
  | .try_ _ _ => True
  | .share _ _ _ _ => True
  | .release _ _ => True
  | .free _ _ => True
  | .bufferAccess _ _ _ size natural write => size ≠ 0 ∧ natural ≠ 0 ∧ ∀ d, write = some d → d.length = size.toNat
  | .association _ _ => True
  | .trackerStepCommit _ _ => True
  | .handoffEntry _ => True
  | .dormancyExpiry _ => True
  | .tickStart _ => True
  | .hifRplGet _ => True
  | .hifMdGet _ _ => True
  | .hifHoPut _ _ => True
  | .hifRingCtl _ => True
  | .go => True
  | .windowCommitDrained => True
  | .hifAttn _ => True
  | .unsolicitedReply _ => True
  | .powerOff => True
  | .unpark => True
  | .rgnSlotMap _ _ _ => True
  | .gauTileMap _ _ _ => True
  | .trainingRun _ _ => True
  | .trainingRunDone _ _ _ => True
  | .hifTimeLo => True
  | .registerWrite offset _ _ _ => offset.toNat % 4 = 0 ∧ offset.toNat < 0x4000000
  | .bar0BadAccess _ offset size => 1 ≤ size ∧ (size ≠ 4 ∨ offset.toNat % 4 ≠ 0)
  | .bar2Write addr data _ => 1 ≤ data.length ∧ addr.toNat % 4096 + data.length ≤ 4096
  | .bar2Read addr size => 1 ≤ size ∧ addr.toNat % 4096 + size ≤ 4096
  | .bar2Resize log2 => 28 ≤ log2.val
  | .bar4Read _ size => 1 ≤ size ∧ size ≤ 4096
  | .bar4Write _ => True
  | .pmStateChange _ => True
  | .pmeTurnOff => True
  | .perstAssert => True
  | .perstDeassert _ => True
  | .hotReset => True
  | .linkDown => True
  | .linkRetrain width rate => width.val ∈ [1, 2, 4, 8, 16] ∧ rate.val ≠ 0
  | .completionTimeout _ => True
  | .lateCompletion _ => True
  | .tagQuarantineExpiry _ => True
  | .ptmDialogue => True
  | .ptmResponse _ => True
  | .ptmSyncLoss => True
  | .msixDelay _ => True
  | .headerCheck _ => True
  | .firmwareStart _ => True
  | .functionReady => True
  | .dramTrainingDone _ delays _ => ∀ d ∈ delays, d.1 < 24 ∧ d.2.1 < 16
  | .selfTestDone _ _ _ _ => True
  | .sectionsLoaded _ => True
  | .loaderCheck => True
  | .chrWatchdogExpiry => True
  | .bootWatchdogExpiry => True
  | .resetComplete _ => True
  | .resetOverrun _ => True
  | .cartRemoval => True
  | .cartInsertion _ => True
  | .cartInsertChr => True
  | .cartridgeWriteComplete _ _ => True
  | .lifeRecordTimer => True
  | .ageAccrual _ => True
  | .calTrainDone _ => True
  | .calTimeLimit => True
  | .dramRead addr size _ _ => 1 ≤ size ∧ addr.toNat % 64 + size ≤ 64
  | .dramWrite addr data _ _ _ => 1 ≤ data.length ∧ addr.toNat % 64 + data.length ≤ 64
  | .refresh _ _ => True
  | .mr4Poll _ _ => True
  | .patrolScrub _ _ _ => True
  | .wck2dqTrack _ _ => True
  | .dozeEntry => True
  | .napEntry => True
  | .slumberEntry => True
  | .regionNap _ => True
  | .wake _ => True
  | .wakeTimer => True
  | .wakeComplete => True
  | .dvfsCheck => True
  | .dvfsStepDone _ => True
  | .powerSample _ _ => True
  | .powerThrottleAttention _ => True
  | .supplyDip mv => mv.toNat < 10800
  | .supplyRecover mv => 11000 < mv.toNat
  | .supplyLow mv => mv.toNat < 9600
  | .vaux3Rise => True
  | .vaux3Fall => True
  | .vin12Rise _ => True
  | .packageReady => True
  | .thermalSample hub cd0 cd1 => hub.length = 12 ∧ cd0.length = 16 ∧ cd1.length = 16
  | .thermalStep => True
  | .treacleCheck => True
  | .snapPin => True
  | .crumbTimeout base => base.toNat % 4 = 0
  | .dumpComplete => True
  | .errorEvent _ => True
  | .attentionButton => True
  | .smbusDevState => True
  | .smbusTj => True
  | .smbusInputPower => True
  | .smbusInputVolts => True
  | .smbusPwcCause => True
  | .smbusCartLife => True
  | .smbusAttnPending => True
  | .smbusPwcAck _ => True
  | .smbusTimeout => True
  | .bypass => True
  | .idcode => True
  | .samplePreload => True
  | .extest => True
  | .clamp => True
  | .highz => True
  | .configurationRequest _ => True
  | .kclkLocked _ _ => True
  | .regionNapWake _ => True
  | .trstAssert => True

theorem hifCmdPut (v : U32) : Statement (.hifCmdPut v) := fun _ => trivial
theorem commandFetch : Statement (.commandFetch) := fun _ => trivial
theorem queryDevice (c : Cmd) : Statement (.queryDevice c) := by
  simp [Statement, Instr.wf, cmdOk]
theorem queryAttention (c : Cmd) : Statement (.queryAttention c) := by
  simp [Statement, Instr.wf, cmdOk]
theorem queryRefusal (c : Cmd) : Statement (.queryRefusal c) := by
  simp [Statement, Instr.wf, cmdOk]
theorem querySlot (c : Cmd) : Statement (.querySlot c) := by
  simp [Statement, Instr.wf, cmdOk]
theorem queryTime (c : Cmd) : Statement (.queryTime c) := by
  simp [Statement, Instr.wf, cmdOk]
theorem queryAdmission (c : Cmd) : Statement (.queryAdmission c) := by
  simp [Statement, Instr.wf, cmdOk]
theorem unknownOpcode (op : Byte) (c : Cmd) : Statement (.unknownOpcode op c) := by
  simp [Statement, Instr.wf, cmdOk]
theorem lostCommand (poisoned : Bool) : Statement (.lostCommand poisoned) := fun _ => trivial
theorem streamOpen (c : Cmd) : Statement (.streamOpen c) := by
  simp [Statement, Instr.wf, cmdOk]
theorem streamClose (c : Cmd) : Statement (.streamClose c) := by
  simp [Statement, Instr.wf, cmdOk]
theorem clipStart (c : Cmd) : Statement (.clipStart c) := by
  simp [Statement, Instr.wf, cmdOk]
theorem clipStop (c : Cmd) : Statement (.clipStop c) := by
  simp [Statement, Instr.wf, cmdOk]
theorem keyPicture (c : Cmd) : Statement (.keyPicture c) := by
  simp [Statement, Instr.wf, cmdOk]
theorem snapshot (c : Cmd) : Statement (.snapshot c) := by
  simp [Statement, Instr.wf, cmdOk]
theorem dumpRead (c : Cmd) : Statement (.dumpRead c) := by
  simp [Statement, Instr.wf, cmdOk]
theorem setLatTol (c : Cmd) : Statement (.setLatTol c) := by
  simp [Statement, Instr.wf, cmdOk]
theorem resetReq (c : Cmd) : Statement (.resetReq c) := by
  simp [Statement, Instr.wf, cmdOk]
theorem releaseFreeze (c : Cmd) : Statement (.releaseFreeze c) := by
  simp [Statement, Instr.wf, cmdOk]
theorem calibrate (c : Cmd) : Statement (.calibrate c) := by
  simp [Statement, Instr.wf, cmdOk]
theorem flush (c : Cmd) : Statement (.flush c) := by
  simp [Statement, Instr.wf, cmdOk]
theorem discardAdapter (c : Cmd) : Statement (.discardAdapter c) := by
  simp [Statement, Instr.wf, cmdOk]
theorem prepareRemoval (c : Cmd) : Statement (.prepareRemoval c) := by
  simp [Statement, Instr.wf, cmdOk]
theorem decSlotPut (slot : Fin 512) (v : U32) : Statement (.decSlotPut slot v) := fun _ => trivial
theorem pullFetch (slot : Fin 512) : Statement (.pullFetch slot) := fun _ => trivial
theorem pullCompletion (slot : Fin 512) (data : List Byte) (poisoned : Bool) : Statement (.pullCompletion slot data poisoned) := by
  simp [Statement, Instr.wf]
theorem getMirror (slot : Fin 512) : Statement (.getMirror slot) := fun _ => trivial
theorem entropyParse (e : Fin 9) : Statement (.entropyParse e) := fun _ => trivial
theorem parseDone (e : Fin 9) (info : PicInfo) : Statement (.parseDone e info) := fun _ => trivial
theorem pixelError (e : Fin 9) (poisonRead : Bool) : Statement (.pixelError e poisonRead) := fun _ => trivial
theorem pictureCommit (e : Fin 9) (d : PicData) : Statement (.pictureCommit e d) := fun _ => trivial
theorem decNoKey (slot : Fin 512) : Statement (.decNoKey slot) := fun _ => trivial
theorem encodeStart (e : Fin 5) : Statement (.encodeStart e) := fun _ => trivial
theorem encodeDone (e : Fin 5) (coded : Coded) : Statement (.encodeDone e coded) := fun _ => trivial
theorem clipHoldExpiry (n : Fin 64) : Statement (.clipHoldExpiry n) := fun _ => trivial
theorem encSessGet (n : Fin 64) (v : U32) : Statement (.encSessGet n v) := fun _ => trivial
theorem cseJobSubmit (e : Fin 4) (job : CseJob) : Statement (.cseJobSubmit e job) := fun _ => trivial
theorem cseJobDone (e : Fin 4) : Statement (.cseJobDone e) := fun _ => trivial
theorem passCommit (r : Fin 8) (core : Fin 18) : Statement (.passCommit r core) := fun _ => trivial
theorem passAbort (r : Fin 8) (u : PassUnit) (cause : AbortCause) : Statement (.passAbort r u cause) := fun _ => trivial
theorem gauPassCommit (r : Fin 8) : Statement (.gauPassCommit r) := fun _ => trivial
theorem vecDescriptorCommit (r : Fin 8) (core : Fin 18) : Statement (.vecDescriptorCommit r core) := fun _ => trivial
theorem fetch (r : Fin 8) (wc : Fin 64) (slot : Fin 16) : Statement (.fetch r wc slot) := fun _ => trivial
theorem claim (r : Fin 8) (wc : Fin 64) (slot : Fin 16) (tile : Fin 4096) : Statement (.claim r wc slot tile) := fun _ => trivial
theorem done (r : Fin 8) (wc : Fin 64) (slot : Fin 16) (tile : Fin 4096) : Statement (.done r wc slot tile) := fun _ => trivial
theorem stragglerCheck (r : Fin 8) : Statement (.stragglerCheck r) := fun _ => trivial
theorem crustRowTransfer (r : Fin 8) (slot : Fin 16) : Statement (.crustRowTransfer r slot) := fun _ => trivial
theorem batchClose (ctx : Fin 4096) : Statement (.batchClose ctx) := fun _ => trivial
theorem swapComplete (r : Fin 8) (gau : Bool) : Statement (.swapComplete r gau) := fun _ => trivial
theorem synSignal (obj : U16) (n : U32) : Statement (.synSignal obj n) := fun _ => trivial
theorem synWait (w : Waiter) (obj : U16) (v : U32) : Statement (.synWait w obj v) := fun _ => trivial
theorem synReset (obj : U16) (v : U32) : Statement (.synReset obj v) := fun _ => trivial
theorem alloc (req : U16) (pool : Fin 64) : Statement (.alloc req pool) := fun _ => trivial
theorem try_ (req : U16) (pool : Fin 64) : Statement (.try_ req pool) := fun _ => trivial
theorem share (req : U16) (h : U32) (holder : U16) (owner : U16) : Statement (.share req h holder owner) := fun _ => trivial
theorem release (req : U16) (h : U32) : Statement (.release req h) := fun _ => trivial
theorem free (req : U16) (h : U32) : Statement (.free req h) := fun _ => trivial
theorem bufferAccess (req : U16) (h : U32) (offset : U32) (size : U32) (natural : U32) (write : Option (List Byte)) : Statement (.bufferAccess req h offset size natural write) := by
  cases write <;> simp [Statement, Instr.wf, accessOk, and_assoc]
theorem association (pipe : Fin 4) (list : U64) : Statement (.association pipe list) := fun _ => trivial
theorem trackerStepCommit (slot : Fin 512) (updates : List KUpdate) : Statement (.trackerStepCommit slot updates) := fun _ => trivial
theorem handoffEntry (ring : Fin 4) : Statement (.handoffEntry ring) := fun _ => trivial
theorem dormancyExpiry (track : Fin 1048576) : Statement (.dormancyExpiry track) := fun _ => trivial
theorem tickStart (events : List EventOut) : Statement (.tickStart events) := fun _ => trivial
theorem hifRplGet (v : U32) : Statement (.hifRplGet v) := fun _ => trivial
theorem hifMdGet (ring : Fin 16) (v : U32) : Statement (.hifMdGet ring v) := fun _ => trivial
theorem hifHoPut (ring : Fin 4) (v : U32) : Statement (.hifHoPut ring v) := fun _ => trivial
theorem hifRingCtl (v : U32) : Statement (.hifRingCtl v) := fun _ => trivial
theorem go : Statement (.go) := fun _ => trivial
theorem windowCommitDrained : Statement (.windowCommitDrained) := fun _ => trivial
theorem hifAttn (v : U32) : Statement (.hifAttn v) := fun _ => trivial
theorem unsolicitedReply (cls : Fin 8) : Statement (.unsolicitedReply cls) := fun _ => trivial
theorem powerOff : Statement (.powerOff) := fun _ => trivial
theorem unpark : Statement (.unpark) := fun _ => trivial
theorem rgnSlotMap (r : Fin 8) (slot : Fin 16) (v : U32) : Statement (.rgnSlotMap r slot v) := fun _ => trivial
theorem gauTileMap (r : Fin 8) (tile : Fin 16) (v : U32) : Statement (.gauTileMap r tile v) := fun _ => trivial
theorem trainingRun (ch : Fin 24) (v : U32) : Statement (.trainingRun ch v) := fun _ => trivial
theorem trainingRunDone (ch : Fin 24) (failMask : U16) (errors : Nat) : Statement (.trainingRunDone ch failMask errors) := fun _ => trivial
theorem hifTimeLo : Statement (.hifTimeLo) := fun _ => trivial
theorem registerWrite (offset : U32) (v : U32) (byMgc : Bool) (poisoned : Bool) : Statement (.registerWrite offset v byMgc poisoned) := by
  simp [Statement, Instr.wf]
theorem bar0BadAccess (write : Bool) (offset : U32) (size : Nat) : Statement (.bar0BadAccess write offset size) := by
  simp [Statement, Instr.wf]
theorem bar2Write (addr : U64) (data : List Byte) (poisoned : Bool) : Statement (.bar2Write addr data poisoned) := by
  simp [Statement, Instr.wf, tlpOk]
theorem bar2Read (addr : U64) (size : Nat) : Statement (.bar2Read addr size) := by
  simp [Statement, Instr.wf, tlpOk]
theorem bar2Resize (log2 : Fin 37) : Statement (.bar2Resize log2) := by
  simp [Statement, Instr.wf]
theorem bar4Read (offset : U32) (size : Nat) : Statement (.bar4Read offset size) := by
  simp [Statement, Instr.wf]
theorem bar4Write (offset : U32) : Statement (.bar4Write offset) := fun _ => trivial
theorem pmStateChange (d3hot : Bool) : Statement (.pmStateChange d3hot) := fun _ => trivial
theorem pmeTurnOff : Statement (.pmeTurnOff) := fun _ => trivial
theorem perstAssert : Statement (.perstAssert) := fun _ => trivial
theorem perstDeassert (commonClock : Bool) : Statement (.perstDeassert commonClock) := fun _ => trivial
theorem hotReset : Statement (.hotReset) := fun _ => trivial
theorem linkDown : Statement (.linkDown) := fun _ => trivial
theorem linkRetrain (width : Fin 32) (rate : Fin 4) : Statement (.linkRetrain width rate) := by
  simp [Statement, Instr.wf]
theorem completionTimeout (tag : U16) : Statement (.completionTimeout tag) := fun _ => trivial
theorem lateCompletion (tag : U16) : Statement (.lateCompletion tag) := fun _ => trivial
theorem tagQuarantineExpiry (tag : U16) : Statement (.tagQuarantineExpiry tag) := fun _ => trivial
theorem ptmDialogue : Statement (.ptmDialogue) := fun _ => trivial
theorem ptmResponse (root : U64) : Statement (.ptmResponse root) := fun _ => trivial
theorem ptmSyncLoss : Statement (.ptmSyncLoss) := fun _ => trivial
theorem msixDelay (vector : Fin 18) : Statement (.msixDelay vector) := fun _ => trivial
theorem headerCheck (u) : Statement (.headerCheck u) := fun _ => trivial
theorem firmwareStart (hash : BitVec 384) : Statement (.firmwareStart hash) := fun _ => trivial
theorem functionReady : Statement (.functionReady) := fun _ => trivial
theorem dramTrainingDone (fail : BitVec 24) (delays : List (Nat × Nat × Byte × Byte)) (pprLeft : List (Nat × Nat)) : Statement (.dramTrainingDone fail delays pprLeft) := by
  simp [Statement, Instr.wf]
theorem selfTestDone (failed : List U16) (rows : List (U16 × U32)) (ms : U16) (trained : List (Fin 8 × Fin 17 × U32)) : Statement (.selfTestDone failed rows ms trained) := fun _ => trivial
theorem sectionsLoaded (hashes : List (BitVec 384)) : Statement (.sectionsLoaded hashes) := fun _ => trivial
theorem loaderCheck : Statement (.loaderCheck) := fun _ => trivial
theorem chrWatchdogExpiry : Statement (.chrWatchdogExpiry) := fun _ => trivial
theorem bootWatchdogExpiry : Statement (.bootWatchdogExpiry) := fun _ => trivial
theorem resetComplete (scope : ResetScope) : Statement (.resetComplete scope) := fun _ => trivial
theorem resetOverrun (scope : ResetScope) : Statement (.resetOverrun scope) := fun _ => trivial
theorem cartRemoval : Statement (.cartRemoval) := fun _ => trivial
theorem cartInsertion (c : Cartridge) : Statement (.cartInsertion c) := fun _ => trivial
theorem cartInsertChr : Statement (.cartInsertChr) := fun _ => trivial
theorem cartridgeWriteComplete (ok : Bool) (reclaim : Bool) : Statement (.cartridgeWriteComplete ok reclaim) := fun _ => trivial
theorem lifeRecordTimer : Statement (.lifeRecordTimer) := fun _ => trivial
theorem ageAccrual (t : Byte) : Statement (.ageAccrual t) := fun _ => trivial
theorem calTrainDone (res : CalResult) : Statement (.calTrainDone res) := fun _ => trivial
theorem calTimeLimit : Statement (.calTimeLimit) := fun _ => trivial
theorem dramRead (addr : U64) (size : Nat) (lo : HalfErr) (hi : HalfErr) : Statement (.dramRead addr size lo hi) := by
  simp [Statement, Instr.wf, blockOk]
theorem dramWrite (addr : U64) (data : List Byte) (poisoned : Bool) (lo : HalfErr) (hi : HalfErr) : Statement (.dramWrite addr data poisoned lo hi) := by
  simp [Statement, Instr.wf, blockOk]
theorem refresh (ch : Fin 24) (bank : Fin 16) : Statement (.refresh ch bank) := fun _ => trivial
theorem mr4Poll (pkg : Fin 6) (temp : Byte) : Statement (.mr4Poll pkg temp) := fun _ => trivial
theorem patrolScrub (ch : Fin 24) (lo : HalfErr) (hi : HalfErr) : Statement (.patrolScrub ch lo hi) := fun _ => trivial
theorem wck2dqTrack (ch : Fin 24) (delta : Byte) : Statement (.wck2dqTrack ch delta) := fun _ => trivial
theorem dozeEntry : Statement (.dozeEntry) := fun _ => trivial
theorem napEntry : Statement (.napEntry) := fun _ => trivial
theorem slumberEntry : Statement (.slumberEntry) := fun _ => trivial
theorem regionNap (r : Fin 8) : Statement (.regionNap r) := fun _ => trivial
theorem wake (c : WakeCause) : Statement (.wake c) := fun _ => trivial
theorem wakeTimer : Statement (.wakeTimer) := fun _ => trivial
theorem wakeComplete : Statement (.wakeComplete) := fun _ => trivial
theorem dvfsCheck : Statement (.dvfsCheck) := fun _ => trivial
theorem dvfsStepDone (r : Fin 8) : Statement (.dvfsStepDone r) := fun _ => trivial
theorem powerSample (mw : Nat) (mv : U16) : Statement (.powerSample mw mv) := fun _ => trivial
theorem powerThrottleAttention (r : Fin 8) : Statement (.powerThrottleAttention r) := fun _ => trivial
theorem supplyDip (mv : U16) : Statement (.supplyDip mv) := by
  simp [Statement, Instr.wf]
theorem supplyRecover (mv : U16) : Statement (.supplyRecover mv) := by
  simp [Statement, Instr.wf]
theorem supplyLow (mv : U16) : Statement (.supplyLow mv) := by
  simp [Statement, Instr.wf]
theorem vaux3Rise : Statement (.vaux3Rise) := fun _ => trivial
theorem vaux3Fall : Statement (.vaux3Fall) := fun _ => trivial
theorem vin12Rise (mv : U16) : Statement (.vin12Rise mv) := fun _ => trivial
theorem packageReady : Statement (.packageReady) := fun _ => trivial
theorem thermalSample (hub : List Byte) (cd0 : List Byte) (cd1 : List Byte) : Statement (.thermalSample hub cd0 cd1) := by
  intro h
  simpa [Instr.wf, and_assoc] using h
theorem thermalStep : Statement (.thermalStep) := fun _ => trivial
theorem treacleCheck : Statement (.treacleCheck) := fun _ => trivial
theorem snapPin : Statement (.snapPin) := fun _ => trivial
theorem crumbTimeout (base : U32) : Statement (.crumbTimeout base) := by
  simp [Statement, Instr.wf]
theorem dumpComplete : Statement (.dumpComplete) := fun _ => trivial
theorem errorEvent (e : ErrEvent) : Statement (.errorEvent e) := fun _ => trivial
theorem attentionButton : Statement (.attentionButton) := fun _ => trivial
theorem smbusDevState : Statement (.smbusDevState) := fun _ => trivial
theorem smbusTj : Statement (.smbusTj) := fun _ => trivial
theorem smbusInputPower : Statement (.smbusInputPower) := fun _ => trivial
theorem smbusInputVolts : Statement (.smbusInputVolts) := fun _ => trivial
theorem smbusPwcCause : Statement (.smbusPwcCause) := fun _ => trivial
theorem smbusCartLife : Statement (.smbusCartLife) := fun _ => trivial
theorem smbusAttnPending : Statement (.smbusAttnPending) := fun _ => trivial
theorem smbusPwcAck (v : SmbusWrite) : Statement (.smbusPwcAck v) := fun _ => trivial
theorem smbusTimeout : Statement (.smbusTimeout) := fun _ => trivial
theorem bypass : Statement (.bypass) := fun _ => trivial
theorem idcode : Statement (.idcode) := fun _ => trivial
theorem samplePreload : Statement (.samplePreload) := fun _ => trivial
theorem extest : Statement (.extest) := fun _ => trivial
theorem clamp : Statement (.clamp) := fun _ => trivial
theorem highz : Statement (.highz) := fun _ => trivial
theorem configurationRequest (q : CfgReq) : Statement (.configurationRequest q) := fun _ => trivial
theorem kclkLocked (addr0 : Bool) (addr1 : Bool) : Statement (.kclkLocked addr0 addr1) := fun _ => trivial
theorem regionNapWake (r : Fin 8) : Statement (.regionNapWake r) := fun _ => trivial
theorem trstAssert : Statement (.trstAssert) := fun _ => trivial

end Sys2Proof.Laws.WellFormed
end

