-- ==== Sys2Proof/Laws/Tables.lean ====
section
/-! SUPPORT. The entry that an update of a table sets, and the entries it leaves. -/

set_option Elab.async false

namespace Sys2Proof.Machine

@[simp] theorem State.updSlot_self (n) (f) (s : State) : (s.updSlot n f).slot n = f (s.slot n) := tget_tupd_self _ _ _ _
theorem State.updSlot_other {n k : Nat} (h : k ≠ n) (f) (s : State) : (s.updSlot n f).slot k = s.slot k := tget_tupd_ne _ _ _ h
@[simp] theorem State.updSdec_self (n) (f) (s : State) : (s.updSdec n f).sdec n = f (s.sdec n) := tget_tupd_self _ _ _ _
theorem State.updSdec_other {n k : Nat} (h : k ≠ n) (f) (s : State) : (s.updSdec n f).sdec k = s.sdec k := tget_tupd_ne _ _ _ h
@[simp] theorem State.updDeng_self (n) (f) (s : State) : (s.updDeng n f).deng n = f (s.deng n) := tget_tupd_self _ _ _ _
theorem State.updDeng_other {n k : Nat} (h : k ≠ n) (f) (s : State) : (s.updDeng n f).deng k = s.deng k := tget_tupd_ne _ _ _ h
@[simp] theorem State.updSess_self (n) (f) (s : State) : (s.updSess n f).sess n = f (s.sess n) := tget_tupd_self _ _ _ _
theorem State.updSess_other {n k : Nat} (h : k ≠ n) (f) (s : State) : (s.updSess n f).sess k = s.sess k := tget_tupd_ne _ _ _ h
@[simp] theorem State.updProg_self (n) (f) (s : State) : (s.updProg n f).prog n = f (s.prog n) := tget_tupd_self _ _ _ _
theorem State.updProg_other {n k : Nat} (h : k ≠ n) (f) (s : State) : (s.updProg n f).prog k = s.prog k := tget_tupd_ne _ _ _ h
@[simp] theorem State.updEeng_self (n) (f) (s : State) : (s.updEeng n f).eeng n = f (s.eeng n) := tget_tupd_self _ _ _ _
theorem State.updEeng_other {n k : Nat} (h : k ≠ n) (f) (s : State) : (s.updEeng n f).eeng k = s.eeng k := tget_tupd_ne _ _ _ h
@[simp] theorem State.updCseEng_self (n) (f) (s : State) : (s.updCseEng n f).cseEng n = f (s.cseEng n) := tget_tupd_self _ _ _ _
theorem State.updCseEng_other {n k : Nat} (h : k ≠ n) (f) (s : State) : (s.updCseEng n f).cseEng k = s.cseEng k := tget_tupd_ne _ _ _ h
@[simp] theorem State.updRegion_self (n) (f) (s : State) : (s.updRegion n f).region n = f (s.region n) := tget_tupd_self _ _ _ _
theorem State.updRegion_other {n k : Nat} (h : k ≠ n) (f) (s : State) : (s.updRegion n f).region k = s.region k := tget_tupd_ne _ _ _ h
@[simp] theorem State.updRegMem_self (n) (f) (s : State) : (s.updRegMem n f).regMem n = f (s.regMem n) := tget_tupd_self _ _ _ _
theorem State.updRegMem_other {n k : Nat} (h : k ≠ n) (f) (s : State) : (s.updRegMem n f).regMem k = s.regMem k := tget_tupd_ne _ _ _ h
@[simp] theorem State.updCtx_self (n) (f) (s : State) : (s.updCtx n f).ctx n = f (s.ctx n) := tget_tupd_self _ _ _ _
theorem State.updCtx_other {n k : Nat} (h : k ≠ n) (f) (s : State) : (s.updCtx n f).ctx k = s.ctx k := tget_tupd_ne _ _ _ h
@[simp] theorem State.updPool_self (n) (f) (s : State) : (s.updPool n f).pool n = f (s.pool n) := tget_tupd_self _ _ _ _
theorem State.updPool_other {n k : Nat} (h : k ≠ n) (f) (s : State) : (s.updPool n f).pool k = s.pool k := tget_tupd_ne _ _ _ h
@[simp] theorem State.updTrack_self (n) (f) (s : State) : (s.updTrack n f).track n = f (s.track n) := tget_tupd_self _ _ _ _
theorem State.updTrack_other {n k : Nat} (h : k ≠ n) (f) (s : State) : (s.updTrack n f).track k = s.track k := tget_tupd_ne _ _ _ h
@[simp] theorem State.updTvec_self (n) (f) (s : State) : (s.updTvec n f).tvec n = f (s.tvec n) := tget_tupd_self _ _ _ _
theorem State.updTvec_other {n k : Nat} (h : k ≠ n) (f) (s : State) : (s.updTvec n f).tvec k = s.tvec k := tget_tupd_ne _ _ _ h
@[simp] theorem State.updChan_self (n) (f) (s : State) : (s.updChan n f).chan n = f (s.chan n) := tget_tupd_self _ _ _ _
theorem State.updChan_other {n k : Nat} (h : k ≠ n) (f) (s : State) : (s.updChan n f).chan k = s.chan k := tget_tupd_ne _ _ _ h
@[simp] theorem State.updRegPwr_self (n) (f) (s : State) : (s.updRegPwr n f).regPwr n = f (s.regPwr n) := tget_tupd_self _ _ _ _
theorem State.updRegPwr_other {n k : Nat} (h : k ≠ n) (f) (s : State) : (s.updRegPwr n f).regPwr k = s.regPwr k := tget_tupd_ne _ _ _ h
@[simp] theorem State.updUnit_self (n) (f) (s : State) : (s.updUnit n f).unitRas n = f (s.unitRas n) := tget_tupd_self _ _ _ _
theorem State.updUnit_other {n k : Nat} (h : k ≠ n) (f) (s : State) : (s.updUnit n f).unitRas k = s.unitRas k := tget_tupd_ne _ _ _ h
@[simp] theorem State.updMd_self (n) (f) (s : State) : (s.updMd n f).mdRing n = f (s.mdRing n) := tget_tupd_self _ _ _ _
theorem State.updMd_other {n k : Nat} (h : k ≠ n) (f) (s : State) : (s.updMd n f).mdRing k = s.mdRing k := tget_tupd_ne _ _ _ h
@[simp] theorem State.updCore_self (r n) (f) (s : State) : (s.updCore r n f).core r n = f (s.core r n) := by
  simp [State.updCore, State.core]
theorem State.updCore_other {r n k : Nat} (h : k ≠ n) (f) (s : State) : (s.updCore r n f).core r k = s.core r k := by
  simp [State.updCore, State.core, tget_tupd_ne _ _ _ h]
@[simp] theorem State.updWc_self (r n) (f) (s : State) : (s.updWc r n f).wc r n = f (s.wc r n) := by
  simp [State.updWc, State.wc]
theorem State.updWc_other {r n k : Nat} (h : k ≠ n) (f) (s : State) : (s.updWc r n f).wc r k = s.wc r k := by
  simp [State.updWc, State.wc, tget_tupd_ne _ _ _ h]
@[simp] theorem State.updVec_self (r n) (f) (s : State) : (s.updVec r n f).vec r n = f (s.vec r n) := by
  simp [State.updVec, State.vec]
theorem State.updVec_other {r n k : Nat} (h : k ≠ n) (f) (s : State) : (s.updVec r n f).vec r k = s.vec r k := by
  simp [State.updVec, State.vec, tget_tupd_ne _ _ _ h]
@[simp] theorem State.updGau_self (r) (f) (s : State) : ((s.updGau r f).region r).gau = f (s.region r).gau := by
  simp [State.updGau]

end Sys2Proof.Machine
end

