-- ==== Sys2Proof/Tests/Slice0.lean ====
section
/-! SUPPORT. The model's own tests: an ill-formed command for each check of WellFormed, the spec's worked examples, and, for every statement
with hypotheses, concrete states and operands that meet them clause by clause. -/

set_option Elab.async false

namespace Sys2Proof.Test
open Sys2Proof Sys2Proof.Machine

/-! ### Ill-formed commands -/

/-- A ring entry with `n` bytes of arguments. -/
def longCmd (n : Nat) : Cmd := { tag := 1, args := List.replicate n 0 }

theorem test_wf_args : (Instr.queryDevice (longCmd 56)).wf = true ∧ (Instr.queryDevice (longCmd 57)).wf = false ∧
    (Instr.calibrate (longCmd 57)).wf = false := by decide
theorem test_wf_opcode : (Instr.unknownOpcode 0x0E (longCmd 0)).wf = true ∧ (Instr.unknownOpcode 0x0D (longCmd 0)).wf = false ∧
    (Instr.unknownOpcode 0x05 (longCmd 0)).wf = false := by decide
theorem test_wf_pull : (Instr.pullCompletion 0 [1] false).wf = true ∧ (Instr.pullCompletion 0 [] false).wf = false := by decide
theorem test_wf_buffer_access : (Instr.bufferAccess 0 0 0 4 4 (some [1, 2, 3, 4])).wf = true ∧
    (Instr.bufferAccess 0 0 0 4 4 (some [1])).wf = false ∧ (Instr.bufferAccess 0 0 0 0 4 none).wf = false ∧
    (Instr.bufferAccess 0 0 0 4 0 none).wf = false := by decide
theorem test_wf_register_write : (Instr.registerWrite 0x3FFFFFC 0 false false).wf = true ∧ (Instr.registerWrite 2 0 false false).wf = false ∧
    (Instr.registerWrite 0x4000000 0 false false).wf = false := by decide
theorem test_wf_bar0 : (Instr.bar0BadAccess false 2 4).wf = true ∧ (Instr.bar0BadAccess false 4 4).wf = false ∧
    (Instr.bar0BadAccess true 4 0).wf = false := by decide
theorem test_wf_bar2 : (Instr.bar2Read 4092 4).wf = true ∧ (Instr.bar2Read 4093 4).wf = false ∧ (Instr.bar2Write 0 [] false).wf = false := by decide
theorem test_wf_resize : (Instr.bar2Resize 36).wf = true ∧ (Instr.bar2Resize 27).wf = false := by decide
theorem test_wf_bar4 : (Instr.bar4Read 0 4096).wf = true ∧ (Instr.bar4Read 0 0).wf = false ∧ (Instr.bar4Read 0 4097).wf = false := by decide
theorem test_wf_retrain : (Instr.linkRetrain 16 3).wf = true ∧ (Instr.linkRetrain 3 3).wf = false ∧ (Instr.linkRetrain 16 0).wf = false := by decide
theorem test_wf_training : (Instr.dramTrainingDone 0 [(23, 15, 1, 1)] []).wf = true ∧ (Instr.dramTrainingDone 0 [(24, 0, 1, 1)] []).wf = false ∧
    (Instr.dramTrainingDone 0 [(0, 16, 1, 1)] []).wf = false := by decide
theorem test_wf_dram : (Instr.dramRead 60 4 .clean .clean).wf = true ∧ (Instr.dramRead 60 5 .clean .clean).wf = false ∧
    (Instr.dramRead 0 0 .clean .clean).wf = false ∧ (Instr.dramWrite 0 [] false .clean .clean).wf = false := by decide
theorem test_wf_supply : (Instr.supplyDip 10799).wf = true ∧ (Instr.supplyDip 10800).wf = false ∧ (Instr.supplyRecover 11001).wf = true ∧
    (Instr.supplyRecover 11000).wf = false ∧ (Instr.supplyLow 9599).wf = true ∧ (Instr.supplyLow 9600).wf = false := by decide
theorem test_wf_sensors : (Instr.thermalSample (List.replicate 12 50) (List.replicate 16 50) (List.replicate 16 50)).wf = true ∧
    (Instr.thermalSample (List.replicate 11 50) (List.replicate 16 50) (List.replicate 16 50)).wf = false ∧
    (Instr.thermalSample (List.replicate 12 50) [] (List.replicate 16 50)).wf = false ∧
    (Instr.thermalSample (List.replicate 12 50) (List.replicate 16 50) []).wf = false := by decide
theorem test_wf_crumb : (Instr.crumbTimeout 0x100000).wf = true ∧ (Instr.crumbTimeout 0x100001).wf = false := by decide

/-! ### Worked examples of the spec -/

/-- R327: address 0x3_2000 with 24 channels, and with channel 7 retired. -/
theorem test_r327_interleave : interleave 12 24 0x32000 = (4, 8192) ∧ bankRow 8192 = (4, 0) ∧ interleave 12 23 0x32000 = (6, 8192) ∧
    deinterleave 12 24 4 8192 = 0x32000 ∧ deinterleave 12 23 6 8192 = 0x32000 := by decide

theorem test_r327_retired : ({ State.reset with dmc := { chans := [(7, { retired := true })] } } : State).placeOf 0x32000 =
    { chan := 6, off := 8192, bank := 4, row := 0 } := by decide

/-- The parameter set of R203's example. -/
def rq203 : RqSet := { invOs := 0x41800000, asStat := 0x2400, zpOut := -10, lo := -10, hi := 127, outFmt := 0, asMode := 0 }

/-- R203: ws = 1.25 × 2^−10, as = 2^−6; the three channels of the example. -/
theorem test_r203_requant : requant rq203 29143 (-4567) 0x1500 0x2400 = ([0xFE], false) ∧ requant rq203 12759 (-4567) 0x1500 0x2400 = ([0xF8], false) ∧
    requant rq203 (-195433) (-4567) 0x1500 0x2400 = ([0xF6], false) := by decide

/-- R208: y = 1,000 × 2^−14 corrected by −3.140625 × 0.625 is −1.90185546875. -/
theorem test_r208_correction : fma32 0xC0490000 0x3F200000 0x3D7A0000 = 0xBFF37000 := by decide

/-- R189: the INT4 code 0b1011 weighs −5, and the escape code counts as 0 (R153). -/
theorem test_r189_weight : weightValue 4 0b1011 = -5 ∧ weightValue 4 0b1000 = 0 ∧ weightValue 1 1 = -1 := by decide

/-- R239: the taps that stripe 0, a stripe in the middle and stripe 15 skip. -/
theorem test_r239_skips :
    let w : WinParam := { WinParam.parse [] with kh := 3, kw := 3, sh := 1, sw := 1, dh := 1, dw := 1, padT := 1, padL := 1, inH := 96, inW := 160, col0 := 0 }
    w.skips 0 160 = 3 ∧ w.skips 95 160 = 3 := by decide

/-- SHA-384 of "abc", the example of FIPS 180-4. -/
theorem test_sha384_abc : unle (sha384 [0x61, 0x62, 0x63]).reverse =
    0xCB00753F45A35E8BB5A03D699AC65007272C32AB0EDED1631A8B605A43FF5BED8086072BA1E7CC2358BAECA134C825A7 := by decide

/-! ### Small states

A cartridge of one stream slot, one DETECT plan and one EVENT plan, and the states that the witnesses below start from. -/

def one32 : U32 := 0x3F800000

def tVec : VecDesc :=
  { op := 1, flags := 0, ta := 0, tb := 0xF, td := 0, ndim := 1, after := 0, a := 0, b := 0, d := 4096, m := 0, p := 0, imm := 0, counts := [31, 0, 0, 0, 0], zero := 0
    tile := 0, strideA := [1, 0, 0, 0, 0], strideB := [0, 0, 0, 0, 0], strideD := [1, 0, 0, 0, 0], strideM := [0, 0, 0, 0, 0] }

def tBuf (space : Byte) (off : U32) : BufferEntry :=
  { space := space, layout := 1, type := 0, smode := 0xFF, offset := off, bytes := 1024, h := 1, w := 1, c := 32, zp := 0, rowPitch := 32, cbPitch := 256
    scales := 0xFFFF, bflags := 0, zero := 0 }

def tLayer : LayerEntry :=
  { lkind := 1, lflags := 0, wc := 0, q := 1, inBuf := 0, outBuf := 1, s := 1, b := 1, rows := 1, kh := 1, kw := 1, sh := 1, sw := 1, dh := 1, dw := 1, padT := 0
    padL := 0, passes := 1, first := 0, wmcast := 0xFFFF, stage := 0xFFFF, fgroup := 0xFF, crust := 0, dep0 := 0xFFFF, dep1 := 0xFFFF, zero := 0 }

def tTracker : TrackerBlock :=
  { tmagic := 0x4B525454, maxDet := 16, maxTracks := 16, wIou := one32, wEmb := 0, gate := one32, iouMin := 0, embMax := one32, reidMax := one32, newScore := 0
    embAlpha := 0, maxMisses := 10, zones := 1, seqMax := 16, window := 64, seqReserve := 4, kvStepBytes := 256, kvPool := 3, sidePool := 4, tickRegions := 1, zero := 0
    pInit := List.replicate 8 one32, qNoise := List.replicate 8 one32, zoneOfSlot := List.replicate 512 0 }

def tWeights (n : U16) : WSection :=
  { wmagic := 0x53544757, plan := n, zero6 := 0, blockTable := 32, tensorTable := 32, zero18 := 0, length := 32, blocks := [], tensors := [] }

def tClip : ClipProfile :=
  { profile := 1, codec := 0, outDiv := 1, rateDiv := 1, qpBase := 20, qpMax := 40, preroll := 0, reserve := 0, picCap := 1000000, winCap := 1000000, winPics := 25
    keyInterval := 0, refreshPics := 0, maxPics := 100, zero := 0 }

def tPlan (n : U16) (kind : Byte) : Plan :=
  { pmagic := 0x4E4C5047, pversion := 1, plan := n, inst := n.setWidth 32, kind := kind, gang := 0xFF, tableOffs := [64, 128, 192, 256, 4352], codeBytes := 1024
    length := 8192, clipTable := 200, clipsCount := 0, zero2D := 0, spBytes := 0x200000, rbBytes := 65536, zero38 := 0, rqTable := []
    buffers := [tBuf 1 0, tBuf 1 4096], layers := [if kind = 1 then { tLayer with first := 640 } else tLayer], mcasts := [], clips := if kind = 1 then [tClip] else [], tracker := if kind = 1 then some tTracker else none
    descs := [[.vec tVec]], image := [], imageOffs := [], cseJobs := [], weights := tWeights n, shares := 0, peakGeneral := [], syncs := 0, privateSyncs := [], signals := []
    waitObj := none, feeds := if kind = 0 then [1] else [] }

def tAdapter : AdapterImage :=
  { amagic := 0, weondRelease := 1, origin := 0, steps := 0, lossBefore := 0, lossAfter := 0, done := 0, length := 64, tensors := [], data := [] }

def tSlot : SlotEntry :=
  { slot := 0, codec := 0, bitDepth := 8, profile := 100, level := 40, width := 640, height := 480, rate := 2500, maxBitrate := 4000, deadline := 500, ingest := 0
    metaRing := 0, prio := 1, flags := 5, pipeline := 0, ringBytes := 65536, zero := 0 }

def tFw : FwModel :=
  { pFixedBase := 30000, pFixedPerMpix := 10, stallPerMille := 100, trafficPerBit := 2000, trafficPerPix := 3000, trafficPerCse := 1000, kvPerSeq := 1000
    trackMiss := 10, clipPerPix := 10, recordBytes := 64, gauPerMille := 900 }

def tManifest : List ManifestEntry :=
  ([(1, 0), (2, 0), (3, 0), (4, 0), (4, 1), (5, 0), (5, 1), (6, 0), (7, 0)].zipIdx).map fun x =>
    { type := BitVec.ofNat 16 x.1.1, flags := 0, inst := BitVec.ofNat 32 x.1.2, offset := BitVec.ofNat 64 (65536 * (x.2 + 2)), length := 4096
      hash := BitVec.ofNat 384 (x.2 + 1) }

def tPools : List PoolEntry :=
  [{ pool := 0, use := 0, log2 := 12, zero3 := 0, count := 16, zero8 := 0 }, { pool := 1, use := 1, log2 := 20, zero3 := 0, count := 0, zero8 := 0 },
    { pool := 2, use := 2, log2 := 20, zero3 := 0, count := 0, zero8 := 0 }, { pool := 3, use := 3, log2 := 14, zero3 := 0, count := 64, zero8 := 0 },
    { pool := 4, use := 4, log2 := 9, zero3 := 0, count := 4096, zero8 := 0 }]

/-- A header signed by a signer whose certificate verifies under the root key of `State.reset`'s fuses, over the SHA-384 of `tManifest`. -/
def tHeader : CartHeader :=
  { magic := 0x4352514B, hdrVersion := 1, cartType := 1, cartId := 7, weondRelease := 1, issueDate := 0, secVersion := 1, rootIndex := 0, zero25 := 0
    manifestOff := 65536, manifestLen := 648
    manifestHash := 0x517d71b706b7e55ad67f4e8d647ee4f159fb1487a2eb31db9353e7717f22b18c5199bb5c276281f9ea23d8a5847db75f
    signerKey := 0x3a71c1e6ab14441833fbe80a6d687731eb1a90b63365988ce8ded55477444b28c5e7000ae937580f2df94074c796a68fbc846d83c3dbbc0ae697a21c4a2f8837b08365e5cb61664fc58ff9bf1de508f267e425a05eac3c5777c751c2a224de11
    signerCert := 0x7d8700f07775d203a295d03bd120dbd9a2f438de12e5ee27466374b86948b028c7a511276d6720f7fb14f38000db5d43c06a2a3da0f8ca8cef7870baa9cc8e86071ac36a44cc9adcb7a2df9865c601d59c42da4837a1048cede67b779b43279f
    headerSig := 0x43437bcecaaa5499e98c91cdcbf0bcda2a91c0fd12fa5bf157bfe4747306187e78210c47101af937442b04581e0c63c6c06a2a3da0f8ca8cef7870baa9cc8e86071ac36a44cc9adcb7a2df9865c601d59c42da4837a1048cede67b779b43279f }

def tCart : Cartridge :=
  { header := tHeader
    manifest := tManifest, fwVersion := 1, fw := tFw, settings := [], slots := [tSlot], plans := [tPlan 0 0, tPlan 1 1], bmagic := 0x4C505042, bzero := 0
    pools := tPools, adapter := tAdapter, verifyLoss := 0, records := [], erase := [] }

/-- Powered, out of reset, before the boot ROM. -/
def sPowered : State :=
  { State.reset with
    wires := { vaux3 := true, vin12 := 12000, kclk := true, ready := true, perst := false, cartVcc := true, linkUp := true }
    aon := { time := 1000000000, v12 := 12000, mainOk := true }
    link := { width := 16, rate := 3, memSpace := true } }

/-- In service, with the cartridge in force, the rings enabled and the pools laid out. -/
def sRun : State :=
  { sPowered with
    hif := { ringEn := true, cmdBase := 0x20000, rplBase := 0x10000, rplMirror := 0x30000, md := [(0, { base := 0x40000, mirror := 0x50000 })] }
    dev := { state := .run, thawTo := .run }
    crt := { cart := some tCart, present := true, sameCart := true, stage := 0xA, retention := 1000, erase := 1000, life := 1000, recipe := some tCart
             verified := true, loaded := true, lifeLevel := 3, lifeRead := true, adapter := some tAdapter }
    adm := { done := true, slots := [0], fAdm := 125, homes := [(0, 0)], rings := [(0, 0x100000)], gauFree := [0] }
    dec := { engs := (List.range 8).map fun e => (e, { inService := true }) }
    enc := { engs := (List.range 4).map fun e => (e, { inService := true }) }
    cse := (List.range 4).map fun e => (e, { inService := true })
    dis := { inService := true, nCtx := 2, ctxs := [(0, { plan := 0, slots := [0] }), (1, { plan := 1, tick := true })] }
    bpm := { inService := true, npools := 6, pools := [(0, { use := 0, log2 := 12, count := 16, base := 0x10000000 }),
      (1, { use := 1, log2 := 20, count := 8, base := 0x20000000 }), (2, { use := 2, log2 := 20, count := 8, base := 0x30000000 }),
      (3, { use := 3, log2 := 14, count := 64, base := 0x40000000 }), (4, { use := 4, log2 := 9, count := 4096, base := 0x50000000 }),
      (5, { use := 5, log2 := 20, count := 8, base := 0x60000000 })] }
    tke := { inService := true }
    dmc := { chans := (List.range 24).map fun k => (k, { inService := true, trained := true }) }
    pwr := { regions := (List.range 8).map fun r => (r, { freq := 125, volt := 800 }) }
    ras := { inService := true, stResult := 1 } }

/-- `sRun` in FROZEN. -/
def sFrozen : State := { sRun with dev := { state := .frozen, thawTo := .run } }
/-- `sRun` in REFUSED. -/
def sRefused : State := { sRun with dev := { state := .refused } }
/-- `sRun` in PARKED. -/
def sParked : State := { sRun with dev := { state := .parked } }
/-- `sRun` in a power state. -/
def sIn (p : PState) : State := { sRun with pwr := { sRun.pwr with pstate := p } }
/-- A ring entry with its arguments. -/
def cmd (args : List Byte) : Cmd := { tag := 7, args := args }

/-! ### States and operands that meet the hypotheses of the statements on host commands -/

theorem test_meets_QueriesAnswer :
    Serves 0x01 anyState (cmd [0]) sRun ∧ Serves 0x01 anyState (cmd [1]) sRefused ∧ Serves 0x01 anyState (cmd [2]) sParked ∧ Serves 0x01 anyState (cmd [3, 0, 0, 0, 0xFF, 1]) sFrozen ∧
    Serves 0x01 anyState (cmd [4]) sRun ∧ Serves 0x01 anyState (cmd [5]) sRun ∧ argZero (cmd [5]) 1 3 = true ∧ argZero (cmd [3, 0, 0, 0, 0xFF, 1]) 1 3 = true ∧
    arg (cmd [3, 0, 0, 0, 0xFF, 1]) 0 1 = 3 ∧ arg (cmd [3, 0, 0, 0, 0xFF, 1]) 4 4 = 511 ∧ arg (cmd []) 0 1 = 0 ∧ arg (cmd [5]) 0 1 = 5 := by
  unfold Serves; decide

theorem test_meets_CommandsRefusedOrLost :
    sRun.ringsWork = true ∧ sPowered.ringsWork = false ∧ sFrozen.ringsWork = true ∧ inService sFrozen.dev.state = false ∧ notParked sParked.dev.state = false ∧
    inRun sRefused.dev.state = false ∧ (sRun.dev.state == .frozen) = false ∧ anyState sParked.dev.state = true ∧
    ({ cmd [] with zero1 := 1 } : Cmd).zeroFrom 8 = false ∧ ({ cmd [] with zero4 := 0x80000000 } : Cmd).zeroFrom (argBytes 0x09) = false ∧
    (cmd [0, 0, 0, 0, 1]).zeroFrom (argBytes 0x09) = false ∧
    ((.setLatTol (cmd []), 0x09, inService) : Instr × Byte × (DevState → Bool)) ∈ hostCommands (cmd []) := by
  refine ⟨by decide, by decide, by decide, by decide, by decide, by decide, by decide, by decide, by decide, by decide, by decide, ?_⟩
  simp [hostCommands]

/-- R368: the 64 bytes of STREAM_OPEN with TAG 7, written out from the table, and an entry whose OPCODE no command has. -/
theorem test_entry_decodes :
    commandOf ([0x02, 0, 7, 0, 0, 0, 0, 0] ++ [3, 0] ++ List.replicate 54 0) = .streamOpen (cmd ([3, 0] ++ List.replicate 54 0)) ∧
    commandOf ([0x0E, 0, 7, 0, 0, 0, 0, 0] ++ List.replicate 56 0) = .unknownOpcode 0x0E (cmd (List.replicate 56 0)) ∧
    commandOf ([0x0D, 0, 7, 0, 0, 0, 0, 0] ++ [2] ++ List.replicate 55 0) = .discardAdapter (cmd ([2] ++ List.replicate 55 0)) ∧
    arg (cmd ([2] ++ List.replicate 55 0)) 0 1 = 2 ∧ (cmd ([2] ++ List.replicate 55 0)).args.length = 56 := by decide

/-- A dump that is held. -/
def aDump : Dump := { id := 5, at_ := 0, trigger := 0, epoch := 0, state := 1, reason := 0, missed := [], offBlk := [], image := [] }
def sDump : State := { sRun with dbg := { sram := [aDump] } }
def sCollecting : State := { sRun with dbg := { current := some aDump } }

theorem test_meets_ServiceCommandsAnswer :
    Serves 0x09 inService (cmd [0xFF, 0xFF, 0xFF, 0xFF]) sRun ∧ Serves 0x07 inServiceF (cmd [1]) sFrozen ∧ sFrozen.dbg.current = none ∧
    Serves 0x07 inServiceF (cmd [1]) sCollecting ∧ sCollecting.dbg.current = some aDump ∧
    Serves 0x08 notParked (cmd [5]) sDump ∧ sDump.findDump 5 = some aDump ∧ arg (cmd [5]) 8 8 % 4096 = 0 ∧ arg (cmd [5]) 8 8 < dumpLength ∧ arg (cmd [5]) 24 8 = 0 ∧
    argZero (cmd [5]) 4 4 = true ∧ argZero (cmd [5]) 20 4 = true ∧ sDump.findDump 6 = none := by
  unfold Serves; decide +kernel

/-- DUMP_READ of 16 MiB from offset 4 KiB to host memory, and one beyond the end of the dump. -/
def dumpToHost : Cmd := cmd [5, 0, 0, 0, 0, 0, 0, 0, 0, 0x10, 0, 0, 0, 0, 0, 0, 0, 0, 0, 1, 0, 0, 0, 0, 0, 0, 0, 1]
def dumpBeyond : Cmd := cmd [5, 0, 0, 0, 0, 0, 0, 0, 0, 0, 0, 0, 1]

theorem test_meets_DumpRead_to_host : arg dumpToHost 8 8 = 4096 ∧ arg dumpToHost 16 4 = 16777216 ∧ arg dumpToHost 24 8 ≠ 0 ∧ argZero dumpToHost 20 4 = true ∧
    sDump.findDump (BitVec.ofNat 32 (arg dumpToHost 0 4)) = some aDump ∧ (sDump.tlps 0x123 [1, 2]).map (·.2) = [[1, 2]] ∧ arg dumpToHost 8 8 < dumpLength ∧ dumpLength ≤ arg dumpBeyond 8 8 ∧
    arg dumpBeyond 8 8 % 4096 = 0 := by decide +kernel

theorem test_meets_ResetAndReleaseReply :
    Serves 0x0A inServiceF (cmd [1, 2, 3]) sRun ∧ sRun.underReset (.unit 0x2003) = false ∧ sRun.underReset (.part 9) = false ∧
    Serves 0x0B (fun d => d == .frozen) (cmd []) sFrozen ∧ sFrozen.dev.thawTo ≠ .frozen := by
  unfold Serves; decide

theorem test_meets_ResetReq_scopes :
    resetScope 1 2 3 = .ok (.unit 0x2003) ∧ resetScope 2 9 0 = .ok (.part 9) ∧ resetScope 3 0 0 = .ok .chip ∧ resetScope 1 2 9 = .error 0x0011 ∧
    resetScope 0 0 0 = .error 0x0002 := ⟨rfl, rfl, rfl, rfl, rfl⟩

theorem test_meets_CartridgeCommandsStart :
    Serves 0x0C inRun (cmd [2]) sRun ∧ calArg (arg (cmd [2]) 2 2) 100 20000 2000 = some 2000 ∧ calArg (arg (cmd [2]) 4 2) 64 8192 512 = some 512 ∧
    calArg (arg (cmd [2]) 6 2) 10 1800 900 = some 900 ∧ argZero (cmd [2]) 1 1 = true ∧ arg (cmd [2]) 0 1 = 2 ∧ sRun.cal.running = false ∧
    calArg 20000 100 20000 2000 = some 20000 ∧ arg (cmd [1]) 0 1 = 1 ∧ sRun.crt.present = true ∧ sRun.crt.worn = false ∧
    WritesCart 1 (cmd [1]) sRun ∧ WritesCart 2 (cmd [2]) sRun ∧ WritesCart 3 (cmd [3]) sRefused ∧
    WritesCart 2 (cmd [2]) { sRun with crt := { sRun.crt with erase := 0 } } := by
  unfold WritesCart Serves; decide

/-! ### Stream slots and clip sessions -/

/-- `sRun` with slot 0 as given. -/
def withSlot (t : Slot) (d : SlotDec := {}) : State := { sRun with dec := { sRun.dec with slots := [(0, t)], decs := [(0, d)] } }
/-- `sRun` with the slot table's entry changed by `f`. -/
def withEntry (f : SlotEntry → SlotEntry) (t : Slot := {}) : State :=
  { withSlot t with crt := { sRun.crt with recipe := some { tCart with slots := [f tSlot] } } }
/-- Slot 0 in service, and in DRAIN. -/
def sOpen : State := withSlot { state := 2, put := 64, get := 0, fetch := 32, asked := 32, judged := 64, mirror := 0x60000 }
def sDrain : State := withSlot { state := 4 }

theorem test_meets_StreamOpens_opens :
    Serves 0x02 inService (cmd []) sRun ∧ argZero (cmd []) 2 6 = true ∧ arg (cmd []) 0 2 = 0 ∧ StreamTurn sRun ∧ sRun.entry 0 = some tSlot ∧ sRun.crt.recipe = some tCart ∧ (sRun.slot 0).state = 0 ∧ arg (cmd []) 8 8 = 0 ∧
    isReserve tSlot = true ∧ 0 ∈ sRun.adm.slots := by
  unfold StreamTurn Serves; decide +kernel

/-- A pull slot without RESERVE, whose re-admission passes. -/
def sPullEntry : State := { withEntry (fun e => { e with ingest := 1, flags := 0 }) with adm := {} }

theorem test_meets_StreamOpens_readmits :
    (sPullEntry.entry 0).any (fun e => !isReserve e && e.ingest == 1) = true ∧ StreamTurn sPullEntry ∧
    arg (cmd [0, 0, 0, 0, 0, 0, 0, 0, 0, 0x10]) 8 8 % 4096 = 0 ∧
    (sPullEntry.crt.recipe.map fun r => (sPullEntry.readmitWith r (insertN 0 sPullEntry.adm.slots)).toOption.isSome) = some true := by
  unfold StreamTurn; decide +kernel

theorem test_meets_StreamOpens_refusals :
    sRun.entry (arg (cmd [0xFF, 1]) 0 2) = none ∧ (sOpen.entry 0).isSome = true ∧ (sOpen.slot 0).state ≠ 0 ∧ StreamTurn sOpen := by
  unfold StreamTurn; decide +kernel

/-- Slot 0 with a picture in the pixel half of engine 0. -/
def aInfo : PicInfo :=
  { frame := 1, start := .full, show_ := .shown, poc := 0, pocStart := true, mmco5 := false, syntaxBytes := 4096, params := [], cdfs := []
    stream := { codec := 0, profile := 100, cs1 := false, cs3 := false, levelIdc := 40, bitDepth := 8, chroma := 1, fields := false, avTool := false }
    width := 640, height := 480, cropX := 0, cropY := 0, codedW := 640, codedH := 480
    matrix := 1, fullRange := false, leading := false, refs := [], gap := false, recoveryPoint := none, syntaxError := false, poisonRead := false
    grain := false, keep := true, evict := [], last := true }
def anEntry : SynEntry :=
  { slot := 0, pos := 0, hdr := { flags := 0, length := 32, arrival := 5, tag := 9, seq := 0 }, info := aInfo, copy := false, recovery := false, clean := true, flush := false
    checkpoint := {}, before := {}, last := true }
def sPix : State := { sOpen with dec := { sOpen.dec with engs := [(0, { inService := true, pix := some anEntry })] } }

theorem test_meets_StreamCloseDrains :
    (sOpen.discardEntries 0).slotBusy 0 = false ∧ (sPix.discardEntries 0).slotBusy 0 = true ∧ (sPix.slot 0).state ≠ 0 ∧ StreamTurn sPix ∧
    (sPix.entry 0).isSome = true := by
  unfold StreamTurn; decide +kernel

/-- Session 0 in RUN on engine 0, with a picture to encode. -/
def aPic : SrcPic := { picNum := 3, arrival := 5, tag := 9, width := 640, height := 480, concealed := false, discont := false }
def aSess : Sess := { state := 2, profile := 1, ringLog2 := 16, queue := [aPic], wantKey := true, wantGap := true, maxPics := 10 }
def withSess (x : Sess) (p : SessEnc := {}) (e : EncEng := { inService := true }) : State :=
  { sOpen with enc := { engs := [(0, e)], sess := [(0, x)], prog := [(0, p)] } }
def sSess : State := withSess aSess

/-- CLIP_START of slot 0 with profile 1, no preroll, a ring of 64 KiB. -/
def clipCmd : Cmd := cmd [0, 0, 1, 0, 0, 0, 16, 0, 0, 0, 1]

theorem test_meets_ClipCommandsRun :
    Serves 0x04 inService clipCmd sOpen ∧ sOpen.entry (arg clipCmd 0 2) = some tSlot ∧ (sOpen.slot 0).state ≠ 0 ∧ slotFlag tSlot 2 = true ∧
    sOpen.profile (arg clipCmd 2 1) = some tClip ∧ clipArgsOk clipCmd tClip = true ∧
    (sOpen.takeSession 0 tSlot tClip (arg clipCmd 3 1) 100 { addr := BitVec.ofNat 64 (arg clipCmd 8 8), log2 := arg clipCmd 6 1
                                                             mirror := BitVec.ofNat 64 (arg clipCmd 16 8) } false).toOption.isSome = true ∧
    prerollResized (sOpen.sdec 0).held (arg clipCmd 3 1) tClip.rateDiv.toNat = false ∧ sSess.dev.powerOff = false ∧
    sSess.sessArg (cmd [0]) = some 0 ∧ Serves 0x06 inService (cmd [0]) sSess ∧ Serves 0x05 inService (cmd [0]) sSess := by
  unfold Serves; decide +kernel

/-- Two held pictures of different sizes, and a CLIP_START that wants both. -/
def aHeldPic (w : U16) : HeldPic :=
  { buf := 0, mv := 0, descAt := 0, picNum := 1, arrival := 5, tag := 9, width := w, height := 480, concealed := false, discont := false }
def sResized : State := withSlot { state := 2 } { held := [aHeldPic 320, aHeldPic 640] }
def prerollCmd : Cmd := cmd [0, 0, 1, 2, 0, 0, 16, 0, 0, 0, 1]

theorem test_meets_ClipCommands_resized :
    Serves 0x04 inService prerollCmd sResized ∧ clipArgsOk prerollCmd { tClip with preroll := 2 } = true ∧
    prerollResized (sResized.sdec 0).held (arg prerollCmd 3 1) tClip.rateDiv.toNat = true := by
  unfold Serves; decide +kernel

theorem test_meets_SlotPuts_wake :
    (sIn .nap).mmio = true ∧ (sIn .nap).pwr.pstate ≠ .off ∧ (sIn .slumber).mmio = true ∧ (sIn .off).mmio = true := by decide

theorem test_meets_SlotPuts_move :
    sOpen.mmio = true ∧ sOpen.pwr.pstate = .run ∧ sOpen.wins.busy = false ∧ sOpen.isFrozen = false ∧ (sDrain.slot 0).state = 4 ∧ (sRun.slot 0).state = 0 ∧
    (65536 : U32).toNat % 32 = 0 ∧ (sOpen.slot 0).put ≠ 65536 ∧ (65536 - (sOpen.slot 0).get).toNat ≤ sOpen.ringBytes 0 ∧
    ((sOpen.slot 0).put - (sOpen.slot 0).get).toNat ≤ (65536 - (sOpen.slot 0).get).toNat ∧ (33 : U32).toNat % 32 ≠ 0 ∧
    (32 - (sOpen.slot 0).get).toNat ≤ sOpen.ringBytes 0 ∧ (sOpen.slot 0).put ≠ 32 ∧
    (32 - (sOpen.slot 0).get).toNat < ((sOpen.slot 0).put - (sOpen.slot 0).get).toNat := by decide +kernel

/-- A pull slot with 64 bytes to read, and with its read outstanding. -/
def sPull : State := withSlot { state := 1, pull := true, put := 64, hostRing := 0x70000, judged := 64 }
def sPulling : State :=
  { withSlot { state := 1, pull := true, put := 64, asked := 64, hostRing := 0x70000, judged := 64 } with
    link := { sRun.link with reads := [{ tag := 0, use := .pull 0 0 64, at_ := 0 }] } }

theorem test_meets_PullsAndMirrors_pull :
    sPull.freeTag 8 = some 0 ∧ sPull.funcReady = true ∧ sPull.isFrozen = false ∧ (sPull.slot 0).pull = true ∧ (sPull.slot 0).state = 1 ∧
    sPull.pullLength 0 = 64 ∧ sPulling.pwr.pstate = .run ∧ sPulling.pullRead 0 = some (0, 0, 64) ∧ (sPulling.slot 0).wants 0 = true := by decide +kernel

theorem test_meets_PullsAndMirrors_mirror :
    (if (sOpen.slot 0).pull then (sOpen.slot 0).fetch else (sOpen.slot 0).get) = 0 ∧ (sOpen.slot 0).mirror ≠ 0 ∧
    (0 : U32) ≠ ((withSlot { state := 2, mirror := 0x60000 } { mirrorVal := 32, mirrorAt := some 5 }).sdec 0).mirrorVal ∧
    ((withSlot { state := 1 } { keySince := some 0, noKeyDue := 10000000000 }).slot 0).state = 1 := by decide +kernel

/-! ### Decode, encode, crop and scale -/

/-- An access unit of 64 bytes at the start of the ring, and slot 0 with it. -/
def anAu : Au := { pos := 0, bytes := 64, hdr := { flags := 0, length := 32, arrival := 5, tag := 9, seq := 0 }, stage := .waiting }
def auSlot : Slot := { state := 2, put := 64, fetch := 0, judged := 64, aus := [anAu] }
def withEng (g : DecEng) (t : Slot := auSlot) (d : SlotDec := {}) : State :=
  { withSlot t d with dec := { engs := [(0, g)], slots := [(0, t)], decs := [(0, d)] } }
def sParse : State := withEng { inService := true }
def aRun : ParseRun := { slot := 0, pos := 0, before := { waitKey := false }, first := true }
/-- An entry waits that fills the engine's syntax buffer and its spill, so no space is left for the syntax of another picture. -/
def sWaits : State := withEng { inService := true, parsing := some aRun, entries := [{ anEntry with bytes := 0x87FF00 }] }
def sParsing : State := withEng { inService := true, parsing := some aRun } { auSlot with aus := [{ anAu with stage := .parsing }] } { holder := some 0 }

theorem test_meets_EntropyHalf_takes :
    MayParse sParse 0 ∧ sParse.pickSlot 0 = some (0, false) ∧ sParse.nextAu 0 = some anAu ∧ (sParse.slot 0).lostIn anAu.pos anAu.bytes = false ∧
    sParse.ringPoisoned 0 (anAu.pos + 32) anAu.hdr.length.toNat = false ∧
    ((withEng { inService := true } { auSlot with lost := [(63, 1)] }).slot 0).lostIn anAu.pos anAu.bytes = true ∧
    ({ sParse with dram := { poison := [(sParse.ringBase 0 + 32) / 32] } } : State).ringPoisoned 0 (anAu.pos + 32) anAu.hdr.length.toNat = true := by
  unfold MayParse; decide +kernel

theorem test_meets_EntropyHalf_judges :
    sParsing.mclkOn = true ∧ (sParsing.deng 0).parsing = some aRun ∧
    (sParsing.slot aRun.slot).aus.find? (fun a => a.pos == aRun.pos) = some { anAu with stage := .parsing } ∧ sParsing.entry aRun.slot = some tSlot ∧
    (sParsing.sdec aRun.slot).draining = false ∧ verdict tSlot aInfo aRun false = .keep ∧ (sParsing.deng 0).mustWait aInfo = false ∧
    (sWaits.deng 0).mustWait aInfo = true ∧
    verdict tSlot { aInfo with stream := { aInfo.stream with levelIdc := 41 } } aRun false = .drop (some 0x0409) true ∧ verdict tSlot { aInfo with start := .none } { aRun with before := {} } false = .drop none false := by
  decide +kernel

theorem test_meets_PixelHalfCommits :
    sPix.mclkOn = true ∧ (sPix.deng 0).pix = some anEntry ∧ anEntry.copy = false ∧ sPix.entry anEntry.slot = some tSlot ∧
    (sPix.picBuffers anEntry.slot tSlot).isSome = true := by decide +kernel

/-- A shown frame of the DPB. -/
def sExisting : State :=
  withEng { inService := true, pix := some { anEntry with info := { aInfo with show_ := .existing 4 } } } auSlot
    { dpb := [{ frame := 4, buf := 0x04000000, mv := 0x08000000, concealed := false, grain := false, width := 640, height := 480, cropX := 0, cropY := 0, codedW := 640
                codedH := 480 }] }

theorem test_meets_PixelHalf_existing : ((sExisting.sdec 0).dpb.any fun q => q.frame == 4) = true ∧
    (sExisting.deng 0).pix = some { anEntry with info := { aInfo with show_ := .existing 4 } } := by decide +kernel

/-- Engine 0 encodes a picture of session 0. -/
def aJob : EncJob := { sess := 0, pic := aPic, key := true, gap := false, sweepCol := none, budget := 1000 }
def sEncoding : State := withSess { aSess with queue := [] } {} { inService := true, job := some aJob }
def sFullRing : State := let s := withSess { aSess with put := 65536 } {} { inService := true, job := some aJob }; { s with bpm := { s.bpm with bufs := [(0, { owner := reqEnc 0 })] } }
/-- What it coded. -/
def aCoded : Coded := { head := List.replicate 64 true, blocks := [], params := [[1], [2]], recon := [], hostFail := false }

/-- The same where the source's buffer is allocated. -/
def sSourced : State := { sEncoding with bpm := { sEncoding.bpm with bufs := [(0, { owner := reqEnc 0 })] } }

theorem test_meets_EncodeEnginesRun :
    Stays sEncoding ∧ Stays sFullRing ∧ Stays sSourced ∧ (sSourced.encCode tClip aPic).2 = none ∧ (sEncoding.encCode tClip aPic).2.isSome = true ∧
    sSess.headWaits (mkUnit 3 0) = false ∧
    (sSess.eeng 0).inService = true ∧ (sSess.eeng 0).fenced = false ∧ (sSess.eeng 0).job = none ∧ sSess.encPaused = false ∧ sSess.isFrozen = false ∧
    sSess.mclkOn = true ∧ sSess.underReset (.unit (mkUnit 3 0)) = false ∧ (sSess.scaleReady 0).nextSession 0 = some 0 ∧ ((sSess.scaleReady 0).sess 0).queue = [aPic] ∧
    (sSess.scaleReady 0).profile ((sSess.scaleReady 0).sess 0).profile.toNat = some tClip ∧ ((sSess.scaleReady 0).sess 0).wantKey = true ∧
    ((sSess.scaleReady 0).sess 0).wantGap = true ∧
    (sEncoding.eeng 0).job = some aJob ∧ sEncoding.profile (sEncoding.sess 0).profile.toNat = some tClip ∧ sSourced.canClip 0 (sSourced.codedBytes aJob aCoded tClip).length = true ∧ sSourced.profile (sSourced.sess 0).profile.toNat = some tClip ∧
    (sFullRing.encCode tClip aPic).2 = none ∧
    sFullRing.canClip 0 (sFullRing.codedBytes aJob aCoded tClip).length = false := by decide +kernel

/-- A picture held for its ring. -/
def aHeld : HeldOut :=
  { out := { flags := 0, picNum := 3, qpRow := 0, fill := 0, arrival := 5, tag := 9, data := [1] }, at_ := 950000000, bits := 8, budget := 0 }
def sHeld : State := withSess { aSess with put := 65536, wantKey := false, wantGap := false } { hold := some aHeld }

theorem test_meets_SessionsHoldAndMove :
    (sHeld.prog 0).hold.isSome = true ∧ Stays sHeld ∧ sHeld.wins.busy = false ∧ (sHeld.sess 0).state ≠ 0 ∧ sHeld.mmio = true ∧ sHeld.pwr.pstate = .run ∧ sHeld.isFrozen = false ∧
    ((sHeld.sess 0).put - 0).toNat ≤ 2 ^ (sHeld.sess 0).ringLog2 ∧ 2 ^ (sHeld.sess 0).ringLog2 < ((sHeld.sess 0).put - 65537).toNat ∧ (sHeld.sess 1).state = 0 := by
  decide +kernel

/-- A SCALE job with its output in buffer 0 of pool 1, and the engine running it. -/
def aCseJob : CseJob :=
  { job := 2, ofmt := 0, mat := 0, range := 0, ow := 64, oh := 48, boxes := 1, zeroA := 0, out := mkHandle 1 0, pic := 0x2000, boxList := 0, spatialX := 0, spatialY := 0
    outStride := 0, sync := 0, tag := 77, zero38 := 0 }
def sCse : State := { sRun with
  cse := [(0, { inService := true, running := some aCseJob })], bpm := { sRun.bpm with bufs := [((mkHandle 1 0).toNat, { owner := 1 })] } }

theorem test_meets_CseJobsRun :
    sRun.dis.inService = true ∧ sRun.cseRoom 3 = true ∧ sRun.headWaits (mkUnit 4 3) = false ∧ sRun.isFrozen = false ∧ sCse.mclkOn = true ∧ (sCse.cseEng 0).running = some aCseJob ∧
    sCse.outCode aCseJob = none := by decide +kernel

/-! ### Arrays, work counters and the dispatcher -/

/-- Context 0 runs on the core set of region 0, which is as given. -/
def withRegion (g : Region) (m : RegionMem := {}) (x : Ctx := {}) : State :=
  { sRun with
    rgn := [(0, { g with rslots := [(0, 0)], coresCtx := some 0 })], rmem := [(0, m)]
    dis := { sRun.dis with ctxs := [(0, { x with state := 3, plan := 0, rslot := some 0 }), (1, { plan := 1, tick := true })] } }

def aPass (last : Bool) : PassItem :=
  { desc := { wbits := 1, mode := if last then 3 else 1, n := 1, feed := 0x10000, wblock := 0x20000, out := if last then 0x30000 else 0, scale := 0x40000, zp := 0, rq := 0
              tile := 0, zero := 0 }
    block := 0, ctx := 0, tile := 0, layer := 0, wc := 0 }
def badPass : PassItem := { aPass true with desc := { (aPass true).desc with n := 513 } }
def aGau : GauItem :=
  { desc := { gang := 0, fmt := 0, zero := 0, k := 1, a := 0, b := 0x1000, cIn := 0x2000, cOut := 0x3000, aStride := 256, bStride := 256, cStride := 128, tile := 0 }
    ctx := 0, layer := 0, wc := 0 }
def aVec (d : VecDesc := tVec) : VecItem := { desc := d, ctx := 0, tile := 0, layer := 0, wc := 0 }

def sPass (p : PassItem) : State := withRegion { cores := [(0, { inService := true, running := some p, queue := [aPass false] }), (17, { running := some p })] }
def sVec (d : VecDesc) : State := withRegion { cores := [(0, { inService := true })] } { vecs := [(0, { running := some (aVec d), queue := [aVec] })] }
def sGau (g : GauItem) (k : PassClock := {}) : State :=
  { withRegion { gau := { inService := true, running := some g, clock := k } } with
    crt := { sRun.crt with recipe := some { tCart with plans := [{ tPlan 0 0 with gang := 0 }, tPlan 1 1] } } }

theorem test_meets_PassesCommit :
    ((sPass (aPass true)).core 0 0).running = some (aPass true) ∧ ((sPass (aPass false)).core 0 17).running = some (aPass false) ∧
    (sPass (aPass true)).aclkStopped 0 = false ∧ (aPass true).desc.ok = true ∧ (aPass false).desc.ok = true ∧
    passFits (aPass true).desc (((sPass (aPass true)).coreMem 0 0).rqOf (aPass true).desc) = true ∧
    passFits (aPass false).desc (((sPass (aPass false)).coreMem 0 17).rqOf (aPass false).desc) = true ∧
    ((sPass (aPass true)).layersOf 0)[0]? = some tLayer := by decide +kernel

theorem test_meets_DescriptorsCommit_vector :
    ((sVec tVec).vec 0 0).running = some (aVec tVec) ∧ (sVec tVec).aclkStopped 0 = false ∧ VecDesc.defined tVec = true ∧
    ((sVec tVec).layersOf 0)[0]? = some tLayer ∧
    (vecRun ((sVec tVec).coreMem 0 0).sp tVec ((sVec tVec).tilePos 0 tLayer 0 ((sVec tVec).core 0 0).half)).fault = none := by decide +kernel

theorem test_meets_DescriptorsCommit_gau :
    ((sGau aGau).region 0).gau.running = some aGau ∧ (sGau aGau).aclkStopped 0 = false ∧ (sGau aGau).gauOk aGau = true := by decide +kernel

/-- The context of each is one of the device's, and under no reset; its descriptor is out of range, or its operand beyond the scratchpad. -/
theorem test_meets_ContextFaultsReset :
    (sPass badPass).aclkStopped 0 = false ∧ ((sPass badPass).core 0 0).running = some badPass ∧ badPass.ctx < (sPass badPass).dis.nCtx ∧
    (sPass badPass).underReset (.ctx (Fin.ofNat 4096 0)) = false ∧ badPass.desc.ok = false ∧
    VecDesc.defined { tVec with op := 0x0C } = false ∧ ((sVec { tVec with op := 0x0C }).vec 0 0).running = some (aVec { tVec with op := 0x0C }) ∧
    (sVec { tVec with a := 0x1FFFFF }).aclkStopped 0 = false ∧
    (vecRun ((sVec { tVec with a := 0x1FFFFF }).coreMem 0 0).sp { tVec with a := 0x1FFFFF }
      ((sVec { tVec with a := 0x1FFFFF }).tilePos 0 tLayer 0 false)).fault.isSome = true ∧
    passFits { (aPass true).desc with n := 2, out := 0x1FFF80 } (((sPass (aPass true)).coreMem 0 0).rqOf (aPass true).desc) = false ∧
    (sGau { aGau with desc := { aGau.desc with k := 0 } }).gauOk { aGau with desc := { aGau.desc with k := 0 } } = false ∧ aGau.ctx < (sGau aGau).dis.nCtx := by
  decide +kernel

/-- A long pass on core 0 and its vector engine, and on the Millefeuille, with 100,000 cycles left; and a pass of a fused group on core 0. -/
def aLong : PassClock := { total := 100000 }
def sLong : State :=
  withRegion { cores := [(0, { running := some (aPass true), clock := aLong })] } { vecs := [(0, { running := some (aVec tVec), clock := aLong })] }
def sFusedPass : State := withRegion { cores := [(0, { running := some (aPass true), todo := [.finish 0 0 0 0] })] }

theorem test_meets_PassAbortsCount :
    sLong.aclkStopped 0 = false ∧ (sLong.core 0 0).running = some (aPass true) ∧ sLong.longLeft 0 (sLong.core 0 0).clock = true ∧
    (sLong.core 0 0).fusedLayer = none ∧ (sPass (aPass true)).longLeft 0 ((sPass (aPass true)).core 0 0).clock = false ∧
    (sLong.vec 0 0).running = some (aVec tVec) ∧ sLong.longLeft 0 (sLong.vec 0 0).clock = true ∧ (sFusedPass.core 0 0).running.isSome = true ∧
    (sFusedPass.core 0 0).fusedLayer ≠ none ∧ ((sGau aGau aLong).region 0).gau.running = some aGau ∧
    (sGau aGau aLong).longLeft 0 ((sGau aGau aLong).region 0).gau.clock = true := by decide +kernel

/-- ACLK is stopped for a dip while the pass runs. -/
def sStopped : State := { sLong with pwr := { sLong.pwr with regions := [(0, { freq := 125, volt := 800, stopDip := true })] } }

theorem test_meets_PassAborts_wait :
    sStopped.aclkStopped 0 = true ∧ (sStopped.runningOn 0 (.array 0)).isSome = true ∧ (sStopped.runningOn 0 (.vec 0)).isSome = true ∧
    sStopped.longLeft 0 (sStopped.clockOf 0 (.array 0)) = true := by decide +kernel

/-- Counter 0 of the region with two units of one tile, the first of which runs on slot 0. -/
def aWc : Wc := { active := true, units := 2, next := 0, tiles := 2 }
def issuedWc (copy : Bool) : Wc :=
  { active := true, units := 2, next := 1, tiles := 2, board := [(0, 1)], runners := [{ tile := 0, slot := 0, checks := 3, copy := copy }], emptied := [1]
    times := [100, 100, 100, 100, 100, 100, 100, 100] }
def idleCores : Tbl Core := [(0, { inService := true }), (1, { inService := true })]
def sWc (w : Wc) : State := withRegion { cores := idleCores, wcs := [(0, w)] }

theorem test_meets_FetchHandsOutTiles :
    MayFetch 0 0 0 0 (sWc aWc) ∧ ((sWc aWc).wc 0 0).requeue = [] ∧ ((sWc aWc).wc 0 0).next < ((sWc aWc).wc 0 0).units ∧
    MayFetch 0 0 1 0 (sWc { aWc with next := 2, board := [(0, 3), (1, 3)] }) ∧ (sWc { aWc with next := 2 }).wc 0 0 = { aWc with next := 2 } ∧
    MayFetch 0 0 4 0 (sWc { aWc with qlog := 2, tiles := 8 }) := by
  unfold MayFetch; decide +kernel

/-- The same counter with tile 0 in state `k` (1 ISSUED, 2 CLAIMED, 3 DONE). -/
def sTile (k done : Nat) : State := sWc { issuedWc false with board := [(0, k)], doneN := done }

theorem test_meets_ClaimsAndDone :
    (sTile 1 0).wcOwner 0 0 = some 0 ∧ ((sTile 1 0).wc 0 0).active = true ∧ ((sTile 1 0).wc 0 0).fused = false ∧
    ((sTile 1 0).wc 0 0).runners.find? (fun x => x.tile == 0 && x.slot == 0) = some { tile := 0, slot := 0, checks := 3, copy := false } ∧
    tget 0 ((sTile 1 0).wc 0 0).board 0 = 1 ∧ ((sTile 1 0).core 0 (mapGet ((sTile 1 0).region 0).slotMap 0).phys).todo = [] ∧
    (sTile 1 0).coreQuiet 0 (mapGet ((sTile 1 0).region 0).slotMap 0).phys = true ∧ tget 0 ((sTile 2 1).wc 0 0).board 0 = 2 ∧
    ((sTile 2 1).wc 0 0).doneN + 1 = ((sTile 2 1).wc 0 0).tiles ∧ ((sTile 2 0).wc 0 0).doneN + 1 ≠ ((sTile 2 0).wc 0 0).tiles := by decide +kernel

theorem test_meets_Stragglers :
    ((sWc (issuedWc false)).region 0).coresCtx = some 0 ∧ (sWc (issuedWc false)).aclkStopped 0 = false ∧ ((sWc (issuedWc false)).ctx 0).state = 3 ∧
    ((sWc (issuedWc false)).ctx 0).rslot = some 0 ∧ 0 ∈ slotWcs 0 ∧ (∀ m ∈ slotWcs 0, m ≠ 0 → ((sWc (issuedWc false)).wc 0 m).active = false) ∧
    4 * (sWc (issuedWc false)).medianOf 0 0 0 0 < max 0 (256 * (3 + 1)) ∧ (sWc (issuedWc false)).idleSlot 0 0 = some 1 ∧
    (issuedWc true).runners = [{ tile := 0, slot := 0, checks := 3, copy := true }] ∧
    ¬ 4 * (sWc { issuedWc false with times := [256, 256, 256, 256, 256, 256, 256, 256] }).medianOf 0 0 0 0 < max 0 (256 * (3 + 1)) := by decide +kernel

/-- The core at slot 3 stands ready to send the crust rows of stripe 3 to slot 0, whose link holds what `t` says. -/
def sCrust (t : Tbl (List (Nat × Nat))) : State :=
  withRegion { cores := [(3, { inService := true, todo := [.send 0 0 3, .finish 0 0 0 3] })], crust := t }

theorem test_meets_Crust :
    (sCrust []).sending 0 (mapGet ((sCrust []).region 0).slotMap 3).phys = some (0, 0, 3) ∧ (sCrust []).aclkStopped 0 = false ∧
    (∀ x ∈ tget [] ((sCrust []).region 0).crust 3, x.2 = 3) ∧ (sCrust [(3, [(0, 2)])]).sending 0 3 = some (0, 0, 3) ∧
    (∃ x ∈ tget [] ((sCrust [(3, [(0, 2)])]).region 0).crust 3, x.2 ≠ 3) := by decide +kernel

/-- A batch of pictures of context 0, and a swap of context 0 in progress. -/
def sBatch (n : Nat) : State :=
  { sRun with dis := { sRun.dis with ctxs := [(0, { plan := 0, slots := [0], batch := (List.range n).map fun k => (0, 10 + k), batchAt := 2000000000, dctx := 5 })] } }
def sSwap : State :=
  { sRun with rgn := [(0, { rslots := [(0, 0)], swapCores := some 0 })], dis := { sRun.dis with ctxs := [(0, { state := 2, rslot := some 0 })] } }

theorem test_meets_BatchesAndSwaps :
    ((sBatch 1).ctx 0).batch ≠ [] ∧ (sBatch 1).batches 0 = true ∧ (sBatch 1).dis.inService = true ∧ (sBatch 1).isFrozen = false ∧ 0 < (sBatch 1).batchCount ∧
    ((sBatch 1).ctx 0).queue.length < 8 ∧ ((sBatch 1).ctx 0).batch.length < (sBatch 1).batchCount ∧ (sBatch 16).batchCount ≤ ((sBatch 16).ctx 0).batch.length ∧
    (sSwap.region 0).swapping false = some 0 ∧ sSwap.aclkStopped 0 = false := by decide +kernel

/-! ### Sync objects, buffer pools and tracks -/

/-- Contexts 0 (BLOCKED on object 5) and 1 (running), with object 5 at 0xFFFFFFFF. -/
def sSyn : State :=
  { sRun with
    syn := { values := [(5, 0xFFFFFFFF)], waits := [{ waiter := .ctx 0, obj := 5, v := 1, since := 0 }] }
    dis := { sRun.dis with ctxs := [(0, { state := 4, wait := some 5 }), (1, { state := 3 })] } }

theorem test_meets_SyncObjectsWork :
    satisfied (sSyn.synValue 5 + 2) 1 = true ∧ satisfied (sSyn.synValue 5) 1 = false ∧ (sSyn.ctx 0).state = 4 ∧ sSyn.mayWait (.ctx 1) = true ∧
    sSyn.mayWait (.queueHead 3) = true ∧ (sSyn.synValue 5).toNat ≤ (0xFFFFFFFF : U32).toNat ∧ (1 : U32).toNat < (sSyn.synValue 5).toNat ∧ satisfied (sSyn.synValue 5) 0x80000000 = true ∧ satisfied (sSyn.synValue 5) 0 = false := by decide +kernel

/-- Pool 0 with `fresh` buffers handed out and a list of those that returned. -/
def withPool (p : Pool) (bufs : Tbl Buf := []) : State := { sRun with bpm := { inService := true, npools := 1, pools := [(0, p)], bufs := bufs, shares := 2 } }
def p0 : Pool := { log2 := 12, count := 16, base := 0x10000000 }

theorem test_meets_AllocationHandsOut :
    (withPool p0).poolOk 0 = true ∧ (withPool p0).bpm.inService = true ∧ ((withPool { p0 with fresh := 15 }).pool 0).fresh < ((withPool p0).pool 0).count ∧
    ((withPool { p0 with fresh := 16, returned := [3, 1] }).pool 0).returned.head? = some 3 ∧ ((withPool { p0 with fresh := 16 }).pool 0).returned = [] ∧
    ((withPool { p0 with fresh := 16 }).pool 0).count ≤ ((withPool { p0 with fresh := 16 }).pool 0).fresh ∧ ctxOfReq (reqCtx 1) = some 1 ∧
    1 < (withPool p0).dis.nCtx ∧ (withPool p0).underReset (.ctx (Fin.ofNat 4096 1)) = false ∧
    (withPool p0).aclkStopped ((withPool p0).ctx 1).region = false := by decide +kernel

/-- Buffer 0 of pool 0, owned by requester 1, with shares. -/
def sBuf (b : Buf) (w : List U16 := []) : State := withPool { p0 with fresh := 16, waiters := w } [(0, b)]

theorem test_meets_SharesAndFrees :
    (sBuf { owner := 1, shares := [2] }).handleCode 0 = none ∧ (sBuf { owner := 1, shares := [2] }).buf 0 = some { owner := 1, shares := [2] } ∧
    (sBuf { owner := 1, shares := [2] }).bpm.shares < 4194304 ∧ (2 : U16) ∈ ([2] : List U16) ∧ ([2] : List U16).erase 2 = [] ∧
    ((sBuf { owner := 1, freed := true, shares := [2] } [9]).pool (hPool 0)).waiters = [9] ∧ ((sBuf { owner := 1 }).pool (hPool 0)).waiters = [] ∧
    (sBuf { owner := 1 }).handleCode 0x10 = some 0x0301 ∧ (sBuf { owner := 1 }).handleCode 1 = some 0x0302 ∧ ctxOfReq reqTke = none ∧
    (let s := sBuf { owner := reqTke }; 4194304 ≤ (s.updBpm fun b => { b with shares := 4194304 }).bpm.shares) := by decide +kernel

theorem test_meets_BufferAccesses :
    (sBuf { owner := 1 }).accessCode 0 4092 4 4 = none ∧ (sBuf { owner := 1 }).poisonedAt ((sBuf { owner := 1 }).bufAddr 0 + 4092) 4 = false ∧
    (sBuf { owner := 1 }).accessCode 0 4093 4 1 = some 0x0303 ∧ (sBuf { owner := 1 }).accessCode 0 2 4 4 = some 0x0304 ∧
    (sBuf { owner := 1 }).accessCode 1 0 4 4 = some 0x0302 := by decide +kernel

/-- Slot 0 with live track 7, and an empty detection list of it at address 0x8000. -/
def aTrack (k : Nat) : Track := { tstate := k, slot := 0, lastSeen := 1, prio := 1, gen := 3 }
def withTke (f : Tke → Tke) : State := let s := withSlot { state := 2 }; { s with tke := f { s.tke with tracks := [(7, aTrack 1)] } }
def sAssoc : State := withTke id
def sAssocFailed : State := let s := withTke id; { s with dis := { s.dis with failed := [(0, 0)] } }

/-- The same with a list of one entry, whose embedding lies in no buffer; and with pipeline 2 waiting on a sync object. -/
def sAssocList : State := { sAssoc with dram := { mem := ({} : Mem).writeN 0x8002 [1] } }
def sAssocWaits : State := { sAssoc with syn := { waits := [{ waiter := .tke 2, obj := 5, v := 1, since := 0 }] } }

theorem test_meets_AssociationDecides :
    sAssocWaits.waits (.tke 2) = true ∧ sAssoc.waits (.tke 2) = false ∧ (sAssocList.detList 0x8000 16).ents.isEmpty = false ∧
    sAssocList.accessCode (sAssocList.detList 0x8000 16).emb 0 (128 * (sAssocList.detList 0x8000 16).ents.length) 64 = some 0x0302 ∧
    sAssoc.tracker = some tTracker ∧ sAssoc.tkeServes = true ∧ (sAssoc.detList 0x8000 16).slot = 0 ∧ (sAssoc.slot 0).state ≠ 0 ∧ sAssoc.tke.results = [] ∧
    (sAssoc.detList 0x8000 16).flags / 2 % 2 = 0 ∧ sAssoc.dis.failed.contains (0, (sAssoc.detList 0x8000 16).arrival) = false ∧
    (sAssoc.detList 0x8000 16).ents.isEmpty = true ∧ sAssoc.liveOf 0 = [7] ∧
    sAssocFailed.dis.failed.contains (0, (sAssocFailed.detList 0x8000 16).arrival) = true := by decide +kernel

def aDet : DetEnt := { box := [0, 0, one32, one32], score := one32, cls := 4, emb := List.replicate 64 0 }
def aResult (m : List Match) (x : List Nat) (c : List DetEnt) : AssocResult :=
  { slot := 0, arrival := 50, picNum := 2, concealed := false, matched := m, created := c, missed := x, predicted := [], tag := 9 }
def sScatter (r : AssocResult) (t : Track) : State := withTke fun k => { k with results := [r], tracks := [(7, t)], fresh := 8 }

theorem test_meets_ScatterCommits :
    (sScatter (aResult [{ track := 7, det := aDet, dormant := false }] [] []) (aTrack 1)).tkeServes = true ∧
    (sScatter (aResult [{ track := 7, det := aDet, dormant := false }] [] []) (aTrack 1)).tracker = some tTracker ∧
    (sScatter (aResult [{ track := 7, det := aDet, dormant := false }] [] []) (aTrack 1)).tke.results.find? (fun r => r.slot == 0) =
      some (aResult [{ track := 7, det := aDet, dormant := false }] [] []) ∧
    ((sScatter (aResult [] [7] []) { aTrack 1 with misses := 9 }).track 7).misses < tTracker.maxMisses.toNat ∧
    tTracker.maxMisses.toNat ≤ ((sScatter (aResult [] [7] []) { aTrack 1 with misses := 10 }).track 7).misses ∧
    (tget [] (sScatter (aResult [] [7] []) (aTrack 1)).tke.zones ((sScatter (aResult [] [7] []) (aTrack 1)).track 7).zone).length < 1024 ∧
    ((sScatter (aResult [] [] [aDet]) (aTrack 1)).updTke fun k =>
      { k with results := k.results.filter fun q => !(q.slot == 0) }).newTrack.isSome = true := by decide +kernel

/-- Two handoff rings, an entry at the start of ring 1, and the track in DORMANT. -/
def sHandoff (b : List Byte) : State :=
  let s := withTke fun k => { k with tracks := [(7, aTrack 2)], zones := [(0, [7])], fresh := 8 }
  { s with
    hif := { s.hif with hoPut := [(1, 1)] }
    crt := { s.crt with recipe := some { tCart with settings := [{ key := 12, zero := 0, value := 2 }] } }
    dram := { mem := ({} : Mem).writeN (handoffBase 1) b } }

theorem test_meets_HandoffAndDormancy :
    (sHandoff []).tracker = some tTracker ∧ (sHandoff []).tkeServes = true ∧ (sHandoff []).dev.state ≠ .parked ∧ (sHandoff []).isFrozen = false ∧ 1 < (sHandoff []).setting 12 0 ∧
    tget 0 (sHandoff []).hif.hoGet 1 ≠ tget 0 (sHandoff []).hif.hoPut 1 ∧ handoffOk tTracker (zeros 128) = false ∧
    (sHandoff []).poisonedAt (handoffBase 1) 128 = false ∧ (sHandoff []).newTrack.isSome = true ∧ ((sHandoff []).track 7).tstate = 2 ∧
    ((sHandoff []).track 7).inBatch = false ∧ (sHandoff []).tke.results = [] := by decide +kernel

theorem test_meets_TickStarts :
    sAssoc.tracker = some tTracker ∧ sAssoc.tkeServes = true ∧ sAssoc.tke.running = false ∧ sAssoc.pwr.pstate = .run ∧
    (sIn .nap).pwr.pstate ≠ .off ∧ (sIn .nap).tickBusy = false ∧ (sIn .nap).tkeServes = true := by decide +kernel

/-- An entry that keeps its form: zone 0, an embedding whose elements are all alike. -/
def goodEntry : List Byte := zeros 16 ++ emb8 (List.replicate 64 0x3F80) ++ zeros 40

theorem test_meets_Handoff_accepts : handoffOk tTracker goodEntry = true ∧ (sHandoff goodEntry).dramBytes (handoffBase 1) 128 = goodEntry ∧
    (tget [] (sHandoff goodEntry).tke.zones (field goodEntry 0 1)).length < 1024 := by decide +kernel

/-! ### Registers of the host interface, BARs and windows -/

theorem test_meets_RingIndicesMove :
    sRun.mmio = true ∧ sRun.taken = sRun ∧ sRun.isFrozen = false ∧ ((16 : U32) - sRun.hif.cmdGet).toNat ≤ 2 ^ sRun.hif.cmdLog2.toNat ∧
    2 ^ sRun.hif.cmdLog2.toNat < ((17 : U32) - sRun.hif.cmdGet).toNat ∧ (sRun.hif.rplPut - 0).toNat ≤ 2 ^ sRun.hif.rplLog2.toNat ∧
    2 ^ sRun.hif.rplLog2.toNat < (sRun.hif.rplPut - 1).toNat ∧ (sHandoff []).serving = true ∧ (sHandoff []).mmio = true ∧
    ((1024 : U32) - tget 0 (sHandoff []).hif.hoGet 1).toNat ≤ handoffEntries ∧ handoffEntries < ((1025 : U32) - tget 0 (sHandoff []).hif.hoGet 1).toNat := by
  decide +kernel

/-- Metadata ring 0 full, with a record that waits. -/
def sOverflow : State :=
  { sRun with hif := { sRun.hif with
      md := [(0, { base := 0x40000, mirror := 0x50000, put := 64, ovf := [{ rtype := 1, rflags := 0, slot := 0, seq := 64, two := true, ep := false, body := [] }] })] } }

theorem test_meets_MdGet :
    ((sOverflow.mdRing 0).put - 2).toNat + 2 ≤ 2 ^ (sOverflow.mdRing 0).log2.toNat ∧ sOverflow.mmio = true ∧ sOverflow.hif.ringEn = true ∧
    (sOverflow.mdRing 0).ovf.length = 1 ∧ ((sRun.mdRing 3).put - 0).toNat ≤ 2 ^ (sRun.mdRing 3).log2.toNat ∧ (sRun.mdRing 3).ovf = [] := by decide +kernel

/-- A command waits to be read; one is outstanding. -/
def sFetch : State := { sRun with hif := { sRun.hif with cmdPut := 1 } }

theorem test_meets_CommandFetchReads :
    sFetch.freeTag 0 = some 0 ∧ sFetch.ringsWork = true ∧ sFetch.hif.cmdIssued ≠ sFetch.hif.cmdPut ∧ sFetch.hif.started.length + sFetch.cmdReads < 64 ∧
    (sFetch.hif.rplPut - sFetch.hif.rplGet).toNat + (sFetch.hif.started.length + sFetch.cmdReads) + 1 ≤ 2 ^ sFetch.hif.rplLog2.toNat := by decide +kernel

/-- Attention of class 6 was raised 1 ms ago. -/
def sAttn : State := { sRun with hif := { sRun.hif with attn := 0x40, attnCode := [(6, 5)], attnWait := [(6, 999500000)] } }

theorem test_meets_RingControlAndAttention :
    sAttn.mmio = true ∧ sAttn.taken = sAttn ∧ sAttn.funcReady = true ∧ sAttn.hif.ringEn = true ∧ tfind sAttn.hif.attnWait 6 = some 999500000 ∧ sAttn.ringsWork = true ∧ sAttn.hif.attn.getLsbD 6 = true ∧
    (sAttn.hif.rplPut - sAttn.hif.rplGet).toNat < 2 ^ sAttn.hif.rplLog2.toNat := by decide +kernel

/-- Window 0 maps the start of the ingest area, where slot 0's ring lies; a commit is in progress or not. -/
def sWin (busy : Bool) (state : BitVec 3 := 1) : State :=
  { withSlot { state := state } with
    wins := { shadow := [(0, { offset := 0x1000 })], active := [(0, { enable := true })], busy := busy, commitAt := 999999000 }
    hif := { sRun.hif with areaIngest := 0x10, areaHandoff := 0x20 } }

theorem test_meets_WindowsWork :
    (sWin false).mmio = true ∧ (sWin false).awake = sWin false ∧ (sWin false).wins.busy = false ∧ (sWin true).wins.busy = true ∧
    (sWin false).windowTo 0 64 = some 0x100000 ∧ (sWin false).writable 0x100000 64 = true ∧ (sWin false 0).windowTo 0 64 = some 0x100000 ∧
    (sWin false 0).writable 0x100000 64 = false ∧ (sWin false).windowTo 0x800000 64 = none ∧ (sWin false).isFrozen = false ∧
    (sWin false).dev.state ≠ .parked := by decide +kernel

theorem test_meets_OtherBarAccesses :
    ({ sRun with link := { sRun.link with memSpace := false } } : State).funcReady = true ∧ sDump.mmio = true ∧ sDump.taken = sDump ∧
    ({ sDump with dbg := { sDump.dbg with bar4 := 5 } } : State).findDump 5 = some aDump ∧ sDump.dbg.bar4 = 0 ∧
    sRun.link.memSpace = true ∧ 28 ≤ (36 : Fin 37).val ∧ (27 : Fin 37).val < 28 ∧ (2 : U32).toNat % 4 ≠ 0 ∧ (0x838 : U32).toNat % 4 = 0 ∧ sPowered.mmio = false := by decide +kernel

theorem test_meets_RemovalHandshake :
    sRun.taken = sRun ∧ sRun.awake = sRun ∧ sRun.wires.ready = true ∧ sRun.parkReady = true ∧ sRefused.taken = sRefused ∧ sRefused.dev.state = .refused ∧
    sRefused.mmio = true ∧ sOpen.taken = sOpen ∧ (sOpen.slot 0).state ≠ 0 ∧ sOpen.mmio = true ∧ sRun.mmio = true ∧ sRun.dev.state ≠ .parked ∧ (sRun.chan 23).trained = true ∧ sParked.mmio = true ∧ sParked.taken = sParked ∧
    sParked.underReset .chip = false ∧ sRun.atRest = false ∧ sRun.dev.pressAt = none ∧ sRun.isFrozen = false ∧
    sRun.now - 0 ≤ 5000000000 ∧ sRun.dev.powerOff = false := by decide +kernel

/-- Slot 0 runs tile 0 of an active counter, and slot 1 a fused group. -/
def sMapped : State := withRegion { cores := [(1, { inService := true, todo := [.finish 0 0 0 0] })], wcs := [(0, issuedWc false)] }

theorem test_meets_Maps_replace :
    (sMapped.core 0 (mapGet (sMapped.region 0).slotMap 0).phys).fusedLayer = none ∧ (mapGet (sMapped.region 0).slotMap 0).valid = true ∧
    mapGet (sMapped.region 0).slotMap 0 ≠ { valid := true, phys := 17 } ∧ (sMapped.wc 0 0).active = true ∧ (sMapped.wc 0 0).runners.length = 1 ∧
    (sMapped.core 0 (mapGet (sMapped.region 0).slotMap 1).phys).fusedLayer.isSome = true ∧ (mapGet (sMapped.region 0).slotMap 1).valid = true := by
  decide +kernel

/-- Core 4 of region 0 is fenced. -/
def sFenced : State := { sRun with rgn := [(0, { fenced := 16, gau := { fenced := 16 }, slotMap := [(4, { valid := false, phys := 0 })] })] }

theorem test_meets_MapsAndTraining :
    (0x80000011 : U32).getLsbD 31 = true ∧ (0x80000011 : U32).toNat % 32 ≤ 17 ∧ (sFenced.region 0).fenced.getLsbD 17 = false ∧
    (∀ m, m < 16 → m ≠ 4 → ((sFenced.region 0).written m).valid = true → ((sFenced.region 0).written m).phys ≠ 17) ∧ 17 < (0x80000012 : U32).toNat % 32 ∧
    (sFenced.region 0).fenced.getLsbD ((0x80000004 : U32).toNat % 32) = true ∧ ((sFenced.region 0).written 3).valid = true ∧
    ((sFenced.region 0).written 3).phys = 3 ∧ (0x80000010 : U32).toNat % 32 ≤ 16 ∧ (sFenced.region 0).gau.fenced.getLsbD 16 = false ∧
    (∀ m, m < 16 → m ≠ 4 → (mapGet (sFenced.region 0).gau.tileMap m).valid = true → (mapGet (sFenced.region 0).gau.tileMap m).phys ≠ 16) ∧
    (tget {} ({ sRun with dmc := { sRun.dmc with trn := [(3, { busy := true })] } } : State).dmc.trn 3).busy = true := by decide +kernel

theorem test_meets_RegisterWritesAct : sRun.mmio = true ∧ sRun.taken = sRun ∧ (0x10 : U32) ≠ goOffset ∧ (sIn .nap).mmio = true := by decide +kernel

/-! ### Link, boot and resets -/

/-- Held in PERST#, with the supply there; and out of it. -/
def sHeldReset : State := { sPowered with wires := { sPowered.wires with perst := true, linkUp := false } }
/-- The package is not ready yet. -/
def sNotReady (perst : Bool) : State := { sPowered with wires := { sPowered.wires with perst := perst, ready := false, linkUp := false } }

theorem test_meets_LinkResets :
    sRun.underReset .chip = false ∧ sRun.wires.perst = false ∧ sRun.wires.ready = true ∧ (sNotReady false).wires.ready = false ∧
    (sNotReady false).wires.perst = false ∧ sHeldReset.wires.perst = true ∧ sHeldReset.atRest = true ∧ sHeldReset.supplyOk = true ∧
    sHeldReset.dbg.current = none ∧ sRun.wires.linkUp = true ∧ sRun.pwr.pstate ≠ .off ∧ sRun.atRest = false ∧
    ({ sRefused with crt := { sRefused.crt with chrAt := some 2000000000 } } : State).crt.chrAt = some 2000000000 := by decide +kernel

theorem test_meets_LinkPowerStates :
    sRun.wires.linkUp = true ∧ sRun.link.width.toNat ≤ 16 ∧ sRun.link.rate.toNat ≤ 3 ∧ sRun.funcReady = true ∧ sRun.awake = sRun ∧
    (sRun.updWires fun x => { x with l23 := true }).mayOff = false ∧ sRun.pwr.pstate ≠ .off ∧
    (({ sRun with link := { sRun.link with d3hot := true }, pwr := { sRun.pwr with tol := 0xFFFFFFFF } } : State).updWires fun x =>
      { x with l23 := true }).mayOff = true := by decide +kernel

/-- A command read and a pull read are outstanding; a third tag is quarantined. -/
def sReads : State :=
  { sPulling with
    link := { sPulling.link with reads := [{ tag := 0, use := .pull 0 0 64, at_ := 0 }, { tag := 1, use := .command 0, at_ := 5 }], quarantine := [{ tag := 2, use := .command 0, at_ := 0 }] }
    hif := { sPulling.hif with cmdPut := 1, cmdIssued := 1 } }

theorem test_meets_ReadsTimeOut :
    sReads.link.reads.find? (fun r => r.tag == (1 : U16).toNat) = some { tag := 1, use := .command 0, at_ := 5 } ∧ sReads.hif.ringEn = true ∧
    sReads.link.reads.find? (fun r => r.tag == (0 : U16).toNat) = some { tag := 0, use := .pull 0 0 64, at_ := 0 } ∧ (sReads.slot 0).wants 0 = true ∧
    sReads.link.quarantine.any (fun r => r.tag == (2 : U16).toNat) = true ∧ ({ sReads with link := { sReads.link with split := [3] } } : State).link.split.contains 3 = true ∧
    sReads.link.quarantine.any (fun r => r.tag == 3) = false := by decide +kernel

def sPtm (good : Option Nat) : State :=
  { sRun with link := { sRun.link with ptmOn := true }, dev := { sRun.dev with ptmLast := some 0, ptmGood := good, synced := true } }

theorem test_meets_PtmFollowsRoot :
    (sPtm none).ptmRuns = true ∧ (sPtm none).isFrozen = false ∧ -(2 ^ 31 : Int) ≤ ((sPtm none).now : Int) - ((1000000100 : U64).toNat : Int) ∧
    ((sPtm none).now : Int) - ((999999900 : U64).toNat : Int) ≤ 100 ∧ 1000000000 ≤ (sPtm (some 0)).now - 0 ∧ (sPtm none).dev.ptmLast = some 0 := by decide +kernel

/-- Vector 1 has an entry that was not signalled; it is masked or not. -/
def sDelay (mask : List Nat) : State :=
  { sRun with
    hif := { sRun.hif with md := [(0, { delay := 2, count := 16, unsig := 3, oldest := 999990000 })] }
    link := { sRun.link with msixEn := true, msixMask := mask, msixPend := if mask = [] then [] else [1] } }

theorem test_meets_ConfigurationAndDelays :
    ((sDelay []).mdRing 0).unsig ≠ 0 ∧ (sDelay []).link.msixEn = true ∧ (sDelay []).link.msixMaskAll = false ∧ 1 ∉ (sDelay []).link.msixMask ∧
    28 ≤ (sDelay []).link.bar2Log2 ∧ sRun.link.msixEn = false ∧ ((sDelay []).mdRing 0).delay ≠ 0 ∧ (sDelay []).funcReady = true ∧ (sDelay []).wires.linkUp = true ∧
    (sDelay []).wires.l23 = false ∧ 1 ∈ (sDelay [1]).link.msixMask ∧ 1 ∈ (sDelay [1]).link.msixPend ∧ sPowered.funcReady = false ∧
    sPowered.wires.linkUp = true ∧ (sDelay []).awake = sDelay [] := by decide +kernel

/-- The boot at a stage. -/
def sBoot (stage : Byte) (cart : Option Cartridge := some tCart) : State :=
  { sPowered with
    crt := { cart := cart, present := cart.isSome, sameCart := true, stage := stage, verified := true, recipe := cart, loaded := stage == 8, adapter := some tAdapter }
    dmc := { chans := (List.range 24).map fun k => (k, { inService := true, trained := true }) } }
/-- The cartridge with a bit of its signature changed. -/
def forged : Cartridge := { tCart with header := { tHeader with headerSig := tHeader.headerSig ^^^ 1 } }

theorem test_meets_BootChecks :
    (sBoot 1 none).bootAt 1 = true ∧ (sBoot 1 none).crt.cart = none ∧ (sBoot 1).bootAt 1 = true ∧ (sBoot 1).crt.cart = some tCart ∧ headerCode (sBoot 1).fuses tCart = none ∧
    headerCode (sBoot 1).fuses forged = some 0x0103 ∧ (sBoot 2).bootAt 2 = true ∧ (sBoot 2).crt.verified = true ∧ (sBoot 2).crt.recipe = some tCart ∧
    (sBoot 2).crt.cart = some tCart ∧ sectionHashes tCart.manifest (· == 1) = [1] ∧ sectionHashes tCart.manifest (· == 1) ≠ [2] ∧
    (sBoot 3).bootAt 3 = true := by decide +kernel

/-- A diagnostic cartridge. -/
def diagCart : Cartridge := { tCart with header := { tHeader with cartType := 2 } }

theorem test_meets_BootProceeds :
    (sBoot 4).bootAt 4 = true ∧ (List.range 24).filter (fun k => BitVec.getLsbD (0x800001 : BitVec 24) k || (tget {} (sBoot 4).dmc.trn k).narrow) = [0, 23] ∧
    ((List.range 24).filter (fun k => BitVec.getLsbD (0x800000 : BitVec 24) k || (tget {} (sBoot 4).dmc.trn k).narrow)).length ≤ 1 ∧ (sBoot 6).bootAt 6 = true ∧ (sBoot 6).ras.stResult = 0 ∧
    (sBoot 7).bootAt 7 = true ∧ (sBoot 7).crt.loaded = false ∧ (sBoot 7).crt.cart = some tCart ∧
    (sBoot 7).crt.recipe = some tCart ∧ sectionHashes tCart.manifest (· != 1) = [2, 3, 4, 5, 6, 7, 8, 9] ∧ sectionHashes tCart.manifest (· != 1) ≠ [] ∧
    (sBoot 6).diagnostic = false ∧ (sBoot 6 (some diagCart)).diagnostic = true ∧ (sBoot 6 (some diagCart)).crt.loaded = false ∧
    (let s := sBoot 6 (some diagCart); ({ s with crt := { s.crt with loaded := true } } : State).crt.loaded) = true ∧ tCart.header.cartType ≠ 2 ∧ diagCart.header.cartType = 2 ∧ (sBoot 6 (some diagCart)).crt.recipe = some diagCart ∧ (sBoot 6 (some diagCart)).crt.cart = some diagCart ∧
    (sBoot 6 (some diagCart)).bootAt 6 = true := by decide +kernel

/-- The boot at stage 8 with engines that passed self-test, and with a plan that fails a check. -/
def sLoad (r : Cartridge) : State :=
  { sBoot 8 with
    crt := { (sBoot 8).crt with recipe := some r }
    dec := sRun.dec, enc := sRun.enc, cse := sRun.cse
    ras := { stResult := 1 } }

theorem test_meets_ServiceEntry_refuses :
    (sLoad tCart).bootAt 8 = true ∧ (loaderFail { tCart with plans := [{ tPlan 0 0 with pversion := 2 }, tPlan 1 1] }).isSome = true ∧
    (loaderFail tCart).isNone = true := by decide +kernel

theorem test_meets_ServiceEntry_admits :
    (let u := ((sLoad tCart).updCrt fun c => { c with stage := 9 }).updDmc fun d => { d with grain := (sLoad tCart).setting 11 12 }
     (u.admitAll tCart (entriesOf tCart (reserveSlots tCart))).toOption.isSome) = true ∧
    (let r := { tCart with pools := [] }
     let u := ((sLoad r).updCrt fun c => { c with stage := 9 }).updDmc fun d => { d with grain := (sLoad r).setting 11 12 }
     (u.admitAll r (entriesOf r (reserveSlots r))).toOption.isNone) = true ∧ (loaderFail { tCart with pools := [] }).isNone = true := by decide +kernel

/-- A reset in progress. -/
def sReset (scope : ResetScope) (level : Nat) (units : List U16 := []) : State :=
  { sRun with rst := { runs := [{ scope := scope, level := level, cause := 0x050A, since := 999000000, epoch := 0, count := 0, taken := false, ended := false, units := units }] } }

theorem test_meets_ResetsEndOrEscalate :
    ((sReset (.unit 0x2003) 1).runOf (.unit 0x2003)).isSome = true ∧ ((sReset (.part 8) 2).runOf (.part 8)).isSome = true ∧
    ((sReset (.ctx 1) 5).runOf (.ctx 1)).isSome = true ∧ Stays (sReset (.ctx 1) 5) ∧ ((sReset .chip 3).runOf .chip).isSome = true ∧ (sReset .chip 3).wires.perst = false ∧
    (sReset .chip 3).supplyOk = true ∧ (sReset .chip 3).dbg.current = none ∧ unitPart 0x2003 = some 8 ∧
    (sReset (.unit 0x2003) 1).underReset (.part (Fin.ofNat 10 8)) = false ∧ (sReset (.part 8) 2).underReset .chip = false := by decide +kernel

def sWdog (boot : Bool) : State := { sBoot 3 with aon := { sPowered.aon with wdogArmed := true, wdogBoot := boot, wdogStart := 0 } }

theorem test_meets_PowerUpAndWatchdogs :
    (sWdog false).aon.wdogArmed = true ∧ (sWdog false).aon.wdogBoot = false ∧ (sWdog true).aon.wdogBoot = true ∧ State.reset.wires.vaux3 = false ∧
    sRun.wires.vaux3 = true ∧ ({ sPowered with wires := { sPowered.wires with kclk := false } } : State).wires.kclk = false ∧
    (sNotReady true).wires.kclk = true ∧ 11000 < (sNotReady true).wires.vin12.toNat ∧ (sNotReady true).wires.ready = false ∧
    (sNotReady false).aon.dip = false ∧ (sNotReady false).dbg.current = none := by decide +kernel

/-! ### Cartridge, DRAM, power, reliability, SMBus and JTAG -/

def sNoCart (st : DevState := .run) : State := { sRun with dev := { state := st }, crt := { sRun.crt with cart := none, present := false } }
def otherCart : Cartridge := { tCart with header := { tCart.header with cartId := 8 } }

theorem test_meets_CartridgeMoves :
    sRun.crt.cart.isSome = true ∧ sRun.pwr.pstate ≠ .off ∧ sNoCart.wires.ready = true ∧ (sNotReady false).wires.ready = false ∧ sRun.crt.stage ≠ 0 ∧ (sBoot 3).dev.state = .booting ∧ (sBoot 3).crt.stage ≠ 0 ∧
    sRun.dev.state ≠ .booting ∧ sRun.isFrozen = false ∧ (sNoCart).crt.cart = none ∧ ({ State.reset with crt := {} } : State).crt.stage = 0 ∧
    (sNoCart .refused).dev.state = .refused ∧ (sNoCart).crt.recipe = some tCart ∧ sameCartridge tCart tCart = true ∧ sameCartridge otherCart tCart = false := by
  decide +kernel

/-- A life record is being written. -/
def aRecord (o : RecOrigin) : PendRec := { payload := sRun.lifeRecord, origin := o, writing := true }
def sWriting (o : RecOrigin := .life) : State := { sRun with crt := { sRun.crt with writeBusy := true, pend := [aRecord o], seq := 4 } }

theorem test_meets_CartridgeWrites :
    sWriting.crt.writeBusy = true ∧ sWriting.crt.pend.findIdx? (·.writing) = some 0 ∧ sWriting.crt.pend[0]? = some (aRecord .life) ∧
    sWriting.crt.cart = some tCart ∧ sWriting.crt.recipe = some tCart ∧
    (sWriting.writePlace tCart [] (payloadBytes (sWriting.written (aRecord .life).payload)).length).isSome = true ∧
    (sWriting.updCrt fun c => { c with writeBusy := false, hold := c.hold || false }).tight (sWriting.written (aRecord .life).payload) = false ∧ sWriting.serving = true ∧
    lifeLevelOf (lifeFigures sWriting.crt.counts sWriting.crt.age).2.2 ≤ sWriting.crt.lifeLevel ∧ sRun.serving = true ∧ sRun.crt.present = true ∧
    sRun.crt.sameCart = true := by decide +kernel

def aCalResult (after : U32) : CalResult := { lossBefore := 0x3F800000, lossAfter := after, steps := List.replicate 100 { batch := List.replicate 256 (0, 1), acts := [], grads := [] } }
def sCal (mode : Byte) (training : Bool) : State :=
  { sRun with cal := { running := true, tag := 9, mode := mode, steps := 100, minTracks := 512, training := training, deadline := 2000000000
                       entries := [(1, []), (1, []), (10, [])] } }

theorem test_meets_CalibrateEnds :
    (sCal 2 true).cal.running = true ∧ (sCal 2 true).cal.training = true ∧ (sCal 2 true).cal.writing = false ∧ (sCal 2 true).dev.state = .run ∧
    (sCal 2 true).hif.ringEn = true ∧ (sCal 2 true).trainsNow = true ∧ ({ sCal 2 true with adm := {} } : State).trainsNow = false ∧
    (sCal 2 true).losses (aCalResult 0x3F000000) = (0x3F800000, 0x3F000000) ∧
    trainSteps ((sCal 2 true).runSteps (aCalResult 0x3F000000)) 0 (sCal 2 true).cal.tensors = ([], 100, true) ∧
    calCode 100 100 true 0x3F800000 0x3F000000 = 0 ∧ calCode 100 100 true 0x3F800000 0x3F800000 = 0x0053 ∧
    (sCal 1 true).cal.mode ≠ 2 ∧ (sCal 1 true).crt.present = true ∧ (sCal 1 true).crt.sameCart = true ∧ (sCal 1 true).crt.recipe = some tCart ∧ (sCal 1 false).cal.training = false := by decide +kernel

theorem test_meets_DramReadsAndWrites :
    sRun.dramTop = 96636764160 ∧ sRun.dramTop < 96636764160 + 1 ∧ sRun.bpm.inService = true ∧ sPowered.bpm.inService = false ∧ sPowered.dramTop < 96636764160 + 1 ∧ sRun.dramServes 60 = true ∧ sRun.underReset (.unit (mkUnit 5 (sRun.placeOf 60).chan)) = false ∧
    (sReset (.unit (mkUnit 5 0)) 1).underReset (.unit (mkUnit 5 ((sReset (.unit (mkUnit 5 0)) 1).placeOf 60).chan)) = true ∧ (60 : U64).toNat % 64 + 4 ≤ 64 ∧ (60 : U64).toNat + 4 ≤ sRun.dramTop ∧
    sRun.dram.mem.wf = true ∧ (List.replicate 64 (1 : Byte)).length = 64 ∧ (0 : U64).toNat % 64 + 64 ≤ 64 := by decide +kernel

def sPanic (n : Nat) : State := { sRun with dmc := { chans := (List.range 24).map fun k => (k, { inService := true, trained := true, panic := true, postponed := [(3, n)] }) } }

theorem test_meets_DramUpkeep :
    (sRun.chan 5).inService = true ∧ (sRun.chan 5).selfRefresh = false ∧ ((sPanic 7).chan 5).panic = true ∧ tget 0 ((sPanic 7).chan 5).postponed 3 < 8 ∧
    8 ≤ tget 0 ((sPanic 8).chan 5).postponed 3 ∧ (sRun.chan 5).panic = false ∧
    (∀ j, j < 4 → (sRun.chan (4 * 5 + j)).inService = true ∧ (sRun.chan (4 * 5 + j)).selfRefresh = false) ∧ sRun.isFrozen = false ∧
    sRun.channels.findIdx? (· == 5) = some 5 ∧ deinterleave 12 24 5 (64 * (sRun.chan 5).scrubPos) / 64 * 2 ∉ sRun.dram.poison := by decide +kernel

theorem test_meets_PowerStatesChange :
    sRun.pwr.pstate = .run ∧ sRun.mayRest = true ∧ 150 ≤ sRun.tEff ∧ sRun.quiet = true ∧ (sIn .doze).pwr.pstate = .doze ∧ (sIn .nap).pwr.pstate = .nap ∧
    ({ sIn .nap with pwr := { (sIn .nap).pwr with tol := 3000 } } : State).maySlumber = true ∧ (sIn .slumber).pwr.pstate = .slumber ∧
    ({ sIn .nap with pwr := { (sIn .nap).pwr with wakeAt := some 5 } } : State).pwr.wakeAt = some 5 ∧
    ({ sIn .slumber with pwr := { (sIn .slumber).pwr with waking := true } } : State).pwr.waking = true ∧ sRun.regionRuns 3 = false ∧
    (sRun.region 3).coresCtx = none ∧ ({ sRun with pwr := { sRun.pwr with regions := [(0, { nap := true })] } } : State).hasContexts 0 = true := by decide +kernel

/-- Region 0 at a frequency, with the package over its limit or under it. -/
def sFreq (f avg : Nat) : State := { sRun with pwr := { sRun.pwr with samples := [avg], regions := [(0, { freq := f, volt := 800 })] } }

theorem test_meets_PowerIsHeld :
    (sFreq 130 160000).dis.inService = true ∧ (sFreq 130 160000).adm.done = true ∧ (sFreq 130 160000).limitMw < (sFreq 130 160000).pwr.average ∧
    (sFreq 130 160000).adm.fAdm < ((sFreq 130 160000).regPwr 0).freq ∧ (sFreq 100 150000).pwr.average ≤ (sFreq 100 150000).limitMw ∧
    ((sFreq 100 150000).regPwr 0).freq < (sFreq 100 150000).adm.fAdm ∧ ((sFreq 100 150000).regPwr 0).lowSince = none ∧ sRun.pwrWorks = true ∧
    12 * sRun.limitMw < 10 * 180001 ∧ (sRun.regPwr 0).stopFast = false ∧
    (({ sRun with pwr := { sRun.pwr with regions := [(0, { stopFast := true })] } } : State).regPwr 0).stopFast = true ∧
    (({ sRun with pwr := { sRun.pwr with regions := [(0, { target := some 130 })] } } : State).regPwr 0).target = some 130 ∧
    (({ sRun with pwr := { sRun.pwr with regions := [(0, { target := some 130, goal := some 140 })] } } : State).regPwr 0).goal = some 140 ∧
    stepUp 130 ≠ 130 ∧ (sRun.regPwr 0).throttled = false ∧ ({ lowSince := some 5 } : RegPwr).throttled = true ∧
    (({ sRun with pwr := { sRun.pwr with regions := [(0, { lowSince := some 5, freq := 100 })] } } : State).regPwr 0).freq < sRun.adm.fAdm ∧
    (({ sRun with pwr := { sRun.pwr with regions := [(0, { lowSince := some 5 })] } } : State).regPwr 0).lowSince = some 5 := by decide +kernel

def sHot : State := { sRun with pwr := { sRun.pwr with dies := [(1, { throttle := true, tj := 100 })] } }

theorem test_meets_SuppliesAndTemperature :
    sRun.supplyWatched = true ∧ sRun.aon.dip = false ∧ sRun.ras.inService = true ∧ sRun.atRest = false ∧ sRun.underReset .chip = false ∧ sRun.pwrWorks = true ∧
    100 ≤ (hottest (List.replicate 12 100)).toNat ∧ (hottest (List.replicate 12 97)).toNat ≤ 97 ∧ 110 ≤ (hottest (List.replicate 12 110)).toNat ∧
    (sRun.die 0).throttle = false ∧ sRun.aon.tripped = false ∧ (sHot.die (dieOf 0)).throttle = true ∧ 100 ≤ (sHot.die (dieOf 0)).tj.toNat ∧
    (sHot.regPwr 0).nap = false ∧ (sHot.regPwr 0).target = none ∧ 50 < (sHot.regPwr 0).freq := by decide +kernel

theorem test_meets_ReliabilityActs :
    sRun.awake = sRun ∧ sRun.wires.ready = true ∧ Stays sRun ∧ sRun.aclkStopped (sRun.ctx 1).region = false ∧ (1535 : U16).toNat < 0x600 ∧ sRun.wires.snapAt = none ∧ sRun.dbg.pinEn = true ∧ sRun.dbg.current = none ∧ sCollecting.dbg.current.isSome = true ∧
    blocks.any (fun b => b.1 == (0x100000 : U32).toNat) = true ∧ (0x100000 : U32).toNat ≠ aonBase ∧ unitPresent 0x2003 = true ∧
    (sRun.unitRas (0x2003 : U16).toNat).fenced = false ∧ sRun.underReset (.unit 0x2003) = false ∧ 2 ≤ sRun.ras.threshold 1 ∧ 2 ≤ sRun.ras.threshold 2 ∧
    tget [] (sRun.unitRas (0x2003 : U16).toNat).times 1 = [] ∧ sRun.underReset (.part (Fin.ofNat 10 7)) = false ∧ sRun.workers = [] ∧
    sRun.syn.waits = [] ∧ sRun.bpm.pools.all (fun p => p.2.waiters.isEmpty) = true := by decide +kernel

theorem test_meets_SmbusAndJtag : sRun.smbusOn = true ∧ (sIn .off).smbusOn = true ∧ sRun.wires.vaux3 = true ∧
    ({ sRun with wires := { sRun.wires with perst := true } } : State).jtagActs = true ∧
    ({ sRun with wires := { sRun.wires with cartVcc := false } } : State).wires.cartVcc = false := by decide

/-- CRC-8 with polynomial 0x07 of the digits 1 to 9 is 0xF4 (log entry 131). -/
theorem test_pec : pecOf [0x31, 0x32, 0x33, 0x34, 0x35, 0x36, 0x37, 0x38, 0x39] = 0xF4 ∧ ∃ p : Byte, p ≠ pecOf [sRun.smbusAddr, 0x10, 0xA5] := ⟨by decide +kernel, 0, by decide +kernel⟩

/-! ### The machine as a whole -/

theorem test_meets_StepServesTheFront : State.reset.pending = [] ∧ State.reset.wires.vaux3 = false ∧ sRun.wires.vaux3 = true ∧ sRun.aon.fracPs = 0 ∧
    sRun.aon.offsetPs = 0 := by decide

/-- A sound state from which a step goes on, by a command that stores to memory. -/
theorem test_meets_StepKeepsSound :
    ({ sRun with pending := [.dramWrite 0 [1] false .clean .clean] } : State).sound = true ∧
    (match step { sRun with pending := [.dramWrite 0 [1] false .clean .clean] } with | .next t => t.dram.mem.read 0 == 1 | _ => false) = true := by decide +kernel

theorem test_meets_CommandsStayWithin :
    (match exec .vaux3Rise State.reset with | .next t => t.wires.vaux3 | _ => false) = true := by decide +kernel

end Sys2Proof.Test
end

section
/-! PROOF. What a register write does: who may write, which block serves the offset, and the fields that the block sets. -/

namespace Sys2Proof.Machine

/-! ### Frames -/

/-- What an operation keeps of the parts outside a list is its frame. -/
theorem Keeps.within {ps : List Part} {s t : State} (k : Keeps (fun p => decide (p ∈ ps)) s t) : s.within ps t :=
  fun p hp => k.same p (decide_eq_false hp)

/-! ### Who writes -/

theorem State.onMmio_of_mmio {s : State} (h : s.mmio = true) (f : State → State) : s.onMmio f = f s.taken := if_pos h

/-- The MGC's write does not pass through a BAR. -/
theorem exec_registerWrite_mgc {off : U32} {o : Nat} (ho : off.toNat = o) (v : U32) (p : Bool) (s : State) :
    exec (.registerWrite off v true p) s = .next (s.writeReg o v true) := by
  subst ho; rfl

/-- The host's write, but for the one that is served during a window commit (R363). -/
theorem exec_registerWrite_host {off : U32} {o : Nat} (ho : off.toNat = o) (hgo : o ≠ 0x800) (v : U32) {s : State} (h : s.mmio = true) :
    exec (.registerWrite off v false false) s = .next (s.taken.writeReg o v false) := by
  have hne : off ≠ goOffset := fun e => hgo (ho.symm.trans (congrArg BitVec.toNat e))
  simp [exec, execRegisterWrite, hne, ho, State.onMmio_of_mmio h]

/-- The host's poisoned write reaches no register (R385). -/
theorem exec_registerWrite_poisoned {off : U32} (hgo : off ≠ goOffset) (v : U32) {s : State} (h : s.mmio = true) :
    exec (.registerWrite off v false true) s = .next (s.taken.countPoison (some (.write 0 (off.setWidth 64)))).freeze := by
  simp [exec, execRegisterWrite, hgo, State.onMmio_of_mmio h]

/-! ### Which block serves the offset (R361) -/

theorem State.writeReg_hif {o : Nat} (h : o < 0x100000) (v : U32) (mgc : Bool) (s : State) :
    s.writeReg o v mgc = s.writeHifAll o v := if_pos h

theorem State.writeReg_ras {x : Nat} (h : x < 0x100000) (v : U32) (mgc : Bool) (s : State) :
    s.writeReg (0x3100000 + x) v mgc = s.writeRas x v mgc := by
  simp (disch := omega) only [State.writeReg, if_pos, if_neg, Nat.add_sub_cancel_left]

/-- No register of the AON block is writable through BAR0. -/
theorem State.writeReg_aon {o : Nat} (h : aonBase ≤ o) (v : U32) (mgc : Bool) (s : State) : s.writeReg o v mgc = s := by
  have hhigh : 0x3400000 ≤ o := h
  simp (disch := omega) only [State.writeReg, if_neg]

/-- The HIF's registers outside the metadata, handoff and window arrays. -/
theorem State.writeHifAll_single {o : Nat} (h : o < 0x100 ∨ 0x600 ≤ o) (v : U32) (s : State) : s.writeHifAll o v = s.writeHif o v := by
  simp (disch := omega) only [State.writeHifAll, if_neg]

theorem State.writeHifAll_win {n x : Nat} (hn : n < 32) (hx : x < 0x10) (v : U32) (s : State) :
    s.writeHifAll (0x400 + 0x10 * n + x) v = s.writeWin n x v := by
  have hwin : 0x400 ≤ 0x400 + 0x10 * n + x ∧ 0x400 + 0x10 * n + x < 0x600 := by omega
  have hnum : (0x400 + 0x10 * n + x - 0x400) / 0x10 = n := by omega
  have hoff : (0x400 + 0x10 * n + x - 0x400) % 0x10 = x := by omega
  unfold State.writeHifAll
  rw [if_neg (by omega), if_neg (by omega), if_pos hwin, hnum, hoff]

/-! ### The fields -/

/-- A class threshold: COUNT and WINDOW as written by the MGC; the host's write leaves them (R399, R434). -/
theorem State.writeRas_threshold {k : Nat} (hk : k < 5) (v : U32) (mgc : Bool) (s : State) :
    s.writeRas (0x10 + 4 * k) v mgc =
      if mgc then s.updRas fun r => { r with thr := tput k (v.toNat / 2 ^ 24 % 32) r.thr, win := tput k (v.toNat % 2 ^ 24) r.win } else s := by
  have hthr : 0x10 ≤ 0x10 + 4 * k ∧ 0x10 + 4 * k < 0x24 ∧ (0x10 + 4 * k) % 4 = 0 := by omega
  have hnum : (0x10 + 4 * k - 0x10) / 4 = k := by omega
  unfold State.writeRas
  rw [if_pos hthr, hnum]
  simp [bits]

/-- A window's enable-and-area word: ENABLE and AREA of its shadow descriptor (R396). -/
theorem State.writeWin_control (n : Nat) (v : U32) (s : State) :
    s.writeWin n 8 v
      = s.updWins fun x => { x with shadow := tupd {} x.shadow n fun d => { d with enable := v.getLsbD 31, area := v.getLsbD 30 } } := rfl

theorem State.writeHif_cmdBaseLo (v : U32) (s : State) :
    s.writeHif 0x10 v = s.updHif fun h => { h with cmdBase := setLo h.cmdBase v } := rfl

theorem State.writeHif_rplMirrorLo (v : U32) (s : State) :
    s.writeHif 0x44 v = s.updHif fun h => { h with rplMirror := setLo h.rplMirror v } := rfl

/-- The overrun of the window commit is RW1C (R397). -/
theorem State.writeHif_overrun (v : U32) (s : State) :
    s.writeHif 0x804 v = s.updWins fun x => { x with overrun := x.overrun && !v.getLsbD 30 } := rfl

/-- The events of the attention button are RW1C (R388, R397). -/
theorem State.writeHif_slotEvents (v : U32) (s : State) :
    s.writeHif 0x820 v
      = s.updDev fun d => { d with button := d.button && !v.getLsbD 31, cancelled := d.cancelled && !v.getLsbD 30 } := rfl

/-- The events of the cartridge are RW1C (R70). -/
theorem State.writeReg_crtEvents (v : U32) (mgc : Bool) (s : State) :
    s.writeReg 0x3300008 v mgc = s.updCrt fun c => { c with
      untrained := c.untrained && !v.getLsbD 5, foreign := c.foreign && !v.getLsbD 4, lifeLow := c.lifeLow && !v.getLsbD 3
      writeFail := c.writeFail && !v.getLsbD 2, inserted := c.inserted && !v.getLsbD 1, removed := c.removed && !v.getLsbD 0 } := rfl

/-- The triggers of a dump (R427). -/
theorem State.writeReg_dbgTriggers (v : U32) (mgc : Bool) (s : State) :
    s.writeReg 0x3200008 v mgc = s.updDbg fun d => { d with
      errClasses := BitVec.ofNat 5 (v.toNat / 256 % 32), resetEn := v.getLsbD 3, treacleEn := v.getLsbD 2, errorEn := v.getLsbD 1
      pinEn := v.getLsbD 0 } := rfl

/-! ### Poison -/

/-- Freezing changes the device state alone (R390). -/
@[simp] theorem State.freeze_link (s : State) : s.freeze.link = s.link :=
  (State.freeze_keeps (m := fun p => decide (p ∈ [.dev])) rfl s (.refl s)).same .link rfl

/-- A poisoned TLP counts and may freeze the device, and leaves every other part. -/
theorem State.countPoison_freeze_within (h : Option TlpHead) (s : State) : s.within [.link, .dev] (s.countPoison h).freeze :=
  (State.freeze_keeps rfl _ (State.countPoison_keeps rfl h s (.refl s))).within

/-! ### The statement -/

/-- A host's write of a single HIF register. -/
theorem exec_registerWrite_hif {off : U32} {o : Nat} (ho : off.toNat = o) (hgo : o ≠ 0x800) (hif : o < 0x100 ∨ 0x600 ≤ o ∧ o < 0x100000)
    (v : U32) {s : State} (h : s.mmio = true) : exec (.registerWrite off v false false) s = .next (s.taken.writeHif o v) := by
  rw [exec_registerWrite_host ho hgo v h, State.writeReg_hif (by omega), State.writeHifAll_single (by omega)]

/-- A host's write of a window's enable-and-area word. -/
theorem exec_registerWrite_winControl {n : Nat} (hn : n < 32) (v : U32) {s : State} (h : s.mmio = true) :
    exec (.registerWrite (BitVec.ofNat 32 (0x408 + 0x10 * n)) v false false) s = .next (s.taken.updWins fun x =>
      { x with shadow := tupd {} x.shadow n fun d => { d with enable := v.getLsbD 31, area := v.getLsbD 30 } }) := by
  have hoff : (BitVec.ofNat 32 (0x408 + 0x10 * n)).toNat = 0x400 + 0x10 * n + 8 := by simp only [BitVec.toNat_ofNat]; omega
  rw [exec_registerWrite_host hoff (by omega) v h, State.writeReg_hif (by omega), State.writeHifAll_win hn (by omega), State.writeWin_control]

/-- A write of a class threshold, by the host and by the MGC. -/
theorem exec_registerWrite_threshold {k : Nat} (hk : k < 5) (v : U32) {s : State} (h : s.mmio = true) :
    exec (.registerWrite (BitVec.ofNat 32 (0x3100010 + 4 * k)) v false false) s = .next s.taken ∧
    exec (.registerWrite (BitVec.ofNat 32 (0x3100010 + 4 * k)) v true false) s
      = .next (s.updRas fun r => { r with thr := tput k (v.toNat / 2 ^ 24 % 32) r.thr, win := tput k (v.toNat % 2 ^ 24) r.win }) := by
  have hoff : (BitVec.ofNat 32 (0x3100010 + 4 * k)).toNat = 0x3100000 + (0x10 + 4 * k) := by simp only [BitVec.toNat_ofNat]; omega
  have hras (mgc : Bool) (t : State) :=
    (State.writeReg_ras (x := 0x10 + 4 * k) (by omega) v mgc t).trans (State.writeRas_threshold hk v mgc t)
  constructor
  · rw [exec_registerWrite_host hoff (by omega) v h, hras, if_neg Bool.false_ne_true]
  · rw [exec_registerWrite_mgc hoff, hras, if_pos rfl]

/-- A host's write of the AON block changes no register. -/
theorem exec_registerWrite_aon {off : U32} (haon : aonBase ≤ off.toNat) (v : U32) {s : State} (h : s.mmio = true) :
    exec (.registerWrite off v false false) s = .next s.taken := by
  have hhigh : 0x3400000 ≤ off.toNat := haon
  rw [exec_registerWrite_host rfl (by omega) v h, State.writeReg_aon haon]

/-- Settles O39: each write reaches the block that serves its offset, and the block's own equation gives the fields. -/
theorem registerWritesAct : Obligations.RegisterWritesAct := by
  unfold Obligations.RegisterWritesAct
  rintro v s _ h rfl
  refine ⟨?cmdBase, ?rplMirror, fun n hn => exec_registerWrite_winControl hn v h, ?overrun, ?slotEvents, ?crtEvents, ?dbgTriggers,
    fun k hk => exec_registerWrite_threshold hk v h, fun k hk => exec_registerWrite_aon ?aon v h, fun off hgo => ?poisoned⟩
  case cmdBase => rw [exec_registerWrite_hif (o := 0x10) rfl (by decide) (by decide) v h, State.writeHif_cmdBaseLo]
  case rplMirror => rw [exec_registerWrite_hif (o := 0x44) rfl (by decide) (by decide) v h, State.writeHif_rplMirrorLo]
  case overrun => rw [exec_registerWrite_hif (o := 0x804) rfl (by decide) (by decide) v h, State.writeHif_overrun]
  case slotEvents => rw [exec_registerWrite_hif (o := 0x820) rfl (by decide) (by decide) v h, State.writeHif_slotEvents]
  case crtEvents => rw [exec_registerWrite_host (o := 0x3300008) rfl (by decide) v h, State.writeReg_crtEvents]
  case dbgTriggers => rw [exec_registerWrite_host (o := 0x3200008) rfl (by decide) v h, State.writeReg_dbgTriggers]
  case aon => simp only [aonBase, BitVec.toNat_ofNat]; omega
  case poisoned =>
    refine ⟨_, exec_registerWrite_poisoned hgo v h, ?_, ?_, State.countPoison_freeze_within _ _⟩
    · simp [State.countPoison]
    · simp [State.countPoison]

end Sys2Proof.Machine
end

section
/-! PROOF. The link: what a retraining leaves, and what the entry of Off loses and keeps (R38, R358, R442). -/

namespace Sys2Proof.Machine

/-! ### The width and rate of the link -/

/-- The width and the rate that the link has trained to (R358). -/
def State.trained (s : State) : BitVec 5 × BitVec 3 := (s.link.width, s.link.rate)

theorem State.trained_of_link {s t : State} (h : t.link = s.link) : t.trained = s.trained := by
  simp only [State.trained, h]

/-- A pending vector is not a matter of the link's training. -/
@[simp] theorem State.fire_trained (v : Nat) (s : State) : (s.fire v).trained = s.trained := by
  unfold State.fire Link.pend
  split
  · exact State.trained_of_link (State.send_link _ _)
  · simp only [State.trained, State.updLink_link]
    split <;> rfl

@[simp] theorem State.writeEntry_trained (n : Nat) (r : Rec) (s : State) : (s.writeEntry n r).trained = s.trained := by
  unfold State.writeEntry
  dsimp only
  split
  · rw [State.fire_trained]; exact State.trained_of_link (by simp)
  · exact State.trained_of_link (by simp)

@[simp] theorem State.drainRing_trained (n k : Nat) (s : State) : (s.drainRing n k).trained = s.trained := by
  induction k generalizing s with
  | zero => rfl
  | succ k ih =>
    unfold State.drainRing
    dsimp only
    split
    · rfl
    · split
      · rw [ih, State.writeEntry_trained]; exact State.trained_of_link (State.updMd_link _ _ _)
      · rfl

@[simp] theorem State.record_trained (slot : Option Nat) (rtype rflags : Byte) (body : List Byte) (s : State) :
    (s.record slot rtype rflags body).trained = s.trained := by
  unfold State.record State.pushRec
  dsimp only
  split
  · rw [State.drainRing_trained]; exact State.trained_of_link (by simp)
  · exact State.trained_of_link (by simp)

/-- Attention may leave a vector pending, and changes nothing else of the link. -/
@[simp] theorem State.attention_trained (cls : Nat) (code : U16) (ik idx : Nat) (s : State) :
    (s.attention cls code ik idx).trained = s.trained := by
  rw [State.attention, State.record_trained]
  exact State.trained_of_link ((State.setAttn_keeps (m := fun p => decide (p ∈ [.hif, .dev, .ras])) rfl rfl rfl _ _ s (.refl s)).same .link rfl)

theorem State.readmit_link (s : State) : s.readmit.1.link = s.link :=
  (State.readmit_keeps (m := fun p => decide (p ≠ .link)) rfl rfl rfl rfl rfl rfl rfl rfl s rfl (.refl s)).same .link rfl

@[simp] theorem State.readmitFor_trained (code : U16) (kind index : Nat) (s : State) : (s.readmitFor code kind index).trained = s.trained := by
  have hadm : s.readmit.1.trained = s.trained := State.trained_of_link s.readmit_link
  unfold State.readmitFor
  dsimp only
  split
  · rw [State.attention_trained, hadm]
  · split
    · rw [State.attention_trained, hadm]
    · exact hadm

@[simp] theorem State.judgeAll_link (s : State) : s.judgeAll.link = s.link :=
  (State.judgeAll_keeps (m := fun p => decide (p ∈ [.rgn, .rmem, .dis])) rfl rfl rfl s (.refl s)).same .link rfl

/-- The link with the width and rate of a retraining. -/
def State.retrain (width : Fin 32) (rate : Fin 4) (s : State) : State :=
  s.updLink fun l => { l with width := BitVec.ofNat 5 width.val, rate := BitVec.ofNat 3 rate.val }

theorem State.retrain_trained (width : Fin 32) (rate : Fin 4) (s : State) :
    (s.retrain width rate).trained = (BitVec.ofNat 5 width.val, BitVec.ofNat 3 rate.val) := rfl

/-- To a lower width or rate, the device may admit again (R38). -/
theorem exec_linkRetrain {s : State} (h : s.wires.linkUp = true) (width : Fin 32) (rate : Fin 4) :
    ∃ t, exec (.linkRetrain width rate) s = .next t ∧
      (t = s.retrain width rate ∨
        (width.val < s.link.width.toNat ∨ rate.val < s.link.rate.toNat) ∧
          ∃ code, t = ((s.retrain width rate).burn.readmitFor code 0 0).judgeAll) := by
  simp only [exec, execLinkRetrain, h, Bool.not_true, Bool.false_eq_true, if_false]
  refine ⟨_, rfl, ?_⟩
  split
  case isTrue hlow =>
    simp only [Bool.and_eq_true, Bool.or_eq_true, decide_eq_true_eq] at hlow
    exact .inr ⟨hlow.1, _, rfl⟩
  case isFalse => exact .inl rfl

/-- A retraining leaves the link with its new width and rate, and touches nothing else where neither is lower. -/
theorem exec_linkRetrain_trains {s : State} (h : s.wires.linkUp = true) (width : Fin 32) (rate : Fin 4) :
    ∃ t, exec (.linkRetrain width rate) s = .next t ∧ t.link.width = BitVec.ofNat 5 width.val ∧ t.link.rate = BitVec.ofNat 3 rate.val ∧
      (s.link.width.toNat ≤ width.val → s.link.rate.toNat ≤ rate.val → s.within [.link] t) := by
  obtain ⟨t, ht, hstay | ⟨hlow, code, hadm⟩⟩ := exec_linkRetrain h width rate
  · subst hstay
    exact ⟨_, ht, rfl, rfl, fun _ _ => (State.updLink_keeps rfl (.refl s)).within⟩
  · have htr : t.trained = (BitVec.ofNat 5 width.val, BitVec.ofNat 3 rate.val) := by
      rw [hadm, State.trained_of_link (State.judgeAll_link _), State.readmitFor_trained, State.trained_of_link (State.burn_link _),
        State.retrain_trained]
    obtain ⟨hwidth, hrate⟩ := Prod.mk.inj htr
    exact ⟨t, ht, hwidth, hrate, fun hw hr => by omega⟩

/-! ### Off -/

/-- Where the memories of regions become undefined, no other part changes. -/
theorem State.forgetRegions_keeps (rs : List Nat) (s : State) :
    Keeps (fun p => decide (p ∈ [.rmem, .fresh])) s
      (rs.foldl (fun s r => (s.updRegMem r fun m => { m with vecs := [] }).forgetRegion r) s) :=
  .foldl (fun _ r k => State.forgetRegion_keeps rfl rfl r _ (State.updRegMem_keeps rfl (fun _ hx => hx) k)) (.refl s)

@[simp] theorem State.forgetRegions_hif (rs : List Nat) (s : State) :
    (rs.foldl (fun s r => (s.updRegMem r fun m => { m with vecs := [] }).forgetRegion r) s).hif = s.hif :=
  (State.forgetRegions_keeps rs s).same .hif rfl

@[simp] theorem State.forgetRegions_crt (rs : List Nat) (s : State) :
    (rs.foldl (fun s r => (s.updRegMem r fun m => { m with vecs := [] }).forgetRegion r) s).crt = s.crt :=
  (State.forgetRegions_keeps rs s).same .crt rfl

/- `clearChip_cleared` and `enterOff_spec` read through a dozen updates. `-implicitDefEqProofs` keeps simp's rewriting in the proof term, where the kernel would otherwise
compare the updated states by unfolding them. -/

/-- A reset of the chip leaves the defaults of the host interface and the dispatcher, no poison mark, and of the cartridge controller the
cartridge alone (R426). -/
theorem State.clearChip_cleared (s : State) :
    s.clearChip.hif = {} ∧ s.clearChip.dis = {} ∧ s.clearChip.dram.poison = [] ∧ s.clearChip.crt = { cart := s.crt.cart } := by
  simp -implicitDefEqProofs [State.clearChip]

/-- The always-on block with its clock, the reset registers and the JTAG port outlive a reset of the chip. -/
theorem State.clearChip_kept (s : State) : s.clearChip.ep = s.ep ∧ s.clearChip.aon = s.aon ∧ s.clearChip.jtag = s.jtag := by
  have k := State.clearChip_keeps (m := fun p => decide (p ∉ [.ep, .aon, .jtag])) rfl rfl rfl rfl rfl rfl rfl rfl rfl rfl rfl rfl rfl rfl rfl rfl
    rfl rfl rfl rfl rfl rfl rfl rfl s (.refl s)
  exact ⟨k.same .ep rfl, k.same .aon rfl, k.same .jtag rfl⟩

/-- The records that are written before Off go to the cartridge (R442). -/
theorem State.writeAll_kept (s : State) : s.writeAll.ep = s.ep ∧ s.writeAll.aon = s.aon ∧ s.writeAll.jtag = s.jtag := by
  have k := State.writeAll_keeps (m := fun p => decide (p ∈ [.crt])) rfl s (.refl s)
  exact ⟨k.same .ep rfl, k.same .aon rfl, k.same .jtag rfl⟩

/-- What the entry of Off leaves. -/
theorem State.enterOff_spec (s : State) :
    s.enterOff.pwr.pstate = .off ∧ s.enterOff.aon.offAt = s.aon.time ∧ s.enterOff.ep = s.ep ∧ s.enterOff.jtag = s.jtag ∧ s.enterOff.hif = {} ∧
      s.enterOff.dev = {} ∧ s.enterOff.dis = {} ∧ s.enterOff.dbg = {} ∧ s.enterOff.dram.poison = [] ∧ s.enterOff.crt.stage = 0 ∧
      s.enterOff.crt.recipe = none := by
  obtain ⟨hep, haon, hjtag⟩ := s.writeAll_kept
  obtain ⟨hep', _, hjtag'⟩ := s.writeAll.clearChip_kept
  obtain ⟨hhif, hdis, hpoison, hcrt⟩ := s.writeAll.clearChip_cleared
  simp -implicitDefEqProofs [State.enterOff, hep, haon, hjtag, hep', hjtag', hhif, hdis, hpoison, hcrt]

theorem exec_pmStateChange {s : State} (h : s.funcReady = true) (d : Bool) :
    exec (.pmStateChange d) s = .next (s.awake.updLink fun l => { l with d3hot := d }) := by
  simp [exec, execPmStateChange, h]

theorem exec_pmeTurnOff {s : State} (h : s.funcReady = true) :
    exec .pmeTurnOff s = .next (s.awake.updWires fun x => { x with l23 := true }).tryOff := by
  simp [exec, execPmeTurnOff, h]

theorem State.tryOff_of_not_mayOff {s : State} (h : s.mayOff = false) : s.tryOff = s := by
  simp [State.tryOff, h]

theorem State.tryOff_of_mayOff {s : State} (h : s.mayOff = true) (hoff : s.pwr.pstate ≠ .off) : s.tryOff = s.enterOff := by
  simp [State.tryOff, h, hoff]

/-- Settles O41: the attention of a re-admission leaves the link as it trained, and Off is entered exactly where `mayOff` holds. -/
theorem linkPowerStates : Obligations.LinkPowerStates := by
  unfold Obligations.LinkPowerStates
  refine ⟨fun width rate s h => exec_linkRetrain_trains h width rate, ?_⟩
  rintro s _ u h rfl rfl
  refine ⟨exec_pmStateChange h, fun hmay => ?_, fun hmay hoff => ?_⟩
  · rw [exec_pmeTurnOff h, State.tryOff_of_not_mayOff hmay]
  · exact ⟨_, (exec_pmeTurnOff h).trans (congrArg _ (State.tryOff_of_mayOff hmay hoff)), State.enterOff_spec _⟩

end Sys2Proof.Machine
end

section
/-! PROOF. Aborted passes (R167 to R170, R182, R248): what each engine keeps of a pass that starts again, and what each cause of an abort leads to. -/

namespace Sys2Proof.Machine

/-! ### A pass that starts again -/

theorem Core.restart_running {x : Core} {p : PassItem} (h : x.running = some p) (now : Nat) (count : Core → Core) :
    x.restart now count = count { x with running := none, queue := p :: x.queue, shadowed := none, clock := x.clock.abort now } := by
  simp only [Core.restart, h]

theorem Vec.restart_running {v : Vec} {d : VecItem} (h : v.running = some d) (now lo : Nat) :
    v.restart now lo = { v with running := none, queue := d :: v.queue, clock := v.clock.abort now, aborts := bumpByte v.aborts lo } := by
  simp only [Vec.restart, h]

theorem Gau.restart_running {g : Gau} {p : GauItem} (h : g.running = some p) (now : Nat) (count : Gau → Gau) :
    g.restart now count = count { g with running := none, queue := p :: g.queue, clock := g.clock.abort now } := by
  simp only [Gau.restart, h]

/-- A core whose pass a fence aborts while ACLK runs. -/
theorem Core.fenceStop_running {x : Core} {p : PassItem} (h : x.running = some p) (now i : Nat) :
    x.fenceStop false now i = { x with running := none, shadowed := none, clock := x.clock.abort now, abFence := satAdd x.abFence 1 } := by
  simp [Core.fenceStop, h]

/-! ### Frames -/

theorem State.updCore_within (r i : Nat) (f : Core → Core) (s : State) : s.within [.rgn] (s.updCore r i f) :=
  (State.updCore_keeps rfl r i f s (.refl s)).within

theorem State.updVec_within (r i : Nat) (f : Vec → Vec) (s : State) : s.within [.rmem] (s.updVec r i f) :=
  (State.updVec_keeps rfl r i f s (.refl s)).within

theorem State.updGau_within (r : Nat) (f : Gau → Gau) (s : State) : s.within [.rgn] (s.updGau r f) :=
  (State.updGau_keeps rfl r f s (.refl s)).within

/-- A vector engine is not part of its core's record. -/
@[simp] theorem State.updVec_core (r i k : Nat) (f : Vec → Vec) (s : State) : (s.updVec r i f).core r k = s.core r k := rfl

/-- The core that a fence has taken its work from, while ACLK runs. -/
theorem State.fenceAbort_core {r i : Nat} {s : State} {p : PassItem} (hclk : s.aclkStopped r = false) (h : (s.core r i).running = some p) :
    (s.fenceAbort r i).core r i = { s.core r i with
      running := none, queue := [], todo := [], shadowed := none, clock := (s.core r i).clock.abort (s.aclk r)
      abFence := satAdd (s.core r i).abFence 1 } := by
  simp [State.fenceAbort, hclk, Core.fenceStop_running h]

/-! ### Which aborts take effect -/

/-- A request is served unless no pass runs or the pass is short of its end (R168, R169). -/
theorem passAbort_served {r : Nat} {u : PassUnit} {cause : AbortCause} {s : State} (hrun : (s.runningOn r u).isSome = true)
    (hlong : cause = .preempt → s.longLeft r (s.clockOf r u) = true) :
    ((s.runningOn r u).isNone || (cause == .preempt && !s.longLeft r (s.clockOf r u))) = false := by
  rw [Bool.or_eq_false_iff, Option.isNone_eq_false_iff, Bool.and_eq_false_imp, Bool.not_eq_false']
  exact ⟨hrun, fun h => hlong (eq_of_beq h)⟩

/-- An abort of a pass, while ACLK runs; a pre-emption where more than 40 µs of the pass are left (R168, R169). -/
theorem exec_passAbort {r : Fin 8} {u : PassUnit} {cause : AbortCause} {s : State} (hclk : s.aclkStopped r.val = false)
    (hrun : (s.runningOn r.val u).isSome = true) (hlong : cause = .preempt → s.longLeft r.val (s.clockOf r.val u) = true) :
    exec (.passAbort r u cause) s = .next (s.abortPass r.val u cause) := by
  simp [exec, execPassAbort, passAbort_served hrun hlong, hclk]

/-- A pass with at most 40 µs left is left to commit (R169). -/
theorem exec_passAbort_short {r : Fin 8} {u : PassUnit} {s : State} (hshort : s.longLeft r.val (s.clockOf r.val u) = false) :
    exec (.passAbort r u .preempt) s = .next s := by
  simp [exec, execPassAbort, hshort]

theorem exec_passAbort_preempt {r : Fin 8} {u : PassUnit} {s : State} (hclk : s.aclkStopped r.val = false)
    (hrun : (s.runningOn r.val u).isSome = true) (hlong : s.longLeft r.val (s.clockOf r.val u) = true) :
    exec (.passAbort r u .preempt) s = .next (s.abortPreempt r.val u) := by
  obtain ⟨⟨c, layer, tile⟩, hsome⟩ := Option.isSome_iff_exists.mp hrun
  rw [exec_passAbort hclk hrun fun _ => hlong]
  simp [State.abortPass, hsome]

theorem exec_passAbort_unitFault {r : Fin 8} {u : PassUnit} {s : State} (hclk : s.aclkStopped r.val = false)
    (hrun : (s.runningOn r.val u).isSome = true) : exec (.passAbort r u .unitFault) s = .next (s.abortUnit r.val u) := by
  obtain ⟨⟨c, layer, tile⟩, hsome⟩ := Option.isSome_iff_exists.mp hrun
  rw [exec_passAbort (cause := .unitFault) hclk hrun nofun]
  simp [State.abortPass, hsome]

theorem exec_passAbort_fence {r : Fin 8} {i : Fin 18} {s : State} (hclk : s.aclkStopped r.val = false)
    (hrun : (s.runningOn r.val (.array i)).isSome = true) : exec (.passAbort r (.array i) .fence) s = .next (s.abortCore r.val i.val) := by
  obtain ⟨⟨c, layer, tile⟩, hsome⟩ := Option.isSome_iff_exists.mp hrun
  rw [exec_passAbort (cause := .fence) hclk hrun nofun]
  simp [State.abortPass, hsome, State.abortFence]

/-- A map change drops the tile of a core that runs no fused group. -/
theorem exec_passAbort_fence_single {r : Fin 8} {i : Fin 18} {s : State} (hclk : s.aclkStopped r.val = false)
    (hrun : (s.runningOn r.val (.array i)).isSome = true) (hfused : (s.core r.val i.val).fusedLayer = none) :
    exec (.passAbort r (.array i) .fence) s = .next (((s.fenceAbort r.val i.val).dropCoreTile r.val i.val).judgeAll) := by
  rw [exec_passAbort_fence hclk hrun]
  simp [State.abortCore, hfused]

/-- A map change restarts the pass of a fused group: the core keeps all its work (R30). -/
theorem exec_passAbort_fence_fused {r : Fin 8} {i : Fin 18} {s : State} (hclk : s.aclkStopped r.val = false)
    (hrun : (s.runningOn r.val (.array i)).isSome = true) (hfused : (s.core r.val i.val).fusedLayer ≠ none) :
    exec (.passAbort r (.array i) .fence) s
      = .next (((s.fenceAbort r.val i.val).updCore r.val i.val fun x => { x with todo := s.workOf r.val i.val }).feed r.val i.val) := by
  rw [exec_passAbort_fence hclk hrun]
  simp [State.abortCore, Option.isSome_iff_ne_none.mpr hfused]

/-! ### The statement -/

theorem abortsTake : AbortsTake := by
  intro r i s hclk
  refine ⟨fun p hp => ?array, fun v hv => ?vec, fun t g hg => ?gau⟩
  case array =>
    have hrun : (s.runningOn r.val (.array i)).isSome = true := by simp [State.runningOn, hp]
    have hfence := State.fenceAbort_keeps rfl rfl r.val i.val s (.refl s) (m := fun p => decide (p ∈ [.rgn, .rmem]))
    refine ⟨exec_passAbort_short (u := .array i),
      fun hlong => ⟨_, exec_passAbort_preempt hclk hrun hlong, State.updCore_within _ _ _ _, ?preempt⟩,
      ⟨_, exec_passAbort_unitFault hclk hrun, State.updCore_within _ _ _ _, ?fault⟩,
      fun hfused => ⟨_, exec_passAbort_fence_single hclk hrun hfused, hfence.within, State.fenceAbort_core hclk hp⟩,
      fun hfused => ⟨_, exec_passAbort_fence_fused hclk hrun hfused, (State.updCore_keeps rfl _ _ _ _ hfence).within, ?fused⟩⟩
    case preempt => rw [State.updCore_self, Core.restart_running hp]
    case fault => rw [State.updCore_self, Core.restart_running hp]
    case fused => rw [State.updCore_self, State.fenceAbort_core hclk hp]
  case vec =>
    have hrun : (s.runningOn r.val (.vec i)).isSome = true := by simp [State.runningOn, hv]
    refine ⟨fun hlong => ⟨_, exec_passAbort_preempt hclk hrun hlong, State.updVec_within _ _ _ _, ?_⟩,
      _, exec_passAbort_unitFault hclk hrun, State.updVec_within _ _ _ _, ?_⟩
    · rw [State.updVec_self, Vec.restart_running hv]
    · rw [State.updVec_self, Vec.restart_running hv]
  case gau =>
    have hrun : (s.runningOn r.val (.gau t)).isSome = true := by simp [State.runningOn, hg]
    refine ⟨fun hlong => ⟨_, exec_passAbort_preempt hclk hrun hlong, State.updGau_within _ _ _, ?_⟩,
      _, exec_passAbort_unitFault hclk hrun, State.updGau_within _ _ _, ?_⟩
    · rw [State.updGau_self, Gau.restart_running hg]
    · rw [State.updGau_self, Gau.restart_running hg]

/-- While ACLK is stopped the request is kept with the pass, a second pre-emption in the first (R170). -/
theorem abortsWait : AbortsWait := by
  intro r u cause s hclk hrun hlong
  simp only [exec, execPassAbort, passAbort_served hrun hlong, hclk, Bool.false_eq_true, if_false, if_true, Bool.and_eq_true, beq_iff_eq,
    List.any_eq_true]

/-- Settles O19: an abort while ACLK runs reaches the engine's own restart or the fence of its core, and one while it is stopped is kept with the pass. -/
theorem passAbortsCount : Obligations.PassAbortsCount := ⟨abortsTake, abortsWait⟩

end Sys2Proof.Machine
end

section
/-! PROOF. Commits of the cell arrays (R156, R157, R162, R295): what a pass that commits leaves of its core, and what it leaves alone. -/

namespace Sys2Proof.Machine

/-! ### A core's memories -/

/-- The column accumulators keep their last sums wherever the results go. -/
@[simp] theorem CoreMem.commit_acc (m : CoreMem) (inBank : Bool) (d : PassDesc) (pos : TilePos) :
    (m.commit inBank d pos).acc = passAccs m.sp m.weights (if inBank then m.psb1 else m.psb0) d pos := by
  cases hlast : d.last with
  | true => simp only [CoreMem.commit, hlast, if_true]
  | false => cases inBank <;> simp [CoreMem.commit, hlast]

/-- Besides the accumulators a pass writes the OUT buffer (LAST) or its out-bank alone. -/
theorem CoreMem.commit_eq (m : CoreMem) (inBank : Bool) (d : PassDesc) (pos : TilePos) :
    m.commit inBank d pos =
      let bytes := (passRows m.sp m.weights (if inBank then m.psb1 else m.psb0) (m.rqOf d) d pos).1
      if d.last then { m with acc := (m.commit inBank d pos).acc, sp := m.sp.writeN d.out.toNat bytes }
      else if inBank then { m with acc := (m.commit inBank d pos).acc, psb0 := m.psb0.writeN 0 bytes }
      else { m with acc := (m.commit inBank d pos).acc, psb1 := m.psb1.writeN 0 bytes } := by
  simp only [CoreMem.commit_acc]
  rfl

@[simp] theorem State.updCoreMem_self (r i : Nat) (f : CoreMem → CoreMem) (s : State) : (s.updCoreMem r i f).coreMem r i = f (s.coreMem r i) := by
  simp [State.updCoreMem, State.coreMem]

theorem State.updCoreMem_other {r i k : Nat} (h : k ≠ i) (f : CoreMem → CoreMem) (s : State) :
    (s.updCoreMem r i f).coreMem r k = s.coreMem r k := by
  simp [State.updCoreMem, State.coreMem, tget_tupd_ne _ _ _ h]

/-- A core's memories are no part of its record. -/
@[simp] theorem State.updCoreMem_core (r i r' k : Nat) (f : CoreMem → CoreMem) (s : State) : (s.updCoreMem r i f).core r' k = s.core r' k := rfl

/-! ### Work counters and contexts -/

@[simp] theorem State.addCycles_core (r wc slot tile n k : Nat) (s : State) : (s.addCycles r wc slot tile n).core r k = s.core r k := by
  simp [State.addCycles, State.updWc, State.core]

@[simp] theorem State.addCycles_coreMem (r wc slot tile n r' k : Nat) (s : State) :
    (s.addCycles r wc slot tile n).coreMem r' k = s.coreMem r' k := rfl

@[simp] theorem State.progressed_core (c r k : Nat) (s : State) : (s.progressed c).core r k = s.core r k := rfl

@[simp] theorem State.progressed_coreMem (c r k : Nat) (s : State) : (s.progressed c).coreMem r k = s.coreMem r k := rfl

theorem State.progressed_progress (c : Nat) (s : State) : ((s.progressed c).ctx c).progress = (s.ctx c).progress + 1 := by
  simp [State.progressed]

/-! ### The pass that commits -/

/-- The core after its pass: free, with its counts, and with the roles of its banks swapped unless the pass was the last of its block (R156, R157). -/
theorem State.commitPass_core (r i : Nat) (p : PassItem) (l : LayerEntry) (s : State) :
    (s.commitPass r i p l).core r i = { s.core r i with
      running := none, passes := (s.core r i).passes + 1, cycles := BitVec.ofNat 32 p.desc.cycles
      sat := (s.core r i).sat || (passRows (s.coreMem r i).sp (s.coreMem r i).weights
        (if (s.core r i).inBank then (s.coreMem r i).psb1 else (s.coreMem r i).psb0) ((s.coreMem r i).rqOf p.desc) p.desc
        (s.tilePos p.ctx l p.tile (s.core r i).half)).2
      inBank := if p.desc.last then (s.core r i).inBank else !(s.core r i).inBank, loaded := true } := by
  simp [State.commitPass]

theorem State.commitPass_coreMem (r i : Nat) (p : PassItem) (l : LayerEntry) (s : State) :
    (s.commitPass r i p l).coreMem r i
      = (s.coreMem r i).commit (s.core r i).inBank p.desc (s.tilePos p.ctx l p.tile (s.core r i).half) := by
  simp only [State.commitPass, State.progressed_coreMem, State.addCycles_coreMem]
  exact State.updCoreMem_self r i _ s

theorem State.commitPass_core_other {r i k : Nat} (h : k ≠ i) (p : PassItem) (l : LayerEntry) (s : State) :
    (s.commitPass r i p l).core r k = s.core r k := by
  simp [State.commitPass, State.updCore_other h]

theorem State.commitPass_coreMem_other {r i k : Nat} (h : k ≠ i) (p : PassItem) (l : LayerEntry) (s : State) :
    (s.commitPass r i p l).coreMem r k = s.coreMem r k := by
  simp only [State.commitPass, State.progressed_coreMem, State.addCycles_coreMem]
  exact State.updCoreMem_other h _ s

theorem State.commitPass_progress (r i : Nat) (p : PassItem) (l : LayerEntry) (s : State) :
    ((s.commitPass r i p l).ctx p.ctx).progress = (s.ctx p.ctx).progress + 1 :=
  State.progressed_progress _ _

theorem State.commitPass_within (r i : Nat) (p : PassItem) (l : LayerEntry) (s : State) : s.within [.rgn, .rmem, .dis] (s.commitPass r i p l) :=
  (State.commitPass_keeps rfl rfl rfl r i p l s (.refl s)).within

/-! ### The statement -/

/-- A pass within its ranges commits while ACLK runs, and then the region goes on. -/
theorem exec_passCommit {r : Fin 8} {i : Fin 18} {s : State} {p : PassItem} {l : LayerEntry} (hrun : (s.core r.val i.val).running = some p)
    (hclk : s.aclkStopped r.val = false) (hok : p.desc.ok = true) (hfits : passFits p.desc ((s.coreMem r.val i.val).rqOf p.desc) = true)
    (hlayer : (s.layersOf p.ctx)[p.layer]? = some l) :
    exec (.passCommit r i) s = .next ((s.commitPass r.val i.val p l).resumeRegion r.val).judgeAll := by
  simp [exec, execPassCommit, State.passCommit, hrun, hclk, hok, hfits, hlayer]

/-- Settles O16: the core's record and its memories are those of `commitPass`, whose updates reach no other core. -/
theorem passesCommit : Obligations.PassesCommit := by
  unfold Obligations.PassesCommit
  intro r i s p l hrun hclk hok hfits hlayer
  refine ⟨s.commitPass r.val i.val p l, _, _, _, _, exec_passCommit hrun hclk hok hfits hlayer, State.commitPass_within _ _ _ _ _, rfl, rfl, rfl, ?acc,
    State.commitPass_core _ _ _ _ _, ?mem, State.commitPass_progress _ _ _ _ _, fun k hk =>
      ⟨State.commitPass_core_other hk _ _ _, State.commitPass_coreMem_other hk _ _ _⟩⟩
  case acc => rw [State.commitPass_coreMem, CoreMem.commit_acc]
  case mem => rw [State.commitPass_coreMem]; exact CoreMem.commit_eq _ _ _ _

end Sys2Proof.Machine
end

section
/-! PROOF. The dispatcher's batches and swaps (R177, R285 to R287, R291): the release that a batch makes, and what a context that has come in leaves. -/

namespace Sys2Proof.Machine

/-! ### The earliest of some pictures -/

/-- `leastBy` on a key finds an element of any nonempty list, and none of the list has a lesser key. -/
theorem leastBy_key {α : Type} (key : α → Nat) {l : List α} (hl : l ≠ []) :
    ∃ p, leastBy (fun a b => decide (key a < key b)) l = some p ∧ p ∈ l ∧ ∀ q ∈ l, key p ≤ key q := by
  induction l with
  | nil => exact absurd rfl hl
  | cons x r ih =>
    by_cases hr : r = []
    · subst hr
      exact ⟨x, rfl, by simp, by simp⟩
    · obtain ⟨y, hy, hmem, hleast⟩ := ih hr
      simp only [leastBy, hy, decide_eq_true_eq]
      split
      case isTrue hlt => exact ⟨y, rfl, by simp [hmem], by simpa using ⟨Nat.le_of_lt hlt, hleast⟩⟩
      case isFalse hge =>
        refine ⟨x, rfl, by simp, ?_⟩
        simpa using fun q hq => Nat.le_trans (Nat.not_lt.mp hge) (hleast q hq)

/-! ### The release -/

/-- A context whose queue has room takes a release at its end, and no time passes (R285, R287). -/
theorem State.release_spec {c : Nat} {s : State} (hroom : (s.ctx c).queue.length < 8) (pics : List (Nat × Nat)) (deadline : Nat) :
    ∃ inv : Inv, inv.pics = pics ∧ inv.deadline = deadline ∧ ((s.release c pics deadline).ctx c).queue = (s.ctx c).queue ++ [inv] ∧
      ((s.release c pics deadline).ctx c).batch = (s.ctx c).batch ∧ (s.release c pics deadline).now = s.now := by
  have hfull : ¬ 8 ≤ (s.ctx c).queue.length := by omega
  simp only [State.release, State.releaseInv, hfull, decide_false, if_false, Bool.false_eq_true, State.updCtx_self]
  exact ⟨_, rfl, rfl, rfl, trivial, rfl⟩

/-- A batch that closes is cut by the pictures taken, which its release carries with the deadline of the earliest ARRIVAL (R286, R287). -/
theorem State.closeBatch_spec {c : Nat} {s : State} (hbatch : (s.ctx c).batch ≠ []) (hcount : 0 < s.batchCount)
    (hroom : (s.ctx c).queue.length < 8) :
    ∃ (u : State) (inv : Inv) (p : Nat × Nat), s.closeBatch c = u.judgeAll ∧ u.now = s.now ∧
      (u.ctx c).batch = (s.ctx c).batch.drop s.batchCount ∧ (u.ctx c).queue = (s.ctx c).queue ++ [inv] ∧
      p ∈ (s.ctx c).batch.take s.batchCount ∧ (∀ q ∈ (s.ctx c).batch.take s.batchCount, p.2 ≤ q.2) ∧
      inv.pics = (s.ctx c).batch.take s.batchCount ∧ inv.deadline = p.2 + (s.ctx c).dctx := by
  have htaken : (s.ctx c).batch.take s.batchCount ≠ [] := by simp [hbatch, Nat.ne_of_gt hcount]
  obtain ⟨p, hleast, hmem, hmin⟩ := leastBy_key Prod.snd htaken
  have hcut := State.updCtx_self c (fun x => { x with batch := x.batch.drop s.batchCount, batchAt := s.now }) s
  obtain ⟨inv, hpics, hdl, hqueue, hrest, hnow⟩ := State.release_spec (Nat.lt_of_le_of_lt (Nat.le_of_eq (congrArg (·.queue.length) hcut)) hroom)
    ((s.ctx c).batch.take s.batchCount) (p.2 + (s.ctx c).dctx)
  rw [hcut] at hqueue hrest
  exact ⟨_, inv, p, by simp only [State.closeBatch, hleast], hnow, hrest, hqueue, hmem, hmin, hpics, hdl⟩

/-! ### The time of a batch -/

theorem State.waitUntil_ctx (t c : Nat) (s : State) : (s.waitUntil t).ctx c = s.ctx c := by
  simp only [State.ctx, State.waitUntil_dis]

theorem State.waitUntil_batchCount (t : Nat) (s : State) : (s.waitUntil t).batchCount = s.batchCount := by
  simp only [State.batchCount, State.setting, State.waitUntil_crt]

/-- After a wait the time waited for has come. -/
theorem State.le_waitUntil_now {t : Nat} (ht : t < 2 ^ 64) (s : State) : t ≤ (s.waitUntil t).now := by
  simp only [State.now, State.waitUntil, State.updAon_aon, Aon.until]
  split
  case isTrue hpast => exact hpast
  case isFalse => exact Nat.le_of_eq (by rw [BitVec.toNat_ofNat, Nat.mod_eq_of_lt ht])

/-! ### BATCH_CLOSE -/

section
variable {ctx : Fin 4096} {s : State} (hbatch : (s.ctx ctx.val).batch ≠ []) (hdetect : s.batches ctx.val = true)
  (hserv : s.dis.inService = true) (hfrozen : s.isFrozen = false)
include hbatch hdetect hserv hfrozen

theorem exec_batchClose_full (hfull : s.batchCount ≤ (s.ctx ctx.val).batch.length) :
    exec (.batchClose ctx) s = .next (s.closeBatch ctx.val) := by
  simp [exec, execBatchClose, hbatch, hdetect, hserv, hfrozen, hfull]

/-- Short of its count a batch waits for its time (R286). -/
theorem exec_batchClose_timed (hshort : (s.ctx ctx.val).batch.length < s.batchCount) :
    exec (.batchClose ctx) s = .next ((s.waitUntil ((s.ctx ctx.val).batchAt + s.batchTime)).closeBatch ctx.val) := by
  simp [exec, execBatchClose, hbatch, hdetect, hserv, hfrozen, Nat.not_le.mpr hshort]

end

/-! ### SWAP_COMPLETE -/

/-- The set that the swap was of holds the incoming context, and no swap of it is in progress; the other set is as it was. -/
theorem State.swapIn_region (r : Nat) (gau : Bool) (c : Nat) (s : State) :
    ((s.swapIn r gau c).region r).active gau = some c ∧ ((s.swapIn r gau c).region r).swapping gau = none ∧
      ((s.swapIn r gau c).region r).active (!gau) = (s.region r).active (!gau) := by
  have hregion : (s.swapIn r gau c).region r =
      if gau then { s.region r with swapGau := none, gauCtx := some c } else { s.region r with swapCores := none, coresCtx := some c } :=
    State.updRegion_self r (fun g => if gau then { g with swapGau := none, gauCtx := some c } else { g with swapCores := none, coresCtx := some c }) s
  rw [hregion]
  cases gau <;> exact ⟨rfl, rfl, rfl⟩

/-- The incoming context is RUNNING (R291). -/
theorem State.swapIn_ctx (r : Nat) (gau : Bool) (c : Nat) (s : State) : (s.swapIn r gau c).ctx c = { s.ctx c with state := 3 } :=
  State.updCtx_self _ _ _

theorem State.swapIn_within (r : Nat) (gau : Bool) (c : Nat) (s : State) : s.within [.rgn, .dis] (s.swapIn r gau c) :=
  (State.swapIn_keeps rfl rfl r gau c s (.refl s)).within

theorem exec_swapComplete {r : Fin 8} {gau : Bool} {s : State} {c : Nat} (hswap : (s.region r.val).swapping gau = some c)
    (hclk : s.aclkStopped r.val = false) : exec (.swapComplete r gau) s = .next ((s.swapIn r.val gau c).runIn r.val gau c) := by
  simp [exec, execSwapComplete, hswap, hclk]

/-! ### The statement -/

/-- Settles O23: a full batch closes at once and a short one after its wait, both by `closeBatch_spec`; a swap by what `swapIn` leaves. -/
theorem batchesAndSwaps : Obligations.BatchesAndSwaps := by
  unfold Obligations.BatchesAndSwaps
  refine ⟨fun ctx s hbatch hdetect hserv hfrozen hcount hroom => ?batch, fun r gau s c hswap hclk => ?swap⟩
  case batch =>
    by_cases hfull : s.batchCount ≤ (s.ctx ctx.val).batch.length
    · obtain ⟨u, inv, p, hclose, hnow, hdrop, hqueue, hmem, hmin, hpics, hdl⟩ := State.closeBatch_spec hbatch hcount hroom
      exact ⟨u, inv, p, (exec_batchClose_full hbatch hdetect hserv hfrozen hfull).trans (congrArg _ hclose), hdrop, hqueue, hmem, hmin, hpics,
        hdl, fun _ => hnow, fun hshort => absurd hfull (Nat.not_le.mpr hshort)⟩
    · have hwait := State.closeBatch_spec (c := ctx.val) (s := s.waitUntil ((s.ctx ctx.val).batchAt + s.batchTime))
      simp only [State.waitUntil_ctx, State.waitUntil_batchCount] at hwait
      obtain ⟨u, inv, p, hclose, hnow, hdrop, hqueue, hmem, hmin, hpics, hdl⟩ := hwait hbatch hcount hroom
      exact ⟨u, inv, p, (exec_batchClose_timed hbatch hdetect hserv hfrozen (Nat.not_le.mp hfull)).trans (congrArg _ hclose), hdrop, hqueue, hmem,
        hmin, hpics, hdl, fun h => absurd h hfull, fun _ ht => hnow ▸ State.le_waitUntil_now ht s⟩
  case swap =>
    obtain ⟨hactive, hswapping, hother⟩ := State.swapIn_region r.val gau c s
    exact ⟨_, exec_swapComplete hswap hclk, State.swapIn_within _ _ _ _, rfl, State.swapIn_ctx _ _ _ _, hactive, hswapping, hother⟩

end Sys2Proof.Machine
end

section
/-! PROOF. Context faults (R161, R168, R179, R225, R236, R299): where the reset of the faulting context is put off. -/

namespace Sys2Proof.Machine

/-! ### A reset that waits for ACLK -/

/-- A context that runs a pass on its own region while that region's ACLK is stopped is not reset now: the dispatcher's registers stay (R170). -/
theorem State.cxr_dis_of_stopped {c : Nat} {s : State} (hclk : s.aclkStopped (s.ctx c).region = true) (hocc : (s.occupied c).isEmpty = false)
    (cause : Nat) (code : U16) (layer tile : Nat) : (s.cxr c cause code layer tile).dis = s.dis := by
  simp [State.cxr, hclk, hocc]

/-- A context fault of a pass, while ACLK runs, asks for a CXR of the pass's context. -/
theorem exec_passAbort_ctxFault {r : Fin 8} {u : PassUnit} {s : State} {c layer tile : Nat} (hclk : s.aclkStopped r.val = false)
    (hrun : s.runningOn r.val u = some (c, layer, tile)) (k : Fin 16) :
    exec (.passAbort r u (.ctxFault k)) s = .next (s.cxr c k.val 0 layer tile) := by
  rw [exec_passAbort (cause := .ctxFault k) hclk (by simp [hrun]) nofun]
  simp [State.abortPass, hrun]

/-- CXR_COUNT counts every CXR that is taken. -/
theorem not_takesCxr_of_dis {i : Instr} {c cause : Nat} {s t : State} (hexec : exec i s = .next t) (hdis : t.dis = s.dis) :
    ¬ TakesCxr i c cause s := by
  rintro ⟨t', hexec', hcount, -⟩
  obtain rfl : t = t' := by simpa [hexec] using hexec'
  rw [hdis] at hcount
  bv_omega

/-! ### A context that runs passes on two regions -/

/-- A pass of context 0. -/
def strayPass : PassItem :=
  { desc := { wbits := 1, mode := 1, n := 1, feed := 0, wblock := 0, out := 0, scale := 0, zp := 0, rq := 0, tile := 0, zero := 0 }
    block := 0, ctx := 0, tile := 0, layer := 0, wc := 0 }

/-- Context 0 belongs to region 1, whose ACLK a dip has stopped, and core 0 of that region and of region 0 runs a pass of it. -/
def strayState : State :=
  { rgn := [(0, { cores := [(0, { running := some strayPass })] }), (1, { cores := [(0, { running := some strayPass })] })]
    dis := { nCtx := 1, ctxs := [(0, { region := 1 })] }
    pwr := { regions := [(1, { stopDip := true })] } }

/-- The CXR waits for the clock of region 1, though the pass that faults is on region 0, whose clock runs. -/
theorem strayState_waits : ¬ TakesCxr (.passAbort 0 (.array 0) (.ctxFault 0)) 0 0 strayState :=
  not_takesCxr_of_dis (exec_passAbort_ctxFault (by decide) rfl 0) (State.cxr_dis_of_stopped (by decide) (by decide) _ _ _ _)

/-! ### The statement -/

/-- Refutes O18: its hypotheses ask that ACLK of the pass's region runs, and `State.cxr` asks it of the region of the context, which they leave free. In
`strayState` the two differ, and the reset waits. -/
theorem not_contextFaultsReset : ¬ Obligations.ContextFaultsReset := by
  unfold Obligations.ContextFaultsReset
  intro h
  obtain ⟨hcore, -, -⟩ := h 0 0 strayState (by decide)
  obtain ⟨-, habort⟩ := hcore strayPass rfl (by decide) (by decide)
  exact strayState_waits (habort 0)

end Sys2Proof.Machine
end

section
/-! PROOF. Commits of the vector engines and the Millefeuilles (R180, R187, R223, R230 to R250): what a descriptor or a pass that commits leaves of its engine
and of the memories, and what it leaves alone. -/

namespace Sys2Proof.Machine

/-! ### The memories of a region -/

/-- A core's memories are no part of its vector engine. -/
@[simp] theorem State.updCoreMem_vec (r i k : Nat) (f : CoreMem → CoreMem) (s : State) : (s.updCoreMem r i f).vec r k = s.vec r k := by
  simp [State.updCoreMem, State.vec]

@[simp] theorem State.updVec_coreMem (r i k : Nat) (f : Vec → Vec) (s : State) : (s.updVec r i f).coreMem r k = s.coreMem r k := by
  simp [State.updVec, State.coreMem]

/-- The region buffer is no part of its cores' memories. -/
@[simp] theorem State.updRb_coreMem (r k : Nat) (f : Mem → Mem) (s : State) : (s.updRb r f).coreMem r k = s.coreMem r k := by
  simp [State.updRb, State.coreMem]

@[simp] theorem State.updRb_rb (r : Nat) (f : Mem → Mem) (s : State) : ((s.updRb r f).regMem r).rb = f (s.regMem r).rb := by
  simp [State.updRb]

@[simp] theorem State.updRb_region (r k : Nat) (f : Mem → Mem) (s : State) : (s.updRb r f).region k = s.region k := rfl

@[simp] theorem State.updGau_regMem (r k : Nat) (f : Gau → Gau) (s : State) : (s.updGau r f).regMem k = s.regMem k := rfl

@[simp] theorem State.updGau_coreMem (r r' k : Nat) (f : Gau → Gau) (s : State) : (s.updGau r f).coreMem r' k = s.coreMem r' k := rfl

@[simp] theorem State.progressed_regMem (c r : Nat) (s : State) : (s.progressed c).regMem r = s.regMem r := rfl

@[simp] theorem State.progressed_region (c r : Nat) (s : State) : (s.progressed c).region r = s.region r := rfl

@[simp] theorem State.progressed_vec (c r k : Nat) (s : State) : (s.progressed c).vec r k = s.vec r k := rfl

@[simp] theorem State.addCycles_vec (r wc slot tile n r' k : Nat) (s : State) : (s.addCycles r wc slot tile n).vec r' k = s.vec r' k := rfl

/-! ### The descriptor that commits -/

/-- The engine and its core's scratchpad after a descriptor that left `o` in `n` cycles. -/
def State.writeVec (r i : Nat) (o : VecOut) (n : Nat) (s : State) : State :=
  (s.updCoreMem r i fun m => { m with sp := o.apply m.sp }).updVec r i fun x => x.after o n

/-- The state in which a descriptor that met no lane fault has committed, before the region's engines go on. -/
def State.commitVec (r i : Nat) (v : VecItem) (o : VecOut) (s : State) : State :=
  let n := vecCycles (s.coreMem r i).sp v.desc
  ((s.writeVec r i o n).progressed v.ctx).addCycles r v.wc (((s.region r).slotOfCore i).getD 16) v.tile n

/-- A descriptor of defined fields that meets no lane fault commits while ACLK runs, and then the region goes on. -/
theorem exec_vecDescriptorCommit {r : Fin 8} {i : Fin 18} {s : State} {v : VecItem} {l : LayerEntry} {o : VecOut}
    (hrun : (s.vec r.val i.val).running = some v) (hclk : s.aclkStopped r.val = false) (hdef : VecDesc.defined v.desc = true)
    (hlayer : (s.layersOf v.ctx)[v.layer]? = some l)
    (hout : vecRun (s.coreMem r.val i.val).sp v.desc (s.tilePos v.ctx l v.tile (s.core r.val i.val).half) = o) (hfault : o.fault = none) :
    exec (.vecDescriptorCommit r i) s = .next ((s.commitVec r.val i.val v o).resumeRegion r.val).judgeAll := by
  simp only [exec, execVecDescriptorCommit, State.vecCommit, hrun, hclk, hdef, hlayer, hout, hfault, Bool.not_true, Bool.false_eq_true, if_false]
  rfl

theorem State.commitVec_vec (r i : Nat) (v : VecItem) (o : VecOut) (s : State) :
    (s.commitVec r i v o).vec r i = (s.vec r i).after o (vecCycles (s.coreMem r i).sp v.desc) := by
  simp [State.commitVec, State.writeVec]

theorem State.commitVec_coreMem (r i : Nat) (v : VecItem) (o : VecOut) (s : State) :
    (s.commitVec r i v o).coreMem r i = { s.coreMem r i with sp := o.apply (s.coreMem r i).sp } := by
  simp [State.commitVec, State.writeVec]

theorem State.commitVec_vec_other {r i k : Nat} (h : k ≠ i) (v : VecItem) (o : VecOut) (s : State) :
    (s.commitVec r i v o).vec r k = s.vec r k := by
  simp [State.commitVec, State.writeVec, State.updVec_other h]

theorem State.commitVec_coreMem_other {r i k : Nat} (h : k ≠ i) (v : VecItem) (o : VecOut) (s : State) :
    (s.commitVec r i v o).coreMem r k = s.coreMem r k := by
  simp [State.commitVec, State.writeVec, State.updCoreMem_other h]

/-- The writes of a descriptor leave the memory that they fall into in canonical form. -/
theorem VecOut.apply_wf (o : VecOut) {m : Mem} (h : m.wf = true) : (o.apply m).wf = true :=
  Mem.foldl_wf _ (fun _ _ => Mem.writeN_wf _ _ _) _ _ h

theorem CoreMem.applyVec_wf (o : VecOut) {m : CoreMem} (h : m.wf = true) : CoreMem.wf { m with sp := o.apply m.sp } = true := by
  simp only [CoreMem.wf, Bool.and_eq_true] at h ⊢
  obtain ⟨⟨⟨hsp, hrq⟩, h0⟩, h1⟩ := h
  exact ⟨⟨⟨o.apply_wf hsp, hrq⟩, h0⟩, h1⟩

theorem State.writeVec_keeps {m : Part → Bool} {s₀ s : State} (hrmem : m .rmem = true) (r i : Nat) (o : VecOut) (n : Nat) (k : Keeps m s₀ s) :
    Keeps m s₀ (s.writeVec r i o n) :=
  State.updVec_keeps hrmem _ _ _ _ (State.updCoreMem_keeps hrmem (fun _ => CoreMem.applyVec_wf o) k)

theorem State.commitVec_within (r i : Nat) (v : VecItem) (o : VecOut) (s : State) : s.within [.rgn, .rmem, .dis] (s.commitVec r i v o) :=
  (State.addCycles_keeps rfl _ _ _ _ _ _ (State.progressed_keeps rfl _ _ (State.writeVec_keeps rfl r i o _ (.refl s)))).within

/-! ### The pass that completes -/

/-- The Millefeuille after a pass that left the flags `fl`. -/
def Gau.after (g : Gau) (d : GauDesc) (fl : Flags) : Gau :=
  { g with running := none, passes := g.passes + 1, cycles := BitVec.ofNat 32 (gauCycles g d), first := false
           sat := g.sat || fl.sat, nan := g.nan || fl.nan, inf := g.inf || fl.inf }

/-- What a pass counts does not depend on the accumulators. -/
theorem Gau.after_accs (g : Gau) (accs drain : Tbl (List U32)) (d : GauDesc) (fl : Flags) :
    { g with accs := accs, drain := drain }.after d fl = { g.after d fl with accs := accs, drain := drain } := rfl

/-- The state in which a Millefeuille pass has completed, before its tile ends and the region's engines go on. -/
def State.commitGau (r : Nat) (p : GauItem) (s : State) : State :=
  let m := (s.regMem r).rb
  let d := rebase p.desc (s.rbBase p.ctx)
  (((s.keepAccs r m d).updRb r fun m => (gauRun m d).1).updGau r fun g => g.after p.desc (gauRun m d).2).progressed p.ctx

/-- A pass of an allowed descriptor completes while ACLK runs, and then its tile ends or goes on, and the region with it. -/
theorem exec_gauPassCommit {r : Fin 8} {s : State} {p : GauItem} (hrun : (s.region r.val).gau.running = some p)
    (hclk : s.aclkStopped r.val = false) (hok : s.gauOk p = true) :
    exec (.gauPassCommit r) s = .next (((s.commitGau r.val p).gauNext r.val p).resumeRegion r.val).judgeAll := by
  simp only [exec, execGauPassCommit, State.gauCommit, hrun, hclk, hok, Bool.not_true, Bool.false_eq_true, if_false]
  rfl

/-- Keeping the accumulators touches no memory. -/
@[simp] theorem State.keepAccs_regMem (r k : Nat) (m : Mem) (d : GauDesc) (s : State) : (s.keepAccs r m d).regMem k = s.regMem k := rfl

@[simp] theorem State.keepAccs_coreMem (r r' k : Nat) (m : Mem) (d : GauDesc) (s : State) : (s.keepAccs r m d).coreMem r' k = s.coreMem r' k := rfl

/-- Of the Millefeuille, keeping the accumulators changes these and the registers that drain them alone. -/
theorem State.keepAccs_gau (r : Nat) (m : Mem) (d : GauDesc) (s : State) :
    ((s.keepAccs r m d).region r).gau = { (s.region r).gau with
      accs := ((s.keepAccs r m d).region r).gau.accs, drain := ((s.keepAccs r m d).region r).gau.drain } := by
  simp [State.keepAccs]

theorem State.commitGau_rb (r : Nat) (p : GauItem) (s : State) :
    ((s.commitGau r p).regMem r).rb = (gauRun (s.regMem r).rb (rebase p.desc (s.rbBase p.ctx))).1 := by
  simp [State.commitGau]

/-- Besides its accumulators and the registers that drain them, the Millefeuille is as `Gau.after` says. -/
theorem State.commitGau_gau (r : Nat) (p : GauItem) (s : State) :
    ((s.commitGau r p).region r).gau = { (s.region r).gau.after p.desc (gauRun (s.regMem r).rb (rebase p.desc (s.rbBase p.ctx))).2 with
      accs := ((s.commitGau r p).region r).gau.accs, drain := ((s.commitGau r p).region r).gau.drain } := by
  simp only [State.commitGau, State.progressed_region, State.updGau_self, State.updRb_region]
  rw [State.keepAccs_gau, Gau.after_accs]

theorem State.commitGau_coreMem (r k : Nat) (p : GauItem) (s : State) : (s.commitGau r p).coreMem r k = s.coreMem r k := by
  simp [State.commitGau]

theorem State.commitGau_within (r : Nat) (p : GauItem) (s : State) : s.within [.rgn, .rmem, .dis] (s.commitGau r p) :=
  (State.progressed_keeps rfl _ _ (State.updGau_keeps rfl _ _ _ (State.updRb_keeps rfl (fun _ => gauRun_wf _ _)
    (State.keepAccs_keeps rfl _ _ _ _ (.refl s))))).within

/-! ### The statement -/

/-- Settles O17: the vector engine is `Vec.after` its descriptor and the Millefeuille `Gau.after` its pass, each with one memory written. -/
theorem descriptorsCommit : Obligations.DescriptorsCommit := by
  unfold Obligations.DescriptorsCommit
  refine ⟨fun r i s v l o hrun hclk hdef hlayer hout hfault => ?vec, fun r s p hrun hclk hok => ?gau⟩
  case vec =>
    refine ⟨s.commitVec r.val i.val v o, exec_vecDescriptorCommit hrun hclk hdef hlayer hout hfault, State.commitVec_within _ _ _ _ _, ?_⟩
    rw [State.commitVec_vec, State.commitVec_coreMem]
    exact ⟨rfl, rfl, rfl, rfl, rfl, rfl, rfl, rfl, rfl, fun k hk =>
      ⟨State.commitVec_vec_other hk _ _ _, State.commitVec_coreMem_other hk _ _ _⟩⟩
  case gau =>
    exact ⟨s.commitGau r.val p, _, exec_gauPassCommit hrun hclk hok, State.commitGau_within _ _ _,
      Prod.ext (State.commitGau_rb _ _ _) rfl, State.commitGau_gau _ _ _, fun k => State.commitGau_coreMem _ _ _ _⟩

end Sys2Proof.Machine
end

section
/-! PROOF. Claims and completed tiles (R263, R264, R266): who is answered GRANTED and who LOST, what a grant leaves of the
counter, and what DONE counts. -/

namespace Sys2Proof.Machine

/-! ### What has been sent -/

/-- What was sent stays sent. -/
theorem Keeps.mem_out {m : Part → Bool} {s t : State} {o : Out} (k : Keeps m s t) (h : o ∈ s.out) : o ∈ t.out := k.sent.subset h

theorem State.mem_send_out (o : Out) (s : State) : o ∈ (s.send o).out := List.mem_cons_self

theorem State.mem_unitEvent_out {o : Out} {s : State} (h : o ∈ s.out) {u : U16} {k : Nat} {reset : Bool} {code : U16} :
    o ∈ (s.unitEvent u k reset code).out :=
  (State.unitEvent_keeps (m := fun _ => true) rfl rfl rfl rfl rfl rfl rfl rfl rfl rfl rfl rfl rfl rfl rfl rfl rfl rfl rfl rfl rfl rfl rfl rfl rfl
    rfl rfl rfl rfl u k reset code s (.refl s)).mem_out h

/-! ### Counters -/

/-- The context that runs on a counter is the one resident in the counter's slot. -/
theorem State.wcOwner_slot {s : State} {r wc c : Nat} (h : s.wcOwner r wc = some c) : tfind (s.region r).rslots (wc / 8) = some c := by
  unfold State.wcOwner at h
  split at h
  case h_1 d hd =>
    split at h
    · rwa [← h]
    · cases h
  case h_2 => cases h

/-- The counters of a region are no part of its cores' records. -/
@[simp] theorem State.updCore_wc (r i n : Nat) (f : Core → Core) (s : State) : (s.updCore r i f).wc r n = s.wc r n := by
  simp [State.updCore, State.wc]

@[simp] theorem State.updVec_wc (r i r' n : Nat) (f : Vec → Vec) (s : State) : (s.updVec r i f).wc r' n = s.wc r' n := rfl

@[simp] theorem State.send_wc (o : Out) (r n : Nat) (s : State) : (s.send o).wc r n = s.wc r n := rfl

@[simp] theorem State.progressed_wc (c r n : Nat) (s : State) : (s.progressed c).wc r n = s.wc r n := rfl

/-- A tile's output goes to memory alone, so no counter moves. -/
@[simp] theorem State.writeBack_wc (r i c layer tile r' n : Nat) (s : State) : (s.writeBack r i c layer tile).wc r' n = s.wc r' n := by
  have hrgn : (s.writeBack r i c layer tile).rgn = s.rgn :=
    (State.writeBack_keeps (m := fun p => decide (p ∈ [.rmem, .dram, .fresh])) rfl rfl rfl r i c layer tile s (.refl s)).same .rgn rfl
  simp only [State.wc, State.region, hrgn]

/-- Of the counter, the copies that are dropped change the runners and the duplicates (R266). -/
theorem State.dropCopies_wc (r wc slot tile : Nat) (s : State) :
    (s.dropCopies r wc slot tile).wc r wc = { s.wc r wc with
      runners := (s.wc r wc).runners.filter fun x => !(x.tile == tile) || x.slot == slot
      dupes := satAdd (s.wc r wc).dupes ((s.wc r wc).runners.filter fun x => x.tile == tile && !(x.slot == slot)).length } := by
  simp only [State.dropCopies, State.updWc_self, List.length_map]
  rw [List.foldlRecOn (motive := fun t : State => t.wc r wc = s.wc r wc) _ _ rfl fun t ht n _ => ?_]
  simpa using ht

/-! ### The grant -/

section
variable (r wc slot tile c : Nat) (x : Runner) (s : State)

/-- A granted tile of the first runner is CLAIMED, and no other core runs it (R263, R266). -/
theorem State.grant_wc (hx : x.copy = false) :
    ((s.grant r wc slot tile c x).wc r wc).board = tset 0 (s.wc r wc).board tile 2 ∧
      ((s.grant r wc slot tile c x).wc r wc).runners = (s.wc r wc).runners.filter fun y => !(y.tile == tile) || y.slot == slot := by
  simp [State.grant, hx, State.dropCopies_wc]

/-- A grant is answered, whoever ran the tile first. -/
theorem State.granted_mem_grant : .wcGranted r slot tile ∈ (s.grant r wc slot tile c x).out := by
  have hdrop (t : State) : .wcGranted r slot tile ∈ ((t.send (.wcGranted r slot tile)).dropCopies r wc slot tile).out :=
    (State.dropCopies_keeps (m := fun _ => true) rfl rfl r wc slot tile _ (.refl _)).mem_out (State.mem_send_out _ _)
  unfold State.grant
  dsimp only
  split
  case isTrue =>
    split
    · exact State.mem_unitEvent_out (by simpa only [State.updRegion_out] using hdrop _)
    · simpa only [State.updRegion_out] using hdrop _
  case isFalse => exact hdrop _

end

/-! ### A tile that is DONE -/

/-- A tile that is DONE is so in its counter, which counts it; its runners are gone (R263). -/
def State.endTile (r c wc tile : Nat) (s : State) : State :=
  (s.updWc r wc fun w => { w with
    board := tset 0 w.board tile 3, doneN := w.doneN + 1, runners := w.runners.filter fun x => !(x.tile == tile) }).progressed c

theorem State.tileDone_eq (r c layer wc tile : Nat) (s : State) :
    s.tileDone r c layer wc tile =
      if (s.wc r wc).doneN + 1 = (s.wc r wc).tiles then (s.endTile r c wc tile).layerDone r c layer wc else s.endTile r c wc tile := by
  simp [State.tileDone, State.endTile]

theorem State.endTile_wc (r c wc tile : Nat) (s : State) :
    tget 0 ((s.endTile r c wc tile).wc r wc).board tile = 3 ∧ ((s.endTile r c wc tile).wc r wc).doneN = (s.wc r wc).doneN + 1 := by
  simp [State.endTile]

/-! ### The commands -/

section
variable {r : Fin 8} {wc : Fin 64} {slot : Fin 16} {tile : Fin 4096} {s : State} {c : Nat} {x : Runner}
  (howner : s.wcOwner r.val wc.val = some c) (hactive : (s.wc r.val wc.val).active = true) (hsingle : (s.wc r.val wc.val).fused = false)
  (hrunner : (s.wc r.val wc.val).runners.find? (fun x => x.tile == tile.val && x.slot == slot.val) = some x)
include howner hactive hrunner

include hsingle in
theorem exec_claim_granted (hissued : tget 0 (s.wc r.val wc.val).board tile.val = 1)
    (htodo : (s.core r.val (mapGet (s.region r.val).slotMap slot.val).phys).todo = [])
    (hquiet : s.coreQuiet r.val (mapGet (s.region r.val).slotMap slot.val).phys = true) :
    exec (.claim r wc slot tile) s = .next (s.grant r.val wc.val slot.val tile.val c x).judgeAll := by
  simp [exec, execClaim, howner, hactive, hsingle, hrunner, hissued, htodo, hquiet]

include hsingle in
theorem exec_claim_lost (hclaimed : tget 0 (s.wc r.val wc.val).board tile.val ≠ 1) :
    exec (.claim r wc slot tile) s = .next ((s.updWc r.val wc.val fun w => { w with
      dupes := satAdd w.dupes 1, runners := w.runners.filter fun y => !(y.tile == tile.val && y.slot == slot.val) }).send
        (.wcLost r.val slot.val tile.val)) := by
  simp [exec, execClaim, howner, hactive, hsingle, hrunner, hclaimed]

theorem exec_done (hclaimed : tget 0 (s.wc r.val wc.val).board tile.val = 2) :
    exec (.done r wc slot tile) s
      = .next ((s.tileDone r.val c (s.wc r.val wc.val).layer wc.val tile.val).resumeRegion r.val).judgeAll := by
  have hslot : tfind (s.region r.val).rslots (wc.val / 8) = some c := State.wcOwner_slot howner
  have hruns : (s.wc r.val wc.val).runners.any (fun x => x.tile == tile.val && x.slot == slot.val) = true :=
    by
    rw [List.any_eq_true]
    exact ⟨x, List.mem_of_find?_eq_some hrunner, by simpa using List.find?_some hrunner⟩
  simp [exec, execDone, hslot, hactive, hclaimed, hruns]

end

/-! ### The statement -/

/-- Settles O21: a grant by what it sends and leaves of the counter, a lost claim by its one update, and DONE by what `endTile` counts. -/
theorem claimsAndDone : Obligations.ClaimsAndDone := by
  unfold Obligations.ClaimsAndDone
  intro r wc slot tile s c x howner hactive hsingle hrunner
  refine ⟨fun hissued htodo hquiet => ?granted, fun hclaimed => ?lost, fun hclaimed => ?done⟩
  case granted =>
    have hexec := exec_claim_granted howner hactive hsingle hrunner hissued htodo hquiet
    refine ⟨⟨_, hexec, ?sent⟩, fun hfirst => ⟨_, hexec, ?_⟩⟩
    case sent =>
      exact (State.judgeAll_keeps (m := fun _ => true) rfl rfl rfl _ (.refl _)).mem_out (State.granted_mem_grant _ _ _ _ _ _ _)
    obtain ⟨hboard, hrunners⟩ := State.grant_wc r.val wc.val slot.val tile.val c x s hfirst
    rw [hboard, hrunners]
    exact ⟨tget_tset_self _ _ _ _, fun y hy htile => by simpa [htile] using (List.mem_filter.mp hy).2⟩
  case lost =>
    refine ⟨_, exec_claim_lost howner hactive hsingle hrunner hclaimed, rfl, ?frame, ?_, ?_⟩
    case frame => exact (State.send_keeps rfl _ _ (State.updWc_keeps rfl _ _ _ _ (.refl s))).within
    · simp
    · simp
  case done =>
    have hexec := exec_done howner hactive hrunner hclaimed
    obtain ⟨hboard, hcount⟩ := State.endTile_wc r.val c wc.val tile.val s
    rw [State.tileDone_eq] at hexec
    refine ⟨s.endTile r.val c wc.val tile.val, hboard, hcount, ?frame, fun hmore => ?_, fun hlast => ?_⟩
    case frame => exact (State.progressed_keeps rfl _ _ (State.updWc_keeps rfl _ _ _ _ (.refl s))).within
    · rwa [if_neg hmore] at hexec
    · rwa [if_pos hlast] at hexec

end Sys2Proof.Machine
end

section
/-! PROOF. FETCH (R263, R265): the unit that a counter hands out, and the slot map that stands as its tiles start on their cores. -/

namespace Sys2Proof.Machine

/-! ### Numbers and tables -/

theorem mem_range {k lo n : Nat} : k ∈ range lo n ↔ lo ≤ k ∧ k < lo + n := by
  induction n generalizing lo with
  | zero => simp only [range, List.not_mem_nil, false_iff]; omega
  | succ n ih => simp only [range, List.mem_cons, ih]; omega

theorem mem_insertN {k x : Nat} {l : List Nat} : x ∈ insertN k l ↔ x = k ∨ x ∈ l := by
  induction l with
  | nil => simp [insertN]
  | cons a l ih =>
    simp only [insertN]
    split
    · simp
    · split
      · subst_vars; simp
      · rw [List.mem_cons, List.mem_cons, ih, or_left_comm]

/-- Numbers inserted in turn join those that stand. -/
theorem mem_foldl_insertN {xs l : List Nat} {x : Nat} : x ∈ xs.foldl (fun l n => insertN n l) l ↔ x ∈ xs ∨ x ∈ l := by
  induction xs generalizing l with
  | nil => simp
  | cons a xs ih => rw [List.foldl_cons, ih, mem_insertN, List.mem_cons, or_left_comm, or_assoc]

/-- One value set at each of some keys. -/
theorem tget_foldl_tset {α : Type} [DecidableEq α] (d v : α) {t : Tbl α} {ks : List Nat} {k : Nat} (h : k ∈ ks ∨ tget d t k = v) :
    tget d (ks.foldl (fun t k => tset d t k v) t) k = v := by
  induction ks generalizing t with
  | nil => simpa using h
  | cons a ks ih =>
    refine ih ?_
    by_cases hka : k = a
    · subst hka; exact .inr (tget_tset_self _ _ _ _)
    · refine h.imp (fun hk => (List.mem_cons.mp hk).resolve_left hka) fun ht => ?_
      exact (tget_tupd_ne d t (fun _ => v) hka).trans ht

/-- A partial function that has a value on the whole of a list. -/
theorem filterMap_eq_map_of {α β : Type} {f : α → Option β} {g : α → β} {xs : List α} (h : ∀ x ∈ xs, f x = some (g x)) :
    xs.filterMap f = xs.map g := by
  induction xs with
  | nil => rfl
  | cons a xs ih =>
    obtain ⟨ha, hxs⟩ := List.forall_mem_cons.mp h
    rw [List.filterMap_cons_some ha, ih hxs, List.map_cons]

/-- Two steps that agree where `P` holds, which the first keeps, lead to the same end. -/
theorem foldl_congr_of {σ α : Type} {f g : σ → α → σ} {P : σ → Prop} (hfg : ∀ s a, P s → f s a = g s a) (hP : ∀ s a, P s → P (f s a))
    (xs : List α) {s : σ} (hs : P s) : xs.foldl f s = xs.foldl g s := by
  induction xs generalizing s with
  | nil => rfl
  | cons a xs ih => rw [List.foldl_cons, List.foldl_cons, ← hfg s a hs, ih (hP s a hs)]

/-! ### The slot map while a core works -/

@[simp] theorem State.updCore_slotMap (r i : Nat) (f : Core → Core) (s : State) : ((s.updCore r i f).region r).slotMap = (s.region r).slotMap := by
  simp [State.updCore]

@[simp] theorem State.updWc_slotMap (r n : Nat) (f : Wc → Wc) (s : State) : ((s.updWc r n f).region r).slotMap = (s.region r).slotMap := by
  simp [State.updWc]

@[simp] theorem State.updVec_region (r i k : Nat) (f : Vec → Vec) (s : State) : (s.updVec r i f).region k = s.region k := rfl

@[simp] theorem State.updCoreMem_region (r i k : Nat) (f : CoreMem → CoreMem) (s : State) : (s.updCoreMem r i f).region k = s.region k := rfl

/-- The slot map, and the steps that core `i` has yet to take. -/
def State.mapAndSteps (s : State) (r i : Nat) : Tbl MapEntry × List TileStep := ((s.region r).slotMap, (s.core r i).todo)

section
variable (r i : Nat) (s : State)

/-- A change of the core that keeps its steps. -/
@[simp] theorem State.updCore_mapAndSteps {f : Core → Core} (h : ∀ x, (f x).todo = x.todo) :
    (s.updCore r i f).mapAndSteps r i = s.mapAndSteps r i := by
  simp [State.mapAndSteps, h]

@[simp] theorem State.updCoreMem_mapAndSteps (f : CoreMem → CoreMem) : (s.updCoreMem r i f).mapAndSteps r i = s.mapAndSteps r i := rfl

@[simp] theorem State.updVec_mapAndSteps (f : Vec → Vec) : (s.updVec r i f).mapAndSteps r i = s.mapAndSteps r i := rfl

@[simp] theorem State.loadShadow_mapAndSteps : (s.loadShadow r i).mapAndSteps r i = s.mapAndSteps r i := by
  unfold State.loadShadow
  dsimp only
  split
  · split
    · rfl
    · simp
  · rfl

@[simp] theorem State.startPass_mapAndSteps : (s.startPass r i).mapAndSteps r i = s.mapAndSteps r i := by
  unfold State.startPass
  dsimp only
  split
  · simp
  · rfl

@[simp] theorem State.startVec_mapAndSteps : (s.startVec r i).mapAndSteps r i = s.mapAndSteps r i := by
  unfold State.startVec
  dsimp only
  split
  · split <;> exact State.updVec_mapAndSteps _ _ _ _
  · rfl

@[simp] theorem State.stageTile_mapAndSteps (c layer tile : Nat) : (s.stageTile r i c layer tile).mapAndSteps r i = s.mapAndSteps r i := by
  unfold State.stageTile
  split
  · rfl
  · split
    · dsimp only
      split
      · exact State.updCore_mapAndSteps _ _ _ fun _ => rfl
      · simp
    · rfl

end

/-! ### The steps of a single tile -/

/-- A step that a tile outside a fused group has: it ends no tile, so no layer ends or starts with it. -/
def TileStep.single : TileStep → Bool
  | .stage _ _ _ | .pass _ | .vec _ => true
  | _ => false

theorem State.tileSteps_single (s : State) (r i c layer wc tile : Nat) : ∀ x ∈ (s.tileSteps r i c layer wc tile).1, x.single = true := by
  unfold State.tileSteps
  split
  · simp
  · intro x hx
    simp only [List.mem_append, List.mem_filterMap] at hx
    rcases hx with hstage | ⟨d, -, hd⟩
    · obtain ⟨-, rfl⟩ : _ ∧ x = .stage c layer tile := by simpa only [List.mem_ite_nil_right, List.mem_singleton] using hstage
      rfl
    · split at hd
      · obtain rfl := Option.some.inj hd; rfl
      · obtain rfl := Option.some.inj hd; rfl
      · cases hd

/-- A core that has steps of single tiles alone leaves the slot map as it is. -/
theorem State.feedCore_slotMap (r i k : Nat) {s : State} (hsteps : ∀ x ∈ (s.core r i).todo, x.single = true) :
    ((s.feedCore r i k).region r).slotMap = (s.region r).slotMap := by
  induction k generalizing s with
  | zero => rfl
  | succ k ih =>
    have hstart : ((s.startPass r i).startVec r i).mapAndSteps r i = s.mapAndSteps r i := by simp
    obtain ⟨hmap, htodo⟩ := Prod.mk.inj hstart
    unfold State.feedCore
    dsimp only
    split
    · rfl
    rw [← htodo] at hsteps
    rw [← hmap]
    generalize (s.startPass r i).startVec r i = u at hsteps ⊢
    have hgo {t : State} {rest : List TileStep} (hrest : ∀ x ∈ rest, x.single = true)
        (ht : t.mapAndSteps r i = (u.updCore r i fun x => { x with todo := rest }).mapAndSteps r i) :
        ((t.feedCore r i k).region r).slotMap = (u.region r).slotMap := by
      obtain ⟨hmap, htodo⟩ := Prod.mk.inj ht
      rw [ih (by simpa [htodo] using hrest), hmap, State.updCore_slotMap]
    split
    · rfl
    next x rest hx =>
    rw [hx, List.forall_mem_cons] at hsteps
    obtain ⟨hsingle, hrest⟩ := hsteps
    cases x with
    | stage c l n =>
      dsimp only
      split
      · exact hgo hrest (State.stageTile_mapAndSteps _ _ _ _ _ _)
      · rfl
    | pass p =>
      dsimp only
      split
      · exact hgo hrest (by simp)
      · rfl
    | vec v =>
      dsimp only
      split
      · exact hgo hrest (State.updVec_mapAndSteps _ _ _ _)
      · rfl
    | begin _ _ _ _ | crust _ _ _ _ | send _ _ _ | finish _ _ _ _ => cases hsingle

theorem State.loadWeights_slotMap (r i c layer tile : Nat) (s : State) :
    ((s.loadWeights r i c layer tile).region r).slotMap = (s.region r).slotMap := by
  have hput (ws : List (Nat × List Byte)) : ((s.putWeights r i c layer tile ws).region r).slotMap = (s.region r).slotMap := by
    rw [State.putWeights, State.updCore_slotMap, State.updCoreMem_region]
  unfold State.loadWeights
  exact (apply_ite (fun t : State => (t.region r).slotMap) _ _ _).trans (by simp only [hput, ite_self])

/-- A core that starts a tile leaves the slot map as it is. -/
theorem State.startTile_slotMap (r i c layer wc tile : Nat) (s : State) :
    ((s.startTile r i c layer wc tile).region r).slotMap = (s.region r).slotMap := by
  unfold State.startTile State.feed
  dsimp only
  rw [State.feedCore_slotMap _ _ _ (by simpa only [State.updCore_self] using State.tileSteps_single _ _ _ _ _ _ _), State.updCore_slotMap]
  exact (State.updWc_slotMap _ _ _ _).trans (State.loadWeights_slotMap _ _ _ _ _ _)

/-- Tiles that start on their slots find the slot map of the first of them. -/
theorem State.foldl_startTile_map {r c layer wc : Nat} {m : Tbl MapEntry} (ps : List (Nat × Nat)) {s : State} (h : (s.region r).slotMap = m) :
    ps.foldl (fun (v : State) p => v.startTile r (mapGet (v.region r).slotMap p.1).phys c layer wc p.2) s
      = ps.foldl (fun (v : State) p => v.startTile r (mapGet m p.1).phys c layer wc p.2) s :=
  foldl_congr_of (P := fun v : State => (v.region r).slotMap = m) (fun v p hv => by rw [hv])
    (fun v p hv => (State.startTile_slotMap _ _ _ _ _ _ v).trans hv) ps h

/-! ### The unit -/

/-- A counter with nothing requeued hands out its next unit, whose tiles become ISSUED (R265). -/
theorem Wc.dispense_next {w : Wc} (hrequeue : w.requeue = []) (hleft : w.next < w.units) :
    w.dispense = some (w.next, range (w.next * 2 ^ w.qlog) (2 ^ w.qlog),
      { w with next := w.next + 1, board := (range (w.next * 2 ^ w.qlog) (2 ^ w.qlog)).foldl (fun b x => tset 0 b x 1) w.board }) := by
  simp [Wc.dispense, hrequeue, hleft]

theorem Wc.dispense_none {w : Wc} (hrequeue : w.requeue = []) (hnone : w.units ≤ w.next) : w.dispense = none := by
  simp [Wc.dispense, hrequeue, Nat.not_lt.mpr hnone]

/-- The members of a group with their tiles of unit `u`. -/
def unitPairs (w : Wc) (slot u : Nat) : List (Nat × Nat) := (groupSlots w slot).map fun n => (n, u * 2 ^ w.qlog + (n - slot))

/-- A whole unit has a tile for each member of the group (R265). -/
theorem unitPairs_eq (w : Wc) (slot u : Nat) :
    ((groupSlots w slot).filterMap fun n =>
      if (range (u * 2 ^ w.qlog) (2 ^ w.qlog)).contains (u * 2 ^ w.qlog + (n - slot)) then some (n, u * 2 ^ w.qlog + (n - slot)) else none)
      = unitPairs w slot u := by
  rw [unitPairs]
  refine filterMap_eq_map_of fun n hn => if_pos ?_
  rw [groupSlots, mem_range] at hn
  rw [List.contains_iff_mem, mem_range]
  omega

/-- The state in which unit `w.next` has been handed out and its answer sent, before its tiles start. -/
def State.handOut (r wc slot : Nat) (s : State) : State :=
  let w := s.wc r wc
  (s.updWc r wc fun _ => { w with
    next := w.next + 1
    board := (range (w.next * 2 ^ w.qlog) (2 ^ w.qlog)).foldl (fun b x => tset 0 b x 1) w.board
    runners := w.runners ++ (unitPairs w slot w.next).map fun p => { tile := p.2, slot := p.1, since := s.aclk r, copy := false }
    emptied := w.emptied.filter fun n => !(groupSlots w slot).contains n }).send (.wcUnit r slot w.next)

theorem State.handOut_wc (r wc slot : Nat) (s : State) :
    ((s.handOut r wc slot).wc r wc).next = (s.wc r wc).next + 1 ∧
      ∀ k, k < 2 ^ (s.wc r wc).qlog → tget 0 ((s.handOut r wc slot).wc r wc).board ((s.wc r wc).next * 2 ^ (s.wc r wc).qlog + k) = 1 := by
  simp only [State.handOut, State.send_wc, State.updWc_self, true_and]
  exact fun k hk => tget_foldl_tset 0 1 (.inl (mem_range.mpr (by omega)))

theorem State.handOut_slotMap (r wc slot : Nat) (s : State) : ((s.handOut r wc slot).region r).slotMap = (s.region r).slotMap :=
  State.updWc_slotMap _ _ _ _

/-- The tiles that a FETCH hands out start on the cores that the slot map names before it. -/
theorem State.fetchTile_next {r wc slot c : Nat} {s : State} (hrequeue : (s.wc r wc).requeue = [])
    (hleft : (s.wc r wc).next < (s.wc r wc).units) :
    s.fetchTile r wc slot c = (groupSlots (s.wc r wc) slot).foldl (fun (v : State) n => v.startTile r (mapGet (s.region r).slotMap n).phys c
      (s.wc r wc).layer wc ((s.wc r wc).next * 2 ^ (s.wc r wc).qlog + (n - slot))) (s.handOut r wc slot) := by
  simp only [State.fetchTile, Wc.dispense_next hrequeue hleft, unitPairs_eq]
  exact (State.foldl_startTile_map _ (s.handOut_slotMap r wc slot)).trans List.foldl_map

theorem State.fetchTile_empty {r wc slot c : Nat} {s : State} (hrequeue : (s.wc r wc).requeue = [])
    (hnone : (s.wc r wc).units ≤ (s.wc r wc).next) :
    s.fetchTile r wc slot c = (s.updWc r wc fun w => { w with
      emptied := (groupSlots (s.wc r wc) slot).foldl (fun l n => insertN n l) w.emptied }).send (.wcEmpty r slot) := by
  simp only [State.fetchTile, Wc.dispense_none hrequeue hnone]

/-! ### The statement -/

theorem exec_fetch {r : Fin 8} {wc : Fin 64} {slot : Fin 16} {s : State} {c : Nat} (h : MayFetch r.val wc.val slot.val c s) :
    exec (.fetch r wc slot) s = .next (s.fetchTile r.val wc.val slot.val c) := by
  obtain ⟨hmaps, howner, hactive, hsingle, hlowest, hmembers, hheld⟩ := h
  have hready : ((groupSlots (s.wc r.val wc.val) slot.val).all fun n => (mapGet (s.region r.val).slotMap n).valid && !s.slotBusyTile r.val n &&
      !s.coreReset r.val (mapGet (s.region r.val).slotMap n).phys) = true := by
    rw [List.all_eq_true]
    intro n hn
    obtain ⟨hvalid, hbusy, hreset⟩ := hmembers n hn
    simp [hvalid, hbusy, hreset]
  simp [exec, execFetch, hmaps, howner, hactive, hsingle, hlowest, hready, hheld]

/-- Settles O20: `fetchTile` hands out the next unit with its tiles, none of which changes the slot map as it starts, or notes the members as EMPTY. -/
theorem fetchHandsOutTiles : Obligations.FetchHandsOutTiles := by
  unfold Obligations.FetchHandsOutTiles
  intro r wc slot s c hmay hrequeue
  refine ⟨fun hleft => ?unit, fun hnone => ?empty⟩
  case unit =>
    obtain ⟨hnext, hissued⟩ := s.handOut_wc r.val wc.val slot.val
    refine ⟨s.handOut r.val wc.val slot.val, _, exec_fetch hmay, ?sent, hnext, hissued, State.fetchTile_next hrequeue hleft⟩
    rw [State.fetchTile_next hrequeue hleft]
    exact (Keeps.foldl (m := fun _ => true) (fun t n k => State.startTile_keeps rfl rfl rfl rfl rfl rfl rfl rfl rfl rfl rfl rfl rfl _ _ _ _ _ _ _ k)
      (.refl _)).mem_out (State.mem_send_out _ _)
  case empty =>
    refine ⟨_, exec_fetch hmay, ?_⟩
    rw [State.fetchTile_empty hrequeue hnone]
    refine ⟨rfl, (State.send_keeps rfl _ _ (State.updWc_keeps rfl _ _ _ _ (.refl s))).within, by simp, fun n hn => ?_⟩
    rw [State.send_wc, State.updWc_self]
    exact mem_foldl_insertN.mpr (.inl hn)

end Sys2Proof.Machine
end

section
/-! PROOF. The crop-and-scale engines (R278, R282, R283, R302, R346): a job that joins its queue, and a job that is done. What an engine has counted
stands through all that follows from a completion. -/

namespace Sys2Proof.Machine

/-! ### What the engines have counted -/

/-- JOBS and PIXELS of each engine. -/
def cseTally (t : Tbl CseEng) (e : Nat) : U32 × Nat := ((tget {} t e).jobs, (tget {} t e).pixels)

/-- A change of every engine that keeps its counts. -/
theorem cseTally_map {f : CseEng → CseEng} (hjobs : ∀ g, (f g).jobs = g.jobs) (hpixels : ∀ g, (f g).pixels = g.pixels) (t : Tbl CseEng) :
    cseTally (t.map fun x => (x.1, f x.2)) = cseTally t := by
  funext e
  induction t with
  | nil => rfl
  | cons x t ih =>
    simp only [cseTally, List.map_cons, tget] at ih ⊢
    split
    · rw [hjobs, hpixels]
    · exact ih

/-- A change of one engine that keeps its counts. -/
theorem State.updCseEng_tally {f : CseEng → CseEng} (hjobs : ∀ g, (f g).jobs = g.jobs) (hpixels : ∀ g, (f g).pixels = g.pixels) (e : Nat)
    (s : State) :
    cseTally (s.updCseEng e f).cse = cseTally s.cse := by
  funext k
  by_cases hk : k = e
  · subst hk
    exact (congrArg (fun g : CseEng => (g.jobs, g.pixels)) (State.updCseEng_self k f s)).trans (by rw [hjobs, hpixels]; rfl)
  · exact congrArg (fun g : CseEng => (g.jobs, g.pixels)) (State.updCseEng_other hk f s)

/-- Steps that each keep the counts. -/
theorem foldl_tally {α : Type} {f : State → α → State} (h : ∀ s a, cseTally (f s a).cse = cseTally s.cse) (xs : List α) (s : State) :
    cseTally (xs.foldl f s).cse = cseTally s.cse := by
  induction xs generalizing s with
  | nil => rfl
  | cons a xs ih => exact (ih _).trans (h s a)

/-! ### What leaves the engines alone -/

/-- Any part but the crop-and-scale engines. -/
def exceptCse : Part → Bool := fun p => decide (p ≠ .cse)

section
variable (s : State)

@[simp] theorem State.dropAll_cse (req : U16) : (s.dropAll req).cse = s.cse :=
  (State.dropAll_keeps (m := exceptCse) rfl rfl rfl req s (.refl s)).same .cse rfl

@[simp] theorem State.freeBuf_cse (h : U32) : (s.freeBuf h).cse = s.cse :=
  (State.freeBuf_keeps (m := exceptCse) rfl rfl rfl h s (.refl s)).same .cse rfl

@[simp] theorem State.clipWrite_cse (n : Nat) (out) (src) : (s.clipWrite n out src).cse = s.cse :=
  (State.clipWrite_keeps (m := exceptCse) rfl rfl rfl n out src s (.refl s)).same .cse rfl

@[simp] theorem State.record_cse (slot : Option Nat) (rtype rflags : Byte) (body : List Byte) : (s.record slot rtype rflags body).cse = s.cse :=
  (State.record_keeps (m := exceptCse) rfl rfl rfl slot rtype rflags body s (.refl s)).same .cse rfl

@[simp] theorem State.advanceSeq_cse (i : Nat) : (s.advanceSeq i).cse = s.cse :=
  (State.advanceSeq_keeps (m := exceptCse) rfl rfl rfl i s (.refl s)).same .cse rfl

@[simp] theorem State.complete_cse (c : Nat) (failed : Bool) : (s.complete c failed).cse = s.cse :=
  (State.complete_keeps (m := exceptCse) rfl rfl rfl c failed s (.refl s)).same .cse rfl

@[simp] theorem State.releaseOn_cse (o : U16) : (s.releaseOn o).cse = s.cse :=
  (State.releaseOn_keeps (m := exceptCse) rfl rfl rfl o s (.refl s)).same .cse rfl

@[simp] theorem State.judgeAll_cse : s.judgeAll.cse = s.cse :=
  (State.judgeAll_keeps (m := exceptCse) rfl rfl rfl s (.refl s)).same .cse rfl

@[simp] theorem State.startLayers_cse (r c : Nat) : (s.startLayers r c).cse = s.cse :=
  (State.startLayers_keeps (m := exceptCse) rfl rfl rfl r c s (.refl s)).same .cse rfl

@[simp] theorem State.writeBack_cse (r i c layer tile : Nat) : (s.writeBack r i c layer tile).cse = s.cse :=
  (State.writeBack_keeps (m := exceptCse) rfl rfl rfl r i c layer tile s (.refl s)).same .cse rfl

@[simp] theorem State.progressed_cse (c : Nat) : (s.progressed c).cse = s.cse := rfl

@[simp] theorem State.startPass_cse (r i : Nat) : (s.startPass r i).cse = s.cse :=
  (State.startPass_keeps (m := exceptCse) rfl rfl r i s (.refl s)).same .cse rfl

@[simp] theorem State.startVec_cse (r i : Nat) : (s.startVec r i).cse = s.cse :=
  (State.startVec_keeps (m := exceptCse) rfl r i s (.refl s)).same .cse rfl

@[simp] theorem State.loadShadow_cse (r i : Nat) : (s.loadShadow r i).cse = s.cse :=
  (State.loadShadow_keeps (m := exceptCse) rfl rfl r i s (.refl s)).same .cse rfl

@[simp] theorem State.stageTile_cse (r i c layer tile : Nat) : (s.stageTile r i c layer tile).cse = s.cse :=
  (State.stageTile_keeps (m := exceptCse) rfl rfl r i c layer tile s (.refl s)).same .cse rfl

@[simp] theorem State.beginTile_cse (r i c layer wc tile : Nat) : (s.beginTile r i c layer wc tile).cse = s.cse :=
  (State.beginTile_keeps (m := exceptCse) rfl rfl r i c layer wc tile s (.refl s)).same .cse rfl

@[simp] theorem State.startGau_cse (r : Nat) : (s.startGau r).cse = s.cse :=
  (State.startGau_keeps (m := exceptCse) rfl r s (.refl s)).same .cse rfl

@[simp] theorem State.startPix_cse (e : Nat) : (s.startPix e).cse = s.cse :=
  (State.startPix_keeps (m := exceptCse) rfl rfl rfl rfl e s (.refl s)).same .cse rfl

end

/-! ### Clip sessions end -/

section
variable (s : State)

@[simp] theorem State.dropScaled_tally (h : U32) : cseTally (s.dropScaled h).cse = cseTally s.cse := by
  have hmap := cseTally_map (f := fun g => { g with queue := g.queue.filter fun j => !(j.job == 2 && j.out == h) }) (fun _ => rfl) (fun _ => rfl)
  unfold State.dropScaled
  dsimp only
  split
  · exact hmap s.cse
  · rw [State.freeBuf_cse]; exact hmap s.cse

@[simp] theorem State.dropQueued_tally (n : Nat) : cseTally (s.dropQueued n).cse = cseTally s.cse :=
  foldl_tally State.dropScaled_tally _ s

@[simp] theorem State.freeSession_tally (n : Nat) : cseTally (s.freeSession n).cse = cseTally s.cse := by
  unfold State.freeSession
  dsimp only
  split
  · simp
  · split <;> simp

@[simp] theorem State.tryEnd_tally (n : Nat) : cseTally (s.tryEnd n).cse = cseTally s.cse := by
  unfold State.tryEnd
  dsimp only
  split <;> simp

@[simp] theorem State.endSession_tally (n cause : Nat) : cseTally (s.endSession n cause).cse = cseTally s.cse := by
  unfold State.endSession
  split <;> simp

@[simp] theorem State.startSession_tally (n eng slot : Nat) (p : ClipProfile) (preroll maxPics : Nat) (ring : ClipRing) (reserved : Bool) (load : Nat) :
    cseTally (s.startSession n eng slot p preroll maxPics ring reserved load).cse = cseTally s.cse := by
  unfold State.startSession
  dsimp only
  split
  · rw [State.endSession_tally]; split <;> simp
  · split <;> simp

theorem State.takeSession_tally {slot : Nat} {e : SlotEntry} {p : ClipProfile} {preroll maxPics : Nat} {ring : ClipRing} {onlyReserved : Bool}
    {s t : State} {n : Nat} (h : s.takeSession slot e p preroll maxPics ring onlyReserved = .ok (n, t)) : cseTally t.cse = cseTally s.cse := by
  unfold State.takeSession at h
  split at h
  case h_2 => cases h
  split at h
  · cases h; simp
  · split at h
    · cases h
    · dsimp only at h
      split at h
      · cases h
      · split at h
        · cases h; simp
        · cases h

@[simp] theorem State.eventClip_tally (slot : Nat) (c : EventClip) : cseTally (s.eventClip slot c).2.2.cse = cseTally s.cse := by
  unfold State.eventClip
  split
  case h_2 => rfl
  split
  · rfl
  · dsimp only
    split
    next h => exact State.takeSession_tally h
    next => rfl

end

/-! ### Invocations end -/

section
variable (s : State)

@[simp] theorem State.postEvent_tally (e : EventOut) : cseTally (s.postEvent e).cse = cseTally s.cse := by
  unfold State.postEvent
  dsimp only
  split
  · rfl
  · rw [State.record_cse]
    split <;> simp

@[simp] theorem State.endTick_tally : cseTally s.endTick.cse = cseTally s.cse := by
  unfold State.endTick
  split
  · exact foldl_tally State.postEvent_tally _ _
  · rfl

@[simp] theorem State.tickRan_tally (c : Nat) (ok : Bool) : cseTally (s.tickRan c ok).cse = cseTally s.cse := by
  unfold State.tickRan
  split
  · rfl
  · dsimp only
    rw [State.endTick_tally]
    exact foldl_tally (fun t i => by split <;> simp) _ _

@[simp] theorem State.completeInv_tally (c : Nat) : cseTally (s.completeInv c).cse = cseTally s.cse := by
  unfold State.completeInv
  dsimp only
  split
  · rfl
  rw [State.judgeAll_cse]
  have hsignals (xs : List (U16 × U32)) (t : State) : cseTally (xs.foldl (fun s e => s.releaseOn e.1) t).cse = cseTally t.cse :=
    foldl_tally (fun _ _ => by simp) xs t
  split
  · rw [State.tickRan_tally]; split <;> simp [hsignals]
  · split <;> simp [hsignals]

@[simp] theorem State.layerDone_tally (r c layer wc : Nat) : cseTally (s.layerDone r c layer wc).cse = cseTally s.cse := by
  unfold State.layerDone
  dsimp only
  split
  · simp
  · split <;> simp

@[simp] theorem State.tileDone_tally (r c layer wc tile : Nat) : cseTally (s.tileDone r c layer wc tile).cse = cseTally s.cse := by
  rw [State.tileDone_eq]
  split <;> simp [State.endTile]

end

/-! ### The engines go on -/

section
variable (s : State)

@[simp] theorem State.feedCore_tally (r i k : Nat) : cseTally (s.feedCore r i k).cse = cseTally s.cse := by
  induction k generalizing s with
  | zero => rfl
  | succ k ih =>
    unfold State.feedCore
    dsimp only
    split
    · rfl
    split
    · simp
    next x _ _ =>
    cases x with
    | stage _ _ _ => dsimp only; split <;> simp [ih]
    | pass _ => dsimp only; split <;> simp [ih]
    | vec _ => dsimp only; split <;> simp [ih]
    | begin _ _ _ _ => dsimp only; split <;> simp [ih]
    | crust _ _ _ _ => dsimp only; split <;> simp [ih]
    | send _ _ _ => simp
    | finish _ _ _ _ => dsimp only; split <;> simp [ih, State.finishFused]

@[simp] theorem State.feedRegion_tally (r : Nat) : cseTally (s.feedRegion r).cse = cseTally s.cse :=
  foldl_tally (fun t i => t.feedCore_tally r i _) _ s

@[simp] theorem State.resumeRegion_tally (r : Nat) : cseTally (s.resumeRegion r).cse = cseTally s.cse := by
  unfold State.resumeRegion
  dsimp only
  rw [State.startGau_cse, State.feedRegion_tally]
  split
  · split <;> simp
  · simp

@[simp] theorem State.startCseEng_tally (e : Nat) : cseTally (s.startCseEng e).cse = cseTally s.cse := by
  unfold State.startCseEng
  split
  · rfl
  · refine State.updCseEng_tally (fun g => ?_) (fun g => ?_) e s
    · unfold CseEng.start; split <;> rfl
    · unfold CseEng.start; split <;> rfl

@[simp] theorem State.enqueue_tally (e : Nat) (j : CseJob) : cseTally (s.enqueue e j).cse = cseTally s.cse :=
  (State.startCseEng_tally _ e).trans (State.updCseEng_tally (f := fun g => { g with queue := g.queue ++ [j] }) (fun _ => rfl) (fun _ => rfl) e s)

@[simp] theorem State.drainJobs_tally (k : Nat) : cseTally (s.drainJobs k).cse = cseTally s.cse := by
  induction k generalizing s with
  | zero => rfl
  | succ k ih =>
    unfold State.drainJobs
    split
    · split <;> simp [ih]
    · rfl

@[simp] theorem State.resumeMedia_tally : cseTally s.resumeMedia.cse = cseTally s.cse := by
  unfold State.resumeMedia
  dsimp only
  rw [foldl_tally fun t e => by split <;> simp, foldl_tally fun t e => by split <;> simp]

@[simp] theorem State.resumeAll_tally : cseTally s.resumeAll.cse = cseTally s.cse := by
  rw [State.resumeAll, State.resumeMedia_tally, foldl_tally fun t r => t.resumeRegion_tally r, State.judgeAll_cse]

end

/-! ### The check of the output buffer (R346) -/

/-- The check reads the pools and their buffers alone. -/
theorem State.outCode_of_bpm {s t : State} (hpools : t.bpm.pools = s.bpm.pools) (hbufs : t.bpm.bufs = s.bpm.bufs) (j : CseJob) :
    t.outCode j = s.outCode j := by
  have hpool (k : Nat) : t.pool k = s.pool k := by simp only [State.pool, hpools]
  have hcode : t.handleCode j.out = s.handleCode j.out := by
    rw [State.handleCode, State.handleCode, State.handleOk, State.handleOk, hpool, State.buf, State.buf, hbufs]
  rw [State.outCode, State.outCode, hpool, hcode]

/-- The failure of an engine's access: it is noted, and attention raised (R350). -/
theorem State.poolFault_cse (e : Fin 4) (h : U32) (code : U16) (s : State) :
    s.poolFault (reqCse e.val) h code = (s.poolError (reqCse e.val) h code).attention 0 code 4 (hPool h) := by
  have hreq : ctxOfReq (reqCse e.val) = none := by revert e; decide
  simp only [State.poolFault, hreq]

/-! ### A job that is done -/

/-- What a job's reads count: a picture out of its buffer, or the poison marks met. -/
def State.noteReads (e : Nat) (p : CsePic) (outs : List BoxOut) (s : State) : State :=
  match s.picCode p with
  | some code => s.poolFault (reqCse e) p.buf code
  | none => (outs.foldl (fun (l : List Nat) (o : BoxOut) => o.marks.foldl (fun l h => insertN h l) l) []).foldl (fun s h => s.notePoison (32 * h) 1) s

/-- The job is counted and sends its completion entry (R283). -/
def State.endJob (e : Nat) (j : CseJob) (flags : U16) (own : Byte) (s : State) : State :=
  (s.updCseEng e fun g => { g with running := none, jobs := g.jobs + 1 }).send (.cseCompletion j.tag flags own)

theorem State.endJob_cseEng (e : Nat) (j : CseJob) (flags : U16) (own : Byte) (s : State) :
    ((s.endJob e j flags own).cseEng e).jobs = (s.cseEng e).jobs + 1 ∧ ((s.endJob e j flags own).cseEng e).pixels = (s.cseEng e).pixels := by
  have hend : (s.endJob e j flags own).cseEng e = _ := State.updCseEng_self e (fun g => { g with running := none, jobs := g.jobs + 1 }) s
  rw [hend]
  exact ⟨rfl, rfl⟩

/-- A DETECT job's picture joins its batch, and a SCALE job's output goes to its session. -/
def State.passOn (e : Nat) (j : CseJob) (p : CsePic) (s : State) : State :=
  if j.job = 0 then s.detected e p else if j.job = 2 then (s.releaseJob p.buf e).scaleDone j.out else s

/-- The sync object that a job names counts up. -/
def State.signalJob (j : CseJob) (s : State) : State :=
  if j.sync.toNat < 65536 then s.signalAll (j.sync.setWidth 16) 1 else s

/-- What follows from a completion: what it brings is passed on and signalled, and the engines take their next work. -/
def State.afterJob (e : Nat) (j : CseJob) (p : CsePic) (s : State) : State :=
  let s := ((s.passOn e j p).signalJob j).startCseEng e
  (s.drainJobs s.dis.jobs.length).resumeAll

/-- The job's reads are noted, its output is written, and it is counted with its completion entry sent. -/
def State.finishJob (e : Nat) (j : CseJob) (outs : List BoxOut) (own : Byte) (s : State) : State :=
  ((s.noteReads e (s.picAt j.pic.toNat) outs).writeJob e j outs).endJob e j (s.picAt j.pic.toNat).flags own

theorem exec_cseJobDone {e : Fin 4} {s : State} {j : CseJob} (hclk : s.mclkOn = true) (hrun : (s.cseEng e.val).running = some j) :
    ∃ outs own, exec (.cseJobDone e) s = .next ((s.finishJob e.val j outs own).afterJob e.val j (s.picAt j.pic.toNat)) := by
  simp only [exec, execCseJobDone, hclk, hrun, if_true]
  exact ⟨_, _, rfl⟩

/-- The reads leave the engines and the buffer pools' contents as they are. -/
theorem State.noteReads_frame (e : Fin 4) (p : CsePic) (outs : List BoxOut) (s : State) :
    (s.noteReads e.val p outs).cse = s.cse ∧ (s.noteReads e.val p outs).bpm.pools = s.bpm.pools ∧
      (s.noteReads e.val p outs).bpm.bufs = s.bpm.bufs := by
  unfold State.noteReads
  split
  next code _ =>
    have hattn := State.attention_keeps (m := fun p => decide (p ∈ [.hif, .link, .dev, .ras, .out])) rfl rfl rfl rfl rfl 0 code 4 (hPool p.buf)
      (s.poolError (reqCse e.val) p.buf code) (.refl _)
    rw [State.poolFault_cse]
    exact ⟨hattn.same .cse rfl, (congrArg Bpm.pools (hattn.same .bpm rfl)).trans rfl, (congrArg Bpm.bufs (hattn.same .bpm rfl)).trans rfl⟩
  next =>
    have hnote := Keeps.foldl (m := fun p => decide (p ∈ [.dmc])) (s := s) (fun t h k => State.notePoison_keeps rfl (32 * h) 1 t k)
      (xs := outs.foldl (fun (l : List Nat) (o : BoxOut) => o.marks.foldl (fun l h => insertN h l) l) []) (.refl s)
    exact ⟨hnote.same .cse rfl, congrArg Bpm.pools (hnote.same .bpm rfl), congrArg Bpm.bufs (hnote.same .bpm rfl)⟩

/-- An output that passes its check is written, and its pixels counted. -/
theorem State.writeJob_cseEng {e : Nat} {j : CseJob} {s : State} (hout : s.outCode j = none) (outs : List BoxOut) :
    ((s.writeJob e j outs).cseEng e).jobs = (s.cseEng e).jobs ∧
      ((s.writeJob e j outs).cseEng e).pixels = (s.cseEng e).pixels + j.ow.toNat * j.oh.toNat * j.boxes.toNat := by
  have hwrites (base : Nat) : ((outs.zipIdx).foldl (fun (s : State) o =>
      o.1.writes.foldl (fun s w => s.dramPut (base + o.2 * j.outStride.toNat + w.1) w.2 false) s) s).cse = s.cse :=
    (Keeps.foldl (m := exceptCse) (fun t o k => Keeps.foldl (fun t w k => State.dramPut_keeps rfl _ _ _ _ k) k) (.refl s)).same .cse rfl
  simp only [State.writeJob, hout, State.updCseEng_self]
  simp only [State.cseEng, hwrites, and_self]

/-- A job with an output buffer that passes its check counts one job and the pixels of its boxes (R283). -/
theorem State.finishJob_cseEng {e : Fin 4} {j : CseJob} {s : State} (hout : s.outCode j = none) (outs : List BoxOut) (own : Byte) :
    ((s.finishJob e.val j outs own).cseEng e.val).jobs = (s.cseEng e.val).jobs + 1 ∧
      ((s.finishJob e.val j outs own).cseEng e.val).pixels = (s.cseEng e.val).pixels + j.ow.toNat * j.oh.toNat * j.boxes.toNat := by
  obtain ⟨hcse, hpools, hbufs⟩ := s.noteReads_frame e (s.picAt j.pic.toNat) outs
  obtain ⟨hjobs, hpixels⟩ := State.writeJob_cseEng (e := e.val) ((State.outCode_of_bpm hpools hbufs j).trans hout) outs
  obtain ⟨hjobs', hpixels'⟩ := State.endJob_cseEng e.val j (s.picAt j.pic.toNat).flags own
    ((s.noteReads e.val (s.picAt j.pic.toNat) outs).writeJob e.val j outs)
  have hsame : (s.noteReads e.val (s.picAt j.pic.toNat) outs).cseEng e.val = s.cseEng e.val := by rw [State.cseEng, hcse, State.cseEng]
  rw [State.finishJob, hjobs', hpixels', hjobs, hpixels, hsame]
  exact ⟨rfl, rfl⟩

section
variable (e : Nat) (j : CseJob) (p : CsePic) (s : State)

theorem State.passOn_keeps : Keeps exceptCse s (s.passOn e j p) :=
  .ite (State.detected_keeps rfl rfl rfl e p s (.refl s))
    (.ite (State.scaleDone_keeps rfl rfl rfl rfl _ _ (State.releaseJob_keeps rfl rfl rfl _ _ _ (.refl s))) (.refl s))

theorem State.signalJob_keeps : Keeps exceptCse s (s.signalJob j) :=
  .ite (State.signalAll_keeps rfl rfl rfl rfl rfl _ _ s (.refl s)) (.refl s)

theorem State.afterJob_tally : cseTally (s.afterJob e j p).cse = cseTally s.cse := by
  have hpass : ((s.passOn e j p).signalJob j).cse = s.cse := ((State.passOn_keeps e j p s).trans (State.signalJob_keeps j _)).same .cse rfl
  rw [State.afterJob, State.resumeAll_tally, State.drainJobs_tally, State.startCseEng_tally, hpass]

theorem State.mem_afterJob_out {o : Out} (h : o ∈ s.out) : o ∈ (s.afterJob e j p).out :=
  (State.resumeAll_keeps (m := fun _ => true) rfl rfl rfl rfl rfl rfl rfl rfl rfl rfl rfl rfl rfl rfl _
    (State.drainJobs_keeps rfl rfl _ _ (State.startCseEng_keeps rfl _ _ (.refl _)))).mem_out
    (((State.passOn_keeps e j p s).trans (State.signalJob_keeps j _)).mem_out h)

end

/-! ### A job that is submitted -/

/-- A job joins the queue of an engine with room, which starts its oldest unless a WAIT blocks its head (R278, R302). -/
theorem exec_cseJobSubmit {e : Fin 4} {s : State} (hserv : s.dis.inService = true) (hroom : s.cseRoom e.val = true) (job : CseJob) :
    exec (.cseJobSubmit e job) s = .next (s.enqueue e.val job) := by
  obtain ⟨⟨⟨hin, hfence⟩, -⟩, -⟩ : (((s.cseEng e.val).inService = true ∧ (s.cseEng e.val).fenced = false) ∧ _) ∧ _ := by
    simpa only [State.cseRoom, State.cseTakes, Bool.and_eq_true, Bool.not_eq_true'] using hroom
  simp [exec, execCseJobSubmit, State.submitJob, hserv, hin, hfence, hroom]

theorem State.enqueue_cseEng {e : Nat} {s : State} (hfrozen : s.isFrozen = false) (job : CseJob) :
    (s.enqueue e job).cseEng e
      = (if s.headWaits (mkUnit 4 e) then id else CseEng.start) { s.cseEng e with queue := (s.cseEng e).queue ++ [job] } := by
  have hfrozen' (f : CseEng → CseEng) : (s.updCseEng e f).isFrozen = false := hfrozen
  have hwaits (f : CseEng → CseEng) : (s.updCseEng e f).headWaits (mkUnit 4 e) = s.headWaits (mkUnit 4 e) := rfl
  rw [State.enqueue, State.startCseEng, hfrozen', hwaits, Bool.false_or]
  split <;> simp

/-! ### The statement -/

/-- Settles O15: a submitted job by `enqueue`, and a job that is done by what `writeJob` and `endJob` count, which all that follows leaves as it is. -/
theorem cseJobsRun : Obligations.CseJobsRun := by
  unfold Obligations.CseJobsRun
  refine fun e s => ⟨fun job hserv hroom hfrozen => ?submit, fun j hclk hrun hout => ?done⟩
  case submit =>
    exact ⟨_, exec_cseJobSubmit hserv hroom job, State.enqueue_cseEng hfrozen job, (State.enqueue_keeps rfl e.val job s (.refl s)).within⟩
  case done =>
    obtain ⟨outs, own, hexec⟩ := exec_cseJobDone hclk hrun
    obtain ⟨hjobs, hpixels⟩ := State.finishJob_cseEng (e := e) hout outs own
    obtain ⟨hjobs', hpixels'⟩ := Prod.mk.inj (congrFun ((s.finishJob e.val j outs own).afterJob_tally e.val j (s.picAt j.pic.toNat)) e.val)
    exact ⟨_, own, hexec, hjobs'.trans hjobs, hpixels'.trans hpixels, State.mem_afterJob_out _ _ _ _ (State.mem_send_out _ _)⟩

end Sys2Proof.Machine
end

section
/-! PROOF. Reads and writes of device DRAM (R323 to R325, R332, R335, R336, R338): where an access goes, and what it leaves of the bytes and of the poison
marks. -/

namespace Sys2Proof.Machine

/-- What is kept outside some parts is kept outside more. -/
theorem Keeps.mono {ps qs : List Part} {s t : State} (hsub : ps ⊆ qs) (k : Keeps (fun p => decide (p ∈ ps)) s t) :
    Keeps (fun p => decide (p ∈ qs)) s t :=
  ⟨fun p hp => k.same p (decide_eq_false fun h => of_decide_eq_false hp (hsub h)), k.sound, k.sent⟩

/-! ### The halves that an access touches (R335, R336) -/

theorem mem_halves {a n h : Nat} (hn : 1 ≤ n) : h ∈ halves a n ↔ a / 32 ≤ h ∧ h ≤ (a + n - 1) / 32 := by
  rw [halves, if_neg (by omega), mem_range]; omega

/-- The two halves of a block, and which of them an access within it touches. -/
theorem mem_halves_block {a n h : Nat} (hn : 1 ≤ n) (hblock : a % 64 + n ≤ 64) :
    h ∈ halves a n ↔ h = a / 64 * 2 ∧ a % 64 < 32 ∨ h = a / 64 * 2 + 1 ∧ 32 < a % 64 + n := by
  rw [mem_halves hn]; omega

theorem mem_fullHalves {a n h : Nat} : h ∈ fullHalves a n ↔ 2 * cdiv a 64 ≤ h ∧ h < 2 * ((a + n) / 64) := by
  rw [fullHalves, mem_range]; omega

/-- A half of a block that is covered whole is touched. -/
theorem mem_halves_of_mem_fullHalves {a n h : Nat} (hfull : h ∈ fullHalves a n) : h ∈ halves a n := by
  rw [mem_fullHalves, cdiv] at hfull
  rw [mem_halves (by omega)]; omega

/-- An access of 64 bytes within one block covers it whole. -/
theorem mem_fullHalves_of_mem_halves {a h : Nat} (hblock : a % 64 + 64 ≤ 64) (hmem : h ∈ halves a 64) : h ∈ fullHalves a 64 := by
  rw [mem_halves (by omega)] at hmem
  rw [mem_fullHalves, cdiv]; omega

/-- Poisoned bytes mark every half that they cover. -/
theorem mem_poisonAfter_of_mem_halves {a n h : Nat} (hmem : h ∈ halves a n) (marks : List Nat) : h ∈ poisonAfter a n true marks :=
  mem_foldl_insertN.mpr (.inl hmem)

/-- A clean block that is written whole carries no mark. -/
theorem not_mem_poisonAfter_block {a h : Nat} (hblock : a % 64 + 64 ≤ 64) (hmem : h ∈ halves a 64) (marks : List Nat) :
    h ∉ poisonAfter a 64 false marks := by
  simp [poisonAfter, mem_fullHalves_of_mem_halves hblock hmem]

/-- A write leaves the marks of the halves that it does not touch. -/
theorem mem_poisonAfter_of_not_mem_halves {a n h : Nat} (hmem : h ∉ halves a n) (p : Bool) (marks : List Nat) :
    h ∈ poisonAfter a n p marks ↔ h ∈ marks := by
  cases p with
  | true => exact mem_foldl_insertN.trans (or_iff_right hmem)
  | false => simp [poisonAfter, mt mem_halves_of_mem_fullHalves hmem]

/-- The bytes of an access within one block are poisoned where a half that it touches carries the mark. -/
theorem State.poisonedAt_block (s : State) {a n : Nat} (hn : 1 ≤ n) (hblock : a % 64 + n ≤ 64) :
    s.poisonedAt a n = (decide (a / 64 * 2 ∈ s.dram.poison) && decide (a % 64 < 32)
      || decide (a / 64 * 2 + 1 ∈ s.dram.poison) && decide (32 < a % 64 + n)) := by
  rw [Bool.eq_iff_iff]
  simp only [State.poisonedAt, List.any_eq_true, mem_halves_block hn hblock, Bool.or_eq_true, Bool.and_eq_true, decide_eq_true_eq]
  constructor
  · rintro ⟨h, ⟨rfl, ht⟩ | ⟨rfl, ht⟩, hmark⟩
    · exact .inl ⟨hmark, ht⟩
    · exact .inr ⟨hmark, ht⟩
  · rintro (⟨hmark, ht⟩ | ⟨hmark, ht⟩)
    · exact ⟨_, .inl ⟨rfl, ht⟩, hmark⟩
    · exact ⟨_, .inr ⟨rfl, ht⟩, hmark⟩

/-- A block that clean data cover whole is not poisoned any more. -/
theorem State.dramPut_block_unmarked {a : Nat} {d : List Byte} (hfull : d.length = 64) (hblock : a % 64 + 64 ≤ 64) (s : State) :
    (s.dramPut a d false).poisonedAt a 64 = false := by
  simp only [State.poisonedAt, List.any_eq_false, decide_eq_true_eq, State.dramPut, State.updDram_dram, hfull]
  exact fun h hmem => not_mem_poisonAfter_block hblock hmem _

/-! ### A block without errors (R332, R335) -/

/-- A half whose code shows no error is bad where it carries the mark. -/
theorem State.checkHalf_clean (p : Place) (h : Nat) (s : State) : (s.checkHalf p h .clean).2 = decide (h ∈ s.dram.poison) := by
  unfold State.checkHalf
  split <;> simp [*]

/-- Its check changes the channel's counts alone. -/
theorem State.checkHalf_clean_keeps {m : Part → Bool} {s₀ s : State} (hdmc : m .dmc = true) (p : Place) (h : Nat) (k : Keeps m s₀ s) :
    Keeps m s₀ (s.checkHalf p h .clean).1 := by
  unfold State.checkHalf
  split
  · exact State.updChan_keeps hdmc _ _ s k
  · exact k

/-- A check that meets no mark and no error changes nothing. -/
theorem State.checkBlock_clean_unmarked {a : Nat} {s : State} (hlo : a / 64 * 2 ∉ s.dram.poison) (hhi : a / 64 * 2 + 1 ∉ s.dram.poison) :
    s.checkBlock a .clean .clean = (s, false, false) := by
  simp [State.checkBlock, State.checkHalf, hlo, hhi]

/-- The check of a block whose code shows no error names the halves that carry the mark, and changes the channel's counts alone. -/
theorem State.checkBlock_clean (a : Nat) (s : State) :
    ∃ t, s.checkBlock a .clean .clean = (t, decide (a / 64 * 2 ∈ s.dram.poison), decide (a / 64 * 2 + 1 ∈ s.dram.poison)) ∧
      Keeps (fun p => decide (p ∈ [.dmc])) s t := by
  have hlo := State.checkHalf_clean_keeps (m := fun p => decide (p ∈ [.dmc])) rfl (s.placeOf a) (a / 64 * 2) (.refl s)
  have hdram : (s.checkHalf (s.placeOf a) (a / 64 * 2) .clean).1.dram = s.dram := hlo.same .dram rfl
  refine ⟨_, ?_, State.checkHalf_clean_keeps rfl (s.placeOf a) (a / 64 * 2 + 1) hlo⟩
  simp only [State.checkBlock, State.checkHalf_clean, hdram]

/-- A read of a block without errors returns its bytes with their poison mark. -/
theorem State.readReq_clean {a n : Nat} (hn : 1 ≤ n) (hblock : a % 64 + n ≤ 64) (s : State) :
    ∃ t, s.readReq a n .clean .clean = t.send (.dramData (s.dramBytes a n) (s.poisonedAt a n)) ∧ Keeps (fun p => decide (p ∈ [.dmc])) s t := by
  obtain ⟨t, hcheck, hkeeps⟩ := s.checkBlock_clean a
  have hbytes : t.dramBytes a n = s.dramBytes a n := congrArg (·.mem.readN a n) (hkeeps.same .dram rfl)
  refine ⟨t, ?_, hkeeps⟩
  rw [State.readReq, hcheck, s.poisonedAt_block hn hblock, ← hbytes]

/-- A write into a block without errors puts its bytes there; the block is read first where it is not written whole (R332). -/
theorem State.writeReq_clean (a : Nat) (d : List Byte) (p : Bool) (s : State) :
    ∃ t, s.writeReq a d p .clean .clean = t.dramPut a d p ∧ Keeps (fun q => decide (q ∈ [.dmc])) s t := by
  unfold State.writeReq
  split
  · exact ⟨s, rfl, .refl s⟩
  · obtain ⟨t, hcheck, hkeeps⟩ := s.checkBlock_clean a
    exact ⟨t, by simp [hcheck], hkeeps⟩

/-! ### Where a request goes (R323, R325, R338) -/

theorem State.request_held {a : Nat} {s : State} (hserv : (s.chan (s.placeOf a).chan).inService = true)
    (hreset : s.underReset (.unit (mkUnit 5 (s.placeOf a).chan)) = true) (q : DramReq) :
    s.request a q = s.updChan (s.placeOf a).chan fun c => { c with held := c.held ++ [q] } := by
  simp [State.request, hserv, hreset]

theorem State.request_serves {a : Nat} {s : State} (hserves : s.dramServes a = true)
    (hreset : s.underReset (.unit (mkUnit 5 (s.placeOf a).chan)) = false) (q : DramReq) : s.request a q = s.serveReq q := by
  simp [State.request, hserves, hreset]

section
variable {addr : U64} {s : State}

theorem exec_dramRead_beyond {n : Nat} (h : s.dramTop < addr.toNat + n) (lo hi : HalfErr) :
    exec (.dramRead addr n lo hi) s = .next s.refuseRange := by
  simp [exec, execDramRead, State.beyondTop, h]

theorem exec_dramRead_block {n : Nat} (htop : addr.toNat + n ≤ s.dramTop) (hn : 1 ≤ n) (hblock : addr.toNat % 64 + n ≤ 64) (lo hi : HalfErr) :
    exec (.dramRead addr n lo hi) s = .next (s.request addr.toNat (.read addr.toNat n lo hi)) := by
  simp [exec, execDramRead, State.beyondTop, inBlock, Nat.not_lt.mpr htop, Nat.lt_of_succ_le hn, hblock]

theorem exec_dramWrite_beyond {d : List Byte} (h : s.dramTop < addr.toNat + d.length) (p : Bool) (lo hi : HalfErr) :
    exec (.dramWrite addr d p lo hi) s = .next s.refuseRange := by
  simp [exec, execDramWrite, State.beyondTop, h]

theorem exec_dramWrite_block {d : List Byte} (htop : addr.toNat + d.length ≤ s.dramTop) (hn : 1 ≤ d.length)
    (hblock : addr.toNat % 64 + d.length ≤ 64) (p : Bool) (lo hi : HalfErr) :
    exec (.dramWrite addr d p lo hi) s = .next (s.request addr.toNat (.write addr.toNat d p lo hi)) := by
  have hpos : 0 < d.length := hn
  simp only [exec, execDramWrite, State.beyondTop, inBlock, Nat.not_lt.mpr htop, hpos, hblock, decide_true, decide_false, Bool.and_self,
    Bool.false_eq_true, if_true, if_false]

end

/-- A command that only the range check of the BPM sees (R325, R346, R350). -/
theorem failsRange_of_exec {i : Instr} {s : State} (hexec : exec i s = .next s.refuseRange) : FailsRange i s := by
  refine ⟨fun hserv => ?_, fun hserv => ?_⟩
  · simpa [State.refuseRange, hserv, poolRange] using hexec
  · have hout : s.refuseRange = (s.burn.burn).poolError ((Config.freeWord s.tag).setWidth 16) (Config.freeWord (s.tag + 1)) poolRange := by
      rw [State.refuseRange, if_pos hserv]
    refine ⟨_, (Config.freeWord s.tag).setWidth 16, hexec, ?_, (State.refuseRange_keeps rfl rfl rfl s (.refl s)).within, ?_⟩
    · rw [hout]; simp [State.poolError, State.send, poolRange]
    · rw [hout]; simp [State.poolError, poolRange]

/-! ### The statement -/

/-- Settles O50: beyond the top the range check alone acts; below it a request is held or served, and a served one on a block without errors is a read of
`State.readReq_clean` or a write of `State.writeReq_clean`. -/
theorem dramReadsAndWrites : Obligations.DramReadsAndWrites := by
  unfold Obligations.DramReadsAndWrites
  refine ⟨fun addr n lo hi s h => failsRange_of_exec (exec_dramRead_beyond h lo hi),
    fun addr d p lo hi s h => failsRange_of_exec (exec_dramWrite_beyond h p lo hi),
    fun addr s => ⟨fun hserv hreset => ⟨?heldRead, ?heldWrite⟩, ?read, ?write⟩⟩
  case heldRead =>
    intro n lo hi htop hn hblock
    rw [exec_dramRead_block htop hn hblock, State.request_held hserv hreset]
  case heldWrite =>
    intro d p lo hi htop hn hblock
    rw [exec_dramWrite_block htop hn hblock, State.request_held hserv hreset]
  case read =>
    intro n htop hn hblock hserves hreset
    obtain ⟨t, hread, hkeeps⟩ := s.readReq_clean hn hblock
    exact ⟨_, (exec_dramRead_block htop hn hblock _ _).trans (congrArg _ ((State.request_serves hserves hreset _).trans hread)),
      congrArg (_ :: ·) (hkeeps.same .out rfl), hkeeps.same .dram rfl, (State.send_keeps rfl _ t (hkeeps.mono (by decide))).within⟩
  case write =>
    intro d p htop hn hblock hserves hreset _
    obtain ⟨t, hwrite, hkeeps⟩ := s.writeReq_clean addr.toNat d p
    have hdram : t.dram = s.dram := hkeeps.same .dram rfl
    refine ⟨_, (exec_dramWrite_block htop hn hblock _ _ _).trans (congrArg _ ((State.request_serves hserves hreset _).trans hwrite)),
      Mem.readN_writeN _ _ _, fun a ha => ?_, (State.dramPut_keeps rfl _ _ _ t (hkeeps.mono (by decide))).within, fun hp h hmem => ?_,
      fun hp hfull => ?_, fun h hmem => ?_⟩
    · exact (Mem.read_writeN_out _ _ _ _ ha).trans (congrArg (·.mem.read a) hdram)
    · subst hp; exact mem_poisonAfter_of_mem_halves hmem _
    · subst hp; exact t.dramPut_block_unmarked hfull (by rwa [hfull] at hblock)
    · exact (mem_poisonAfter_of_not_mem_halves hmem p _).trans (by rw [hdram])

end Sys2Proof.Machine
end

section
/-! PROOF. The upkeep of device DRAM (R331, R333 to R335, R337, R340): refresh, reports of temperature, patrol scrub and WCK2DQ tracking. -/

namespace Sys2Proof.Machine

/-! ### Channels -/

/-- One change of the channels from `lo` on, `n` of them, reaches each of these once and no other. -/
theorem State.updChans_chan (f : Chan → Chan) (lo n j : Nat) (s : State) :
    ((range lo n).foldl (fun s i => s.updChan i f) s).chan j = if lo ≤ j ∧ j < lo + n then f (s.chan j) else s.chan j := by
  induction n generalizing lo s with
  | zero => rw [if_neg (by omega)]; rfl
  | succ n ih =>
    rw [range, List.foldl_cons, ih]
    by_cases hj : j = lo
    · subst hj
      rw [if_neg (by omega), if_pos (by omega), State.updChan_self]
    · rw [State.updChan_other hj]
      have hin : (lo + 1 ≤ j ∧ j < lo + 1 + n) ↔ lo ≤ j ∧ j < lo + (n + 1) := by omega
      simp only [hin]

/-! ### Attention (R371) -/

/-- Writing the waiting records of a ring leaves the pending classes. -/
theorem State.writeEntry_attn (n : Nat) (r : Rec) (s : State) : (s.writeEntry n r).hif.attn = s.hif.attn := by
  unfold State.writeEntry
  dsimp only
  split
  · unfold State.fire; split <;> simp [State.updMd]
  · simp [State.updMd]

theorem State.drainRing_attn (n k : Nat) (s : State) : (s.drainRing n k).hif.attn = s.hif.attn := by
  induction k generalizing s with
  | zero => rfl
  | succ k ih =>
    unfold State.drainRing
    dsimp only
    split
    · rfl
    · split
      · rw [ih, State.writeEntry_attn]; rfl
      · rfl

theorem State.record_attn (slot : Option Nat) (rtype rflags : Byte) (body : List Byte) (s : State) :
    (s.record slot rtype rflags body).hif.attn = s.hif.attn := by
  unfold State.record State.pushRec
  dsimp only
  split
  · rw [State.drainRing_attn]; rfl
  · rfl

/-- Outside FROZEN attention of a class is pending once it is raised. -/
theorem State.attention_attn {s : State} (hfrozen : s.isFrozen = false) (cls : Nat) (code : U16) (ik idx : Nat) :
    (s.attention cls code ik idx).hif.attn = s.hif.attn ||| BitVec.ofNat 8 (2 ^ cls) := by
  have hfrozen' : (s.noteCode code).isFrozen = false := by
    rw [State.isFrozen, (State.noteCode_keeps (m := fun p => decide (p ∈ [.ras])) rfl code s (.refl s)).same .dev rfl]; exact hfrozen
  have hattn : (s.noteCode code).hif.attn = s.hif.attn :=
    congrArg Hif.attn ((State.noteCode_keeps (m := fun p => decide (p ∈ [.ras])) rfl code s (.refl s)).same .hif rfl)
  rw [State.attention, State.record_attn, State.setAttn, hfrozen', ← hattn]
  rfl

/-! ### Refresh and temperature (R331, R333, R334) -/

/-- A channel in service after a refresh of a bank at time `now`: postponed while requests are in panic, at most 8 times. -/
def Chan.refresh (bank now : Nat) (c : Chan) : Chan :=
  if c.panic && decide (tget 0 c.postponed bank < 8) then { c with postponed := tupd 0 c.postponed bank (· + 1) }
  else { c with postponed := tset 0 c.postponed bank 0, refreshed := tset 0 c.refreshed bank now }

theorem exec_refresh_chan {k : Fin 24} {s : State} (hserv : (s.chan k.val).inService = true) (hself : (s.chan k.val).selfRefresh = false)
    (b : Fin 16) :
    ∃ t, exec (.refresh k b) s = .next t ∧ s.within [.dmc] t ∧ (∀ j, j ≠ k.val → t.chan j = s.chan j) ∧
      t.chan k.val = (s.chan k.val).refresh b.val s.now := by
  refine ⟨_, rfl, (State.updChan_keeps rfl _ _ s (.refl s)).within, fun j hj => State.updChan_other hj _ _, ?_⟩
  rw [State.updChan_self]
  simp [hserv, hself, Chan.refresh]

@[simp] theorem Chan.report_mr4 (t : Nat) (c : Chan) : (c.report t).mr4 = BitVec.ofNat 8 t := by
  unfold Chan.report
  dsimp only
  split
  · rfl
  · split
    · split <;> rfl
    · rfl

/-- A package is HOT above 85 °C, and stays so after its first report at or below that. -/
theorem Chan.report_hot (t : Nat) (c : Chan) : (c.report t).hot = if 85 < t then true else c.hot && c.cool == 0 := by
  unfold Chan.report
  dsimp only
  split
  · rfl
  · cases hhot : c.hot with
    | false => simp
    | true =>
      rcases Nat.eq_zero_or_pos c.cool with hcool | hcool
      · simp [hcool]
      · simp [Nat.succ_le_of_lt hcool, Nat.ne_of_gt hcool]

/-- The channels after a report of the package that holds them. -/
def State.reportPkg (pkg : Nat) (temp : Byte) (s : State) : State :=
  (range (4 * pkg) 4).foldl (fun s i => s.updChan i fun c => if c.inService && !c.selfRefresh then c.report temp.toNat else c) s

section
variable {pkg : Fin 6} {s : State}

theorem State.reportPkg_chan {j : Nat} (hj : j < 4) (hserv : (s.chan (4 * pkg.val + j)).inService = true)
    (hself : (s.chan (4 * pkg.val + j)).selfRefresh = false) (temp : Byte) :
    (s.reportPkg pkg.val temp).chan (4 * pkg.val + j) = (s.chan (4 * pkg.val + j)).report temp.toNat := by
  rw [State.reportPkg, State.updChans_chan, if_pos (by omega)]
  simp [hserv, hself]

theorem State.reportPkg_keeps {m : Part → Bool} (hdmc : m .dmc = true) (n : Nat) (temp : Byte) (s : State) : Keeps m s (s.reportPkg n temp) :=
  Keeps.foldl (fun _ _ k => State.updChan_keeps hdmc _ _ _ k) (.refl s)

/-- A package with a channel in service reports, and above 105 °C attention of class thermal is raised (R334; log entry 50). -/
theorem exec_mr4Poll (hserv : (s.chan (4 * pkg.val)).inService = true) (hself : (s.chan (4 * pkg.val)).selfRefresh = false) (temp : Byte) :
    ∃ t, exec (.mr4Poll pkg temp) s = .next t ∧ t.dmc = (s.reportPkg pkg.val temp).dmc ∧
      (105 < temp.toNat → s.isFrozen = false → t.hif.attn = s.hif.attn ||| 4) ∧ (temp.toNat ≤ 105 → t = s.reportPkg pkg.val temp) := by
  have hany : ((range (4 * pkg.val) 4).any fun i => (s.chan i).inService && !(s.chan i).selfRefresh) = true := by
    simp [range, hserv, hself]
  have hexec : exec (.mr4Poll pkg temp) s = .next (if 105 < temp.toNat then
      (s.reportPkg pkg.val temp).burn.attention 2 (freeCode (s.reportPkg pkg.val temp).tag) 7 (4 * pkg.val) else s.reportPkg pkg.val temp) := by
    simp only [exec, execMr4Poll, hany, Bool.not_true, Bool.false_eq_true, if_false]
    rfl
  have hreport := State.reportPkg_keeps (m := fun p => decide (p ∈ [.dmc])) rfl pkg.val temp s
  refine ⟨_, hexec, ?_, fun hhot hfrozen => ?_, fun hcool => if_neg (Nat.not_lt.mpr hcool)⟩
  · split
    · have hburn := State.burn_keeps (m := fun p => decide (p ≠ .dmc)) rfl _ (.refl (s.reportPkg pkg.val temp))
      exact (State.attention_keeps rfl rfl rfl rfl rfl _ _ _ _ _ hburn).same .dmc rfl
    · rfl
  · have hdev : (s.reportPkg pkg.val temp).burn.isFrozen = false := (congrArg (·.state == .frozen) (hreport.same .dev rfl)).trans hfrozen
    rw [if_pos hhot, State.attention_attn hdev, State.burn_hif, show _ = s.hif from hreport.same .hif rfl]
    rfl

end

/-! ### Patrol scrub and tracking (R335, R337, R340) -/

/-- The scrub of a block without errors and marks moves its channel on to the next block, and round at the end. -/
theorem exec_patrolScrub_clean {k : Fin 24} {i a : Nat} {s : State} (hserv : (s.chan k.val).inService = true)
    (hself : (s.chan k.val).selfRefresh = false) (hidx : s.channels.findIdx? (· == k.val) = some i)
    (ha : a = deinterleave s.dmc.grain (max 1 s.nChan) i (64 * (s.chan k.val).scrubPos)) (hlo : a / 64 * 2 ∉ s.dram.poison)
    (hhi : a / 64 * 2 + 1 ∉ s.dram.poison) :
    exec (.patrolScrub k .clean .clean) s = .next (s.updChan k.val fun c => { c with
      scrubPos := if chanBlocks ≤ (s.chan k.val).scrubPos + 1 then 0 else c.scrubPos + 1
      scrubPasses := if chanBlocks ≤ (s.chan k.val).scrubPos + 1 then satAdd c.scrubPasses 1 else c.scrubPasses }) := by
  subst ha
  simp [exec, execPatrolScrub, hserv, hself, hidx, State.checkBlock_clean_unmarked hlo hhi]

/-- One change of the entries below `n`, each once. -/
theorem tget_foldl_tset_range {α : Type} [DecidableEq α] (d : α) (f : α → α) (n i : Nat) (w : Tbl α) :
    tget d ((List.range n).foldl (fun w i => tset d w i (f (tget d w i))) w) i = if i < n then f (tget d w i) else tget d w i := by
  induction n with
  | zero => rfl
  | succ n ih =>
    rw [List.range_succ, List.foldl_append, List.foldl_cons, List.foldl_nil]
    by_cases hi : i = n
    · subst hi
      rw [tget_tset_self, ih, if_neg (Nat.lt_irrefl i), if_pos (Nat.lt_succ_self i)]
    · have hin : i < n ↔ i < n + 1 := by omega
      refine (tget_tupd_ne d _ f hi).trans (ih.trans ?_)
      simp only [hin]

@[simp] theorem State.updTrn_self (k : Nat) (f : Trn → Trn) (s : State) :
    tget {} (s.updTrn k f).dmc.trn k = f (tget {} s.dmc.trn k) := tget_tupd_self _ _ _ _

theorem exec_wck2dqTrack {k : Fin 24} {s : State} (hserv : (s.chan k.val).inService = true) (hself : (s.chan k.val).selfRefresh = false)
    (d : Byte) :
    exec (.wck2dqTrack k d) s = .next (s.updTrn k.val fun t =>
      { t with wr := (List.range 16).foldl (fun w i => tset 0 w i (tget 0 w i + d)) t.wr }) := by
  simp [exec, execWck2dqTrack, hserv, hself]

/-! ### The statement -/

/-- Settles O51: each command is one change of the channels, or of the training registers, that it names. -/
theorem dramUpkeep : Obligations.DramUpkeep := by
  unfold Obligations.DramUpkeep
  refine ⟨fun k b s hserv hself => ?refresh, fun pkg temp s hpkg => ?report, fun k i a s hserv hself hidx ha hlo hhi => ?scrub,
    fun k d s hserv hself => ?track⟩
  case refresh =>
    obtain ⟨t, hexec, hwithin, hother, hchan⟩ := exec_refresh_chan hserv hself b
    refine ⟨t, hexec, hwithin, hother, fun ⟨hpanic, hcount⟩ => ?_, fun hdue => ?_⟩
    · rw [hchan]; simp [Chan.refresh, hpanic, hcount]
    · have hnot : ((s.chan k.val).panic && decide (tget 0 (s.chan k.val).postponed b.val < 8)) = false := by
        rcases hdue with hpanic | hcount
        · simp [hpanic]
        · simp [Nat.not_lt.mpr hcount]
      rw [hchan]; simp [Chan.refresh, hnot]
  case report =>
    obtain ⟨hserv, hself⟩ := hpkg 0 (by omega)
    obtain ⟨t, hexec, hdmc, hattn, hquiet⟩ := exec_mr4Poll hserv hself temp
    refine ⟨t, hexec, fun j hj => ?_, hattn, fun hcool => hquiet hcool ▸ (State.reportPkg_keeps rfl pkg.val temp s).within⟩
    obtain ⟨hserv, hself⟩ := hpkg j hj
    have hchan : t.chan (4 * pkg.val + j) = (s.chan (4 * pkg.val + j)).report temp.toNat :=
      (congrArg (fun d : Dmc => tget {} d.chans (4 * pkg.val + j)) hdmc).trans (State.reportPkg_chan hj hserv hself temp)
    rw [hchan, Chan.report_mr4, Chan.report_hot]
    exact ⟨BitVec.ofNat_toNat .., fun h => if_pos h, fun h => if_neg (Nat.not_lt.mpr h)⟩
  case scrub =>
    refine ⟨_, exec_patrolScrub_clean hserv hself hidx ha hlo hhi, rfl, (State.updChan_keeps rfl _ _ s (.refl s)).within, ?_⟩
    rw [State.updChan_self]
    exact ⟨rfl, rfl⟩
  case track =>
    refine ⟨_, exec_wck2dqTrack hserv hself d, (State.updTrn_keeps rfl _ _ s (.refl s)).within, fun i hi => ?_, ?_⟩
    · rw [State.updTrn_self]
      exact (tget_foldl_tset_range 0 (· + d) 16 i _).trans (if_pos hi)
    · rw [State.updTrn_self]

end Sys2Proof.Machine
end

section
/-! PROOF. Buffer accesses (R335, R336, R346): what an access that passes its checks stores or returns, and what one that fails answers. -/

namespace Sys2Proof.Machine

/-! ### A failed operation (R350) -/

/-- What was sent before a context fault stays sent. -/
theorem State.mem_cxr_out {o : Out} {s : State} (h : o ∈ s.out) (c cause : Nat) (code : U16) (layer tile : Nat) :
    o ∈ (s.cxr c cause code layer tile).out :=
  (State.cxr_keeps (m := fun _ => true) rfl rfl rfl rfl rfl rfl rfl rfl rfl rfl rfl rfl rfl rfl rfl _ _ _ _ _ _ (.refl _)).mem_out h

/-- A failed operation answers its code, whatever follows from it. -/
theorem State.mem_poolFault_out (req : U16) (h : U32) (code : U16) (s : State) : .bpmError req code ∈ (s.poolFault req h code).out := by
  have hsent : .bpmError req code ∈ (s.poolError req h code).out := State.mem_send_out _ _
  unfold State.poolFault
  dsimp only
  split
  · exact State.mem_cxr_out hsent _ _ _ _ _
  · exact (State.attention_keeps (m := fun _ => true) rfl rfl rfl rfl rfl _ _ _ _ _ (.refl _)).mem_out hsent

/-- A failed operation of a requester that is no context changes no memory. -/
theorem State.poolFault_dram {req : U16} (hreq : ctxOfReq req = none) (h : U32) (code : U16) (s : State) :
    (s.poolFault req h code).dram = s.dram := by
  rw [State.poolFault, hreq]
  have herror := State.poolError_keeps (m := fun p => decide (p ≠ .dram)) rfl rfl req h code s (.refl s)
  exact (State.attention_keeps rfl rfl rfl rfl rfl _ _ _ _ _ herror).same .dram rfl

/-! ### An access (R346) -/

section
variable {req : U16} {h off size natural : U32} {s : State} (hserv : s.bpm.inService = true)
include hserv

theorem exec_bufferAccess_passes (hcode : s.accessCode h off.toNat size.toNat (naturalSize req natural.toNat) = none) (w : Option (List Byte)) :
    exec (.bufferAccess req h off size natural w) s = .next (s.accessBuffer req h off.toNat size.toNat w) := by
  simp [exec, execBufferAccess, hserv, hcode]

theorem exec_bufferAccess_fails {code : U16} (hcode : s.accessCode h off.toNat size.toNat (naturalSize req natural.toNat) = some code)
    (w : Option (List Byte)) : exec (.bufferAccess req h off size natural w) s = .next (s.poolFault req h code) := by
  simp [exec, execBufferAccess, hserv, hcode]

end

/-- Bytes that carry no mark are read without a count. -/
theorem State.notePoison_of_unmarked {a n : Nat} {s : State} (hclean : s.poisonedAt a n = false) : s.notePoison a n = s := by
  have hnone : (halves a n).filter (fun h => decide (h ∈ s.dram.poison)) = [] := by
    simpa [State.poisonedAt, List.filter_eq_nil_iff] using hclean
  rw [State.notePoison, hnone]; rfl

/-- A read returns the bytes of the buffer with their poison mark. -/
theorem State.mem_accessBuffer_out (req : U16) (h : U32) (off size : Nat) (s : State) :
    .bpmData req (s.dramBytes (s.bufAddr h + off) size) (s.poisonedAt (s.bufAddr h + off) size) ∈ (s.accessBuffer req h off size none).out := by
  simp only [State.accessBuffer]
  split
  · split
    · exact State.mem_cxr_out (State.mem_send_out _ _) _ _ _ _ _
    · exact State.mem_send_out _ _
  · exact State.mem_send_out _ _

/-- A read of bytes without a mark changes nothing. -/
theorem State.accessBuffer_within {h : U32} {off size : Nat} {s : State} (hclean : s.poisonedAt (s.bufAddr h + off) size = false) (req : U16) :
    s.within [.out] (s.accessBuffer req h off size none) := by
  have hsent := (State.send_keeps rfl (.bpmData req (s.dramBytes (s.bufAddr h + off) size) false) s (.refl s)).within (ps := [.out])
  simp only [State.accessBuffer, hclean, State.notePoison_of_unmarked hclean]
  split <;> exact hsent

/-! ### The statement -/

/-- Settles O27: an access that passes is `State.accessBuffer`, and one that fails is `State.poolFault` with the code of its check. -/
theorem bufferAccesses : Obligations.BufferAccesses := by
  unfold Obligations.BufferAccesses
  refine fun req h off size natural s hserv => ⟨fun hcode => ⟨fun d => ?write, ?read⟩, fun code w hcode => ?fault⟩
  case write =>
    exact ⟨_, exec_bufferAccess_passes hserv hcode (some d), rfl,
      (State.send_keeps rfl _ _ (State.dramPut_keeps rfl _ _ _ s (.refl s))).within, rfl⟩
  case read =>
    exact ⟨_, exec_bufferAccess_passes hserv hcode none, State.mem_accessBuffer_out req h _ _ s, fun hclean => State.accessBuffer_within hclean req⟩
  case fault =>
    exact ⟨_, exec_bufferAccess_fails hserv hcode w, State.mem_poolFault_out req h code s, fun hreq => State.poolFault_dram hreq h code s⟩

end Sys2Proof.Machine
end

section
/-! PROOF. The record of context faults (R299, R300): CXR_COUNT and DIS_LAST_FAULT change where a CXR is taken, and through nothing that follows from it. -/

namespace Sys2Proof.Machine

/-! ### The record -/

/-- CXR_COUNT, and the cause and the context of DIS_LAST_FAULT. -/
def State.faultRecord (s : State) : U32 × BitVec 4 × BitVec 12 := (s.dis.cxrs, s.dis.lastCause, s.dis.lastCtx)

/-- Any part but the dispatcher. -/
def exceptDis : Part → Bool := fun p => decide (p ≠ .dis)

theorem Keeps.faultRecord {s t : State} (k : Keeps exceptDis s t) : t.faultRecord = s.faultRecord :=
  congrArg (fun d : Dis => (d.cxrs, d.lastCause, d.lastCtx)) (k.same .dis rfl)

/-- Steps that each keep the record. -/
theorem foldl_faultRecord {α : Type} {f : State → α → State} (h : ∀ s a, (f s a).faultRecord = s.faultRecord) (xs : List α) (s : State) :
    (xs.foldl f s).faultRecord = s.faultRecord := by
  induction xs generalizing s with
  | nil => rfl
  | cons a xs ih => exact (ih _).trans (h s a)

section
variable (s : State)

@[simp] theorem State.send_faultRecord (o : Out) : (s.send o).faultRecord = s.faultRecord := rfl
@[simp] theorem State.updCtx_faultRecord (c : Nat) (f : Ctx → Ctx) : (s.updCtx c f).faultRecord = s.faultRecord := rfl
@[simp] theorem State.updSyn_faultRecord (g : Syn → Syn) : (s.updSyn g).faultRecord = s.faultRecord := rfl
@[simp] theorem State.updBpm_faultRecord (g : Bpm → Bpm) : (s.updBpm g).faultRecord = s.faultRecord := rfl
@[simp] theorem State.updPool_faultRecord (p : Nat) (f : Pool → Pool) : (s.updPool p f).faultRecord = s.faultRecord := rfl
@[simp] theorem State.updEnc_faultRecord (g : Enc → Enc) : (s.updEnc g).faultRecord = s.faultRecord := rfl
@[simp] theorem State.updSess_faultRecord (n : Nat) (f : Sess → Sess) : (s.updSess n f).faultRecord = s.faultRecord := rfl
@[simp] theorem State.updProg_faultRecord (n : Nat) (f : SessEnc → SessEnc) : (s.updProg n f).faultRecord = s.faultRecord := rfl
@[simp] theorem State.updEeng_faultRecord (e : Nat) (f : EncEng → EncEng) : (s.updEeng e f).faultRecord = s.faultRecord := rfl
@[simp] theorem State.updRegion_faultRecord (r : Nat) (f : Region → Region) : (s.updRegion r f).faultRecord = s.faultRecord := rfl
@[simp] theorem State.updWc_faultRecord (r n : Nat) (f : Wc → Wc) : (s.updWc r n f).faultRecord = s.faultRecord := rfl
@[simp] theorem State.updTke_faultRecord (g : Tke → Tke) : (s.updTke g).faultRecord = s.faultRecord := rfl
@[simp] theorem State.updTrack_faultRecord (i : Nat) (f : Track → Track) : (s.updTrack i f).faultRecord = s.faultRecord := rfl
@[simp] theorem State.skipPics_faultRecord (pics : List (Nat × Nat)) : (s.skipPics pics).faultRecord = s.faultRecord := rfl
@[simp] theorem State.unblock_faultRecord (c : Nat) : (s.unblock c).faultRecord = s.faultRecord := rfl

@[simp] theorem State.unwait_faultRecord (c : Nat) : (s.unwait c).faultRecord = s.faultRecord := rfl

@[simp] theorem State.record_faultRecord (slot : Option Nat) (rtype rflags : Byte) (body : List Byte) :
    (s.record slot rtype rflags body).faultRecord = s.faultRecord :=
  (State.record_keeps rfl rfl rfl slot rtype rflags body s (.refl s)).faultRecord

@[simp] theorem State.noteCode_faultRecord (code : U16) : (s.noteCode code).faultRecord = s.faultRecord :=
  (State.noteCode_keeps rfl code s (.refl s)).faultRecord

@[simp] theorem State.clipWrite_faultRecord (n : Nat) (out : ClipOut) (src : Option Nat) : (s.clipWrite n out src).faultRecord = s.faultRecord :=
  (State.clipWrite_keeps rfl rfl rfl n out src s (.refl s)).faultRecord

@[simp] theorem State.advanceSeq_faultRecord (i : Nat) : (s.advanceSeq i).faultRecord = s.faultRecord :=
  (State.advanceSeq_keeps rfl rfl rfl i s (.refl s)).faultRecord

@[simp] theorem State.clearCores_faultRecord (r c : Nat) : (s.clearCores r c).faultRecord = s.faultRecord :=
  (State.clearCores_keeps rfl rfl r c s (.refl s)).faultRecord

@[simp] theorem State.clearGau_faultRecord (r c : Nat) : (s.clearGau r c).faultRecord = s.faultRecord :=
  (State.clearGau_keeps rfl r c s (.refl s)).faultRecord

@[simp] theorem State.countCtxAborts_faultRecord (c : Nat) : (s.countCtxAborts c).faultRecord = s.faultRecord :=
  (State.countCtxAborts_keeps rfl rfl c s (.refl s)).faultRecord

@[simp] theorem State.dropCtxHeads_faultRecord (c : Nat) : (s.dropCtxHeads c).faultRecord = s.faultRecord :=
  (State.dropCtxHeads_keeps rfl rfl c s (.refl s)).faultRecord

/-! ### Buffers return (R349, R352) -/

@[simp] theorem State.giveBack_faultRecord (h : U32) : (s.giveBack h).faultRecord = s.faultRecord := by
  unfold State.giveBack
  dsimp only
  split
  · simp
  · split <;> simp

@[simp] theorem State.settle_faultRecord (h : U32) (b : Buf) : (s.settle h b).faultRecord = s.faultRecord := by
  unfold State.settle
  split <;> simp

@[simp] theorem State.freeBuf_faultRecord (h : U32) : (s.freeBuf h).faultRecord = s.faultRecord := by
  unfold State.freeBuf
  split <;> simp

@[simp] theorem State.releaseBuf_faultRecord (h : U32) (holder : U16) : (s.releaseBuf h holder).faultRecord = s.faultRecord := by
  unfold State.releaseBuf
  split
  · split <;> simp
  · rfl

@[simp] theorem State.releaseAll_faultRecord (h : U32) (holder : U16) : (s.releaseAll h holder).faultRecord = s.faultRecord := by
  unfold State.releaseAll
  split
  · exact foldl_faultRecord (fun t _ => t.releaseBuf_faultRecord h holder) _ s
  · rfl

@[simp] theorem State.dropAll_faultRecord (req : U16) : (s.dropAll req).faultRecord = s.faultRecord := by
  refine foldl_faultRecord (fun t k => ?_) _ s
  dsimp only
  split
  · split <;> simp
  · simp

/-! ### Signals and releases (R286, R300, R303) -/

@[simp] theorem State.wakeWaiter_faultRecord (w : Waiter) : (s.wakeWaiter w).faultRecord = s.faultRecord := by
  cases w <;> rfl

@[simp] theorem State.wakeAll_faultRecord (o : U16) : (s.wakeAll o).faultRecord = s.faultRecord := by
  unfold State.wakeAll
  exact foldl_faultRecord (fun t (w : WaitEntry) => t.wakeWaiter_faultRecord w.waiter) _ _

@[simp] theorem State.signal_faultRecord (o : U16) (n : U32) : (s.signal o n).faultRecord = s.faultRecord := by
  rw [State.signal, State.wakeAll_faultRecord, State.updSyn_faultRecord]

@[simp] theorem State.synSet_faultRecord (o : U16) (v : U32) : (s.synSet o v).faultRecord = s.faultRecord := by
  unfold State.synSet
  dsimp only
  split <;> simp

@[simp] theorem State.complete_faultRecord (c : Nat) (failed : Bool) : (s.complete c failed).faultRecord = s.faultRecord := by
  unfold State.complete
  dsimp only
  split
  · rw [foldl_faultRecord fun t (e : U16 × U32) => t.signal_faultRecord e.1 e.2, State.send_faultRecord]
  · rfl

@[simp] theorem State.releaseInv_faultRecord (c : Nat) (pics : List (Nat × Nat)) (deadline : Nat) :
    (s.releaseInv c pics deadline).faultRecord = s.faultRecord := by
  unfold State.releaseInv
  dsimp only
  split
  · split <;> simp
  · simp

@[simp] theorem State.releaseNext_faultRecord (c : Nat) : (s.releaseNext c).1.faultRecord = s.faultRecord := by
  unfold State.releaseNext
  dsimp only
  split
  · rfl
  · split <;> simp

@[simp] theorem State.releaseUnits_faultRecord (cs : List Nat) (k : Nat) : (s.releaseUnits cs k).1.faultRecord = s.faultRecord := by
  induction k generalizing s with
  | zero => rfl
  | succ k ih =>
    simp only [State.releaseUnits]
    split
    · rfl
    · rw [ih, foldl_faultRecord (fun t d => t.updCtx_faultRecord d _), State.releaseNext_faultRecord]

/-- The releases of each plan, on the state and the objects that the releases before it have left. -/
theorem foldl_fst_faultRecord {α β : Type} {f : State × β → α → State × β} (h : ∀ a x, (f a x).1.faultRecord = a.1.faultRecord) (xs : List α)
    (a : State × β) : (xs.foldl f a).1.faultRecord = a.1.faultRecord := by
  induction xs generalizing a with
  | nil => rfl
  | cons x xs ih => exact (ih _).trans (h a x)

@[simp] theorem State.releaseStep_faultRecord (o : U16) : (s.releaseStep o).1.faultRecord = s.faultRecord := by
  refine foldl_fst_faultRecord (fun a p => ?_) _ (s, [])
  exact (State.releaseUnits_faultRecord _ _ _).trans (foldl_faultRecord (fun t d => t.updCtx_faultRecord d _) _ _)

@[simp] theorem State.releaseWave_faultRecord (k : Nat) (os : List U16) : (s.releaseWave k os).faultRecord = s.faultRecord := by
  induction k generalizing os s with
  | zero => rfl
  | succ k ih =>
    cases os with
    | nil => rfl
    | cons o os => exact (ih _ _).trans (s.releaseStep_faultRecord o)

@[simp] theorem State.releaseOn_faultRecord (o : U16) : (s.releaseOn o).faultRecord = s.faultRecord := s.releaseWave_faultRecord _ _

@[simp] theorem State.beginInv_faultRecord (c : Nat) : (s.beginInv c).faultRecord = s.faultRecord := by
  unfold State.beginInv
  dsimp only
  split <;> rfl

/-! ### A tick ends (R300, R317, R378) -/

@[simp] theorem State.dropScaled_faultRecord (h : U32) : (s.dropScaled h).faultRecord = s.faultRecord := by
  unfold State.dropScaled
  dsimp only
  split
  · rfl
  · rw [State.freeBuf_faultRecord]; rfl

@[simp] theorem State.dropQueued_faultRecord (n : Nat) : (s.dropQueued n).faultRecord = s.faultRecord :=
  foldl_faultRecord State.dropScaled_faultRecord _ s

@[simp] theorem State.freeSession_faultRecord (n : Nat) : (s.freeSession n).faultRecord = s.faultRecord := by
  unfold State.freeSession
  dsimp only
  split
  · simp
  · split <;> simp

@[simp] theorem State.tryEnd_faultRecord (n : Nat) : (s.tryEnd n).faultRecord = s.faultRecord := by
  unfold State.tryEnd
  dsimp only
  split <;> simp

@[simp] theorem State.endSession_faultRecord (n cause : Nat) : (s.endSession n cause).faultRecord = s.faultRecord := by
  unfold State.endSession
  split <;> simp

@[simp] theorem State.startSession_faultRecord (n eng slot : Nat) (p : ClipProfile) (preroll maxPics : Nat) (ring : ClipRing) (reserved : Bool)
    (load : Nat) : (s.startSession n eng slot p preroll maxPics ring reserved load).faultRecord = s.faultRecord := by
  unfold State.startSession
  dsimp only
  split
  · rw [State.endSession_faultRecord]; split <;> simp
  · split <;> simp

/-- A reserved session is taken, or none. -/
theorem State.takeSession_faultRecord {slot : Nat} {e : SlotEntry} {p : ClipProfile} {preroll maxPics : Nat} {ring : ClipRing} {s t : State} {n : Nat}
    (h : s.takeSession slot e p preroll maxPics ring true = .ok (n, t)) : t.faultRecord = s.faultRecord := by
  unfold State.takeSession at h
  split at h
  · split at h
    · cases h; simp
    · cases h
  · cases h

@[simp] theorem State.eventClip_faultRecord (slot : Nat) (c : EventClip) : (s.eventClip slot c).2.2.faultRecord = s.faultRecord := by
  unfold State.eventClip
  split
  · split
    · rfl
    · dsimp only
      split
      next h => exact State.takeSession_faultRecord h
      next => rfl
  · rfl

@[simp] theorem State.postEvent_faultRecord (e : EventOut) : (s.postEvent e).faultRecord = s.faultRecord := by
  unfold State.postEvent
  dsimp only
  split
  · rfl
  · rw [State.record_faultRecord]
    split <;> simp

@[simp] theorem State.endTick_faultRecord : s.endTick.faultRecord = s.faultRecord := by
  unfold State.endTick
  split
  · exact foldl_faultRecord State.postEvent_faultRecord _ _
  · rfl

@[simp] theorem State.tickRan_faultRecord (c : Nat) (ok : Bool) : (s.tickRan c ok).faultRecord = s.faultRecord := by
  unfold State.tickRan
  split
  · rfl
  · dsimp only
    rw [State.endTick_faultRecord]
    exact foldl_faultRecord (fun t i => by split <;> simp) _ _

/-- An invocation that ends as failed (R300). -/
@[simp] theorem State.failInv_faultRecord (c : Nat) : (s.failInv c).faultRecord = s.faultRecord := by
  unfold State.failInv
  dsimp only
  split
  · rfl
  · have hresets (v : U32) (xs : List U16) (t : State) : (xs.foldl (fun s o => s.synSet o v) t).faultRecord = t.faultRecord :=
      foldl_faultRecord (fun t o => t.synSet_faultRecord o v) xs t
    have hsignals (xs : List (U16 × U32)) (t : State) : (xs.foldl (fun s e => s.releaseOn e.1) t).faultRecord = t.faultRecord :=
      foldl_faultRecord (fun t e => t.releaseOn_faultRecord e.1) xs t
    split
    · split <;> split <;> simp [hresets, hsignals]
    · simp

/-! ### The dispatcher judges (R289 to R291) -/

@[simp] theorem State.dropGroup_faultRecord (r c : Nat) (group : List Nat) : (s.dropGroup r c group).faultRecord = s.faultRecord := by
  unfold State.dropGroup
  dsimp only
  rw [State.updCtx_faultRecord, State.updRegion_faultRecord]
  exact foldl_faultRecord (fun t g => by split <;> rfl) group s

@[simp] theorem State.leave_faultRecord (r : Nat) (gau : Bool) (c : Nat) (st : BitVec 3) : (s.leave r gau c st).faultRecord = s.faultRecord := by
  unfold State.leave
  dsimp only
  have hrequeue (ns : List Nat) (t : State) : (ns.foldl (fun (s : State) n => s.updWc r n Wc.requeueIssued) t).faultRecord = t.faultRecord :=
    foldl_faultRecord (fun t n => t.updWc_faultRecord r n _) ns t
  have hgroups (gs : List (List Nat)) (t : State) : (gs.foldl (fun s g => s.dropGroup r c g) t).faultRecord = t.faultRecord :=
    foldl_faultRecord (fun t g => t.dropGroup_faultRecord r c g) gs t
  rw [State.updRegion_faultRecord, State.updCtx_faultRecord]
  split <;> split <;> simp [hrequeue, hgroups]

@[simp] theorem State.evict_faultRecord (r k : Nat) : (s.evict r k).faultRecord = s.faultRecord := by
  have hsaved (v : Nat) (x : Saved) (t : State) : (t.updDis fun d => { d with saved := tset {} d.saved v x }).faultRecord = t.faultRecord := rfl
  unfold State.evict
  split
  · rfl
  · simp [hsaved]

@[simp] theorem State.reside_faultRecord (r k c : Nat) : (s.reside r k c).faultRecord = s.faultRecord := by
  have hsaved (t : State) : (t.updDis fun d => { d with saved := tdel c d.saved }).faultRecord = t.faultRecord := rfl
  simp [State.reside, hsaved]

@[simp] theorem State.startSwap_faultRecord (r : Nat) (gau : Bool) (c : Nat) : (s.startSwap r gau c).faultRecord = s.faultRecord := by
  unfold State.startSwap
  dsimp only
  rw [State.updRegion_faultRecord, State.updCtx_faultRecord]
  split
  · rfl
  · split <;> simp

@[simp] theorem State.judge_faultRecord (r : Nat) (gau : Bool) : (s.judge r gau).faultRecord = s.faultRecord := by
  unfold State.judge
  dsimp only
  split
  · rfl
  · split
    · split <;> simp
    · split
      · split <;> simp
      · rfl

@[simp] theorem State.judgeAll_faultRecord : s.judgeAll.faultRecord = s.faultRecord :=
  foldl_faultRecord (fun t r => by simp) _ s

end

/-! ### The steps of a CXR (R299) -/

/-- The reset of a context joins those in progress. -/
def State.addCxr (c : Nat) (code : U16) (s : State) : State :=
  s.updRst fun t => { t with runs := t.runs ++ [{ scope := .ctx (Fin.ofNat 4096 c), level := 5, cause := code, since := s.now, epoch := s.ep.epoch
                                                  count := s.ep.count, taken := false, ended := false, units := s.occupied c }] }

/-- The work of a context, which stood as `x`, leaves its region: its passes abort, and the counters of its resident slot take their defaults. -/
def State.clearWork (c : Nat) (x : Ctx) (s : State) : State :=
  let s := (((s.countCtxAborts c).dropCtxHeads c).clearCores x.region c).clearGau x.region c
  let s := match x.rslot with
    | some k => s.updRegion x.region fun g => { g with wcs := (slotWcs k).foldl (fun t n => tdel n t) g.wcs }
    | none => s
  s.updRegion x.region fun g =>
    { g with coresCtx := if g.coresCtx = some c then none else g.coresCtx, gauCtx := if g.gauCtx = some c then none else g.gauCtx
             swapCores := if g.swapCores = some c then none else g.swapCores, swapGau := if g.swapGau = some c then none else g.swapGau }

/-- CXR_COUNT counts, and DIS_LAST_FAULT names cause and context. -/
def State.countFault (c cause : Nat) (s : State) : State :=
  s.updDis fun d => { d with saved := tdel c d.saved, cxrs := d.cxrs + 1, lastCause := BitVec.ofNat 4 cause, lastCtx := BitVec.ofNat 12 c }

/-- The invocation of a context, which stood as `x`, ends as failed, its buffers and shares return, and it stands idle. -/
def State.endFaulted (c : Nat) (x : Ctx) (s : State) : State :=
  let s := if x.state = 2 then s.beginInv c else s
  (((s.unwait c).dropAll (reqCtx c)).failInv c).updCtx c fun x => { x.rest with misses := 0, overrun := 0, overBudget := false }

/-- The code is noted, and the FAULT record posted. -/
def State.postFault (c cause : Nat) (code : U16) (layer tile plan : Nat) (s : State) : State :=
  let s := s.noteCode code
  s.record none 0x11 0 (le 2 c ++ le 1 cause ++ zeros 1 ++ le 2 code.toNat ++ le 2 layer ++ le 4 tile ++ le 2 plan ++ zeros 2
    ++ le 8 s.now ++ zeros 24)

theorem State.cxrNow_eq {c : Nat} {s : State} (hctx : c < s.dis.nCtx) (hreset : s.underReset (.ctx (Fin.ofNat 4096 c)) = false) (cause : Nat)
    (code : U16) (layer tile : Nat) :
    s.cxrNow c cause code layer tile = (((((s.addCxr c code).clearWork c (s.ctx c)).countFault c cause).endFaulted c (s.ctx c)).postFault c cause code
      layer tile (s.ctx c).plan).judgeAll := by
  rw [State.cxrNow, if_pos (by rw [hreset, decide_eq_true hctx]; rfl)]
  rfl

section
variable {m : Part → Bool} {s₀ s : State}

theorem State.clearWork_keeps (hrgn : m .rgn = true) (hrmem : m .rmem = true) (hsyn : m .syn = true) (c : Nat) (x : Ctx) (k : Keeps m s₀ s) :
    Keeps m s₀ (s.clearWork c x) := by
  refine State.updRegion_keeps hrgn _ _ _ ?_
  have hclear : Keeps m s₀ ((((s.countCtxAborts c).dropCtxHeads c).clearCores x.region c).clearGau x.region c) :=
    State.clearGau_keeps hrgn _ _ _ (State.clearCores_keeps hrgn hrmem _ _ _ (State.dropCtxHeads_keeps hrmem hsyn _ _
      (State.countCtxAborts_keeps hrgn hrmem _ _ k)))
  split
  · exact State.updRegion_keeps hrgn _ _ _ hclear
  · exact hclear

theorem State.endFaulted_keeps (hhif : m .hif = true) (hlink : m .link = true) (henc : m .enc = true) (hcse : m .cse = true) (hdis : m .dis = true)
    (hsyn : m .syn = true) (hbpm : m .bpm = true) (htke : m .tke = true) (hdram : m .dram = true) (hout : m .out = true)
    (hfresh : m .fresh = true) (c : Nat) (x : Ctx) (k : Keeps m s₀ s) : Keeps m s₀ (s.endFaulted c x) :=
  State.updCtx_keeps hdis _ _ _ (State.failInv_keeps hhif hlink henc hcse hdis hsyn hbpm htke hdram hout hfresh _ _
    (State.dropAll_keeps hdis hbpm hout _ _ (State.unwait_keeps hsyn hbpm _ _ (Keeps.ite (State.beginInv_keeps hdis _ _ k) k))))

theorem State.postFault_keeps (hhif : m .hif = true) (hlink : m .link = true) (hras : m .ras = true) (hout : m .out = true) (c cause : Nat)
    (code : U16) (layer tile plan : Nat) (k : Keeps m s₀ s) : Keeps m s₀ (s.postFault c cause code layer tile plan) :=
  State.record_keeps hhif hlink hout _ _ _ _ _ (State.noteCode_keeps hras _ _ k)

end

@[simp] theorem State.endFaulted_faultRecord (c : Nat) (x : Ctx) (s : State) : (s.endFaulted c x).faultRecord = s.faultRecord := by
  unfold State.endFaulted
  dsimp only
  split <;> simp

/-- Any part but the resets in progress. -/
def exceptRst : Part → Bool := fun p => decide (p ≠ .rst)

section
variable {c : Nat} {s : State} (hctx : c < s.dis.nCtx) (hreset : s.underReset (.ctx (Fin.ofNat 4096 c)) = false) (cause : Nat) (code : U16)
  (layer tile : Nat)
include hctx hreset

/-- A CXR counts, and DIS_LAST_FAULT names its cause and context. -/
theorem State.cxrNow_faultRecord :
    (s.cxrNow c cause code layer tile).faultRecord = (s.dis.cxrs + 1, BitVec.ofNat 4 cause, BitVec.ofNat 12 c) := by
  have hwork : ((s.addCxr c code).clearWork c (s.ctx c)).faultRecord = s.faultRecord :=
    (State.clearWork_keeps rfl rfl rfl c (s.ctx c) (State.updRst_keeps rfl (.refl s))).faultRecord
  rw [State.cxrNow_eq hctx hreset, State.judgeAll_faultRecord, (State.postFault_keeps rfl rfl rfl rfl _ _ _ _ _ _ (.refl _)).faultRecord,
    State.endFaulted_faultRecord]
  exact congrArg (fun f : U32 × BitVec 4 × BitVec 12 => (f.1 + 1, BitVec.ofNat 4 cause, BitVec.ofNat 12 c)) hwork

/-- What follows from the reset of a context starts no other. -/
theorem State.cxrNow_rst : (s.cxrNow c cause code layer tile).rst = (s.addCxr c code).rst := by
  have hwork : Keeps exceptRst (s.addCxr c code) ((s.addCxr c code).clearWork c (s.ctx c)) := State.clearWork_keeps rfl rfl rfl c _ (.refl _)
  rw [State.cxrNow_eq hctx hreset]
  exact (State.judgeAll_keeps rfl rfl rfl _ (State.postFault_keeps rfl rfl rfl rfl _ _ _ _ _ _
    (State.endFaulted_keeps rfl rfl rfl rfl rfl rfl rfl rfl rfl rfl rfl _ _ (State.updDis_keeps rfl hwork)))).same .rst rfl

end

end Sys2Proof.Machine
end

section
/-! PROOF. Allocation (R347, R348, R350): the buffer that a pool hands out, and what ALLOC and TRY of a pool without one do. -/

namespace Sys2Proof.Machine

/-! ### The buffer that is handed out -/

section
variable {p k : Nat} {s : State}

/-- Buffer `k` is the next that a pool hands out: the next index not used since the reset, else the one that returned first. -/
def State.nextFree (s : State) (p k : Nat) : Prop :=
  (s.pool p).fresh < (s.pool p).count ∧ k = (s.pool p).fresh ∨ (s.pool p).count ≤ (s.pool p).fresh ∧ (s.pool p).returned.head? = some k

/-- Buffer `k` of pool `p` is the requester's, and the pool has changed by `f`. -/
def State.ownBuf (req : U16) (p k : Nat) (f : Pool → Pool) (s : State) : State :=
  (s.updPool p f).updBpm fun b => { b with bufs := tput (mkHandle p k).toNat { owner := req } b.bufs }

theorem State.ownBuf_buf (req : U16) (f : Pool → Pool) : (s.ownBuf req p k f).buf (mkHandle p k) = some { owner := req } :=
  (tfind_tput _ _ _ _).trans (if_pos rfl)

theorem State.ownBuf_pool (req : U16) (f : Pool → Pool) : (s.ownBuf req p k f).pool p = f (s.pool p) := State.updPool_self p f s

/-- A pool with a free buffer hands out the next one, and has one free buffer less. -/
theorem State.take_of_nextFree (hnext : s.nextFree p k) (req : U16) :
    ∃ f, s.take req p = some (mkHandle p k, s.ownBuf req p k f) ∧ (f (s.pool p)).free + 1 = (s.pool p).free := by
  rcases hnext with ⟨hfresh, rfl⟩ | ⟨hused, hhead⟩
  · refine ⟨_, if_pos hfresh, ?_⟩
    simp only [Pool.free]
    omega
  · obtain ⟨r, hreturned⟩ := List.head?_eq_some_iff.mp hhead
    refine ⟨fun g => { g with returned := r, low := min g.low (g.free - 1) }, ?_, ?_⟩
    · simp only [State.take, Nat.not_lt.mpr hused, hreturned, if_false]
      rfl
    · simp only [Pool.free, hreturned, List.length_cons]
      omega

theorem State.take_empty (hused : (s.pool p).count ≤ (s.pool p).fresh) (hreturned : (s.pool p).returned = []) (req : U16) : s.take req p = none := by
  simp only [State.take, Nat.not_lt.mpr hused, hreturned, if_false]

end

/-! ### ALLOC and TRY -/

/-- Both allocate, and differ in whether the requester waits. -/
theorem exec_allocate {i : Instr} {req : U16} {p : Fin 64} (hi : i ∈ [Instr.alloc req p, .try_ req p]) (s : State) :
    ∃ wait, exec i s = .next (s.allocate req p.val wait) := by
  simp only [List.mem_cons, List.not_mem_nil, or_false] at hi
  rcases hi with rfl | rfl
  · exact ⟨true, rfl⟩
  · exact ⟨false, rfl⟩

section
variable {req : U16} {p : Nat} {s : State} (hserv : s.bpm.inService = true) (hpool : s.poolOk p = true)
include hserv hpool

theorem State.allocate_of_take {h : U32} {t : State} (htake : s.take req p = some (h, t)) (wait : Bool) :
    s.allocate req p wait = t.send (.bpmHandle req h) := by
  simp [State.allocate, hserv, hpool, htake]

theorem State.allocate_fails (htake : s.take req p = none) : s.allocate req p false = s.poolFault req (mkHandle p 0) 0x0308 := by
  simp [State.allocate, hserv, hpool, htake]

/-- A requester that finds no free buffer joins the pool's waiters; a context among them leaves its engine set (R288), which changes no pool. -/
theorem State.allocate_waits (htake : s.take req p = none) :
    (s.allocate req p true).pool p = { s.pool p with waits := satAdd (s.pool p).waits 1, waiters := (s.pool p).waiters ++ [req] } ∧
      (s.allocate req p true).bpm.bufs = s.bpm.bufs := by
  have hbpm : (s.allocate req p true).bpm
      = (s.updPool p fun g => { g with waits := satAdd g.waits 1, waiters := g.waiters ++ [req] }).bpm := by
    simp only [State.allocate, hserv, hpool, htake, Bool.not_true, Bool.false_eq_true, if_false, if_true]
    split
    · exact (State.blockCtx_keeps (m := fun p => decide (p ≠ .bpm)) rfl rfl rfl _ _ _ (.refl _)).same .bpm rfl
    · rfl
  have hself := State.updPool_self p (fun g => { g with waits := satAdd g.waits 1, waiters := g.waiters ++ [req] }) s
  exact ⟨(congrArg (fun b : Bpm => tget ({} : Pool) b.pools p) hbpm).trans hself, (congrArg Bpm.bufs hbpm).trans rfl⟩

end

/-! ### A pool failure of a context (R350) -/

/-- A context that is under no reset, on a region whose ACLK runs, takes a CXR with cause 3. -/
theorem takesCxr_of_poolFault {i : Instr} {req : U16} {h : U32} {code : U16} {c : Nat} {s : State} (hexec : exec i s = .next (s.poolFault req h code))
    (hreq : ctxOfReq req = some c) (hctx : c < s.dis.nCtx) (hreset : s.underReset (.ctx (Fin.ofNat 4096 c)) = false)
    (hclk : s.aclkStopped (s.ctx c).region = false) : TakesCxr i c 3 s := by
  have hctx' : c < (s.poolError req h code).dis.nCtx := hctx
  have hreset' : (s.poolError req h code).underReset (.ctx (Fin.ofNat 4096 c)) = false := hreset
  have hclk' : (s.poolError req h code).aclkStopped ((s.poolError req h code).ctx c).region = false := hclk
  have hfault : s.poolFault req h code = (s.poolError req h code).cxrNow c 3 code 0 0 := by
    simp only [State.poolFault, hreq, State.cxr, hclk', Bool.false_and, Bool.false_eq_true, if_false]
  obtain ⟨hcount, hrecord⟩ := Prod.mk.inj (State.cxrNow_faultRecord hctx' hreset' 3 code 0 0)
  obtain ⟨hcause, hlast⟩ := Prod.mk.inj hrecord
  exact ⟨_, hexec.trans (congrArg _ hfault), hcount, hcause, hlast, _, congrArg Rst.runs (State.cxrNow_rst hctx' hreset' 3 code 0 0), rfl, rfl⟩

/-! ### The statement -/

/-- Settles O25: a free buffer is handed out by `State.take`; without one ALLOC waits, and TRY is a pool failure, which a context pays with a CXR. -/
theorem allocationHandsOut : Obligations.AllocationHandsOut := by
  unfold Obligations.AllocationHandsOut
  refine fun req p s hserv hpool i hi => ⟨fun k hnext => ?handsOut, fun hused hreturned => ?empty⟩
  case handsOut =>
    obtain ⟨wait, hexec⟩ := exec_allocate hi s
    obtain ⟨f, htake, hfree⟩ := State.take_of_nextFree hnext req
    refine ⟨_, hexec.trans (congrArg _ (State.allocate_of_take hserv hpool htake wait)), rfl, State.ownBuf_buf req f,
      (State.send_keeps rfl _ _ (State.take_keeps rfl _ _ s htake (.refl s))).within, ?_⟩
    exact (congrArg (·.free + 1) (State.ownBuf_pool req f)).trans hfree
  case empty =>
    have htake := State.take_empty hused hreturned req
    obtain ⟨hwaits, hbufs⟩ := State.allocate_waits hserv hpool htake
    have htry : exec (.try_ req p) s = .next (s.poolFault req (mkHandle p.val 0) 0x0308) :=
      congrArg _ (State.allocate_fails hserv hpool htake)
    exact ⟨⟨_, rfl, congrArg Pool.waiters hwaits, congrArg Pool.waits hwaits, hbufs⟩, ⟨_, htry, State.mem_poolFault_out _ _ _ _⟩,
      fun c hreq hctx hreset hclk => takesCxr_of_poolFault htry hreq hctx hreset hclk⟩

end Sys2Proof.Machine
end

section
/-! PROOF. The machine as a whole: what a step runs, that every step keeps a state sound, and the sound reset state (R423, R453, R456). -/

namespace Sys2Proof.Machine

/-! ### One step -/

theorem step_of_front {s : State} {c : Instr} {rest : List Instr} (h : s.pending = c :: rest) :
    step s = exec c (s.updPending fun _ => rest) := by
  rw [step, h]

theorem step_of_empty {s : State} (h : s.pending = []) : step s = .next s.idle := by
  rw [step, h]

/-! ### Soundness -/

/-- With this, `rfl` closes the side goals of an operation's lemma: that the mask lets a part change, and that the state itself keeps all. -/
@[refl] theorem Keeps.rfl {m : Part → Bool} {s : State} : Keeps m s s := .refl s

/-- Every command keeps a sound state sound, and what was sent stays sent: its operations do, each by its own lemma. Which parts a command
leaves is not asked here, so that the mask admits every part. An operand that a meaning does not use is named. -/
theorem exec_keeps (c : Instr) (s : State) : Keeps.out (fun _ => true) s (exec c s) := by
  cases c with
  | hifCmdPut v => apply execHifCmdPut_keeps <;> rfl
  | commandFetch => apply execCommandFetch_keeps <;> rfl
  | queryDevice c => apply execQueryDevice_keeps <;> rfl
  | queryAttention c => apply execQueryAttention_keeps <;> rfl
  | queryRefusal c => apply execQueryRefusal_keeps <;> rfl
  | querySlot c => apply execQuerySlot_keeps <;> rfl
  | queryTime c => apply execQueryTime_keeps <;> rfl
  | queryAdmission c => apply execQueryAdmission_keeps <;> rfl
  | unknownOpcode op c => apply execUnknownOpcode_keeps <;> rfl
  | lostCommand poisoned => apply execLostCommand_keeps <;> rfl
  | streamOpen c => apply execStreamOpen_keeps <;> rfl
  | streamClose c => apply execStreamClose_keeps <;> rfl
  | clipStart c => apply execClipStart_keeps <;> rfl
  | clipStop c => apply execClipStop_keeps <;> rfl
  | keyPicture c => apply execKeyPicture_keeps <;> rfl
  | snapshot c => apply execSnapshot_keeps <;> rfl
  | dumpRead c => apply execDumpRead_keeps <;> rfl
  | setLatTol c => apply execSetLatTol_keeps <;> rfl
  | resetReq c => apply execResetReq_keeps <;> rfl
  | releaseFreeze c => apply execReleaseFreeze_keeps <;> rfl
  | calibrate c => apply execCalibrate_keeps <;> rfl
  | flush c => apply execFlush_keeps <;> rfl
  | discardAdapter c => apply execDiscardAdapter_keeps <;> rfl
  | prepareRemoval c => apply execPrepareRemoval_keeps <;> rfl
  | decSlotPut slot v => apply execDecSlotPut_keeps <;> rfl
  | pullFetch slot => apply execPullFetch_keeps <;> rfl
  | pullCompletion slot data poisoned => apply execPullCompletion_keeps <;> rfl
  | getMirror slot => apply execGetMirror_keeps <;> rfl
  | entropyParse e => apply execEntropyParse_keeps <;> rfl
  | parseDone e info => apply execParseDone_keeps <;> rfl
  | pixelError e poisonRead => apply execPixelError_keeps <;> rfl
  | pictureCommit e d => apply execPictureCommit_keeps <;> rfl
  | decNoKey slot => apply execDecNoKey_keeps <;> rfl
  | encodeStart e => apply execEncodeStart_keeps <;> rfl
  | encodeDone e coded => apply execEncodeDone_keeps <;> rfl
  | clipHoldExpiry n => apply execClipHoldExpiry_keeps <;> rfl
  | encSessGet n v => apply execEncSessGet_keeps <;> rfl
  | cseJobSubmit e job => apply execCseJobSubmit_keeps <;> rfl
  | cseJobDone e => apply execCseJobDone_keeps <;> rfl
  | passCommit r core => apply execPassCommit_keeps <;> rfl
  | passAbort r u cause => apply execPassAbort_keeps <;> rfl
  | gauPassCommit r => apply execGauPassCommit_keeps <;> rfl
  | vecDescriptorCommit r core => apply execVecDescriptorCommit_keeps <;> rfl
  | fetch r wc slot => apply execFetch_keeps <;> rfl
  | claim r wc slot tile => apply execClaim_keeps <;> rfl
  | done r wc slot tile => apply execDone_keeps <;> rfl
  | stragglerCheck r => apply execStragglerCheck_keeps <;> rfl
  | crustRowTransfer r slot => apply execCrustRowTransfer_keeps <;> rfl
  | batchClose ctx => apply execBatchClose_keeps <;> rfl
  | swapComplete r gau => apply execSwapComplete_keeps <;> rfl
  | synSignal obj n => apply execSynSignal_keeps <;> rfl
  | synWait w obj v => apply execSynWait_keeps <;> rfl
  | synReset obj v => apply execSynReset_keeps <;> rfl
  | alloc req pool => apply execAlloc_keeps <;> rfl
  | try_ req pool => apply execTry_keeps <;> rfl
  | share req h holder owner => apply execShare_keeps <;> rfl
  | release req h => apply execRelease_keeps <;> rfl
  | free req h => apply execFree_keeps <;> rfl
  | bufferAccess req h offset size natural write => apply execBufferAccess_keeps <;> rfl
  | association pipe list => apply execAssociation_keeps <;> rfl
  | trackerStepCommit slot updates => apply execTrackerStepCommit_keeps <;> rfl
  | handoffEntry ring => apply execHandoffEntry_keeps <;> rfl
  | dormancyExpiry track => apply execDormancyExpiry_keeps <;> rfl
  | tickStart events => apply execTickStart_keeps <;> rfl
  | hifRplGet v => apply execHifRplGet_keeps <;> rfl
  | hifMdGet ring v => apply execHifMdGet_keeps <;> rfl
  | hifHoPut ring v => apply execHifHoPut_keeps <;> rfl
  | hifRingCtl v => apply execHifRingCtl_keeps <;> rfl
  | go => apply execGo_keeps <;> rfl
  | windowCommitDrained => apply execWindowCommitDrained_keeps <;> rfl
  | hifAttn v => apply execHifAttn_keeps <;> rfl
  | unsolicitedReply cls => apply execUnsolicitedReply_keeps <;> rfl
  | powerOff => apply execPowerOff_keeps <;> rfl
  | unpark => apply execUnpark_keeps <;> rfl
  | rgnSlotMap r slot v => apply execRgnSlotMap_keeps <;> rfl
  | gauTileMap r tile v => apply execGauTileMap_keeps <;> rfl
  | trainingRun ch v => apply execTrainingRun_keeps <;> rfl
  | trainingRunDone ch failMask errors => apply execTrainingRunDone_keeps <;> rfl
  | hifTimeLo => apply execHifTimeLo_keeps <;> rfl
  | registerWrite offset v byMgc poisoned => apply execRegisterWrite_keeps <;> rfl
  | bar0BadAccess write offset size => apply execBar0BadAccess_keeps <;> rfl
  | bar2Write addr data poisoned => apply execBar2Write_keeps <;> rfl
  | bar2Read addr size => apply execBar2Read_keeps <;> rfl
  | bar2Resize log2 => apply execBar2Resize_keeps <;> rfl
  | bar4Read offset size => apply execBar4Read_keeps <;> rfl
  | bar4Write offset => apply execBar4Write_keeps (a0 := offset) <;> rfl
  | pmStateChange d3hot => apply execPmStateChange_keeps <;> rfl
  | pmeTurnOff => apply execPmeTurnOff_keeps <;> rfl
  | perstAssert => apply execPerstAssert_keeps <;> rfl
  | perstDeassert commonClock => apply execPerstDeassert_keeps <;> rfl
  | hotReset => apply execHotReset_keeps <;> rfl
  | linkDown => apply execLinkDown_keeps <;> rfl
  | linkRetrain width rate => apply execLinkRetrain_keeps <;> rfl
  | completionTimeout tag => apply execCompletionTimeout_keeps <;> rfl
  | lateCompletion tag => apply execLateCompletion_keeps <;> rfl
  | tagQuarantineExpiry tag => apply execTagQuarantineExpiry_keeps <;> rfl
  | ptmDialogue => apply execPtmDialogue_keeps <;> rfl
  | ptmResponse root => apply execPtmResponse_keeps <;> rfl
  | ptmSyncLoss => apply execPtmSyncLoss_keeps <;> rfl
  | msixDelay vector => apply execMsixDelay_keeps <;> rfl
  | headerCheck u => apply execHeaderCheck_keeps (a0 := u) <;> rfl
  | firmwareStart hash => apply execFirmwareStart_keeps <;> rfl
  | functionReady => apply execFunctionReady_keeps <;> rfl
  | dramTrainingDone fail delays pprLeft => apply execDramTrainingDone_keeps <;> rfl
  | selfTestDone failed rows ms trained => apply execSelfTestDone_keeps <;> rfl
  | sectionsLoaded hashes => apply execSectionsLoaded_keeps <;> rfl
  | loaderCheck => apply execLoaderCheck_keeps <;> rfl
  | chrWatchdogExpiry => apply execChrWatchdogExpiry_keeps <;> rfl
  | bootWatchdogExpiry => apply execBootWatchdogExpiry_keeps <;> rfl
  | resetComplete scope => apply execResetComplete_keeps <;> rfl
  | resetOverrun scope => apply execResetOverrun_keeps <;> rfl
  | cartRemoval => apply execCartRemoval_keeps <;> rfl
  | cartInsertion c => apply execCartInsertion_keeps <;> rfl
  | cartInsertChr => apply execCartInsertChr_keeps <;> rfl
  | cartridgeWriteComplete ok reclaim => apply execCartridgeWriteComplete_keeps <;> rfl
  | lifeRecordTimer => apply execLifeRecordTimer_keeps <;> rfl
  | ageAccrual t => apply execAgeAccrual_keeps <;> rfl
  | calTrainDone res => apply execCalTrainDone_keeps <;> rfl
  | calTimeLimit => apply execCalTimeLimit_keeps <;> rfl
  | dramRead addr size lo hi => apply execDramRead_keeps <;> rfl
  | dramWrite addr data poisoned lo hi => apply execDramWrite_keeps <;> rfl
  | refresh ch bank => apply execRefresh_keeps <;> rfl
  | mr4Poll pkg temp => apply execMr4Poll_keeps <;> rfl
  | patrolScrub ch lo hi => apply execPatrolScrub_keeps <;> rfl
  | wck2dqTrack ch delta => apply execWck2dqTrack_keeps <;> rfl
  | dozeEntry => apply execDozeEntry_keeps <;> rfl
  | napEntry => apply execNapEntry_keeps <;> rfl
  | slumberEntry => apply execSlumberEntry_keeps <;> rfl
  | regionNap r => apply execRegionNap_keeps <;> rfl
  | wake c => apply execWake_keeps (a0 := c) <;> rfl
  | wakeTimer => apply execWakeTimer_keeps <;> rfl
  | wakeComplete => apply execWakeComplete_keeps <;> rfl
  | dvfsCheck => apply execDvfsCheck_keeps <;> rfl
  | dvfsStepDone r => apply execDvfsStepDone_keeps <;> rfl
  | powerSample mw mv => apply execPowerSample_keeps <;> rfl
  | powerThrottleAttention r => apply execPowerThrottleAttention_keeps <;> rfl
  | supplyDip mv => apply execSupplyDip_keeps <;> rfl
  | supplyRecover mv => apply execSupplyRecover_keeps <;> rfl
  | supplyLow mv => apply execSupplyLow_keeps <;> rfl
  | vaux3Rise => apply execVaux3Rise_keeps <;> rfl
  | vaux3Fall => apply execVaux3Fall_keeps <;> rfl
  | vin12Rise mv => apply execVin12Rise_keeps <;> rfl
  | packageReady => apply execPackageReady_keeps <;> rfl
  | thermalSample hub cd0 cd1 => apply execThermalSample_keeps <;> rfl
  | thermalStep => apply execThermalStep_keeps <;> rfl
  | treacleCheck => apply execTreacleCheck_keeps <;> rfl
  | snapPin => apply execSnapPin_keeps <;> rfl
  | crumbTimeout base => apply execCrumbTimeout_keeps <;> rfl
  | dumpComplete => apply execDumpComplete_keeps <;> rfl
  | errorEvent e => apply execErrorEvent_keeps <;> rfl
  | attentionButton => apply execAttentionButton_keeps <;> rfl
  | smbusDevState => apply execSmbusDevState_keeps <;> rfl
  | smbusTj => apply execSmbusTj_keeps <;> rfl
  | smbusInputPower => apply execSmbusInputPower_keeps <;> rfl
  | smbusInputVolts => apply execSmbusInputVolts_keeps <;> rfl
  | smbusPwcCause => apply execSmbusPwcCause_keeps <;> rfl
  | smbusCartLife => apply execSmbusCartLife_keeps <;> rfl
  | smbusAttnPending => apply execSmbusAttnPending_keeps <;> rfl
  | smbusPwcAck v => apply execSmbusPwcAck_keeps <;> rfl
  | smbusTimeout => exact execSmbusTimeout_keeps s .rfl
  | bypass => apply execBypass_keeps <;> rfl
  | idcode => apply execIdcode_keeps <;> rfl
  | samplePreload => apply execSamplePreload_keeps <;> rfl
  | extest => apply execExtest_keeps <;> rfl
  | clamp => apply execClamp_keeps <;> rfl
  | highz => apply execHighz_keeps <;> rfl
  | configurationRequest q => apply execConfigurationRequest_keeps <;> rfl
  | kclkLocked addr0 addr1 => apply execKclkLocked_keeps <;> rfl
  | regionNapWake r => apply execRegionNapWake_keeps <;> rfl
  | trstAssert => apply execTrstAssert_keeps <;> rfl

/-- A step takes its command off the queue before the command acts; without a command it is an idle cycle. -/
theorem step_keeps (s : State) : Keeps.out (fun _ => true) s (step s) := by
  cases hq : s.pending with
  | nil =>
    rw [step_of_empty hq]
    exact Keeps.out_next (State.idle_keeps rfl s .rfl)
  | cons c rest =>
    rw [step_of_front hq]
    intro t ht
    have htaken : Keeps (fun _ => true) s (s.updPending fun _ => rest) := State.updPending_keeps rfl .rfl
    exact htaken.trans (exec_keeps c _ t ht)

/-- Settles O59: every operation of the model keeps a state sound (`Keeps.sound`), hence every command and every step. -/
theorem stepKeepsSound : Obligations.StepKeepsSound := by
  unfold Obligations.StepKeepsSound
  exact fun s t h => (step_keeps s t h).sound

/-! ### Reset -/

/-- At reset no memory holds a byte, no poison mark is set, and RESET_EPOCH and RESET_COUNT are both 0 (R423, R456). -/
theorem State.reset_sound : State.reset.sound = true := by
  have hdram : State.reset.dram.wf = true := rfl
  have hrmem : (State.reset.rmem.all fun e => e.2.wf) = true := rfl
  have hep : State.reset.ep.wf = true := rfl
  simp only [State.sound, hdram, hrmem, hep, Bool.and_self]

/-- Settles O58: each field has the value that `State.reset` gives it, and the state is sound by `State.reset_sound`. -/
theorem resetStateIsSound : Obligations.ResetStateIsSound := by
  unfold Obligations.ResetStateIsSound
  exact ⟨State.reset_sound, rfl, rfl, rfl, rfl, rfl, rfl, rfl, rfl, rfl, rfl, rfl⟩

/-! ### An idle cycle -/

/-- Each entry below `n` changes once, but for those that `skip` names. -/
theorem tget_foldl_tupd_range {α : Type} [DecidableEq α] (d : α) (skip : Nat → Bool) (f : Nat → α → α) (n i : Nat) (t : Tbl α) :
    tget d ((List.range n).foldl (fun t k => if skip k then t else tupd d t k (f k)) t) i
      = if i < n ∧ skip i = false then f i (tget d t i) else tget d t i := by
  induction n with
  | zero => simp
  | succ n ih =>
    rw [List.range_succ, List.foldl_append, List.foldl_cons, List.foldl_nil]
    by_cases hi : i = n
    · subst hi
      by_cases hskip : skip i = true <;> simp [hskip, ih]
    · have hlt : i < n + 1 ↔ i < n := by omega
      simp only [hlt, ← ih]
      split
      · rfl
      · exact tget_tupd_ne d _ _ hi

/-- A region's ACLK that runs counts as many hundredths of a cycle in each ns as its frequency has units of 10 MHz. -/
theorem State.runClocks_aclk {r : Nat} {s : State} (hr : r < 8) (hruns : s.aclkStopped r = false) (ns : Nat) :
    (s.runClocks ns).aclk r = s.aclk r + ns * (s.regPwr r).freq :=
  (tget_foldl_tupd_range 0 s.aclkStopped (fun r => (· + ns * (s.regPwr r).freq)) 8 r s.aon.aclk).trans (if_pos ⟨hr, hruns⟩)

/-- An idle cycle of 20 ns moves the count of every ACLK that runs (R169, R453). -/
theorem State.idle_aclk {r : Nat} {s : State} (hvaux : s.wires.vaux3 = true) (hr : r < 8) (hruns : s.aclkStopped r = false) :
    s.idle.aclk r = s.aclk r + 20 * (s.regPwr r).freq := by
  rw [State.idle, if_pos hvaux]
  exact State.runClocks_aclk hr hruns 20

/-- Refutes O57: its second clause lets an idle cycle change device time alone, while a region's ACLK runs on too. With the device in RUN and
region 0 at 1.25 GHz, the count of region 0 goes from 0 to 2500 hundredths of a cycle. -/
theorem not_stepServesTheFront : ¬ Obligations.StepServesTheFront := by
  unfold Obligations.StepServesTheFront
  rintro ⟨-, hidle⟩
  obtain ⟨-, htime⟩ := hidle { wires := { vaux3 := true }, dev := { state := .run }, pwr := { regions := [(0, { freq := 125 })] } } rfl
  have hstep := htime rfl rfl rfl
  rw [step_of_empty rfl] at hstep
  have hsame := congrArg (State.aclk · 0) (Host.Outcome.next.inj hstep)
  rw [State.idle_aclk rfl (by decide) rfl] at hsame
  exact absurd hsame (by decide)

end Sys2Proof.Machine
end
